-- ==== Sys2Proof/Word.lean ====
section
/-! DEFINITION. The word types of the PX8 and their plainest arithmetic (R2, R3, R7). -/

set_option Elab.async false

namespace Sys2Proof

/-- One byte. -/
abbrev Byte := BitVec 8
/-- One 32-bit word: a lane's vector register (R273). -/
abbrev Word := BitVec 32
/-- One 64-bit word: an s register or an instruction word (R131, R270). -/
abbrev DWord := BitVec 64
/-- One bit for each of a team's lanes: masks and predicates (R122, R123). -/
abbrev Lanes := BitVec 1024
/-- A code-segment offset (R305). -/
abbrev CodeOff := BitVec 48

/-- bits(x, hi, lo) of R7, on a natural number: right-aligned. -/
def bits (x hi lo : Nat) : Nat := (x >>> lo) % 2 ^ (hi + 1 - lo)

/-- Little-endian value of a list of bytes (R3): the first byte is least significant. -/
def leNat : List Byte → Nat
  | [] => 0
  | b :: bs => b.toNat + 256 * leNat bs

/-- The `n` little-endian bytes of `x` (R3). -/
def leBytes : Nat → Nat → List Byte
  | 0, _ => []
  | n + 1, x => BitVec.ofNat 8 x :: leBytes n (x / 256)

/-- Big-endian value of a list of bytes, as R12 reads a digest. -/
def beNat (bs : List Byte) : Nat := leNat bs.reverse

/-- x / y rounded up. -/
def ceilDiv (x y : Nat) : Nat := (x + y - 1) / y

/-- `x` rounded up to a multiple of `y`. -/
def roundUp (x y : Nat) : Nat := ceilDiv x y * y

/-- Two's-complement value of the low `w` bits of `x`. -/
def sextInt (w x : Nat) : Int :=
  let y := x % 2 ^ w
  if y < 2 ^ (w - 1) then (y : Int) else (y : Int) - (2 ^ w : Nat)

/-- An integer modulo 2^w. -/
def wrapNat (w : Nat) (x : Int) : Nat := (x % ((2 ^ w : Nat) : Int)).toNat

end Sys2Proof
end

