-- ==== Sys2Proof/Config.lean ====
section
/-! DEFINITION. What one part fixes, and the free values: what the manual leaves open. An opaque constant has no body,
so no proof can see its value. -/

namespace Sys2Proof.Config

/-- DESIGN CHOICE (log 6). The 160-bit enable vector of R1 of the modelled part: a PX8-S with core 7 of clusters 4 to 19
disabled. -/
def enable : BitVec 160 :=
  BitVec.ofNat 160 ((List.range 160).foldl
    (fun a n => if n % 8 = 7 ∧ 4 ≤ n / 8 then a else a + 2 ^ n) 0)

/-- DESIGN CHOICE (log 6). PART_ID.STEPPING of the modelled part, never 0 (R262). -/
def stepping : BitVec 16 := 1

/-- PART_ID.PRODUCT (R262). -/
def product : BitVec 16 := 0x0508

/-- Free (log 3): clk that pass in the step that finds the counter at `tick` (R145 leaves durations open; timing is not
modelled). -/
opaque elapsedClk : Nat → Nat
/-- Free (log 3): nanoseconds of the package time counter that pass in one step (R15). -/
opaque elapsedNs : Nat → Nat
/-- Free (log 7): the package's Ed25519 secret seed, derived from fused secrets (R80). -/
opaque identitySeed : List Byte
/-- Free (log 7): SHA-512 digest of the Uzonus firmware signing public key held by the island ROM (R78). -/
opaque romKeyDigest : List Byte
/-- Free (log 10): Sorrel's version, major in [15:8] and minor in [7:0] (R50). -/
opaque sorrelVersion : BitVec 16
/-- Free (log 11): error and value returned by a standard SBI call that Sorrel serves, where the SBI specification leaves them to
the implementation (R47). -/
opaque sbiResult : Nat → BitVec 64
/-- Free (log 13): the result of RGET, RBARY, RFLAT and RHIT in a lane without the element, triangle or hit they read. -/
opaque freeWord : Nat → BitVec 32
/-- Free (log 19): fields of the fault record (R183) that the manual does not state for a kind of fault: 0 SIZE of an engine
access; 1 and 3 SEG and SIZE of a table or descriptor read; 6 to 8 SEG, SPACE and SIZE of a SEG_LIMIT of MRD, MWR or
BARX; 9 SEG of a load that returns or is reissued; 10 and 11 INFO and EADDR of a collective or an engine operation that fails without
an access of its own. -/
opaque infoField : Nat → Nat
/-- Free (log 20): whether a fetch of a word stored to during its block's life gives the old bytes (R182). -/
opaque oldFetch : Nat → Bool
/-- Free (log 21): which of the resident teams issues next (R142 with the open durations of R145). -/
opaque pickTeam : Nat → Nat
/-- Free (log 22): events that timing alone decides and that one step counts (R71): step counter, event code. -/
opaque eventCount : Nat → Nat → Nat
/-- Free (log 25): whether a virtual channel of a port has a send credit (R23 gives no counts): step counter, port, channel. -/
opaque hasCredit : Nat → Nat → Nat → Bool
/-- Free (log 30): which of the reasons that timing alone decides the sampled team is in (R74, R145): step counter. -/
opaque sampleReason : Nat → Nat
/-- Free (log 33): physical address of a node's record queue, QBASE of its queue state block (R65). -/
opaque queueBase : Nat → BitVec 64
/-- Free (log 34): addresses that Sorrel chooses at boot for a partition: 16 × partition + 0 G-stage root, 1 pool area,
2 CTXTAB, 3 node table, 4 package register view, 5 entry point, 6 boot hart ID, 7 device tree (R33, R53, R56, R102, R175, R178,
R184). -/
opaque sorrelAddr : Nat → BitVec 64
/-- Free (log 29): how many of the remote writes of gangs on their way are applied in a step (R220). -/
opaque remoteLanded : Nat → Nat
/-- Free (log 26): whether a destination chunk of a collective that fails holds its final value (R31): step counter, rank,
chunk. -/
opaque collChunk : Nat → Nat → Nat → Bool
/-- Free (log 101): which line of a full set of L1 gives way (R198 leaves the replacement open): step counter, set. -/
opaque l1Victim : Nat → Nat → Nat
/-- Free (log 102): from which cached non-leaf entry a walk starts (R180): step counter. -/
opaque walkFrom : Nat → Nat
/-- Free (log 107): passes of the selected team's instruction that are done when an event comes (R217): step counter. -/
opaque passesBegun : Nat → Nat
/-- Free (log 108): a byte of a save area whose place among the fields of its part the manual does not give: part, entry,
byte. -/
opaque saveByte : Nat → Nat → Nat → BitVec 8
/-- Free (log 108): place of a block's save area in Sorrel's memory (R224). -/
opaque saveArea : Nat → Nat
/-- Free (log 109): which of the ports of a bundle that carry traffic takes the next message (R26): step counter. -/
opaque bundlePort : Nat → Nat
/-- Free (log 110): whether a flit that equals one received on a port that has left traffic is its replay (R26): step
counter. -/
opaque isReplay : Nat → Bool
/-- Free (log 26): an element of a source on another package (R28): step counter, rank, element. -/
opaque collElem : Nat → Nat → Nat → BitVec 64
/-- Free (log 34): whether Sorrel maps the package register block into a partition's guest system (R53). -/
opaque mapsPkgReg : Nat → Bool
/-- Free (log 34): the cells of a partition's device tree that describe it, and the names of their properties (R56). -/
opaque treeTokens : Nat → List Nat
/-- Free (log 34): see treeTokens. -/
opaque treeStrings : Nat → List (BitVec 8)
/-- Free (log 11): IDs of the harts of a partition's guest system besides its boot hart (R47). -/
opaque guestHarts : Nat → List (BitVec 64)
/-- Free (log 11): whether a guest system's harts have the hypervisor extension (R47). -/
opaque guestHfence : Nat → Bool
/-- Free (log 11): what has come in on a guest system's debug console (R47): step counter. -/
opaque consoleIn : Nat → List (BitVec 8)
/-- Free (log 34): frame that backs a guest page which Sorrel provides to a partition (R53): partition, page. -/
opaque sorrelFrame : Nat → Nat → Nat
/-- Free (log 33): physical address of a node's queue state block (R65). -/
opaque queueBlock : Nat → Nat
/-- Free (log 90): whether the fetch of an announced entry fails at a reset point (R45): step counter, host address. -/
opaque fetchFails : Nat → Nat → Bool
/-- Free (log 17): which hole of the rate store a record is placed in (R160): record number. -/
opaque recordHole : Nat → Nat
/-- Free (log 87): what a byte of the chip scratchpad reads as that a resize has discarded (R95): step counter, offset. -/
opaque goneByte : Nat → Nat → BitVec 8
/-- Free (log 14): how a residency reading in percent (R77) is rounded. -/
opaque healthReading : Nat → BitVec 32

end Sys2Proof.Config
end

