-- ==== Sys2Proof/Syntax.lean ====
section
/-! DEFINITION. The rows of the operation table: the raw fields of the Lereb 3 formats (R270 to R283) and the arguments
of the events of the part. -/

set_option Elab.async false

namespace Sys2Proof

/-- Common header, bits [55:44] of a first word; OP is the constructor (R270). -/
structure Hdr where
  /-- [55:53] RATE -/
  rate : BitVec 3 := 0
  /-- [52:49] STALL -/
  stall : BitVec 4 := 0
  /-- [48] WS -/
  ws : BitVec 1 := 0
  /-- [47] GN -/
  gn : BitVec 1 := 0
  /-- [46:44] GP -/
  gp : BitVec 3 := 7
  deriving DecidableEq, Repr, Inhabited

/-- Format V (R276). -/
structure FV where
  h : Hdr
  d : BitVec 8
  sa : BitVec 9
  sb : BitVec 9
  sc : BitVec 9
  fn : BitVec 9
  deriving DecidableEq, Repr

/-- Format VI (R276). -/
structure FVI where
  h : Hdr
  d : BitVec 8
  sa : BitVec 9
  imm : BitVec 16
  fn : BitVec 11
  deriving DecidableEq, Repr

/-- Format U (R278). -/
structure FU where
  h : Hdr
  d : BitVec 5
  sa : BitVec 5
  sb : BitVec 5
  i : BitVec 1
  fn : BitVec 4
  imm : BitVec 24
  deriving DecidableEq, Repr

/-- Format M (R279). -/
structure FM where
  h : Hdr
  data : BitVec 8
  addr : BitVec 9
  seg : BitVec 4
  off : BitVec 16
  pol : BitVec 2
  size : BitVec 3
  space : BitVec 2
  deriving DecidableEq, Repr

/-- Format C (R282). -/
structure FC where
  h : Hdr
  off : BitVec 24
  fn : BitVec 20
  deriving DecidableEq, Repr

/-- Supply rails (R16). -/
inductive Rail where
  | cmp0 | cmp1 | mem | iod | aon
  deriving DecidableEq, Repr

/-- The register spaces that a register write without a row of its own can name (R5, R33, R34, R61, R87, R102, R175). -/
inductive RegSpace where
  /-- package register block (R34) -/
  | pkg
  /-- BAR0 of a function (R33) -/
  | bar0 (fn : Nat)
  /-- context register page (R175) -/
  | ctxPage (ctx : Nat)
  /-- private register page of a firmware core (R61) -/
  | fw (core : Nat)
  /-- health registers (R77) -/
  | health
  /-- node table of a partition (R102): offset is 16 × entry + byte -/
  | nodeTable (part : Nat)
  /-- VF Enable, bit 0 of SR-IOV Control in the configuration space of the PF (R32, R46) -/
  | vfEnable
  deriving DecidableEq, Repr

/-- A firmware image with its Ed25519 signature (R78). -/
structure Image where
  bytes : List Byte
  sig : List Byte
  deriving DecidableEq, Repr

/-- One flash image slot (R78). -/
structure BootSlot where
  island : Image
  sched : Image
  leaf : Image
  sorrel : Image
  deriving DecidableEq, Repr

/-- What the flash and Sorrel supply at power-on (R78, R79): the public key, two image slots and the guest images. -/
structure BootArgs where
  key : List Byte
  slot0 : BootSlot
  slot1 : BootSlot
  guests : List (Nat × List Byte)
  deriving DecidableEq, Repr

/-- Readings of one cluster's ageing monitors (R76, R77). -/
structure AgeReading where
  cluster : Nat
  slow : BitVec 8
  guard : BitVec 8
  life : BitVec 16
  deriving DecidableEq, Repr

/-- The firmware command links (R58): Sorrel's request link and each leaf's down and up link. -/
inductive LinkId where
  | sorrel
  | down (leaf : Nat)
  | up (leaf : Nat)
  deriving DecidableEq, Repr

/-- What a firmware message does to its node when it is applied (the body of R60; R65, R67, R102, R113, R118). -/
inductive LinkBody where
  /-- from Sorrel: set share and quotas -/
  | setShare (share : Nat) (quota : List Nat)
  /-- from a leaf: placement rounds failed by the head gang, whose record is named (R118) -/
  | age (gang rounds : Nat)
  /-- from a leaf: the head gang was placed (R118) -/
  | gangPlaced
  /-- from a leaf: quota moved from this node to another (R114) -/
  | quotaMove (delta : Int)
  /-- from a leaf: a block took or left a core (R65 PLACED) -/
  | placed (core : Nat) (held : Bool)
  /-- from a leaf: the next block to start of the grid of a root record (R65, R111) -/
  | started (root next : Nat)
  /-- from a leaf: the lowest unfinished block of the grid of a root record (R65, R111) -/
  | oldest (root index : Nat)
  /-- from Sorrel: restore a LOST node (R67) -/
  | restore (desc : BitVec 64) (share : Nat) (quota : List Nat)
  /-- down: the block as written, announced to the leaf -/
  | announce
  /-- down: the restore announced (R67) -/
  | announceRestore
  deriving DecidableEq, Repr

/-- A 64-byte message (R57, R60): node, sequence number (or GEN bits [31:0] in a down message) and body. -/
structure LinkMsg where
  node : Nat
  seq : BitVec 32
  body : LinkBody
  deriving DecidableEq, Repr

/-- Registers of an ECALL to Sorrel (R48), and the hart of the guest system that executes it (R47). -/
structure CallRegs where
  a6 : BitVec 64
  a0 : BitVec 64
  a1 : BitVec 64
  a2 : BitVec 64
  a3 : BitVec 64
  a7 : BitVec 64
  hart : Nat := 0
  deriving DecidableEq, Repr

/-- A unit that SCRUB zeroes (R99). -/
inductive ScrubUnit where
  | core (n : Nat)
  | slice (n : Nat)
  | group (n : Nat)
  deriving DecidableEq, Repr

/-- What a remote rank brings to a collective (R416): its shape and contribution, element codes in order. -/
structure CollRemote where
  rank : Nat
  kind : BitVec 2
  opn : BitVec 2
  ty : BitVec 4
  count : BitVec 32
  elems : List Nat
  fails : Bool
  deriving DecidableEq, Repr

/-- Every row of spec/opcode_table.json. First the instructions of Lereb 3 with the raw fields of their
words, then the EVENTS of the part, inputs of the machine that have no encoding. -/
inductive Instr where
  /-- NOP (opcode 0x00, R310) -/
  | nop (f : FC)
  /-- BRA (opcode 0x01, R307) -/
  | bra (f : FC)
  /-- BRX (opcode 0x02, R312) -/
  | brx (f : FV)
  /-- CALL (opcode 0x03, R307) -/
  | call (f : FC)
  /-- CALLX (opcode 0x04, R312) -/
  | callx (f : FV)
  /-- RET (opcode 0x05, R311) -/
  | ret (f : FC)
  /-- MARK (opcode 0x06, R311) -/
  | mark (f : FC)
  /-- JOIN (opcode 0x07, R311) -/
  | join (f : FC)
  /-- BRK (opcode 0x08, R311) -/
  | brk (f : FC)
  /-- LOOP (opcode 0x09, R313) -/
  | loop (f : FC)
  /-- EXIT (opcode 0x0A, R315) -/
  | exit (f : FC)
  /-- YIELD (opcode 0x0B, R314) -/
  | yield (f : FC)
  /-- VGROW (opcode 0x0C, R129) -/
  | vgrow (f : FC)
  /-- VSHRINK (opcode 0x0D, R128) -/
  | vshrink (f : FC)
  /-- ADD (opcode 0x10, R320) -/
  | add (f : FV)
  /-- TADD (opcode 0x11, R320) -/
  | tadd (f : FV)
  /-- SUB (opcode 0x12, R320) -/
  | sub (f : FV)
  /-- NEG (opcode 0x13, R320) -/
  | neg (f : FV)
  /-- ABS (opcode 0x14, R320) -/
  | abs (f : FV)
  /-- MULL (opcode 0x15, R320) -/
  | mull (f : FV)
  /-- MULH (opcode 0x16, R320) -/
  | mulh (f : FV)
  /-- MADL (opcode 0x17, R320) -/
  | madl (f : FV)
  /-- MADW (opcode 0x18, R320) -/
  | madw (f : FV)
  /-- MIN (opcode 0x19, R320) -/
  | min (f : FV)
  /-- MAX (opcode 0x1A, R320) -/
  | max (f : FV)
  /-- ADIF (opcode 0x1B, R320) -/
  | adif (f : FV)
  /-- TLUT (opcode 0x1C, R320) -/
  | tlut (f : FV)
  /-- SHL (opcode 0x1D, R320) -/
  | shl (f : FV)
  /-- SHR (opcode 0x1E, R320) -/
  | shr (f : FV)
  /-- SAR (opcode 0x1F, R320) -/
  | sar (f : FV)
  /-- ROT (opcode 0x20, R320) -/
  | rot (f : FV)
  /-- FUNL (opcode 0x21, R320) -/
  | funl (f : FV)
  /-- ONES (opcode 0x22, R320) -/
  | ones (f : FV)
  /-- CLZ (opcode 0x23, R320) -/
  | clz (f : FV)
  /-- BITR (opcode 0x24, R320) -/
  | bitr (f : FV)
  /-- FEXT (opcode 0x25, R321) -/
  | fext (f : FV)
  /-- FDEP (opcode 0x26, R321) -/
  | fdep (f : FV)
  /-- PICK (opcode 0x27, R320) -/
  | pick (f : FV)
  /-- MOV (opcode 0x28, R320) -/
  | mov (f : FV)
  /-- SETI (opcode 0x29, R322) -/
  | seti (f : FV) (w2 : BitVec 64)
  /-- SCAD (opcode 0x2A, R320) -/
  | scad (f : FV)
  /-- BSHUF (opcode 0x2B, R321) -/
  | bshuf (f : FV)
  /-- SADD (opcode 0x30, R323) -/
  | sadd (f : FU)
  /-- SSUB (opcode 0x31, R323) -/
  | ssub (f : FU)
  /-- SMUL (opcode 0x32, R323) -/
  | smul (f : FU)
  /-- SLOP (opcode 0x33, R323) -/
  | slop (f : FU)
  /-- SSHF (opcode 0x34, R323) -/
  | sshf (f : FU)
  /-- SMOV (opcode 0x35, R323) -/
  | smov (f : FU)
  /-- SMOVI (opcode 0x36, R323) -/
  | smovi (f : FU) (w2 : BitVec 64)
  /-- SCMP (opcode 0x37, R323) -/
  | scmp (f : FU)
  /-- SLEA (opcode 0x38, R323) -/
  | slea (f : FU)
  /-- SSEL (opcode 0x39, R323) -/
  | ssel (f : FU)
  /-- SFROMV (opcode 0x3A, R324) -/
  | sfromv (f : FV)
  /-- SREAD (opcode 0x3B, R324) -/
  | sread (f : FV)
  /-- FADD (opcode 0x40, R326) -/
  | fadd (f : FV)
  /-- FMUL (opcode 0x41, R326) -/
  | fmul (f : FV)
  /-- FFMA (opcode 0x42, R326) -/
  | ffma (f : FV)
  /-- FMIN (opcode 0x43, R326) -/
  | fmin (f : FV)
  /-- FMAX (opcode 0x44, R326) -/
  | fmax (f : FV)
  /-- FRND (opcode 0x45, R327) -/
  | frnd (f : FV)
  /-- FCLASS (opcode 0x46, R327) -/
  | fclass (f : FV)
  /-- FSCALE (opcode 0x47, R327) -/
  | fscale (f : FV)
  /-- FRCP (opcode 0x48, R252) -/
  | frcp (f : FV)
  /-- FRSQ (opcode 0x49, R252) -/
  | frsq (f : FV)
  /-- FSQRT (opcode 0x4A, R252) -/
  | fsqrt (f : FV)
  /-- FEXP2 (opcode 0x4B, R252) -/
  | fexp2 (f : FV)
  /-- FLOG2 (opcode 0x4C, R252) -/
  | flog2 (f : FV)
  /-- FSIN (opcode 0x4D, R252) -/
  | fsin (f : FV)
  /-- FCOS (opcode 0x4E, R252) -/
  | fcos (f : FV)
  /-- FTANH (opcode 0x4F, R252) -/
  | ftanh (f : FV)
  /-- DADD (opcode 0x50, R328) -/
  | dadd (f : FV)
  /-- DMUL (opcode 0x51, R328) -/
  | dmul (f : FV)
  /-- DFMA (opcode 0x52, R328) -/
  | dfma (f : FV)
  /-- DMIN (opcode 0x53, R328) -/
  | dmin (f : FV)
  /-- DMAX (opcode 0x54, R328) -/
  | dmax (f : FV)
  /-- HADD2 (opcode 0x55, R329) -/
  | hadd2 (f : FV)
  /-- HMUL2 (opcode 0x56, R329) -/
  | hmul2 (f : FV)
  /-- HFMA2 (opcode 0x57, R329) -/
  | hfma2 (f : FV)
  /-- HMAX2 (opcode 0x58, R329) -/
  | hmax2 (f : FV)
  /-- CVT (opcode 0x60, R330) -/
  | cvt (f : FVI)
  /-- PACK (opcode 0x61, R332) -/
  | pack (f : FV)
  /-- UNPACK (opcode 0x62, R332) -/
  | unpack (f : FV)
  /-- QSCALE (opcode 0x63, R333) -/
  | qscale (f : FV)
  /-- CMPD (opcode 0x64, R333) -/
  | cmpd (f : FV)
  /-- ICMPD (opcode 0x65, R333) -/
  | icmpd (f : FV)
  /-- DOT2 (opcode 0x66, R334) -/
  | dot2 (f : FV)
  /-- DOT4 (opcode 0x67, R334) -/
  | dot4 (f : FV)
  /-- DOT8 (opcode 0x68, R334) -/
  | dot8 (f : FV)
  /-- QSWAP (opcode 0x70, R336) -/
  | qswap (f : FV)
  /-- QBCAST (opcode 0x71, R336) -/
  | qbcast (f : FV)
  /-- QDDX (opcode 0x72, R336) -/
  | qddx (f : FV)
  /-- QDDY (opcode 0x73, R336) -/
  | qddy (f : FV)
  /-- XLANE (opcode 0x74, R337) -/
  | xlane (f : FV)
  /-- PSCAN (opcode 0x75, R338) -/
  | pscan (f : FV)
  /-- TREDUCE (opcode 0x76, R338) -/
  | treduce (f : FV)
  /-- PCMPI (opcode 0x78, R318) -/
  | pcmpi (f : FV)
  /-- PCMPF (opcode 0x79, R318) -/
  | pcmpf (f : FV)
  /-- PCMPD (opcode 0x7A, R318) -/
  | pcmpd (f : FV)
  /-- PLUT (opcode 0x7B, R319) -/
  | plut (f : FV)
  /-- PAGREE (opcode 0x7C, R319) -/
  | pagree (f : FV)
  /-- PTOV (opcode 0x7D, R319) -/
  | ptov (f : FV)
  /-- VTOP (opcode 0x7E, R319) -/
  | vtop (f : FV)
  /-- LD (opcode 0x80, R342) -/
  | ld (f : FM)
  /-- ST (opcode 0x81, R342) -/
  | st (f : FM)
  /-- LDV (opcode 0x82, R343) -/
  | ldv (f : FM)
  /-- STV (opcode 0x83, R343) -/
  | stv (f : FM)
  /-- LDL (opcode 0x84, R344) -/
  | ldl (f : FM)
  /-- STL (opcode 0x85, R344) -/
  | stl (f : FM)
  /-- PFETCH (opcode 0x86, R345) -/
  | pfetch (f : FM)
  /-- TEX (opcode 0x87, R347) -/
  | tex (f : FV)
  /-- TEXG (opcode 0x88, R348) -/
  | texg (f : FV)
  /-- RTW (opcode 0x89, R350) -/
  | rtw (f : FV)
  /-- RTZ (opcode 0x8A, R351) -/
  | rtz (f : FV)
  /-- RTR (opcode 0x8B, R352) -/
  | rtr (f : FV)
  /-- ATOM (opcode 0xA0, R355) -/
  | atom (f : FV) (w2 : BitVec 64)
  /-- ACAS (opcode 0xA1, R355) -/
  | acas (f : FV) (w2 : BitVec 64)
  /-- RED (opcode 0xA2, R355) -/
  | red (f : FV) (w2 : BitVec 64)
  /-- ATOMS (opcode 0xA3, R356) -/
  | atoms (f : FV) (w2 : BitVec 64)
  /-- AWAITV (opcode 0xA4, R357) -/
  | awaitv (f : FV) (w2 : BitVec 64)
  /-- BARI (opcode 0xB0, R359) -/
  | bari (f : FV)
  /-- BARA (opcode 0xB1, R359) -/
  | bara (f : FV)
  /-- BARW (opcode 0xB2, R360) -/
  | barw (f : FV)
  /-- BARAW (opcode 0xB3, R359) -/
  | baraw (f : FV)
  /-- BART (opcode 0xB4, R359) -/
  | bart (f : FV)
  /-- BARX (opcode 0xB5, R362) -/
  | barx (f : FV)
  /-- CPY (opcode 0xB8, R365) -/
  | cpy (f : FV) (w2 : BitVec 64)
  /-- CPYT (opcode 0xB9, R365) -/
  | cpyt (f : FV) (w2 : BitVec 64)
  /-- GATH (opcode 0xBA, R366) -/
  | gath (f : FV) (w2 : BitVec 64)
  /-- SCAT (opcode 0xBB, R366) -/
  | scat (f : FV) (w2 : BitVec 64)
  /-- ECLOSE (opcode 0xBC, R369) -/
  | eclose (f : FV)
  /-- EWAIT (opcode 0xBD, R369) -/
  | ewait (f : FV)
  /-- EWAITO (opcode 0xBE, R369) -/
  | ewaito (f : FV)
  /-- MMA (opcode 0xC0, R382) -/
  | mma (f : FV) (w2 : BitVec 64)
  /-- MMAL (opcode 0xC1, R382) -/
  | mmal (f : FV) (w2 : BitVec 64)
  /-- MZERO (opcode 0xC2, R384) -/
  | mzero (f : FV)
  /-- MLDT (opcode 0xC3, R385) -/
  | mldt (f : FV) (w2 : BitVec 64)
  /-- MRD (opcode 0xC4, R388) -/
  | mrd (f : FV)
  /-- MWR (opcode 0xC5, R388) -/
  | mwr (f : FV)
  /-- MDRAIN (opcode 0xC6, R387) -/
  | mdrain (f : FV) (w2 : BitVec 64)
  /-- MTAG (opcode 0xC7, R389) -/
  | mtag (f : FV)
  /-- SPAWN (opcode 0xD0, R392) -/
  | spawn (f : FV)
  /-- SPAWND (opcode 0xD1, R392) -/
  | spawnd (f : FV)
  /-- AWAIT (opcode 0xD2, R395) -/
  | await (f : FV)
  /-- AWAIT_STEAL (opcode 0xD2, R120) -/
  | awaitSteal (f : FV)
  /-- RECG (opcode 0xD3, R393) -/
  | recg (f : FV)
  /-- DONE (opcode 0xD4, R394) -/
  | done (f : FV)
  /-- NODEQ (opcode 0xD5, R396) -/
  | nodeq (f : FV)
  /-- RGET (opcode 0xD8, R398) -/
  | rget (f : FV)
  /-- RBARY (opcode 0xD9, R398) -/
  | rbary (f : FV)
  /-- RFLAT (opcode 0xDA, R398) -/
  | rflat (f : FV)
  /-- RCOV (opcode 0xDB, R399) -/
  | rcov (f : FV)
  /-- RKILL (opcode 0xDC, R400) -/
  | rkill (f : FV)
  /-- TRACE (opcode 0xDD, R401) -/
  | trace (f : FV)
  /-- RRET (opcode 0xDE, R402) -/
  | rret (f : FV)
  /-- RHIT (opcode 0xDF, R403) -/
  | rhit (f : FV)
  /-- TRAP (opcode 0xE0, R406) -/
  | trap (f : FV)
  /-- RTT_RETRY (opcode 0xE1, R214) -/
  | rttRetry (f : FV)
  /-- RTT_SKIP (opcode 0xE1, R214) -/
  | rttSkip (f : FV)
  /-- RTT_KILL (opcode 0xE1, R214) -/
  | rttKill (f : FV)
  /-- SYSCALL (opcode 0xE2, R406) -/
  | syscall (f : FV)
  /-- CSRR (opcode 0xE3, R408) -/
  | csrr (f : FV)
  /-- CSRW (opcode 0xE4, R408) -/
  | csrw (f : FV)
  /-- BKPT (opcode 0xE5, R406) -/
  | bkpt (f : FV)
  /-- PMARK (opcode 0xE6, R411) -/
  | pmark (f : FV)
  /-- CLOCK (opcode 0xE7, R412) -/
  | clock (f : FV)
  /-- TLBI (opcode 0xE8, R414) -/
  | tlbi (f : FV)
  /-- COLL (opcode 0xE9, R415) -/
  | coll (f : FV) (w2 : BitVec 64)
  /-- FREC (opcode 0xEA, R413) -/
  | frec (f : FV)
  /-- PACKAGE_POWER_ON (R78) -/
  | packagePowerOn (b : BootArgs)
  /-- REGISTER_WRITE (R5) -/
  | registerWrite (r : RegSpace) (off : Nat) (v : BitVec 64)
  /-- POWER_SAMPLE (R18) -/
  | powerSample (pkgW : Nat) (temp : List Nat)
  /-- RAIL_FAST_TRIP (R18) -/
  | railFastTrip (r : Rail)
  /-- JUNCTION_105C (R18) -/
  | junction105 (die : Nat)
  /-- JUNCTION_BELOW_95C (R18) -/
  | junctionBelow95 (die : Nat)
  /-- THERMTRIP (R18) -/
  | thermtrip (die : Nat)
  /-- FREQUENCY_CHANGE (R19) -/
  | frequencyChange (die : Nat)
  /-- POWER_CAP_WRITE (R20) -/
  | powerCapWrite (v : BitVec 32)
  /-- AGEING_MEASURE (R76) -/
  | ageingMeasure (rs : List AgeReading)
  /-- FLIT_RECEIVE (R23) -/
  | flitReceive (port : Nat) (flit : BitVec 256)
  /-- FLIT_REPLAY (R23) -/
  | flitReplay (port : Nat)
  /-- PORT_PARTNER_DETECT (R24) -/
  | portPartnerDetect (port : Nat) (nb : BitVec 64)
  /-- PORT_TRAIN_RESULT (R24) -/
  | portTrainResult (port : Nat) (lanes : BitVec 4)
  /-- PORT_RETRAIN_RESULT (R24) -/
  | portRetrainResult (port : Nat) (lanes : BitVec 4)
  /-- PORT_LANE_LOSS (R24) -/
  | portLaneLoss (port : Nat) (lane : Nat)
  /-- PORT_ENABLE_WRITE (R24) -/
  | portEnableWrite (port : Nat) (v : Bool)
  /-- PORT_RETRAIN_WRITE (R24) -/
  | portRetrainWrite (port : Nat) (v : Bool)
  /-- PORT_STATUS_READ (R25) -/
  | portStatusRead (port : Nat)
  /-- HEARTBEAT_SEND (R68) -/
  | heartbeatSend
  /-- HEARTBEAT_RECEIVE (R68) -/
  | heartbeatReceive (payload : List Byte)
  /-- BEAT_MISSED (R69) -/
  | beatMissed (pkg : BitVec 64)
  /-- RESET_REQUEST_RECEIVE (R70) -/
  | resetRequestReceive (msg : List Byte)
  /-- LINK_MESSAGE_SEND (R58) -/
  | linkMessageSend (l : LinkId) (m : LinkMsg)
  /-- INBOX_POP (R58) -/
  | inboxPop (l : LinkId)
  /-- UP_MESSAGE_APPLY (R60) -/
  | upMessageApply (leaf : Nat)
  /-- SORREL_MESSAGE_APPLY (R60) -/
  | sorrelMessageApply
  /-- DOWN_MESSAGE_APPLY (R60) -/
  | downMessageApply (leaf : Nat)
  /-- RESTORE_MESSAGE (R67) -/
  | restoreMessage
  /-- WD_KICK (R61) -/
  | wdKick (core : Nat) (key : BitVec 16)
  /-- WD_LATE_TRIP (R61) -/
  | wdLateTrip (core : Nat)
  /-- FIRMWARE_RESTART_DONE (R63) -/
  | firmwareRestartDone (core : Nat)
  /-- QP_ENABLE (R36) -/
  | qpEnable (fn q : Nat) (cfg : BitVec 32)
  /-- QP_DISABLE (R37) -/
  | qpDisable (fn q : Nat)
  /-- QP_DRAIN_DONE (R37) -/
  | qpDrainDone (fn q : Nat)
  /-- QP_ERROR_STOPPED (R37) -/
  | qpErrorStopped (fn q : Nat)
  /-- SQN_WRITE (R38) -/
  | sqnWrite (fn q : Nat) (v : BitVec 32)
  /-- CQH_WRITE (R38) -/
  | cqhWrite (fn q : Nat) (v : BitVec 32)
  /-- SQ_ENTRY_FETCH (R43) -/
  | sqEntryFetch (fn q : Nat) (faults : Bool)
  /-- COMPLETION_WRITE (R39) -/
  | completionWrite (fn q : Nat) (cid : BitVec 16) (faults : Bool)
  /-- SQE_NOP (R41) -/
  | sqeNop (fn q : Nat)
  /-- ENQUEUE (R41) -/
  | enqueue (fn q : Nat) (dmaFaultAt : Option Nat)
  /-- ENQUEUE_WAIT (R44) -/
  | enqueueWait (fn q : Nat) (dmaFaultAt : Option Nat)
  /-- ENQUEUE_WAIT_DONE (R44) -/
  | enqueueWaitDone (fn q : Nat) (cid : BitVec 16)
  /-- ENQUEUE_INLINE (R41) -/
  | enqueueInline (fn q : Nat)
  /-- QUERY (R41) -/
  | query (fn q : Nat)
  /-- GUEST_DEFINED_COMMAND (R41) -/
  | guestDefinedCommand (fn q : Nat) (status : BitVec 15) (result : BitVec 32)
  /-- FLR_INITIATE (R45) -/
  | flrInitiate (fn : Nat)
  /-- PF_FLR (R46) -/
  | pfFlr
  /-- HOT_RESET (R46) -/
  | hotReset
  /-- FLR_ABORT_TIMEOUT (R45) -/
  | flrAbortTimeout (fn : Nat)
  /-- FLR_COMPLETE (R45) -/
  | flrComplete (fn : Nat)
  /-- SBI_STANDARD_CALL (R47) -/
  | sbiStandardCall (part : Nat) (r : CallRegs)
  /-- VERSION (R50) -/
  | version (part : Nat) (r : CallRegs)
  /-- CALL_QUERY (R50) -/
  | callQuery (part : Nat) (r : CallRegs)
  /-- PART_INFO (R53) -/
  | partInfo (part : Nat) (r : CallRegs)
  /-- PART_RESIZE_REQ (R50) -/
  | partResizeReq (part : Nat) (r : CallRegs)
  /-- VF_BIND (R54) -/
  | vfBind (part : Nat) (r : CallRegs)
  /-- VF_RESET (R45) -/
  | vfReset (part : Nat) (r : CallRegs)
  /-- POOL_DONATE (R52) -/
  | poolDonate (part : Nat) (r : CallRegs)
  /-- POOL_RECLAIM (R52) -/
  | poolReclaim (part : Nat) (r : CallRegs)
  /-- CTX_CREATE (R85) -/
  | ctxCreate (part : Nat) (r : CallRegs)
  /-- CTX_DESTROY (R85) -/
  | ctxDestroy (part : Nat) (r : CallRegs)
  /-- COLL_GROUP (R55) -/
  | collGroup (part : Nat) (r : CallRegs)
  /-- COLL_GROUP_TIMEOUT (R55) -/
  | collGroupTimeout (handle : BitVec 32)
  /-- ATTEST_REPORT (R80) -/
  | attestReport (part : Nat) (r : CallRegs)
  /-- HEALTH_READ (R50) -/
  | healthRead (part : Nat) (r : CallRegs)
  /-- RESIZE_START (R89) -/
  | resizeStart (part : Nat)
  /-- RESIZE_ABORT (R91) -/
  | resizeAbort (part : Nat)
  /-- RESIZE_ADVANCE (R91) -/
  | resizeAdvance (part : Nat)
  /-- PREPARE_ACK (R91) -/
  | prepareAck (part : Nat) (leaf : Nat)
  /-- BLOCK_MIGRATE (R93) -/
  | blockMigrate (blk : Nat)
  /-- MIGRATE_TIMEOUT (R92) -/
  | migrateTimeout (part : Nat)
  /-- REHASH_LINE_MOVE (R95) -/
  | rehashLineMove (part : Nat) (slice : Nat)
  /-- DRN_COPY_GO (R97) -/
  | drnCopyGo (part : Nat)
  /-- DRN_COPY_DONE (R97) -/
  | drnCopyDone (part : Nat)
  /-- RELEASE_ACK (R91) -/
  | releaseAck (part : Nat)
  /-- SCRUB_UNIT (R99) -/
  | scrubUnit (part : Nat) (u : ScrubUnit)
  /-- SHARE_ROUND (R113) -/
  | shareRound (part : Nat)
  /-- PLACEMENT_ROUND (R114) -/
  | placementRound (leaf : Nat)
  /-- COALESCE_TIMEOUT (R110) -/
  | coalesceTimeout (node : Nat)
  /-- TIME_SLICE_END (R221) -/
  | timeSliceEnd (core : Nat) (part : Nat)
  /-- GANG_HALT (R220) -/
  | gangHalt (gang : Nat) (applied : Bool)
  /-- BLOCK_RESUME (R219) -/
  | blockResume (blk : Nat) (core : Nat)
  /-- HANDLER_WINDOW_TIMEOUT (R136) -/
  | handlerWindowTimeout (core slot half : Nat)
  /-- GUEST_FAULT_RESUME (R216) -/
  | guestFaultResume (core slot half : Nat) (retry : Bool)
  /-- LOAD_RETURN (R218) -/
  | loadReturn (core slot half : Nat) (n : Nat)
  /-- LINK_LOST_RETURN (R210) -/
  | linkLostReturn (core slot half : Nat) (n : Nat)
  /-- STORE_PERFORMED_AT_HOME (R195) -/
  | storePerformedAtHome (n : Nat)
  /-- L1_EVICTION (R198) -/
  | l1Eviction (core : Nat) (n : Nat)
  /-- TLBI_CTL_GO (R181) -/
  | tlbiCtlGo (ctx : Nat)
  /-- TLBI_COMPLETE (R181) -/
  | tlbiComplete (ctx : Nat)
  /-- HEAPCTL_WRITE (R176) -/
  | heapctlWrite (ctx : Nat) (v : BitVec 32)
  /-- SAMPLE_TAKE (R74) -/
  | sampleTake (core : Nat) (ctx : Nat)
  /-- SMP_CTL_WRITE (R426) -/
  | smpCtlWrite (ctx : Nat) (v : BitVec 32)
  /-- SMP_DROPPED_READ (R409) -/
  | smpDroppedRead (ctx : Nat)
  /-- COPY_PIECE (R365) -/
  | copyPiece (core : Nat) (op : Nat)
  /-- GATHER_ELEMENT (R366) -/
  | gatherElement (core : Nat) (op : Nat)
  /-- MATRIX_STEP (R382) -/
  | matrixStep (core : Nat) (op : Nat)
  /-- MOVE_BAND_PASS (R373) -/
  | moveBandPass (core : Nat) (op : Nat)
  /-- COLL_COMPLETE (R416) -/
  | collComplete (handle : BitVec 32) (remote : List CollRemote)
  /-- AWAITV_WAKE (R357) -/
  | awaitvWake (core slot half : Nat)
  /-- BARW_WAKE (R360) -/
  | barwWake (core slot half : Nat)
  /-- EWAIT_RETURN (R370) -/
  | ewaitReturn (core slot half : Nat)
  /-- AWAIT_WAKE (R395) -/
  | awaitWake (core slot half : Nat)
  /-- VGROW_GRANT (R129) -/
  | vgrowGrant (core : Nat) (part : Nat)
  /-- SPAWN_RETRY (R105) -/
  | spawnRetry (core slot half : Nat)
  /-- BATCH_DISPATCH (R152) -/
  | batchDispatch (core slot half : Nat)
  /-- TRIANGLE_SETUP (R153) -/
  | triangleSetup (blk : Nat)
  /-- DRAW_RETIRE (R164) -/
  | drawRetire (blk : Nat)
  /-- RAY_TRAVERSAL (R168) -/
  | rayTraversal (blk : Nat) (ray : Nat)
  /-- THROTTLE_CONTROL_RESUME (R64) -/
  | throttleControlResume
  /-- COLL_GROUP_COMPLETE (R55) -/
  | collGroupComplete (handle : BitVec 32)
  /-- COWSLIP_CONTINUE (R406) -/
  | cowslipContinue (core slot half : Nat)
  deriving DecidableEq, Repr

/-- The body of an instruction word by its format (R276 to R282), or an event. -/
inductive Body where
  | c (f : FC)
  | v (f : FV)
  | vi (f : FVI)
  | u (f : FU)
  | m (f : FM)
  | event
  deriving DecidableEq, Repr

/-- Major opcode of an instruction (R291); 256 for an event, which has none. -/
def Instr.opcode : Instr → Nat
  | .nop _ => 0x00
  | .bra _ => 0x01
  | .brx _ => 0x02
  | .call _ => 0x03
  | .callx _ => 0x04
  | .ret _ => 0x05
  | .mark _ => 0x06
  | .join _ => 0x07
  | .brk _ => 0x08
  | .loop _ => 0x09
  | .exit _ => 0x0A
  | .yield _ => 0x0B
  | .vgrow _ => 0x0C
  | .vshrink _ => 0x0D
  | .add _ => 0x10
  | .tadd _ => 0x11
  | .sub _ => 0x12
  | .neg _ => 0x13
  | .abs _ => 0x14
  | .mull _ => 0x15
  | .mulh _ => 0x16
  | .madl _ => 0x17
  | .madw _ => 0x18
  | .min _ => 0x19
  | .max _ => 0x1A
  | .adif _ => 0x1B
  | .tlut _ => 0x1C
  | .shl _ => 0x1D
  | .shr _ => 0x1E
  | .sar _ => 0x1F
  | .rot _ => 0x20
  | .funl _ => 0x21
  | .ones _ => 0x22
  | .clz _ => 0x23
  | .bitr _ => 0x24
  | .fext _ => 0x25
  | .fdep _ => 0x26
  | .pick _ => 0x27
  | .mov _ => 0x28
  | .seti _ _ => 0x29
  | .scad _ => 0x2A
  | .bshuf _ => 0x2B
  | .sadd _ => 0x30
  | .ssub _ => 0x31
  | .smul _ => 0x32
  | .slop _ => 0x33
  | .sshf _ => 0x34
  | .smov _ => 0x35
  | .smovi _ _ => 0x36
  | .scmp _ => 0x37
  | .slea _ => 0x38
  | .ssel _ => 0x39
  | .sfromv _ => 0x3A
  | .sread _ => 0x3B
  | .fadd _ => 0x40
  | .fmul _ => 0x41
  | .ffma _ => 0x42
  | .fmin _ => 0x43
  | .fmax _ => 0x44
  | .frnd _ => 0x45
  | .fclass _ => 0x46
  | .fscale _ => 0x47
  | .frcp _ => 0x48
  | .frsq _ => 0x49
  | .fsqrt _ => 0x4A
  | .fexp2 _ => 0x4B
  | .flog2 _ => 0x4C
  | .fsin _ => 0x4D
  | .fcos _ => 0x4E
  | .ftanh _ => 0x4F
  | .dadd _ => 0x50
  | .dmul _ => 0x51
  | .dfma _ => 0x52
  | .dmin _ => 0x53
  | .dmax _ => 0x54
  | .hadd2 _ => 0x55
  | .hmul2 _ => 0x56
  | .hfma2 _ => 0x57
  | .hmax2 _ => 0x58
  | .cvt _ => 0x60
  | .pack _ => 0x61
  | .unpack _ => 0x62
  | .qscale _ => 0x63
  | .cmpd _ => 0x64
  | .icmpd _ => 0x65
  | .dot2 _ => 0x66
  | .dot4 _ => 0x67
  | .dot8 _ => 0x68
  | .qswap _ => 0x70
  | .qbcast _ => 0x71
  | .qddx _ => 0x72
  | .qddy _ => 0x73
  | .xlane _ => 0x74
  | .pscan _ => 0x75
  | .treduce _ => 0x76
  | .pcmpi _ => 0x78
  | .pcmpf _ => 0x79
  | .pcmpd _ => 0x7A
  | .plut _ => 0x7B
  | .pagree _ => 0x7C
  | .ptov _ => 0x7D
  | .vtop _ => 0x7E
  | .ld _ => 0x80
  | .st _ => 0x81
  | .ldv _ => 0x82
  | .stv _ => 0x83
  | .ldl _ => 0x84
  | .stl _ => 0x85
  | .pfetch _ => 0x86
  | .tex _ => 0x87
  | .texg _ => 0x88
  | .rtw _ => 0x89
  | .rtz _ => 0x8A
  | .rtr _ => 0x8B
  | .atom _ _ => 0xA0
  | .acas _ _ => 0xA1
  | .red _ _ => 0xA2
  | .atoms _ _ => 0xA3
  | .awaitv _ _ => 0xA4
  | .bari _ => 0xB0
  | .bara _ => 0xB1
  | .barw _ => 0xB2
  | .baraw _ => 0xB3
  | .bart _ => 0xB4
  | .barx _ => 0xB5
  | .cpy _ _ => 0xB8
  | .cpyt _ _ => 0xB9
  | .gath _ _ => 0xBA
  | .scat _ _ => 0xBB
  | .eclose _ => 0xBC
  | .ewait _ => 0xBD
  | .ewaito _ => 0xBE
  | .mma _ _ => 0xC0
  | .mmal _ _ => 0xC1
  | .mzero _ => 0xC2
  | .mldt _ _ => 0xC3
  | .mrd _ => 0xC4
  | .mwr _ => 0xC5
  | .mdrain _ _ => 0xC6
  | .mtag _ => 0xC7
  | .spawn _ => 0xD0
  | .spawnd _ => 0xD1
  | .await _ => 0xD2
  | .awaitSteal _ => 0xD2
  | .recg _ => 0xD3
  | .done _ => 0xD4
  | .nodeq _ => 0xD5
  | .rget _ => 0xD8
  | .rbary _ => 0xD9
  | .rflat _ => 0xDA
  | .rcov _ => 0xDB
  | .rkill _ => 0xDC
  | .trace _ => 0xDD
  | .rret _ => 0xDE
  | .rhit _ => 0xDF
  | .trap _ => 0xE0
  | .rttRetry _ => 0xE1
  | .rttSkip _ => 0xE1
  | .rttKill _ => 0xE1
  | .syscall _ => 0xE2
  | .csrr _ => 0xE3
  | .csrw _ => 0xE4
  | .bkpt _ => 0xE5
  | .pmark _ => 0xE6
  | .clock _ => 0xE7
  | .tlbi _ => 0xE8
  | .coll _ _ => 0xE9
  | .frec _ => 0xEA
  | _ => 256

/-- Body of an instruction's first word. -/
def Instr.body : Instr → Body
  | .nop f => .c f
  | .bra f => .c f
  | .brx f => .v f
  | .call f => .c f
  | .callx f => .v f
  | .ret f => .c f
  | .mark f => .c f
  | .join f => .c f
  | .brk f => .c f
  | .loop f => .c f
  | .exit f => .c f
  | .yield f => .c f
  | .vgrow f => .c f
  | .vshrink f => .c f
  | .add f => .v f
  | .tadd f => .v f
  | .sub f => .v f
  | .neg f => .v f
  | .abs f => .v f
  | .mull f => .v f
  | .mulh f => .v f
  | .madl f => .v f
  | .madw f => .v f
  | .min f => .v f
  | .max f => .v f
  | .adif f => .v f
  | .tlut f => .v f
  | .shl f => .v f
  | .shr f => .v f
  | .sar f => .v f
  | .rot f => .v f
  | .funl f => .v f
  | .ones f => .v f
  | .clz f => .v f
  | .bitr f => .v f
  | .fext f => .v f
  | .fdep f => .v f
  | .pick f => .v f
  | .mov f => .v f
  | .seti f _ => .v f
  | .scad f => .v f
  | .bshuf f => .v f
  | .sadd f => .u f
  | .ssub f => .u f
  | .smul f => .u f
  | .slop f => .u f
  | .sshf f => .u f
  | .smov f => .u f
  | .smovi f _ => .u f
  | .scmp f => .u f
  | .slea f => .u f
  | .ssel f => .u f
  | .sfromv f => .v f
  | .sread f => .v f
  | .fadd f => .v f
  | .fmul f => .v f
  | .ffma f => .v f
  | .fmin f => .v f
  | .fmax f => .v f
  | .frnd f => .v f
  | .fclass f => .v f
  | .fscale f => .v f
  | .frcp f => .v f
  | .frsq f => .v f
  | .fsqrt f => .v f
  | .fexp2 f => .v f
  | .flog2 f => .v f
  | .fsin f => .v f
  | .fcos f => .v f
  | .ftanh f => .v f
  | .dadd f => .v f
  | .dmul f => .v f
  | .dfma f => .v f
  | .dmin f => .v f
  | .dmax f => .v f
  | .hadd2 f => .v f
  | .hmul2 f => .v f
  | .hfma2 f => .v f
  | .hmax2 f => .v f
  | .cvt f => .vi f
  | .pack f => .v f
  | .unpack f => .v f
  | .qscale f => .v f
  | .cmpd f => .v f
  | .icmpd f => .v f
  | .dot2 f => .v f
  | .dot4 f => .v f
  | .dot8 f => .v f
  | .qswap f => .v f
  | .qbcast f => .v f
  | .qddx f => .v f
  | .qddy f => .v f
  | .xlane f => .v f
  | .pscan f => .v f
  | .treduce f => .v f
  | .pcmpi f => .v f
  | .pcmpf f => .v f
  | .pcmpd f => .v f
  | .plut f => .v f
  | .pagree f => .v f
  | .ptov f => .v f
  | .vtop f => .v f
  | .ld f => .m f
  | .st f => .m f
  | .ldv f => .m f
  | .stv f => .m f
  | .ldl f => .m f
  | .stl f => .m f
  | .pfetch f => .m f
  | .tex f => .v f
  | .texg f => .v f
  | .rtw f => .v f
  | .rtz f => .v f
  | .rtr f => .v f
  | .atom f _ => .v f
  | .acas f _ => .v f
  | .red f _ => .v f
  | .atoms f _ => .v f
  | .awaitv f _ => .v f
  | .bari f => .v f
  | .bara f => .v f
  | .barw f => .v f
  | .baraw f => .v f
  | .bart f => .v f
  | .barx f => .v f
  | .cpy f _ => .v f
  | .cpyt f _ => .v f
  | .gath f _ => .v f
  | .scat f _ => .v f
  | .eclose f => .v f
  | .ewait f => .v f
  | .ewaito f => .v f
  | .mma f _ => .v f
  | .mmal f _ => .v f
  | .mzero f => .v f
  | .mldt f _ => .v f
  | .mrd f => .v f
  | .mwr f => .v f
  | .mdrain f _ => .v f
  | .mtag f => .v f
  | .spawn f => .v f
  | .spawnd f => .v f
  | .await f => .v f
  | .awaitSteal f => .v f
  | .recg f => .v f
  | .done f => .v f
  | .nodeq f => .v f
  | .rget f => .v f
  | .rbary f => .v f
  | .rflat f => .v f
  | .rcov f => .v f
  | .rkill f => .v f
  | .trace f => .v f
  | .rret f => .v f
  | .rhit f => .v f
  | .trap f => .v f
  | .rttRetry f => .v f
  | .rttSkip f => .v f
  | .rttKill f => .v f
  | .syscall f => .v f
  | .csrr f => .v f
  | .csrw f => .v f
  | .bkpt f => .v f
  | .pmark f => .v f
  | .clock f => .v f
  | .tlbi f => .v f
  | .coll f _ => .v f
  | .frec f => .v f
  | _ => .event

/-- The second word of a two-word instruction (R283). -/
def Instr.second : Instr → Option (BitVec 64)
  | .seti _ w2 => some w2
  | .smovi _ w2 => some w2
  | .atom _ w2 => some w2
  | .acas _ w2 => some w2
  | .red _ w2 => some w2
  | .atoms _ w2 => some w2
  | .awaitv _ w2 => some w2
  | .cpy _ w2 => some w2
  | .cpyt _ w2 => some w2
  | .gath _ w2 => some w2
  | .scat _ w2 => some w2
  | .mma _ w2 => some w2
  | .mmal _ w2 => some w2
  | .mldt _ w2 => some w2
  | .mdrain _ w2 => some w2
  | .coll _ w2 => some w2
  | _ => none

/-- Whether the row is an event, which has no encoding. -/
def Instr.isEvent (i : Instr) : Bool := i.opcode == 256

/-- Length of an instruction in bytes (R283). -/
def Instr.size (i : Instr) : Nat := if i.second.isSome then 16 else 8

/-- The common header of an instruction (R270). -/
def Body.hdr : Body → Hdr
  | .c f => f.h
  | .v f => f.h
  | .vi f => f.h
  | .u f => f.h
  | .m f => f.h
  | .event => default

/-- The common header of an instruction (R270). -/
def Instr.hdr (i : Instr) : Hdr := i.body.hdr

end Sys2Proof
end

