-- ==== Sys2Proof/WellFormed.lean ====
section
/-! DEFINITION. The checks of an encoding that depend on no machine state (R6, R271, R273, R275, R289, R293 to R303,
R317, R322 to R324, R341, R353, R359, R364, R371, R380, R385, R386, R391, R404, R415). An instruction is well formed when it
breaks none of them; the machine takes the trap of one that does. -/

set_option Elab.async false

namespace Sys2Proof

/-- The two causes that an encoding alone can raise (R207). -/
inductive EncFault where
  /-- ILLEGAL_OPCODE, priority 2 -/
  | illegal
  /-- RESERVED_FIELD, priority 3 -/
  | reserved
  deriving DecidableEq, Repr

/-- What a 9-bit source field of an instruction names (R273, R275). -/
inductive Src where
  /-- not read: must be 0 (R275) -/
  | unused
  /-- a 32-bit operand: any assigned code -/
  | any
  /-- a 64-bit operand: no latch (R320) -/
  | pair
  /-- the first of `n` vector registers -/
  | run (n : Nat)
  /-- an s register only -/
  | sreg
  /-- an s register or an inline constant -/
  | sconst
  /-- a special only, alike in every lane (R324) -/
  | special
  /-- a predicate p0 to p7 (R317) -/
  | pred
  /-- a tile number (R371) -/
  | tile
  /-- a value of a store of the given register count (R281) -/
  | value (n : Nat)
  deriving DecidableEq, Repr

/-- What the D field of a format V word names. -/
inductive Dst where
  | unused
  /-- the first of `n` vector registers; `latch` when the result is a single vector register (R132) -/
  | vec (n : Nat)
  /-- a vector register whose instruction writes no latch (R353, R391) -/
  | vecNoLatch (n : Nat)
  | sreg
  | pred
  | tile
  deriving DecidableEq, Repr

/-- Whether a 9-bit code is assigned (R273). -/
def srcAssigned (c : Nat) : Bool := c < 0x130 || (0x140 ≤ c && c < 0x180)

/-- Whether the code names an s register. -/
def isS (c : Nat) : Bool := 0x108 ≤ c && c < 0x120
/-- Whether the code names a latch. -/
def isLatch (c : Nat) : Bool := 0x100 ≤ c && c < 0x108
/-- Whether the code names a special. -/
def isSpecial (c : Nat) : Bool := 0x120 ≤ c && c < 0x130
/-- Whether the code is an inline constant. -/
def isConst (c : Nat) : Bool := 0x140 ≤ c && c < 0x180

/-- Whether the code is legal for what the field names (R273, R317, R320, R324, R371). -/
def Src.ok (k : Src) (c : Nat) : Bool :=
  match k with
  | .unused => c == 0
  | .any => srcAssigned c
  | .pair => srcAssigned c && !isLatch c
  | .run _ => c < 0x100
  | .sreg => isS c
  | .sconst => isS c || isConst c
  | .special => isSpecial c && c != 0x120 && c != 0x121 && c != 0x129 && c != 0x12C
  | .pred => c < 8
  | .tile => c < 16
  | .value n => if n ≤ 1 then srcAssigned c else c < 0x100

/-- Whether D is legal for what it names (R317, R324, R353, R371). -/
def Dst.ok (k : Dst) (d : Nat) : Bool :=
  match k with
  | .unused => d == 0
  | .vec _ => true
  | .vecNoLatch _ => true
  | .sreg => d < 24
  | .pred => d < 7
  | .tile => d < 16

/-- Whether the result is a single vector register, so that WS may be set (R132). -/
def Dst.takesWs : Dst → Bool
  | .vec n => n == 1
  | _ => false

/-- What an instruction's fields name, and whether it takes a guard (R271). -/
structure Shape where
  d : Dst := .unused
  a : Src := .unused
  b : Src := .unused
  c : Src := .unused
  guarded : Bool := true
  deriving DecidableEq, Repr

/-- X64 of the integer opcodes (R295). -/
def fnX64 (fn : Nat) : Bool := fn.testBit 2

/-- Registers of an element type in a conversion (R325, R330). -/
def typePair (t : Nat) : Bool := t == 0 || t == 6 || t == 7

/-- Operand kind of a type: a pair for the 64-bit types. -/
def typeSrc (t : Nat) : Src := if typePair t then .pair else .any
/-- Result kind of a type. -/
def typeDst (t : Nat) : Dst := if typePair t then .vec 2 else .vec 1

/-- Whether an atomic TYPE is 64 bits wide (R353). -/
def atom64 (fn : Nat) : Bool := let t := bits fn 6 4; t == 2 || t == 3 || t == 5

/-- Fields of the format V opcodes. -/
def shapeV (op fn w2 : Nat) : Shape :=
  let x := fnX64 fn
  let s1 : Src := if x then .pair else .any
  let d1 : Dst := if x then .vec 2 else .vec 1
  match op with
  | 0x02 => { a := .any }
  | 0x04 => { d := .vecNoLatch 1, a := .any }
  | 0x10 | 0x12 | 0x19 | 0x1A => { d := d1, a := s1, b := s1 }
  | 0x11 | 0x17 | 0x1B | 0x1C | 0x21 | 0x25 | 0x26 | 0x2A | 0x2B => { d := .vec 1, a := .any, b := .any, c := .any }
  | 0x13 | 0x14 | 0x24 | 0x28 => { d := d1, a := s1 }
  | 0x15 | 0x16 => { d := .vec 1, a := .any, b := .any }
  | 0x18 => { d := .vec 2, a := .any, b := .any, c := .pair }
  | 0x1D | 0x1E | 0x1F | 0x20 => { d := d1, a := s1, b := .any }
  | 0x22 | 0x23 => { d := .vec 1, a := s1 }
  | 0x27 => { d := d1, a := s1, b := s1, c := .any }
  | 0x29 => { d := .vec 1 }
  | 0x3A => { d := .sreg, a := .any, guarded := false }
  | 0x3B => { d := .sreg, a := .special, guarded := false }
  | 0x40 | 0x41 | 0x43 | 0x44 | 0x47 | 0x55 | 0x56 | 0x58 => { d := .vec 1, a := .any, b := .any }
  | 0x42 | 0x57 | 0x66 | 0x67 | 0x68 => { d := .vec 1, a := .any, b := .any, c := .any }
  | 0x45 | 0x46 | 0x48 | 0x49 | 0x4A | 0x4B | 0x4C | 0x4D | 0x4E | 0x4F => { d := .vec 1, a := .any }
  | 0x50 | 0x51 | 0x53 | 0x54 => { d := .vec 2, a := .pair, b := .pair }
  | 0x52 => { d := .vec 2, a := .pair, b := .pair, c := .pair }
  | 0x61 => let t := bits fn 3 0
    { d := .vec 1, a := .run (if t == 14 || t == 15 then 8 else 4), b := .any, c := .sreg }
  | 0x62 => let t := bits fn 3 0
    { d := .vec (if t == 14 || t == 15 then 8 else 4), a := .any, b := .sreg }
  | 0x63 => { d := .vec 1, a := .any, b := .any }
  | 0x64 | 0x65 => { d := .vec 1, a := .any, b := .sreg }
  | 0x70 | 0x71 | 0x72 | 0x73 | 0x75 | 0x76 => { d := .vec 1, a := .any }
  | 0x74 => { d := .vec 1, a := .any, b := .any }
  | 0x78 => let s : Src := if fn.testBit 4 then .pair else .any
    { d := .pred, a := s, b := s }
  | 0x79 => { d := .pred, a := .any, b := .any }
  | 0x7A => { d := .pred, a := .pair, b := .pair }
  | 0x7B => { d := .pred, a := .pred, b := .pred, c := .pred }
  | 0x7C => { d := .pred, a := .pred }
  | 0x7D => { d := .vec 1 }
  | 0x7E => { d := .pred, a := .any }
  | 0x87 => { d := .vec 4, a := .run 2, b := .sreg, c := if fn.testBit 0 then .any else .unused }
  | 0x88 => { d := .vec 4, a := .run 2, b := .sreg }
  | 0x89 => { a := .run 1 }
  | 0x8A => { d := .vec 1, a := .run 1 }
  | 0x8B => { d := .vecNoLatch 1 }
  | 0xA0 => { d := .vecNoLatch (if atom64 fn then 2 else 1), a := .any, b := if atom64 fn then .pair else .any }
  | 0xA1 => let s : Src := if atom64 fn then .pair else .any
    { d := .vecNoLatch (if atom64 fn then 2 else 1), a := .any, b := s, c := s }
  | 0xA2 => { a := .any, b := if atom64 fn then .pair else .any }
  | 0xA3 => { d := .sreg, a := .sreg, b := if atom64 fn then .pair else .any }
  | 0xA4 => { d := .vecNoLatch (if atom64 fn then 2 else 1), a := .sreg, b := .sconst }
  | 0xB0 | 0xB2 | 0xB3 | 0xB4 | 0xB5 => { a := .sconst, b := .sconst }
  | 0xB1 => { a := .sconst }
  | 0xB8 | 0xB9 | 0xBA | 0xBB => { a := .sreg, b := .sreg, c := .sreg }
  | 0xBC => {}
  | 0xBD | 0xBE => { a := .sconst }
  | 0xC0 | 0xC1 => { d := .tile, a := .sreg, b := .sreg, c := .sreg }
  | 0xC2 => { d := .tile }
  | 0xC3 => { d := .tile, a := .sreg }
  | 0xC4 => { d := .vec 1, a := .sconst, b := .sconst, c := .tile }
  | 0xC5 => { d := .tile, a := .run 1, b := .sconst, c := .sconst }
  | 0xC6 => { d := .tile, a := .sreg, b := if fn.testBit 4 then .sreg else .unused, c := .sreg }
  | 0xC7 => { d := .tile, a := .sconst, b := .sconst }
  | 0xD0 | 0xD1 => { a := .sreg, b := .run 16 }
  | 0xD2 | 0xD4 => {}
  | 0xD3 => { d := .vecNoLatch 16 }
  | 0xD5 => { d := .vecNoLatch 1, a := .sreg }
  | 0xD8 | 0xD9 | 0xDA | 0xDB | 0xDF => { d := .vec 1 }
  | 0xDC => {}
  | 0xDD => { d := .vecNoLatch 4, a := .sreg, b := .run 8 }
  | 0xDE => { a := .run 4 }
  | 0xE0 | 0xE2 | 0xE5 => { a := .sconst, guarded := false }
  | 0xE1 | 0xE6 => { guarded := false }
  | 0xE3 => { d := .vecNoLatch 2, a := .sconst, guarded := false }
  | 0xE4 => { a := .sconst, b := .sconst, guarded := false }
  | 0xE7 => { d := .vecNoLatch 2, guarded := false }
  | 0xE8 => { a := if fn.testBit 0 then .sconst else .unused, guarded := false }
  | 0xE9 => { a := .sreg, b := .sreg, c := .sreg, guarded := false }
  | 0xEA => { d := .vecNoLatch 2, a := .sconst, guarded := false }
  | _ => let _ := w2; {}

/-- FN of a format V opcode: an enumeration value left unassigned is illegal, a bit in no field is reserved, and illegal is
judged first (R293). -/
def fnCheckV (op fn : Nat) : Option EncFault :=
  let res (ok : Bool) : Option EncFault := if ok then none else some .reserved
  let within (mask : Nat) : Option EncFault := res ((fn ||| mask) == mask)
  let sel (ok : Bool) (mask : Nat) : Option EncFault := if ok then within mask else some .illegal
  match op with
  | 0x10 | 0x12 => within 7
  | 0x11 => within 3
  | 0x13 | 0x14 => within 6
  | 0x16 | 0x18 | 0x1B | 0x25 => within 1
  | 0x17 => within 2
  | 0x19 | 0x1A => within 5
  | 0x1C | 0x7B => within 0xFF
  | 0x1D | 0x1E | 0x1F | 0x20 | 0x22 | 0x23 | 0x24 | 0x27 | 0x28 => within 4
  | 0x3A => sel (fn < 2) 1
  | 0x40 | 0x41 | 0x42 | 0x45 | 0x47 | 0x48 | 0x4A => sel (bits fn 5 0 < 2) 0x1C1
  | 0x43 | 0x44 | 0x46 | 0x49 | 0x4B | 0x4C | 0x4D | 0x4E | 0x4F => sel (bits fn 5 0 < 2) 0x41
  | 0x50 | 0x51 | 0x52 => sel (bits fn 5 0 == 0) 0x180
  | 0x53 | 0x54 => sel (bits fn 5 0 == 0) 0
  | 0x55 | 0x56 | 0x57 => sel (bits fn 5 0 < 2) (if bits fn 5 0 == 0 then 0x1C0 else 0x181)
  | 0x58 => sel (bits fn 5 0 < 2) (if bits fn 5 0 == 0 then 0x40 else 1)
  | 0x61 => sel ([10, 12, 13, 14, 15].contains (bits fn 3 0)) 0x18F
  | 0x62 => sel ([10, 12, 13, 14, 15].contains (bits fn 3 0)) 0xF
  | 0x63 => within 0x180
  | 0x66 => sel ([2, 3, 8, 9].contains (bits fn 3 0)) (if bits fn 3 0 < 4 then 0x18F else 0x1F)
  | 0x67 => sel ([10, 11, 12, 13].contains (bits fn 3 0)) (if bits fn 3 0 ≥ 12 then 0x18F else 0x1F)
  | 0x68 => sel ([14, 15].contains (bits fn 3 0)) (if bits fn 3 0 == 14 then 0x18F else 0x1F)
  | 0x70 => sel (bits fn 1 0 < 3) 3
  | 0x71 | 0x74 => within 3
  | 0x72 | 0x73 => within 1
  | 0x75 => within 0xF
  | 0x76 => within 7
  | 0x78 => sel (bits fn 2 0 < 6) 0x1F
  | 0x79 | 0x7A => sel (bits fn 2 0 < 6) 0xF
  | 0x7C => sel (bits fn 1 0 < 3) 3
  | 0x87 => within 1
  | 0x88 => within 3
  | 0xA0 | 0xA2 | 0xA3 =>
    let ty := bits fn 6 4
    let opn := bits fn 3 0
    sel (ty < 6 && opn < 7 && !(ty ≥ 4 && 3 ≤ opn && opn ≤ 5)) (if op == 0xA2 then 0xFF else 0x1FF)
  | 0xA1 => sel (bits fn 6 4 < 4 && bits fn 3 0 == 0) 0x1FF
  | 0xA4 => sel ((bits fn 6 4 == 0 || bits fn 6 4 == 2) && bits fn 3 0 == 0) 0x17F
  | 0xB8 | 0xB9 | 0xBA | 0xBB | 0xBC | 0xBD | 0xBE | 0xC2 | 0xC3 => within 3
  | 0xC0 | 0xC1 => within 7
  | 0xC4 => within 8
  | 0xC6 => within 0x1B
  | 0xD2 | 0xE8 => within 1
  | 0xD8 => sel ([1, 2, 3, 5].contains (bits fn 2 0)) 0xFF
  | 0xD9 | 0xDA => within 0xF8
  | 0xDF => sel (bits fn 2 0 < 6) 7
  | 0xE1 => sel (bits fn 1 0 < 3) 3
  | 0xE6 => within 0xFF
  | 0xE9 => sel (bits fn 1 0 < 3 && bits fn 3 2 < 3) (if bits fn 1 0 == 2 then 3 else 0xF)
  | _ => within 0

/-- Reserved bits of a second word (R301, R322, R364, R380, R385, R386, R415). -/
def secondOk (op fn w2 : Nat) : Bool :=
  let b (hi lo : Nat) := bits w2 hi lo
  match op with
  | 0x29 => b 63 32 == 0
  | 0xA0 | 0xA1 | 0xA2 | 0xA3 | 0xA4 => b 25 0 == 0 && (b 27 26 == 0 || b 31 28 == 0)
  | 0xB8 | 0xB9 =>
    b 63 61 < 5 && b 60 58 < 5 && (b 63 61 == 0 || b 57 54 == 0) && (b 60 58 == 0 || b 53 50 == 0) &&
      (b 49 49 == 1 || b 48 42 == 0) && b 41 40 < 2 && b 31 0 == 0 && (op == 0xB9 || b 39 32 == 0)
  | 0xBA | 0xBB =>
    b 63 61 < 5 && b 60 58 < 5 && (b 63 61 == 0 || b 57 54 == 0) && (b 60 58 == 0 || b 53 50 == 0) &&
      (b 49 49 == 1 || b 48 42 == 0) && b 41 40 < 2 && b 12 0 == 0 && b 15 13 < 5 && (b 15 13 == 0 || b 19 16 == 0)
  | 0xC0 => b 63 61 < 5 && b 60 58 < 5 && b 33 0 == 0
  | 0xC1 => b 63 61 < 5 && b 60 58 < 5
  | 0xC3 => b 63 61 < 5 && (b 63 61 == 0 || b 60 57 == 0) && b 41 0 == 0
  | 0xC6 =>
    b 63 61 < 5 && b 60 58 < 5 && (b 63 61 == 0 || b 57 54 == 0) &&
      (if fn.testBit 4 then b 60 58 == 0 || b 53 50 == 0 else b 60 58 == 0 && b 53 50 == 0 && b 27 16 == 0) &&
      (b 49 49 == 1 || b 48 42 == 0) && b 15 0 == 0
  | 0xE9 => b 49 32 == 0
  | _ => true

/-- Registers that SIZE names (R281). -/
def sizeRegs (size : Nat) : Nat := match size with | 3 => 2 | 4 => 4 | _ => 1
/-- Bytes that SIZE names (R281). -/
def sizeBytes (size : Nat) : Nat := match size with | 0 | 5 => 1 | 1 | 6 => 2 | 2 => 4 | 3 => 8 | 4 => 16 | _ => 0

/-- Guard fields: GN = 1 with GP = 7 is reserved, and an unguarded instruction takes none (R271). -/
def guardOk (guarded : Bool) (h : Hdr) : Bool :=
  if guarded then !(h.gn == 1 && h.gp == 7) else h.gn == 0 && h.gp == 7

/-- Encoding check of a format V word. -/
def encCheckV (op : Nat) (f : FV) (w2 : Option (BitVec 64)) : Option EncFault :=
  let fn := f.fn.toNat
  let w := (w2.map BitVec.toNat).getD 0
  let s := shapeV op fn w
  let fields := guardOk s.guarded f.h && (f.h.ws == 0 || (s.d.takesWs && op != 0xC4)) && s.d.ok f.d.toNat && s.a.ok f.sa.toNat &&
    s.b.ok f.sb.toNat && s.c.ok f.sc.toNat && secondOk op fn w
  match fnCheckV op fn with
  | some e => some e
  | none => if fields then none else some .reserved

/-- CVT: assigned pairs of types and the modifiers taken (R298, R330). -/
def encCheckVI (f : FVI) : Option EncFault :=
  let fn := f.fn.toNat
  let tgt := bits fn 7 4
  let from_ := bits fn 3 0
  let pairOk := (from_ < 4 && tgt != from_) || (4 ≤ from_ && from_ < 12 && tgt < 4)
  let ftz := fn.testBit 8
  let d := typeDst tgt
  if !pairOk then some .illegal
  else if guardOk true f.h && (f.h.ws == 0 || d.takesWs) && (typeSrc from_).ok f.sa.toNat && f.imm == 0 &&
      (!ftz || ((from_ == 1 || from_ == 2) && tgt < 12)) then none
  else some .reserved

/-- Format U (R278, R296, R323). -/
def encCheckU (op : Nat) (f : FU) : Option EncFault :=
  let fn := f.fn.toNat
  let sOk (x : Nat) := x < 24 || x == 31
  let usesA := op != 0x36 && !(op == 0x35 && f.i == 1)
  let usesB := op != 0x35 && op != 0x36
  let fnIllegal := op == 0x37 && bits fn 2 0 ≥ 6 || (op == 0x33 || op == 0x34) && fn ≥ 4
  let fnOk := op == 0x37 || op == 0x33 || op == 0x34 || fn == 0
  if fnIllegal then some .illegal
  else if guardOk false f.h && f.h.ws == 0 && f.d.toNat < 24 && fnOk &&
      (if usesA then sOk f.sa.toNat else f.sa == 0) &&
      (if usesB && f.i == 0 then sOk f.sb.toNat else f.sb == 0) && (f.i == 1 || f.imm == 0) &&
      (op != 0x36 || f.i == 0) then none
  else some .reserved

/-- Format M (R171, R279, R281, R341). -/
def encCheckM (op : Nat) (f : FM) : Option EncFault :=
  let size := f.size.toNat
  let space := f.space.toNat
  let pol := f.pol.toNat
  let isStore := op == 0x81 || op == 0x83 || op == 0x85
  let priv := op == 0x84 || op == 0x85
  let pf := op == 0x86
  let n := sizeRegs size
  let sizeOk := if pf then size == 0 else size != 7 && !(isStore && size ≥ 5)
  let placeOk :=
    if priv then f.seg == 0 && space == 0 && pol == 0
    else (space == 0 || f.seg == 0) && pol != 3 && (pol == 0 || space == 0 || space == 3) &&
      (!pf || space == 0 || space == 3)
  let addrOk := if isStore then (Src.value n).ok f.addr.toNat else srcAssigned f.addr.toNat
  let wsOk := f.h.ws == 0 || (!isStore && !pf && n == 1)
  if guardOk true f.h && wsOk && sizeOk && placeOk && addrOk && (!pf || f.data == 0) then none else some .reserved

/-- Format C (R294, R310). -/
def encCheckC (op : Nat) (f : FC) : Option EncFault :=
  let guarded := [0x00, 0x01, 0x03, 0x08, 0x0A].contains op
  let usesOff := [0x01, 0x03, 0x06, 0x09].contains op
  let fnOk := if op == 0x09 then bits f.fn.toNat 19 15 < 24 && bits f.fn.toNat 14 0 == 0 else f.fn == 0
  if guardOk guarded f.h && f.h.ws == 0 && (usesOff || f.off == 0) && fnOk then none else some .reserved

/-- FN bits that the constructor itself stands for (R303). -/
def rowFnOk : Instr → Bool
  | .await f => !f.fn.getLsbD 0
  | .awaitSteal f => f.fn.getLsbD 0
  | .rttRetry f => f.fn.toNat % 4 == 0
  | .rttSkip f => f.fn.toNat % 4 == 1
  | .rttKill f => f.fn.toNat % 4 == 2
  | _ => true

/-- The trap that an instruction's encoding alone raises, if any (R289, R293). Events have no encoding. -/
def encCheck (i : Instr) : Option EncFault :=
  match i.body with
  | .c f => encCheckC i.opcode f
  | .v f => encCheckV i.opcode f i.second
  | .vi f => encCheckVI f
  | .u f => encCheckU i.opcode f
  | .m f => encCheckM i.opcode f
  | .event => none

/-- An instruction is well formed when its encoding raises no trap and its FN is that of its row. -/
def Instr.wf (i : Instr) : Bool := (encCheck i).isNone && rowFnOk i

/-- Decidable form of `Instr.wf`. -/
abbrev WellFormed (i : Instr) : Prop := i.wf = true

end Sys2Proof
end

