-- ==== Sys2Proof/Decode.lean ====
section
/-! DEFINITION. From the bits of an instruction to its constructor and back (R270, R276 to R283, R291). Decoding is total:
a word whose major opcode is unassigned, or whose FN names no row, decodes to `none`, and the machine takes
ILLEGAL_OPCODE for it. -/

set_option Elab.async false

namespace Sys2Proof

/-- The header bits [55:44] (R270). -/
def Hdr.toBits (h : Hdr) : BitVec 12 := h.rate ++ (h.stall ++ (h.ws ++ (h.gn ++ h.gp)))

/-- The header of an instruction word (R270). -/
def Hdr.ofWord (w : BitVec 64) : Hdr :=
  { rate := w.extractLsb' 53 3, stall := w.extractLsb' 49 4, ws := w.extractLsb' 48 1,
    gn := w.extractLsb' 47 1, gp := w.extractLsb' 44 3 }

/-- Format V to a word (R276). -/
def FV.toWord (op : BitVec 8) (f : FV) : BitVec 64 :=
  op ++ (f.h.toBits ++ (f.d ++ (f.sa ++ (f.sb ++ (f.sc ++ f.fn)))))
/-- Format V of a word (R276). -/
def FV.ofWord (w : BitVec 64) : FV :=
  { h := Hdr.ofWord w, d := w.extractLsb' 36 8, sa := w.extractLsb' 27 9, sb := w.extractLsb' 18 9,
    sc := w.extractLsb' 9 9, fn := w.extractLsb' 0 9 }
/-- Format VI to a word (R276). -/
def FVI.toWord (op : BitVec 8) (f : FVI) : BitVec 64 :=
  op ++ (f.h.toBits ++ (f.d ++ (f.sa ++ (f.imm ++ f.fn))))
/-- Format VI of a word (R276). -/
def FVI.ofWord (w : BitVec 64) : FVI :=
  { h := Hdr.ofWord w, d := w.extractLsb' 36 8, sa := w.extractLsb' 27 9, imm := w.extractLsb' 11 16,
    fn := w.extractLsb' 0 11 }
/-- Format U to a word (R278). -/
def FU.toWord (op : BitVec 8) (f : FU) : BitVec 64 :=
  op ++ (f.h.toBits ++ (f.d ++ (f.sa ++ (f.sb ++ (f.i ++ (f.fn ++ f.imm))))))
/-- Format U of a word (R278). -/
def FU.ofWord (w : BitVec 64) : FU :=
  { h := Hdr.ofWord w, d := w.extractLsb' 39 5, sa := w.extractLsb' 34 5, sb := w.extractLsb' 29 5,
    i := w.extractLsb' 28 1, fn := w.extractLsb' 24 4, imm := w.extractLsb' 0 24 }
/-- Format M to a word (R279). -/
def FM.toWord (op : BitVec 8) (f : FM) : BitVec 64 :=
  op ++ (f.h.toBits ++ (f.data ++ (f.addr ++ (f.seg ++ (f.off ++ (f.pol ++ (f.size ++ f.space)))))))
/-- Format M of a word (R279). -/
def FM.ofWord (w : BitVec 64) : FM :=
  { h := Hdr.ofWord w, data := w.extractLsb' 36 8, addr := w.extractLsb' 27 9, seg := w.extractLsb' 23 4,
    off := w.extractLsb' 7 16, pol := w.extractLsb' 5 2, size := w.extractLsb' 2 3, space := w.extractLsb' 0 2 }
/-- Format C to a word (R282). -/
def FC.toWord (op : BitVec 8) (f : FC) : BitVec 64 := op ++ (f.h.toBits ++ (f.off ++ f.fn))
/-- Format C of a word (R282). -/
def FC.ofWord (w : BitVec 64) : FC :=
  { h := Hdr.ofWord w, off := w.extractLsb' 20 24, fn := w.extractLsb' 0 20 }

/-- One-word opcodes of format C (R291). -/
def mkC (op : Nat) (f : FC) : Option Instr :=
  match op with
  | 0x00 => some (.nop f)
  | 0x01 => some (.bra f)
  | 0x03 => some (.call f)
  | 0x05 => some (.ret f)
  | 0x06 => some (.mark f)
  | 0x07 => some (.join f)
  | 0x08 => some (.brk f)
  | 0x09 => some (.loop f)
  | 0x0A => some (.exit f)
  | 0x0B => some (.yield f)
  | 0x0C => some (.vgrow f)
  | 0x0D => some (.vshrink f)
  | _ => none

/-- One-word opcodes of format V (R291). FN tells the rows of AWAIT and RTT apart (R303). -/
def mkV (op : Nat) (f : FV) : Option Instr :=
  match op with
  | 0x02 => some (.brx f)
  | 0x04 => some (.callx f)
  | 0x10 => some (.add f)
  | 0x11 => some (.tadd f)
  | 0x12 => some (.sub f)
  | 0x13 => some (.neg f)
  | 0x14 => some (.abs f)
  | 0x15 => some (.mull f)
  | 0x16 => some (.mulh f)
  | 0x17 => some (.madl f)
  | 0x18 => some (.madw f)
  | 0x19 => some (.min f)
  | 0x1A => some (.max f)
  | 0x1B => some (.adif f)
  | 0x1C => some (.tlut f)
  | 0x1D => some (.shl f)
  | 0x1E => some (.shr f)
  | 0x1F => some (.sar f)
  | 0x20 => some (.rot f)
  | 0x21 => some (.funl f)
  | 0x22 => some (.ones f)
  | 0x23 => some (.clz f)
  | 0x24 => some (.bitr f)
  | 0x25 => some (.fext f)
  | 0x26 => some (.fdep f)
  | 0x27 => some (.pick f)
  | 0x28 => some (.mov f)
  | 0x2A => some (.scad f)
  | 0x2B => some (.bshuf f)
  | 0x3A => some (.sfromv f)
  | 0x3B => some (.sread f)
  | 0x40 => some (.fadd f)
  | 0x41 => some (.fmul f)
  | 0x42 => some (.ffma f)
  | 0x43 => some (.fmin f)
  | 0x44 => some (.fmax f)
  | 0x45 => some (.frnd f)
  | 0x46 => some (.fclass f)
  | 0x47 => some (.fscale f)
  | 0x48 => some (.frcp f)
  | 0x49 => some (.frsq f)
  | 0x4A => some (.fsqrt f)
  | 0x4B => some (.fexp2 f)
  | 0x4C => some (.flog2 f)
  | 0x4D => some (.fsin f)
  | 0x4E => some (.fcos f)
  | 0x4F => some (.ftanh f)
  | 0x50 => some (.dadd f)
  | 0x51 => some (.dmul f)
  | 0x52 => some (.dfma f)
  | 0x53 => some (.dmin f)
  | 0x54 => some (.dmax f)
  | 0x55 => some (.hadd2 f)
  | 0x56 => some (.hmul2 f)
  | 0x57 => some (.hfma2 f)
  | 0x58 => some (.hmax2 f)
  | 0x61 => some (.pack f)
  | 0x62 => some (.unpack f)
  | 0x63 => some (.qscale f)
  | 0x64 => some (.cmpd f)
  | 0x65 => some (.icmpd f)
  | 0x66 => some (.dot2 f)
  | 0x67 => some (.dot4 f)
  | 0x68 => some (.dot8 f)
  | 0x70 => some (.qswap f)
  | 0x71 => some (.qbcast f)
  | 0x72 => some (.qddx f)
  | 0x73 => some (.qddy f)
  | 0x74 => some (.xlane f)
  | 0x75 => some (.pscan f)
  | 0x76 => some (.treduce f)
  | 0x78 => some (.pcmpi f)
  | 0x79 => some (.pcmpf f)
  | 0x7A => some (.pcmpd f)
  | 0x7B => some (.plut f)
  | 0x7C => some (.pagree f)
  | 0x7D => some (.ptov f)
  | 0x7E => some (.vtop f)
  | 0x87 => some (.tex f)
  | 0x88 => some (.texg f)
  | 0x89 => some (.rtw f)
  | 0x8A => some (.rtz f)
  | 0x8B => some (.rtr f)
  | 0xB0 => some (.bari f)
  | 0xB1 => some (.bara f)
  | 0xB2 => some (.barw f)
  | 0xB3 => some (.baraw f)
  | 0xB4 => some (.bart f)
  | 0xB5 => some (.barx f)
  | 0xBC => some (.eclose f)
  | 0xBD => some (.ewait f)
  | 0xBE => some (.ewaito f)
  | 0xC2 => some (.mzero f)
  | 0xC4 => some (.mrd f)
  | 0xC5 => some (.mwr f)
  | 0xC7 => some (.mtag f)
  | 0xD0 => some (.spawn f)
  | 0xD1 => some (.spawnd f)
  | 0xD2 => some (if f.fn.getLsbD 0 then .awaitSteal f else .await f)
  | 0xD3 => some (.recg f)
  | 0xD4 => some (.done f)
  | 0xD5 => some (.nodeq f)
  | 0xD8 => some (.rget f)
  | 0xD9 => some (.rbary f)
  | 0xDA => some (.rflat f)
  | 0xDB => some (.rcov f)
  | 0xDC => some (.rkill f)
  | 0xDD => some (.trace f)
  | 0xDE => some (.rret f)
  | 0xDF => some (.rhit f)
  | 0xE0 => some (.trap f)
  | 0xE1 =>
    match f.fn.toNat % 4 with
    | 0 => some (.rttRetry f)
    | 1 => some (.rttSkip f)
    | 2 => some (.rttKill f)
    | _ => none
  | 0xE2 => some (.syscall f)
  | 0xE3 => some (.csrr f)
  | 0xE4 => some (.csrw f)
  | 0xE5 => some (.bkpt f)
  | 0xE6 => some (.pmark f)
  | 0xE7 => some (.clock f)
  | 0xE8 => some (.tlbi f)
  | 0xEA => some (.frec f)
  | _ => none

/-- Opcodes of format VI (R291). -/
def mkVI (op : Nat) (f : FVI) : Option Instr :=
  match op with
  | 0x60 => some (.cvt f)
  | _ => none

/-- One-word opcodes of format U (R291). -/
def mkU (op : Nat) (f : FU) : Option Instr :=
  match op with
  | 0x30 => some (.sadd f)
  | 0x31 => some (.ssub f)
  | 0x32 => some (.smul f)
  | 0x33 => some (.slop f)
  | 0x34 => some (.sshf f)
  | 0x35 => some (.smov f)
  | 0x37 => some (.scmp f)
  | 0x38 => some (.slea f)
  | 0x39 => some (.ssel f)
  | _ => none

/-- Opcodes of format M (R291). -/
def mkM (op : Nat) (f : FM) : Option Instr :=
  match op with
  | 0x80 => some (.ld f)
  | 0x81 => some (.st f)
  | 0x82 => some (.ldv f)
  | 0x83 => some (.stv f)
  | 0x84 => some (.ldl f)
  | 0x85 => some (.stl f)
  | 0x86 => some (.pfetch f)
  | _ => none

/-- Two-word opcodes whose first word is of format V (R283, R291). -/
def mkV2 (op : Nat) (f : FV) (w2 : BitVec 64) : Option Instr :=
  match op with
  | 0x29 => some (.seti f w2)
  | 0xA0 => some (.atom f w2)
  | 0xA1 => some (.acas f w2)
  | 0xA2 => some (.red f w2)
  | 0xA3 => some (.atoms f w2)
  | 0xA4 => some (.awaitv f w2)
  | 0xB8 => some (.cpy f w2)
  | 0xB9 => some (.cpyt f w2)
  | 0xBA => some (.gath f w2)
  | 0xBB => some (.scat f w2)
  | 0xC0 => some (.mma f w2)
  | 0xC1 => some (.mmal f w2)
  | 0xC3 => some (.mldt f w2)
  | 0xC6 => some (.mdrain f w2)
  | 0xE9 => some (.coll f w2)
  | _ => none

/-- Two-word opcodes whose first word is of format U (R283, R291). -/
def mkU2 (op : Nat) (f : FU) (w2 : BitVec 64) : Option Instr :=
  match op with
  | 0x36 => some (.smovi f w2)
  | _ => none

/-- The major opcodes that R291 marks as two words. -/
def twoWordOps : List Nat :=
  [0x29, 0x36, 0xA0, 0xA1, 0xA2, 0xA3, 0xA4, 0xB8, 0xB9, 0xBA, 0xBB, 0xC0, 0xC1, 0xC3, 0xC6, 0xE9]

/-- Whether a first word opens a two-word instruction (R283). -/
def isTwoWord (w : BitVec 64) : Bool := twoWordOps.contains (w.extractLsb' 56 8).toNat

/-- The instruction of a first word and, where R291 marks two words, the second. -/
def decode (w w2 : BitVec 64) : Option Instr :=
  let op := (w.extractLsb' 56 8).toNat
  mkC op (FC.ofWord w) <|> mkV op (FV.ofWord w) <|> mkVI op (FVI.ofWord w) <|> mkU op (FU.ofWord w) <|>
    mkM op (FM.ofWord w) <|> mkV2 op (FV.ofWord w) w2 <|> mkU2 op (FU.ofWord w) w2

/-- Decodes one instruction from the front of a list of bytes (R3, R283) and answers the rest. -/
def decodeBytes (bs : List Byte) : Option (Instr × List Byte) :=
  if bs.length < 8 then none
  else
    let w := BitVec.ofNat 64 (leNat (bs.take 8))
    if isTwoWord w then
      if bs.length < 16 then none
      else (decode w (BitVec.ofNat 64 (leNat ((bs.drop 8).take 8)))).map fun i => (i, bs.drop 16)
    else (decode w 0).map fun i => (i, bs.drop 8)

/-- First word of an instruction; 0 for an event, which has none. -/
def Instr.word (i : Instr) : BitVec 64 :=
  let op := BitVec.ofNat 8 i.opcode
  match i.body with
  | .c f => f.toWord op
  | .v f => f.toWord op
  | .vi f => f.toWord op
  | .u f => f.toWord op
  | .m f => f.toWord op
  | .event => 0

/-- The words of an instruction (R270 to R283). -/
def encode (i : Instr) : List (BitVec 64) :=
  match i.second with
  | some w2 => [i.word, w2]
  | none => [i.word]

/-- The bytes of an instruction as memory holds them (R3). -/
def encodeBytes (i : Instr) : List Byte := (encode i).flatMap fun w => leBytes 8 w.toNat

/-- The bytes of an instruction given as one number whose bit 0 is the least significant bit of the first word. -/
def tableBytes (w : Nat) : List Byte := leBytes 16 w

/-- The instruction this decoder reads from an instruction whose bits are `w`; bits above `nbits` are 0. -/
def decodeTableWord (nbits w : Nat) : Option Instr :=
  (decodeBytes (tableBytes (w % 2 ^ nbits))).map Prod.fst

end Sys2Proof
end

