-- ==== Sys2Proof/Machine/State.lean ====
section
/-! DEFINITION. The state of the part: everything the manual gives the machine, as plain data. -/

set_option Elab.async false

namespace Sys2Proof.Machine

/-- A sparse array: keys strictly rise and no entry holds the default, so that equal arrays are equal lists. -/
abbrev Map (β : Type) := List (Nat × β)

/-- Kinds of rejoin-stack entries (R305). -/
inductive RejoinKind where
  /-- M, pushed by MARK -/
  | region
  /-- P, a pending group -/
  | pending
  /-- C, a call -/
  | call
  deriving DecidableEq, Repr

/-- A rejoin-stack entry (R305). WAITSUM is derived from v0. -/
structure Rejoin where
  pc : CodeOff
  kind : RejoinKind
  deriving DecidableEq, Repr

/-- Trap causes (R207). -/
inductive Cause where
  | illegalOpcode | reservedField | rateMismatch | regLimit | divergedUniform | latchRegion | privilege
  | trap | syscall | bkpt | nonuniform | descInvalid | frameExhausted | barrierState | nodeUnknown | engineFault
  | segLimit | misaligned | rangeLocked | pageFault | guestPageFault | partBounds | accessFault | linkLost | dataError
  | doubleTrap
  deriving DecidableEq, Repr

/-- Address spaces of an access as the ordering model and the fault record name them (R171, R279). -/
abbrev Space := Nat

/-- What an access does (INFO.KIND of R183). -/
inductive AccKind where
  | read | write | atomic | fetch | engRead | engWrite | walk
  deriving DecidableEq, Repr

/-- Latch region of a team (R133): instructions issued in it, its first instruction, and what it has read from and written
to the register file (v registers 0 to 255, s registers 256 to 279, predicates 280 to 286). -/
structure Region where
  start : CodeOff
  /-- length of the first instruction -/
  size : Nat
  count : Nat
  reads : List Nat
  writes : List Nat
  deriving DecidableEq, Repr

/-- A load whose return is still due (R218). The value is the one read at issue. -/
structure Flight where
  /-- slot GEN at issue -/
  gen : BitVec 4
  /-- instructions that the team had issued before it -/
  seq : Nat
  pc : CodeOff
  dst : Nat
  word : Nat
  size : Nat
  space : Space
  pol : Nat
  /-- lanes of the pass still due -/
  lanes : Lanes
  /-- lane addresses: VA for SPACE 0, else the space address -/
  addr : Map Nat
  /-- registers to write: key 1024 × register + lane -/
  vals : List (Nat × Word)
  /-- a result that goes to the latch alone (WS) -/
  latchOnly : Bool
  /-- issued in an open latch region -/
  inRegion : Bool
  /-- colour format of an RTR; 0 for a load (R218, R352) -/
  fmt : Nat := 0
  /-- some lane reads at a home rather than in L1 (R198) -/
  home : Bool := false
  /-- a later access of the team has been performed that this one must not follow: it is not read anew (R193, R194) -/
  fixed : Bool := false
  deriving DecidableEq, Repr

/-- A load packet (R218). -/
structure Packet where
  pc : CodeOff
  dst : Nat
  word : Nat
  size : Nat
  space : Space
  pol : Nat
  lanes : Lanes
  addr : Map Nat
  /-- colour format of an RTR, as the instruction at PC has it; 0 for a load -/
  fmt : Nat := 0
  deriving DecidableEq, Repr

/-- The fault record (R183). -/
structure FaultRec where
  cause : DWord := 0
  pc : DWord := 0
  insn : DWord := 0
  info : DWord := 0
  eaddr : DWord := 0
  /-- faulting VA, by lane -/
  va : Map DWord := []
  /-- GPA of a G-stage fault, by lane -/
  gpa : Map DWord := []
  deriving DecidableEq, Repr

/-- The handler window h0 to h7 (R136). -/
inductive Window where
  /-- case 1: free granules; key 1024 × j + lane -/
  | granules (regs : Map Word)
  /-- case 2: the eight highest registers of the `chunks` held at entry, spilled to the save rows -/
  | spill (chunks : Nat)
  deriving DecidableEq, Repr

/-- What a trap carries to its delivery (R207, R209). -/
structure Raise where
  cause : Cause
  /-- trapping lanes -/
  lanes : Lanes
  /-- lanes that a retry runs again (R209) -/
  pending : Lanes
  /-- a retry takes the full saved mask -/
  full : Bool
  pc : CodeOff
  insn : DWord
  resume : CodeOff
  size : Nat
  va : Map DWord := []
  gpa : Map DWord := []
  info : DWord := 0
  eaddr : DWord := 0
  /-- counter of an ENGINE_FAULT -/
  k : Nat := 0
  /-- load packets whose reissue met the cause (R219) -/
  packets : List Packet := []
  deriving DecidableEq, Repr

/-- How a trap returns (R212, R214). -/
structure TrapState where
  resume : CodeOff
  /-- length of the instruction at the resume point -/
  size : Nat
  mask : Lanes
  helper : Lanes
  pending : Lanes
  /-- a retry takes the full saved mask: region start, team cause or async cause -/
  full : Bool
  s20 : List DWord
  p6 : Lanes
  depth : Nat
  window : Window
  /-- trapping mask words -/
  words : List Nat
  /-- bands done of the interrupted instruction -/
  mid : Option (List Nat × Map Word)
  /-- load packets that a retry reissues (R219) -/
  packets : List Packet
  /-- load packets that were still to be reissued at entry: they wait for the return (R213, R219) -/
  later : List Packet := []
  /-- fault record of the entry, as Sorrel reads it of a team that it holds (R212, R216) -/
  fault : FaultRec := {}
  /-- mask words done of the instruction at the resume point, in a trap that is not its own (R217, R219) -/
  cursor : Nat := 0
  /-- the table that these words have been computed with (R331) -/
  table : Option (List Byte) := none
  deriving DecidableEq, Repr

/-- A result that a team's instruction has been issued for and that may still be on its way (R144, R145): its registers, the place of
its latch as in Flight, and the stall reason of a wait for it. -/
structure Due where
  regs : List Nat
  seq : Nat
  reason : Nat
  deriving DecidableEq, Repr

/-- What a team's last issue leaves to the sampling unit (R74, R142 to R144). -/
structure Issued where
  /-- offset of the instruction -/
  pc : CodeOff := 0
  /-- clk of its first pass, clk after its last pass, and clk up to which its STALL hint holds the team back -/
  start : Nat := 0
  stop : Nat := 0
  hint : Nat := 0
  /-- latest first -/
  dues : List Due := []
  deriving DecidableEq, Repr

/-- What keeps a team out of issue (R224 STATE, R74 reasons). `ready` includes a team that waits at issue. -/
inductive Status where
  | ready
  /-- AWAIT until JOIN is 0 (R395) -/
  | await
  /-- SPAWN or SPAWND until the node's queue has room (R392); TRACE, with the descriptor it has read, until the ray store
  has room (R401) -/
  | spawn (desc : List Byte)
  /-- AWAITV on a word: space (4: a discarded chip-scratchpad byte), home address (in a scratchpad 2^20 × block + block-relative
  byte), width in bytes, value, destination, guarded lanes, `.obt` (R357) -/
  | awaitv (space addr width : Nat) (val : DWord) (dst : Nat) (lanes : Lanes) (obt : Bool)
  /-- VGROW until granules are free (R129), with the clk at which it parked -/
  | vgrow (since : Nat)
  /-- BARW or BARAW on the block's barrier b, until PHASE differs from p (R360) -/
  | barrier (b : Nat) (p : Bool)
  /-- EWAIT (atMost = false) or EWAITO on counter k (R369) -/
  | engine (k : Nat) (atMost : Bool) (n : Nat)
  /-- TLBI, of the page of an address or of every translation, until it completes (R414) -/
  | tlbi (va : Option Nat)
  /-- trap entry that waits for its handler window (R136 case 3) -/
  | window (r : Raise) (since : Nat)
  /-- held by Sorrel (R216) -/
  | sorrel
  /-- stopped for Cowslip at a BKPT (R406) -/
  | cowslip
  deriving DecidableEq, Repr

/-- An async cause that waits for its delivery (R210, R213). -/
structure AsyncCause where
  cause : Cause
  /-- PC of the access or of the wait, and its instruction word -/
  pc : CodeOff
  insn : DWord
  lanes : Lanes
  va : Map DWord := []
  info : DWord := 0
  eaddr : DWord := 0
  /-- counter of an ENGINE_FAULT -/
  k : Nat := 0
  deriving DecidableEq, Repr

/-- A batch of engine operations that is closed and not yet reported (R369). -/
structure Batch where
  num : BitVec 32
  /-- operations not yet completed or failed -/
  ops : List Nat
  /-- every operation of the batch -/
  all : List Nat
  failed : Bool
  fault : DWord
  eaddr : DWord
  deriving DecidableEq, Repr

/-- A counter kN of a team (R369). -/
structure Counter where
  /-- operations issued and not yet in a batch, completed ones included -/
  opened : List Nat := []
  openFailed : Bool := false
  openFault : DWord := 0
  openEaddr : DWord := 0
  closed : BitVec 32 := 0
  batches : List Batch := []
  deriving DecidableEq, Repr

/-- A run of records that a team holds (R393): queue positions of its node. -/
structure RecRun where
  first : Nat
  len : Nat
  /-- the one record that every team of the block shares -/
  shared : Bool
  deriving DecidableEq, Repr

/-- A result of a ray as the ray-tier lane reads it (R169). -/
structure RayHit where
  kind : Nat := 0
  t : Word := 0
  u : Word := 0
  v : Word := 0
  prim : Word := 0
  user : Word := 0
  deriving DecidableEq, Repr

/-- What a lane of a tier batch stands for (R150): its own record, its parent record and, in the cpix and sample tiers, its
triangle and coverage. -/
structure LaneElem where
  elem : Word := 0
  /-- the element exists -/
  live : Bool := false
  /-- record of the element itself -/
  own : Option Nat := none
  /-- record of the next coarser element -/
  up : Option Nat := none
  /-- triangle of the element -/
  tri : Option Nat := none
  /-- coverage mask of R155 (bit 0 in the sample tier) -/
  cov : BitVec 16 := 0
  deriving DecidableEq, Repr

/-- A wait for instruction fetch (R425): none, up to a clk after a taken branch or a resume, or until the first instruction of a
new rate batch. -/
inductive FetchWait where
  | no
  | upTo (clk : Nat)
  | firstIssue
  deriving DecidableEq, Repr

/-- A team, or one half of a forerunner pair (R122 to R136, R224, R226). -/
structure Team where
  tid : Nat
  blk : Nat
  core : Nat
  slot : Nat
  half : Nat := 0
  /-- in a slot; a saved team keeps its record in a saved block -/
  resident : Bool := true
  /-- a half of a forerunner slot -/
  fore : Bool := false
  /-- %team -/
  num : Nat := 0
  /-- L -/
  lanes : Nat
  pc : CodeOff := 0
  /-- the entry lies beyond the 48 bits of an offset in g15, where no code is (R106, R173) -/
  farEntry : Bool := false
  mask : Lanes := 0
  /-- helper lanes, a part of the mask -/
  helper : Lanes := 0
  /-- p0 to p6 -/
  preds : Map Lanes := []
  /-- s0 to s23 -/
  sregs : Map DWord := []
  /-- vector registers, key 1024 × register + lane -/
  vregs : Map Word := []
  /-- chunks held, K -/
  chunks : Nat := 2
  base : Nat := 2
  /-- b1 first; an empty latch is none; a latch is keyed by lane -/
  latches : List (Option (Map Word)) := []
  region : Option Region := none
  /-- rejoin stack, bottom first -/
  stack : List Rejoin := []
  status : Status := .ready
  /-- stall reason of the last refusal to issue (R74) -/
  stall : Nat := 0
  age : Nat := 0
  gen : BitVec 4 := 0
  pix : Nat := 0
  /-- CURSOR: mask words done of the instruction at PC (R217) -/
  cursor : Nat := 0
  /-- the companding table that the instruction at PC has read, while passes of it are still to be done; empty for none (R331) -/
  table : Option (List Byte) := none
  /-- the address that AWAITV has named, while the team is parked in it (R224) -/
  waddr : Nat := 0
  last : Issued := {}
  /-- clk in which it entered its slot (R427) -/
  entered : Nat := 0
  flights : List Flight := []
  packets : List Packet := []
  fault : FaultRec := {}
  trap : Option TrapState := none
  /-- state kept while Sorrel holds the team (R216) -/
  hold : Option TrapState := none
  /-- mask and helpers to take again after a retried instruction (R214) -/
  restore : Option (Lanes × Lanes) := none
  /-- async causes waiting for their delivery (R210, R213) -/
  async : List AsyncCause := []
  /-- frame address in g13, if held (R119) -/
  frame : Option Nat := none
  run : Option RecRun := none
  /-- continuation resumed: its saved %block is its own (R120) -/
  counters : List Counter := [{}, {}, {}, {}]
  /-- RATE of the present batch, 0 in a grid -/
  tier : Nat := 0
  /-- number of the present batch, none between batches -/
  batch : Option Nat := none
  elems : Map LaneElem := []
  /-- rays of TRACE not yet awaited: first result register by ray -/
  rays : List (Nat × Nat) := []
  done : Bool := false
  /-- bands already done of the MRD, MWR or MTAG at PC, and the values that MRD has read (R141) -/
  mid : Option (List Nat × Map Word) := none
  /-- instructions issued since release: the place of a load's latch follows from it (R132) -/
  issued : Nat := 0
  /-- clk of a YIELD, until the team issues again (R314) -/
  yielded : Option Nat := none
  /-- until when the team waits for instruction fetch (R425) -/
  fetchWait : FetchWait := .no
  deriving DecidableEq, Repr

/-- A line of an L1 (R125, R199). -/
structure Line where
  ctx : Nat
  /-- a line of the chip scratchpad; otherwise of physical memory -/
  chip : Bool
  /-- address div 128 -/
  line : Nat
  /-- bytes as the core sees them, by offset -/
  data : Map Byte
  dirty : BitVec 128
  slots : BitVec 16
  /-- a line of g14 -/
  priv : Bool
  deriving DecidableEq, Repr

/-- A range-lock entry (R204). -/
structure Lock where
  /-- engine operation that entered it -/
  op : Nat
  blk : Nat
  tid : Nat
  ctx : Nat
  /-- 0: virtual byte range of the context; 1: block-relative byte range of the block `owner` -/
  space : Nat
  owner : Nat
  base : Nat
  len : Nat
  dest : Bool
  /-- operand A of MMA or MMAL: a plain read of it traps too (R390) -/
  noRead : Bool := false
  deriving DecidableEq, Repr

/-- A BARX arrival or a cluster-shared store that has left a gang member and is not yet applied at the peer (R220). -/
structure Remote where
  tid : Nat
  /-- sending and receiving block -/
  src : Nat
  dst : Nat
  /-- the receiver's barrier of an arrival -/
  bar : Option Nat
  /-- block-relative byte and bytes of a store -/
  addr : Nat
  bytes : List Byte
  deriving DecidableEq, Repr

/-- Engines of a core (R125, R373). -/
inductive Engine where
  | copy | gather | step | move
  deriving DecidableEq, Repr

/-- The operations of the engines. The operands are those captured at issue. -/
inductive EngKind where
  | cpy | cpyt | gath | scat | mma | mzero | mldt | mdrain
  deriving DecidableEq, Repr

/-- An engine operation (R224). -/
structure EngOp where
  id : Nat
  tid : Nat
  blk : Nat
  eng : Engine
  kind : EngKind
  k : Nat
  /-- values of the named s registers -/
  a : DWord
  b : DWord
  c : DWord
  w2 : DWord
  fn : Nat
  tile : Nat
  /-- format block and tables as read at issue -/
  fmt : List Byte
  tabA : List Byte
  tabB : List Byte
  /-- pieces, elements, steps or bands done -/
  cursor : Nat
  /-- bands taken: key 8 × tile of the block + band -/
  taken : List Nat
  /-- bands released (R373) -/
  released : List Nat
  /-- cells captured by MDRAIN for its transposed rows: 4096 × tile of a pair + 64 × row + column -/
  tcells : Map (BitVec 36)
  /-- the issuing team ran its handler (S-mode) -/
  smode : Bool
  /-- a resumption found the block or tables failing R377 (R374) -/
  badFmt : Bool
  deriving DecidableEq, Repr

/-- One core's arrays (R125). -/
structure CoreSt where
  /-- scratchpad bytes, barrier words included, 0 to 0x600FF (R137, R139) -/
  spad : Map Byte := []
  /-- tile cells, key 4096 × tile + 64 × row + column (R141) -/
  cells : Map (BitVec 36) := []
  /-- valid tags, bit 8 × tile + band -/
  tagV : BitVec 128 := 0
  /-- consumed tags -/
  tagC : BitVec 128 := 0
  /-- barrier words that an arrival from another core or an engine has reached (R199, R200) -/
  remote : List Nat := []
  l1 : List Line := []
  locks : List Lock := []
  ops : List EngOp := []
  /-- context whose time slice runs, by partition (R221) -/
  sliceCtx : Map Nat := []
  /-- clk counted in the present sampling period, by context (R73) -/
  smpLeft : Map Nat := []
  /-- period in force until the counter restarts, by context; absent means the period of SMP_CTL (R426) -/
  smpPer : Map Nat := []
  /-- context that last held each scratchpad row and each tile (R87); 0 before the first -/
  rowCtx : Map Nat := []
  tileCtx : Map Nat := []
  /-- GEN of each slot (R217, R218) -/
  gens : Map Nat := []
  deriving DecidableEq, Repr

/-- A record of the rate store (R157). -/
structure RsRec where
  id : Nat
  tier : Nat
  elem : Word
  retain : Nat
  up : Option Nat
  vals : List Word
  bytes : Nat
  /-- primitive key of the element: object, meshlet position, triangle -/
  key : Nat × Nat × Nat
  /-- NEXP, and the place in the rate store in 16-byte units (R157, R160) -/
  nexp : Nat := 0
  off : Nat := 0
  deriving DecidableEq, Repr

/-- A triangle after setup (R153). -/
structure Tri where
  id : Nat
  key : Nat × Nat × Nat
  meshlet : Nat
  /-- vertex records in TRIS order -/
  verts : List Nat
  /-- X and Y in vertex order, before any swap -/
  x : List Int
  y : List Int
  w : List Word
  /-- swap vertices 1 and 2 for coverage -/
  swap : Bool
  /-- batches that still hold a coarse pixel or sample of it -/
  open_ : Nat
  finished : Bool
  deriving DecidableEq, Repr

/-- A meshlet on its way through a draw (R149, R150). -/
structure MeshWait where
  /-- object, position, triangle -/
  key : Nat × Nat × Nat
  /-- record of the object -/
  obj : Nat
  /-- meshlet-table index -/
  idx : Nat
  /-- entry of the meshlet table -/
  entry : List Byte
  /-- record of the meshlet -/
  rec_ : Nat
  /-- vertex records, none for a removed vertex -/
  verts : List (Option Nat)
  deriving DecidableEq, Repr

/-- A batch of a tier that is ready or running (R150). -/
structure TierBatch where
  id : Nat
  tier : Nat
  key : Nat × Nat × Nat
  lanes : Map LaneElem
  /-- meshlets of a vertex batch -/
  mesh : List MeshWait
  team : Nat
  deriving DecidableEq, Repr

/-- A ray (R166, R401). -/
structure Ray where
  id : Nat
  team : Nat
  lane : Nat
  frame : Nat
  dst : Nat
  vals : List Word
  /-- record of the spawning element -/
  up : Option Nat
  /-- NODES, LEAVES and ROOT of its BVH descriptor -/
  desc : List Byte
  hit : Option RayHit
  /-- batch that runs its lane -/
  batch : Option Nat
  ret : Option (List Word)
  /-- primitive key of the spawning element (R152) -/
  key : Nat × Nat × Nat := (0, 0, 0)
  deriving DecidableEq, Repr

/-- The draw that a block runs (R149 to R164). -/
structure Draw where
  root : List Byte
  target : List Byte
  /-- entries of the tier table (R106) -/
  tiers : List DWord
  /-- rate-store rows RS -/
  rs : Nat
  recs : List RsRec
  tris : List Tri
  batches : List TierBatch
  rays : List Ray
  /-- objects waiting for an object batch, by record -/
  objWait : List Nat
  /-- meshlets waiting for a meshlet batch -/
  meshWait : List MeshWait
  /-- meshlets waiting for a vertex batch -/
  vertWait : List MeshWait
  /-- finished meshlets waiting for setup; the triangle of the key is the next one -/
  setupWait : List MeshWait
  /-- coarse-pixel quads waiting for a cpix batch -/
  cpixWait : List (List LaneElem)
  /-- the frame batch has been given -/
  framed : Bool
  /-- coarse pixels waiting for a sample batch -/
  sampWait : List LaneElem
  next : Nat
  deriving DecidableEq, Repr

/-- A block's image when it is not on a core (R224). -/
structure SaveArea where
  /-- the block's rows, and its barrier window -/
  spad : Map Byte
  bars : Map Byte
  /-- cells and tags by the block's tile numbers -/
  cells : Map (BitVec 36)
  tagV : BitVec 128
  tagC : BitVec 128
  locks : List Lock
  ops : List EngOp
  /-- barrier words of the block that an arrival from elsewhere has reached -/
  remote : List Nat
  /-- remote writes captured at a gang halt (R220) -/
  replay : List Remote
  /-- sampling period residue (R73), and the period in force, LAST_SLOT and HALF bits that go with it (R74, R426) -/
  smpRes : Nat
  smpPer : Nat := 0
  smpSlot : Nat := 15
  smpHalf : Map Nat := []
  /-- clk since launch (R224 CLK) -/
  clk : Nat
  /-- clk of the halt: the age of R424 -/
  halted : Nat
  /-- halted by MIGRATE (R423) -/
  migrating : Bool
  deriving DecidableEq, Repr

/-- A block (R106, R108, R126). -/
structure Block where
  id : Nat
  node : Nat
  part : Nat
  ctx : Nat
  core : Nat
  /-- %block -/
  index : DWord
  /-- kernel header word (R254) -/
  header : DWord
  /-- segment table, 16 entries (R173) -/
  segs : List (BitVec 128)
  /-- first scratchpad row, rows of data, save rows per team, rate-store rows -/
  row0 : Nat
  rows : Nat
  saveRows : Nat
  rsRows : Nat
  /-- physical number of barrier 0 -/
  bar0 : Nat
  /-- physical tiles of m0, m1, … -/
  tiles : List Nat
  gang : Nat
  gangN : Nat
  gangId : Nat
  rank : Nat
  nrank : Nat
  /-- enabled cores of the partition at release (R259) -/
  ncore : Nat
  /-- clk at launch; a saved block holds its count in its save area -/
  launch : Nat
  /-- queue positions reserved (R110) -/
  reserved : List Nat
  /-- record that every team shares (R393), and its bytes -/
  shared : Option Nat
  record : List Byte
  /-- teams at launch: each has its save rows -/
  nteam : Nat
  /-- producer and consumer teams run different entries -/
  roles : Bool
  /-- a continuation resumed as a block of its own (R120) -/
  cont : Bool
  draw : Option Draw
  saved : Option SaveArea
  /-- memory and host window as they stood at launch: the old words of R182 -/
  mem0 : List Host.Cell
  host0 : List Host.Cell
  deriving DecidableEq, Repr

/-- A client command: function, queue pair, place in the order of fetch (R43). -/
structure Client where
  fn : Nat
  q : Nat
  idx : Nat
  deriving DecidableEq, Repr

/-- A record in a node's queue (R104). -/
structure QEntry where
  /-- sequence number of R106 -/
  seq : Nat
  bytes : List Byte
  link : DWord
  /-- package time at which it entered -/
  arrived : Nat
  /-- block that reserved it -/
  block : Option Nat
  /-- a RECG has handed it out -/
  taken : Bool
  /-- client commands that it, or a record of which it is a joined descendant, belongs to (R41, R44) -/
  clients : List Client
  /-- teams of started blocks that share it and are not done (R394) -/
  live : Nat
  /-- cores on which a copy of a multicast launch is still to start (R109) -/
  cores : List Nat
  /-- context of the joined parent's frame -/
  pctx : Nat
  /-- it, or a joined descendant, was aborted or retired unlaunched (R42) -/
  bad : Bool
  deriving DecidableEq, Repr

/-- Status of a node (R102, R65). -/
inductive NodeStatus where
  | empty | valid | retiring | badDesc | badShape | badGang | rateStore
  deriving DecidableEq, Repr

/-- A node: its table entry, descriptor, packet and queue, and its queue state block (R65, R101 to R118). -/
structure Node where
  num : Nat
  desc : DWord := 0
  validReq : Bool := false
  status : NodeStatus := .empty
  refused : BitVec 32 := 0
  descBytes : List Byte := []
  pkt : List Byte := []
  queue : List QEntry := []
  /-- records that have entered since registration -/
  count : Nat := 0
  held : Bool := false
  lost : Bool := false
  share : Nat := 0
  quota : Map Nat := []
  /-- quota plus 1 in its cluster as each leaf has applied it; absent: the leaf does not know the node yet (R60) -/
  leafQuota : Map Nat := []
  nextBlock : DWord := 0
  /-- failed rounds of the head gang as recorded (AGE) -/
  age : Map Nat := []
  /-- head gang that AGE belongs to, as its record's number + 1 (R118) -/
  ageFor : Nat := 0
  /-- failed rounds of the head gang as each leaf counts them (R118) -/
  failed : Map Nat := []
  /-- head gang that the counts of `failed` belong to -/
  failedFor : Nat := 0
  /-- rounds in which another node's occupancy exceeded twice this one's, by cluster and node (R114) -/
  skew : Map Nat := []
  gen : DWord := 0
  lastSeq : BitVec 32 := 0
  leafSeq : Map (BitVec 32) := []
  /-- last GEN each leaf applied (R60) -/
  leafGen : Map (BitVec 32) := []
  /-- sequence number each leaf sent last -/
  leafSent : Map (BitVec 32) := []
  /-- last sequence number Sorrel sent -/
  sorrelSent : BitVec 32 := 0
  /-- blocks placed per core as the scheduler knows them -/
  placed : Map Nat := []
  /-- record whose COAL_T has run out (R110) -/
  coalesced : Option Nat := none
  /-- NEXT_BLOCK, OLDEST and HELD as the queue state block holds them since it was last written (R65) -/
  blkNext : DWord := 0
  blkOldest : DWord := 0
  blkHeld : Bool := false
  /-- root record, as its number + 1, that NEXT_BLOCK and OLDEST of the block belong to (R111) -/
  blkRoot : Nat := 0
  /-- reports that leaves have to send, by leaf, oldest first (R114, R118) -/
  due : List (Nat × LinkBody) := []
  /-- cores on which a block of the node holds a slot, as their leaves have reported (R65) -/
  told : Map Nat := []
  /-- the queue state block has been struck since it was last written, so that its CHECK fails (R65, R67) -/
  damaged : Bool := false
  deriving DecidableEq, Repr

/-- A partition's quota on one core (R81). -/
structure Quota where
  slot0 : Nat := 0
  slots : Nat := 0
  granules : Nat := 0
  row0 : Nat := 0
  rows : Nat := 0
  bar0 : Nat := 0
  bars : Nat := 0
  deriving DecidableEq, Repr

/-- A continuation saved by AWAIT.steal or as a parked spawner (R105, R120). -/
structure Cont where
  frame : Nat
  node : Nat
  ctx : Nat
  part : Nat
  segs : List (BitVec 128)
  /-- waits for queue room rather than for JOIN: the node and the records (R105) -/
  spawnWait : Option (Nat × Nat)
  header : DWord
  pkt : List Byte
  lanes : Nat
  run : Option RecRun
  rank : Nat
  nrank : Nat
  /-- clk of the save -/
  since : Nat
  counters : List Counter
  /-- %block, and the record that every team of its block shares -/
  index : DWord
  shared : Option Nat
  record : List Byte
  /-- the team has executed DONE on the shared record -/
  done : Bool
  deriving DecidableEq, Repr

/-- A context (R85, R175, R176, R181, R211, R409). -/
structure Ctx where
  id : Nat
  part : Nat
  vroot : DWord := 0
  hb : DWord := 0
  hl : DWord := 0
  ho : DWord := 0
  heapEn : Bool := false
  heapErr : BitVec 4 := 0
  hvec : DWord := 0
  tlbiBusy : Bool := false
  tlbiScope : BitVec 2 := 0
  tlbiVa : DWord := 0
  /-- scope and address of the invalidation in progress -/
  tlbiPend : Option (Bool × Nat) := none
  pmc : Map DWord := []
  pmcsel : Map DWord := []
  smpEn : Bool := false
  smpSize : BitVec 5 := 0
  smpPeriod : BitVec 16 := 0x1000
  smpBase : DWord := 0
  smpRd : DWord := 0
  smpWr : DWord := 0
  smpDropped : BitVec 32 := 0
  /-- last slot sampled on each core (R74); absent means 15 -/
  smpSlot : Map Nat := []
  smpHalf : Map Nat := []
  deriving DecidableEq, Repr

/-- A cached complete translation (R180). -/
structure Tlb where
  cluster : Nat
  /-- the core whose own cache holds it; none for the cluster's -/
  core : Option Nat := none
  ctx : Nat
  part : Nat
  /-- first VA and length of the range that the entry covers -/
  va : Nat
  len : Nat
  pa : Nat
  gpa : Nat
  /-- flags of the guest-stage and G-stage leaves, bits [7:0] of the entries -/
  gflags : BitVec 8
  hflags : BitVec 8
  pbmt : Nat
  /-- tables that valid non-leaf entries of the guest stage led to, by level (R180) -/
  path : List (Nat × Nat) := []
  /-- the same of the G-stage walk of the page's address -/
  gpath : List (Nat × Nat) := []
  deriving DecidableEq, Repr

/-- A HOME or STREAM store that its home has not performed yet (R195). -/
structure StoreEnt where
  tid : Nat
  core : Nat
  part : Nat
  chip : Bool
  pa : Nat
  bytes : List Byte
  /-- instructions that the team had issued before it -/
  seq : Nat := 0
  /-- to a page of type IO (R179) -/
  io : Bool := false
  deriving DecidableEq, Repr

/-- A HOME or STREAM load of a lane that its home has not performed yet (R197): what it is to read there. -/
structure LoadEnt where
  tid : Nat
  core : Nat
  part : Nat
  /-- instructions that the team had issued before it -/
  seq : Nat
  lane : Nat
  /-- pieces of the load: chip scratchpad or memory, address, bytes -/
  pieces : List (Bool × Nat × Nat)
  /-- the value, once it is performed -/
  val : Option Nat
  /-- a later write of the team has been performed before it (R196, R197) -/
  passed : Bool := false
  deriving DecidableEq, Repr

/-- A word's last writer as its home keeps it for AWAITV (R221). -/
structure Writer where
  chip : Bool
  pa : Nat
  ctx : Nat
  deriving DecidableEq, Repr

/-- A Swevis port (R23 to R26). DESIGN CHOICE (log 109): the first SEQ that it sends and expects, and that SEQ and ACK go on
through a retraining. -/
structure Port where
  state : BitVec 4 := 1
  lanes : BitVec 4 := 0
  retrains : BitVec 8 := 0
  crcErr : BitVec 8 := 0
  retryLimit : BitVec 4 := 8
  enable : Bool := true
  /-- package times at which it entered DOWN in the last second (R25) -/
  downs : List Nat := []
  locked : Bool := false
  lockouts : BitVec 32 := 0
  /-- package at the other end -/
  neighbour : Option (BitVec 64) := none
  /-- package time at which it last stopped carrying traffic (R69) -/
  carried : Option Nat := none
  /-- next SEQ to send; flits sent and not acknowledged, oldest first; replays of the oldest -/
  txSeq : BitVec 8 := 0
  unacked : List (BitVec 256) := []
  replays : Nat := 0
  /-- flits not yet sent: KIND, VC and payload, oldest first -/
  waiting : List (BitVec 4 × BitVec 4 × BitVec 208) := []
  /-- highest SEQ received intact -/
  rxSeq : BitVec 8 := 0xFF
  /-- flits delivered: KIND, VC and payload, newest last -/
  delivered : List (BitVec 4 × BitVec 4 × BitVec 208) := []
  /-- flits delivered whose acknowledgement has not come to the sender, as far as this end knows: SEQ and body (R23, R26) -/
  fresh : List (BitVec 8 × BitVec 4 × BitVec 4 × BitVec 208) := []
  deriving DecidableEq, Repr

/-- A heartbeat neighbour (R68 to R70). -/
structure Neighbour where
  pkg : BitVec 64
  /-- public key that Sorrel has entered -/
  key : List Byte := []
  epoch : BitVec 64 := 0
  beat : BitVec 32 := 0
  missed : Nat := 0
  /-- highest nonce counter accepted in a reset request -/
  ctr : BitVec 64 := 0
  /-- package time of the last accepted reset request -/
  reset : Option Nat := none
  /-- package time from which the next beat is awaited, 0 before the first (R69) -/
  beatAt : Nat := 0
  deriving DecidableEq, Repr

/-- A firmware core with its windowed watchdog (R57, R61 to R63): 0 scheduler, 1 standby, 2 + c leaf c, 22 island. -/
structure FwCore where
  openUs : BitVec 16
  closeUs : BitVec 16
  /-- window written and not yet in force -/
  nextOpen : Option (BitVec 16) := none
  nextClose : Option (BitVec 16) := none
  trips : BitVec 8 := 0
  cause : BitVec 2 := 0
  /-- package time of the last kick or of the end of the last restart -/
  kicked : Nat := 0
  /-- package time from which it has run without a restart -/
  upSince : Nat := 0
  /-- package times of the trips of the last second -/
  tripTimes : List Nat := []
  restarting : Bool := false
  off : Bool := false
  /-- a restarted leaf sends nothing on its up link until its sender permits are all back (R58, R66) -/
  mute : Bool := false
  deriving DecidableEq, Repr

/-- A firmware command link (R58, R59). -/
structure Link where
  inbox : List LinkMsg := []
  permits : Nat := 16
  overrun : Bool := false
  deriving DecidableEq, Repr

/-- Ageing of a cluster (R76, R77). -/
structure Ageing where
  slow : BitVec 8 := 0
  guard_ : BitVec 8 := 0
  life : BitVec 16 := 0xFFFF
  deriving DecidableEq, Repr

/-- A submission entry that has been fetched, or a command that has started (R40 to R44). -/
structure Cmd where
  /-- place in the order of fetch -/
  idx : Nat
  /-- the 64 bytes; none for an entry that could not be fetched -/
  entry : List Byte
  /-- node of a command that has started (R54) -/
  target : Option Nat := none
  /-- records read when the command started and not yet enqueued (R43) -/
  recs : List (List Byte) := []
  /-- status of a command that ends early: a read that faulted, or a node that has retired (R42, R54) -/
  stop : Option (BitVec 15) := none
  /-- records enqueued -/
  sent : Nat := 0
  /-- records and joined descendants not yet retired -/
  live : Nat := 0
  /-- one of them was aborted or retired unlaunched -/
  bad : Bool := false
  deriving DecidableEq, Repr

/-- A completion that is due (R39). -/
structure Compl where
  idx : Nat
  cid : BitVec 16
  status : BitVec 15
  result : BitVec 32
  deriving DecidableEq, Repr

/-- A queue pair (R36 to R40). -/
structure Pair where
  sqBase : DWord := 0
  cqBase : DWord := 0
  /-- VECTOR, CQ_LOG and SQ_LOG of QCFG in their places -/
  cfg : BitVec 32 := 0
  /-- ENABLE -/
  enabled : Bool := false
  err : BitVec 4 := 0
  /-- STATE: 0 IDLE, 1 ACTIVE, 2 ERROR, 3 DRAINING -/
  state : BitVec 2 := 0
  sqTail : Nat := 0
  /-- entries announced and not yet fetched (R38) -/
  ahead : Nat := 0
  sqHead : Nat := 0
  cqHead : Nat := 0
  cqWrite : Nat := 0
  phase : Bool := true
  /-- entries fetched since reset -/
  count : Nat := 0
  /-- entries fetched and not yet started, oldest first -/
  fetched : List Cmd := []
  /-- commands started and not yet completed, oldest first -/
  flight : List Cmd := []
  /-- completions due and not yet written, oldest first -/
  due : List Compl := []
  deriving DecidableEq, Repr

/-- A PCIe function (R32 to R46). -/
structure Func where
  part : BitVec 8 := 0xFF
  resetting : Bool := false
  ready : Bool := true
  pairs : List (Nat × Pair) := []
  /-- vectors raised, oldest first -/
  msix : List Nat := []
  dropped : Nat := 0
  /-- nodes exported to it (R54) -/
  exported : List Nat := []
  /-- package time at which the reset began -/
  resetAt : Nat := 0
  /-- cancelled commands whose work may still run: pair, place in the order of fetch (R37, R45) -/
  cancelled : List (Nat × Nat) := []
  /-- bytes of the MSI-X table (R33) -/
  msixTab : Map Byte := []
  /-- MSI-X pending bits (R33) -/
  msixPend : BitVec 17 := 0
  deriving DecidableEq, Repr

/-- States of a resize (R88, R91). -/
inductive ResizeState where
  | idle | prepare | migrate | rehash | drain | release | scrub
  deriving DecidableEq, Repr

/-- A property of a flattened device tree: path of its node, name, value (R56). -/
structure DtProp where
  node : String
  prop : String
  value : Word
  deriving DecidableEq, Repr

/-- A hart of a guest system (R47): whether it is stopped, where and with which a1 it was started last, its timer and its pending
supervisor software interrupt. -/
structure Hart where
  stopped : Bool := true
  startAt : DWord := 0
  arg : DWord := 0
  timer : DWord := BitVec.allOnes 64
  soft : Bool := false
  deriving DecidableEq, Repr

/-- A partition (R81, R87 to R99, R175, R184). -/
structure Part where
  id : Nat
  live : Bool := false
  quotas : List (Nat × Quota) := []
  slices : BitVec 128 := 0
  groups : BitVec 32 := 0
  /-- staged targets of the resize registers -/
  tQuotas : List (Nat × Quota) := []
  tSlices : BitVec 128 := 0
  tGroups : BitVec 32 := 0
  migTmo : BitVec 4 := 6
  state : ResizeState := .idle
  err : BitVec 4 := 0
  done : Bool := false
  drnSrc : DWord := 0
  drnDst : DWord := 0
  drnBusy : Bool := false
  drnFault : Bool := false
  /-- acknowledgements still due: leaves in PREPARE, kinds of departing units in RELEASE (R91) -/
  acks : List Nat := []
  /-- slices held before REHASH, until RELEASE -/
  oldSlices : BitVec 128 := 0
  /-- slices whose sweep is not over -/
  sweep : List Nat := []
  units : List ScrubUnit := []
  /-- quotas held before RELEASE, until their units are scrubbed -/
  oldQuotas : List (Nat × Quota) := []
  phaseAt : Nat := 0
  /-- PART_RESIZE_REQ: number, target, state, result (R50, R53) -/
  rreq : BitVec 32 := 0
  /-- request that the running resize serves -/
  rrun : BitVec 32 := 0
  rdone : BitVec 32 := 0
  rresult : DWord := 0
  /-- core count and channel groups that the last accepted request asks for (R50) -/
  rask : DWord × DWord := (0, 0)
  groot : Nat := 0
  pool : Nat := 0
  ctxPage : Nat := 0
  nodeTab : Nat := 0
  /-- MEAS4: digest of the guest image -/
  meas : List Byte := []
  intake : Nat := 0
  /-- units that a resize releases, until its SCRUB ends (R90) -/
  freed : List ScrubUnit := []
  /-- G-stage entries whose W Sorrel has cleared for a page that is being copied: address, length of the page, former value
  (R97) -/
  drnPtes : List (Nat × Nat × DWord) := []
  /-- 4 KiB parts of larger pages that have been copied, as page numbers, until every part has (R97) -/
  drnParts : List (Nat × Nat) := []
  /-- guest pages that Sorrel provides, with the frames that back them (R53) -/
  own : List (Nat × Nat) := []
  /-- VS-mode start of the guest system: entry point, a0, a1 and the properties that its device tree carries (R56) -/
  entry : DWord := 0
  hart : DWord := 0
  treeAt : DWord := 0
  tree : List DtProp := []
  /-- PKGREG: where Sorrel has mapped the package register block, or 0 (R53) -/
  pkgReg : Nat := 0
  /-- the guest's harts by ID, as the SBI calls leave them (R47) -/
  harts : Map Hart := []
  /-- bytes written to the debug console, oldest first (R47) -/
  console : List Byte := []
  /-- type and reason of the last system reset that the guest has asked for (R47) -/
  sysReset : Option (Word × Word) := none
  deriving DecidableEq, Repr

/-- One rank's COLL on a group (R416). -/
structure CollInst where
  rank : Nat
  tid : Nat
  blk : Nat
  op : Nat
  part : Nat
  ctx : Nat
  kind : BitVec 2
  opn : BitVec 2
  ty : BitVec 4
  count : BitVec 32
  k : Nat
  dseg : BitVec 128
  sseg : BitVec 128
  doff : DWord
  soff : DWord
  /-- segment numbers of the operands -/
  dnum : Nat
  snum : Nat
  smode : Bool
  /-- which COLL of its rank on the group it is, counted from 0 (R416) -/
  n : Nat := 0
  deriving DecidableEq, Repr

/-- A collective group (R55). -/
structure Group where
  handle : BitVec 32
  part : Nat
  ranks : Nat
  /-- ranks of this package, as the callers listed them: package, context, partition by rank -/
  members : List (Nat × BitVec 64 × Nat)
  complete : Bool
  since : Nat
  /-- instances issued and not yet combined, oldest first -/
  insts : List CollInst
  /-- COLLs that each local rank has issued (R416) -/
  issued : Map Nat := []
  /-- every COLL of a lower number has ended: one that a slower rank still issues ends with LINK_LOST too (R31) -/
  lostTo : Nat := 0
  deriving DecidableEq, Repr

/-- Package-wide state outside the cores. -/
structure Pkg where
  powered : Bool := true
  booted : Bool := false
  recovery : Bool := false
  pkgW : BitVec 16 := 0
  tempMax : BitVec 8 := 0
  thermal : Bool := false
  fasttrip : Bool := false
  capped : Bool := false
  capW : BitVec 16 := 0x0A28
  floor : BitVec 2 := 0
  th : Map Nat := []
  /-- state decided and not yet in force, by die (R19) -/
  pend : Map Nat := []
  /-- held in TH3 by the 105 °C rule -/
  hot : List Nat := []
  /-- capped by ageing (R77) -/
  agedCap : List Nat := []
  /-- matrix step starts pause until this package time, by die (R18) -/
  pause : Map Nat := []
  /-- package time since which power is below 94 % of the cap -/
  lowSince : Option Nat := none
  /-- the island judges the cap again from this package time -/
  capWait : Nat := 0
  /-- moves up of fast-trips that wait for the restarting island, by die (R18, R63) -/
  fastWait : Map Nat := []
  /-- ns spent in each throttle state, key 4 × die + state (R20) -/
  residency : Map Nat := []
  hours : Nat := 0
  /-- health register 0x20 (R77) -/
  health : BitVec 6 := 0
  /-- the hardware fallback of R64 holds both dies at TH2 or above -/
  fallback : Bool := false
  /-- no core gives shares any more (R64) -/
  schedOff : Bool := false
  /-- clusters whose leaf is given up (R64) -/
  leafFailed : List Nat := []
  standbyActive : Bool := false
  ageing : Map Ageing := []
  ports : List (Nat × Port) := []
  hbEnable : Bool := false
  hbPeriod : BitVec 10 := 0x00A
  /-- HB_PERIOD that is in force since the last beat (R68) -/
  hbForce : BitVec 10 := 0x00A
  hbEpoch : BitVec 64 := 0
  hbBeat : BitVec 32 := 0
  nonceCtr : BitVec 64 := 0
  neighbours : List Neighbour := []
  /-- health events, newest last (R25, R64, R67, R70, R77, R99) -/
  events : List (Nat × Nat) := []
  /-- measurement registers 0 to 7 but 4 (R79) -/
  meas : Map (List Byte) := []
  fw : List (Nat × FwCore) := []
  links : List (Nat × Link) := []
  funcs : List (Nat × Func) := []
  /-- result registers of the last supervisor call: error, value, further values (R48) -/
  callErr : Int := 0
  callVals : List DWord := []
  /-- supervisor interrupts raised: partition, cause (R56) -/
  irqs : List (Nat × Nat) := []
  nextHandle : Nat := 0
  /-- QSEL (R88) -/
  qsel : BitVec 32 := 0
  /-- result of the last register read with an effect -/
  readVal : DWord := 0
  cowslip : Bool := false
  /-- flits received on a port that has left traffic, which its neighbour may replay on another: package and body (R26) -/
  replayed : List (BitVec 64 × BitVec 4 × BitVec 4 × BitVec 208) := []
  /-- 4 KiB pages of HBM5 that are retired from the free pool (R99) -/
  retired : List Nat := []
  /-- leaves that have placed in the present placement round (R117) -/
  roundDone : List Nat := []
  /-- VF Enable of the PF (R32, R46) -/
  vfEnable : Bool := false
  deriving DecidableEq, Repr

/-- The team that issues next (R142). -/
structure Sel where
  core : Nat := 0
  slot : Nat := 0
  half : Nat := 0
  /-- the half issues in the pass that its pair's other half has begun (R228) -/
  joint : Bool := false
  /-- conflict clk of the instruction that issues (R143) -/
  held : Nat := 0
  deriving DecidableEq, Repr

/-- A team as the sampling unit finds it: with its block, the offset that the record gives, and the reasons that its state allows
(R74). -/
structure Seen where
  team : Team
  blk : Block
  pc : CodeOff
  reasons : List Nat
  deriving DecidableEq, Repr

/-- The state of the part. -/
structure State where
  inputs : List Instr
  sel : Sel
  tick : Nat
  clk : Nat
  timeNs : Nat
  mem : List Host.Cell
  host : List Host.Cell
  chip : List Host.Cell
  storeQ : List StoreEnt
  loadQ : List LoadEnt
  remoteQ : List Remote
  writers : List Writer
  tlb : List Tlb
  /-- 4-byte words of HBM5, by address div 4, whose data a soft error has put beyond correction (R99, R207) -/
  poison : List Nat
  /-- such words of the chip scratchpad: 2^19 × slice + byte, div 4 -/
  chipPoison : List Nat
  /-- such words of the cores' scratchpads: core, byte div 4 -/
  spadPoison : List (Nat × Nat)
  /-- teams that have left their slots in the present clk, as they were (R427) -/
  left : List Seen
  cores : Map CoreSt
  teams : List Team
  blocks : List Block
  conts : List Cont
  nodes : List Node
  parts : List Part
  ctxs : List Ctx
  groups : List Group
  pkg : Pkg
  /-- next identifiers of teams, blocks, operations and gangs -/
  nextId : Nat
  deriving DecidableEq, Repr

/-- Why the machine stops. -/
inductive Fault where
  /-- The island removed package power (R18) and nothing runs until PACKAGE_POWER_ON. Raised by step; safe. -/
  | powerRemoved
  deriving DecidableEq, Repr

/-- Why a step has no meaning. -/
inductive Refusal where
  /-- An instruction whose meaning is not written. Raised by its arm of exec; safe. -/
  | notModelled (mnemonic : String)
  /-- A Lereb instruction is executed while no resident team is selected. Raised by exec; safe: on the part no such issue
  exists. -/
  | noTeam
  /-- A Lereb instruction stands in the list of events to come. Raised by step; safe: it is no input of the part. -/
  | badInput
  deriving DecidableEq, Repr

/-- The machine at reset: power applied, PACKAGE_POWER_ON not yet performed (R78). -/
def State.reset : State where
  inputs := []
  sel := {}
  tick := 0
  clk := 0
  timeNs := 0
  mem := []
  host := []
  chip := []
  storeQ := []
  loadQ := []
  remoteQ := []
  writers := []
  tlb := []
  poison := []
  chipPoison := []
  spadPoison := []
  left := []
  cores := []
  teams := []
  blocks := []
  conts := []
  nodes := []
  parts := []
  ctxs := []
  groups := []
  pkg := {}
  nextId := 1

end Sys2Proof.Machine
end

