-- ==== Sys2Proof/Machine/Maps.lean ====
section
/-! DEFINITION. Sparse arrays: the canonical form of memory, registers, cells and latches, and their operations. -/

namespace Sys2Proof.Machine

variable {β : Type}

/-- Entry `k` of a sparse array whose unlisted entries are `d`. -/
def mget (d : β) : Map β → Nat → β
  | [], _ => d
  | (j, x) :: r, k => if j = k then x else mget d r k

/-- Writes entry `k`; writing the default removes it. -/
def mset [DecidableEq β] (d : β) (m : Map β) (k : Nat) (x : β) : Map β :=
  m.filter (fun e => e.1 < k) ++ (if x = d then [] else [(k, x)]) ++ m.filter (fun e => k < e.1)

/-- Canonical form above a lower bound: keys rise from at least `lo` and no entry is the default. -/
def mwfFrom [DecidableEq β] (d : β) : Nat → Map β → Bool
  | _, [] => true
  | lo, (j, x) :: r => decide (lo ≤ j) && decide (x ≠ d) && mwfFrom d (j + 1) r

/-- Canonical form of a sparse array. -/
def mwf [DecidableEq β] (d : β) (m : Map β) : Bool := mwfFrom d 0 m

/-- Entries `lo` to `lo + n - 1`, counted from 0. -/
def mslice (m : Map β) (lo n : Nat) : Map β :=
  m.filterMap fun (k, x) => if lo ≤ k ∧ k < lo + n then some (k - lo, x) else none

/-- Replaces entries `lo` to `lo + n - 1` by those of `row`, whose keys lie below `n`. -/
def mput (m : Map β) (lo n : Nat) (row : Map β) : Map β :=
  m.filter (fun e => e.1 < lo) ++ row.map (fun e => (e.1 + lo, e.2)) ++ m.filter (fun e => lo + n ≤ e.1)

/-- Removes entries `lo` to `lo + n - 1`. -/
def mclear (m : Map β) (lo n : Nat) : Map β := mput m lo n []

/-- The sparse array of the values of `f` at 0 to `n - 1`. -/
def mrow [DecidableEq β] (d : β) (n : Nat) (f : Nat → β) : Map β :=
  (List.range n).filterMap fun k => let x := f k; if x = d then none else some (k, x)

/-- Writes successive entries from `k`. -/
def msetList [DecidableEq β] (d : β) (m : Map β) (k : Nat) : List β → Map β
  | [] => m
  | x :: xs => msetList d (mset d m k x) (k + 1) xs

/-- Reads `n` successive entries from `k`. -/
def mgetList (d : β) (m : Map β) (k n : Nat) : List β := (List.range n).map fun i => mget d m (k + i)

/-- Looks a key up in a list of pairs that need not be in canonical form. -/
def alookup (d : β) (l : List (Nat × β)) (k : Nat) : β := ((l.find? fun e => e.1 == k).map Prod.snd).getD d

/-- Replaces the value of a key of a list of pairs, or adds it at the end. -/
def aput (l : List (Nat × β)) (k : Nat) (x : β) : List (Nat × β) :=
  if l.any (fun e => e.1 == k) then l.map fun e => if e.1 == k then (k, x) else e else l ++ [(k, x)]

/-- Inserts behind every element that `le` puts in front of it. -/
def insertBy (le : β → β → Bool) (x : β) : List β → List β
  | [] => [x]
  | y :: ys => if le x y then x :: y :: ys else y :: insertBy le x ys

/-- A list in the order of `le`; elements that are equal in it keep their order. -/
def sortBy (le : β → β → Bool) : List β → List β
  | [] => []
  | x :: xs => insertBy le x (sortBy le xs)

/-- Natural numbers in ascending order. -/
def sortNat (l : List Nat) : List Nat := sortBy (fun a b => decide (a ≤ b)) l

/-- What a byte of memory that nothing has written reads as: DESIGN CHOICE (log 5). -/
def memDefault : Byte := 0

/-- The canonical form of a memory. -/
def Memory.wf (m : List Host.Cell) : Bool := mwf memDefault m

end Sys2Proof.Machine
end

