-- ==== Sys2Proof/Machine/Crypto.lean ====
section
/-! DEFINITION. The digests, signatures and check codes that the manual names: SHA-512 (R12, R41, R79), Ed25519 of RFC 8032
(R70, R78, R80), CRC-24 (R22) and CRC-32C (R65). -/

namespace Sys2Proof.Machine

/-- Round constants of SHA-512. -/
def shaK : List DWord :=
  [0x428A2F98D728AE22, 0x7137449123EF65CD, 0xB5C0FBCFEC4D3B2F, 0xE9B5DBA58189DBBC,
   0x3956C25BF348B538, 0x59F111F1B605D019, 0x923F82A4AF194F9B, 0xAB1C5ED5DA6D8118,
   0xD807AA98A3030242, 0x12835B0145706FBE, 0x243185BE4EE4B28C, 0x550C7DC3D5FFB4E2,
   0x72BE5D74F27B896F, 0x80DEB1FE3B1696B1, 0x9BDC06A725C71235, 0xC19BF174CF692694,
   0xE49B69C19EF14AD2, 0xEFBE4786384F25E3, 0x0FC19DC68B8CD5B5, 0x240CA1CC77AC9C65] ++
  [0x2DE92C6F592B0275, 0x4A7484AA6EA6E483, 0x5CB0A9DCBD41FBD4, 0x76F988DA831153B5,
   0x983E5152EE66DFAB, 0xA831C66D2DB43210, 0xB00327C898FB213F, 0xBF597FC7BEEF0EE4,
   0xC6E00BF33DA88FC2, 0xD5A79147930AA725, 0x06CA6351E003826F, 0x142929670A0E6E70,
   0x27B70A8546D22FFC, 0x2E1B21385C26C926, 0x4D2C6DFC5AC42AED, 0x53380D139D95B3DF,
   0x650A73548BAF63DE, 0x766A0ABB3C77B2A8, 0x81C2C92E47EDAEE6, 0x92722C851482353B] ++
  [0xA2BFE8A14CF10364, 0xA81A664BBC423001, 0xC24B8B70D0F89791, 0xC76C51A30654BE30,
   0xD192E819D6EF5218, 0xD69906245565A910, 0xF40E35855771202A, 0x106AA07032BBD1B8,
   0x19A4C116B8D2D0C8, 0x1E376C085141AB53, 0x2748774CDF8EEB99, 0x34B0BCB5E19B48A8,
   0x391C0CB3C5C95A63, 0x4ED8AA4AE3418ACB, 0x5B9CCA4F7763E373, 0x682E6FF3D6B2B8A3,
   0x748F82EE5DEFB2FC, 0x78A5636F43172F60, 0x84C87814A1F0AB72, 0x8CC702081A6439EC] ++
  [0x90BEFFFA23631E28, 0xA4506CEBDE82BDE9, 0xBEF9A3F7B2C67915, 0xC67178F2E372532B,
   0xCA273ECEEA26619C, 0xD186B8C721C0C207, 0xEADA7DD6CDE0EB1E, 0xF57D4F7FEE6ED178,
   0x06F067AA72176FBA, 0x0A637DC5A2C898A6, 0x113F9804BEF90DAE, 0x1B710B35131C471B,
   0x28DB77F523047D84, 0x32CAAB7B40C72493, 0x3C9EBE0A15C9BEBC, 0x431D67C49C100D4C,
   0x4CC5D4BECB3E42B6, 0x597F299CFC657E2A, 0x5FCB6FAB3AD6FAEC, 0x6C44198C4A475817]

/-- Initial digest of SHA-512. -/
def shaH : List DWord :=
  [0x6A09E667F3BCC908, 0xBB67AE8584CAA73B, 0x3C6EF372FE94F82B, 0xA54FF53A5F1D36F1,
   0x510E527FADE682D1, 0x9B05688C2B3E6C1F, 0x1F83D9ABFB41BD6B, 0x5BE0CD19137E2179]

/-- Right rotation of a 64-bit word. -/
def rotr (x : DWord) (n : Nat) : DWord := x.rotateRight n

/-- The message schedule, newest word first. -/
def shaSchedule : Nat → List DWord → List DWord
  | 0, w => w
  | n + 1, w =>
    let a := w.getD 14 0; let b := w.getD 1 0
    let s0 := rotr a 1 ^^^ rotr a 8 ^^^ (a >>> 7)
    let s1 := rotr b 19 ^^^ rotr b 61 ^^^ (b >>> 6)
    shaSchedule n ((w.getD 15 0 + s0 + w.getD 6 0 + s1) :: w)

/-- The eight working words of SHA-512. -/
structure Sha where
  a : DWord
  b : DWord
  c : DWord
  d : DWord
  e : DWord
  f : DWord
  g : DWord
  h : DWord
  deriving DecidableEq, Repr

/-- One round. -/
def Sha.round (x : Sha) (k w : DWord) : Sha :=
  let s1 := rotr x.e 14 ^^^ rotr x.e 18 ^^^ rotr x.e 41
  let ch := (x.e &&& x.f) ^^^ (~~~x.e &&& x.g)
  let t1 := x.h + s1 + ch + k + w
  let s0 := rotr x.a 28 ^^^ rotr x.a 34 ^^^ rotr x.a 39
  let mj := (x.a &&& x.b) ^^^ (x.a &&& x.c) ^^^ (x.b &&& x.c)
  { a := t1 + s0 + mj, b := x.a, c := x.b, d := x.c, e := x.d + t1, f := x.e, g := x.f, h := x.g }

/-- One block of 128 bytes. -/
def Sha.block (x : Sha) (bs : List Byte) : Sha :=
  let w := ((List.range 16).map fun i => BitVec.ofNat 64 (beNat ((bs.drop (8 * i)).take 8))).reverse
  let y := (shaK.zip (shaSchedule 64 w).reverse).foldl (fun (y : Sha) kw => y.round kw.1 kw.2) x
  { a := x.a + y.a, b := x.b + y.b, c := x.c + y.c, d := x.d + y.d, e := x.e + y.e, f := x.f + y.f, g := x.g + y.g,
    h := x.h + y.h }

/-- Blocks of a padded message. -/
def Sha.blocks (x : Sha) : Nat → List Byte → Sha
  | 0, _ => x
  | n + 1, bs => (x.block (bs.take 128)).blocks n (bs.drop 128)

/-- Big-endian bytes of a number. -/
def beBytes (n x : Nat) : List Byte := (leBytes n x).reverse

/-- SHA-512 of a message. -/
def sha512 (m : List Byte) : List Byte :=
  let z := (111 + 128 - m.length % 128) % 128
  let p := m ++ [0x80] ++ List.replicate z 0 ++ beBytes 16 (8 * m.length)
  let i (k : Nat) := shaH.getD k 0
  let x : Sha := { a := i 0, b := i 1, c := i 2, d := i 3, e := i 4, f := i 5, g := i 6, h := i 7 }
  let y := x.blocks (p.length / 128) p
  [y.a, y.b, y.c, y.d, y.e, y.f, y.g, y.h].flatMap fun w => beBytes 8 w.toNat

/-! ### Ed25519 (RFC 8032, pure) -/

/-- The field prime. -/
def edP : Nat := 2 ^ 255 - 19
/-- The group order. -/
def edL : Nat := 2 ^ 252 + 27742317777372353535851937790883648493

/-- x^n modulo the field prime, over the bits of `n` below `k`. -/
def edPow (x n : Nat) : Nat → Nat
  | 0 => 1
  | k + 1 =>
    let r := edPow (x * x % edP) (n / 2) k
    if n % 2 = 1 then x * r % edP else r
/-- Inverse in the field. -/
def edInv (x : Nat) : Nat := edPow x (edP - 2) 255
/-- The curve constant d. -/
def edD : Nat := (edP - 121665) * edInv 121666 % edP
/-- A square root of −1. -/
def edI : Nat := edPow 2 ((edP - 1) / 4) 255

/-- A point in extended coordinates. -/
structure EdPt where
  x : Nat
  y : Nat
  z : Nat
  t : Nat
  deriving DecidableEq, Repr

/-- The sum of two points. -/
def EdPt.add (p q : EdPt) : EdPt :=
  let a := (p.y + edP - p.x) * (q.y + edP - q.x) % edP
  let b := (p.y + p.x) * (q.y + q.x) % edP
  let c := 2 * p.t * q.t * edD % edP
  let d := 2 * p.z * q.z % edP
  let e := b + edP - a; let f := d + edP - c; let g := d + c; let h := b + a
  { x := e * f % edP, y := g * h % edP, z := f * g % edP, t := e * h % edP }

/-- Multiple of a point by the bits of `n` below `k`. -/
def EdPt.mul (p : EdPt) (n : Nat) : Nat → EdPt
  | 0 => { x := 0, y := 1, z := 1, t := 0 }
  | k + 1 =>
    let r := (p.add p).mul (n / 2) k
    if n % 2 = 1 then r.add p else r

/-- Square root of u / v in the field, when it exists. -/
def edRoot (u v : Nat) : Option Nat :=
  let v3 := v * v % edP * v % edP
  let v7 := v3 * v3 % edP * v % edP
  let x := u * v3 % edP * edPow (u * v7 % edP) ((edP - 5) / 8) 255 % edP
  if v * (x * x % edP) % edP = u % edP then some x
  else if v * (x * x % edP) % edP = (edP - u % edP) % edP then some (x * edI % edP) else none

/-- A point from its 32 bytes. -/
def edDecode (bs : List Byte) : Option EdPt :=
  let n := leNat bs
  let y := n % 2 ^ 255
  if bs.length ≠ 32 ∨ edP ≤ y then none
  else
    let yy := y * y % edP
    match edRoot ((yy + edP - 1) % edP) ((edD * yy + 1) % edP) with
    | none => none
    | some x =>
      let s := n / 2 ^ 255 % 2
      if x = 0 ∧ s = 1 then none
      else
        let x := if x % 2 = s then x else edP - x
        some { x := x, y := y, z := 1, t := x * y % edP }

/-- The 32 bytes of a point. -/
def EdPt.bytes (p : EdPt) : List Byte :=
  let i := edInv p.z
  leBytes 32 (p.y * i % edP + 2 ^ 255 * (p.x * i % edP % 2))

/-- The base point. -/
def edBase : EdPt := (edDecode (leBytes 32 (4 * edInv 5 % edP))).getD { x := 0, y := 1, z := 1, t := 0 }

/-- Scalar and prefix of a secret seed. -/
def edSecret (seed : List Byte) : Nat × List Byte :=
  let h := sha512 seed
  let a := leNat (h.take 32) % 2 ^ 254 / 8 * 8 + 2 ^ 254
  (a, h.drop 32)

/-- Public key of a secret seed. -/
def edPublic (seed : List Byte) : List Byte := (edBase.mul (edSecret seed).1 255).bytes

/-- Signature of a message under a secret seed. -/
def edSign (seed m : List Byte) : List Byte :=
  let (a, pre) := edSecret seed
  let r := leNat (sha512 (pre ++ m)) % edL
  let rb := (edBase.mul r 253).bytes
  let k := leNat (sha512 (rb ++ edPublic seed ++ m)) % edL
  rb ++ leBytes 32 ((r + k * a) % edL)

/-- Whether a signature of a message verifies under a public key (log 76). -/
def edVerify (key m sig : List Byte) : Bool :=
  let s := leNat (sig.drop 32)
  if sig.length ≠ 64 ∨ edL ≤ s then false
  else match edDecode key, edDecode (sig.take 32) with
    | some a, some r =>
      let k := leNat (sha512 (sig.take 32 ++ key ++ m)) % edL
      let p := edBase.mul (8 * s) 256
      let q := (r.mul 8 4).add (a.mul (8 * k) 256)
      p.x * q.z % edP == q.x * p.z % edP && p.y * q.z % edP == q.y * p.z % edP
    | _, _ => false

/-! ### Check codes -/

/-- CRC-24 over `n` bits of `x`, the highest first, from state `c` (R22). -/
def crc24 (x : Nat) : Nat → Nat → Nat
  | 0, c => c
  | n + 1, c =>
    let top := c.testBit 23 != x.testBit n
    let c := c * 2 % 2 ^ 24
    crc24 x n (if top then c ^^^ 0x864CFB else c)

/-- Check field of a flit: CRC-24 over its bits [255:24] (R22). -/
def flitCrc (f : BitVec 256) : Nat := crc24 (f.toNat / 2 ^ 24) 232 0xB704CE

/-- Eight steps of the reflected CRC-32C. -/
def crc32cByte : Nat → Nat → Nat
  | 0, c => c
  | k + 1, c => crc32cByte k (if c % 2 = 1 then c / 2 ^^^ 0x82F63B78 else c / 2)
/-- CRC-32C (R65). -/
def crc32c (bs : List Byte) : Nat :=
  (bs.foldl (fun c b => crc32cByte 8 (c ^^^ b.toNat)) 0xFFFFFFFF) ^^^ 0xFFFFFFFF

end Sys2Proof.Machine
end

