-- ==== Sys2Proof/Machine/Access.lean ====
section
/-! DEFINITION. Homes, caches, stores and translation (R82 to R86, R170 to R182, R192 to R205). -/

namespace Sys2Proof.Machine

/-! ### Parts of the state by number -/

/-- The arrays of core `n`. -/
def State.coreSt (s : State) (n : Nat) : CoreSt := mget {} s.cores n
/-- Replaces the arrays of core `n`. -/
def State.putCore (s : State) (n : Nat) (c : CoreSt) : State := { s with cores := mset {} s.cores n c }
/-- Words of a core's scratchpad are written anew: none of them has an error in it any more (log 105). -/
def State.cleanSpad (s : State) (n a len : Nat) : State :=
  if s.spadPoison.isEmpty then s
  else { s with spadPoison := s.spadPoison.filter fun x =>
    !(x.1 == n && decide (a < 4 * x.2 + 4) && decide (4 * x.2 < a + len)) }
/-- Writes bytes to a core's scratchpad. -/
def State.putSpad (s : State) (n a : Nat) (bs : List Byte) : State :=
  let c := s.coreSt n
  (s.putCore n { c with spad := msetList 0 c.spad a bs }).cleanSpad n a bs.length
/-- A partition by number. -/
def State.part (s : State) (n : Nat) : Part := (s.parts.find? fun p => p.id == n).getD { id := n }
/-- Replaces a partition, or adds it. -/
def State.putPart (s : State) (p : Part) : State :=
  { s with parts := if s.parts.any (fun q => q.id == p.id)
                    then s.parts.map fun q => if q.id == p.id then p else q else s.parts ++ [p] }
/-- A context by identifier. -/
def State.ctx (s : State) (n : Nat) : Ctx := (s.ctxs.find? fun c => c.id == n).getD { id := n, part := 0 }
/-- Replaces a context. -/
def State.putCtx (s : State) (c : Ctx) : State :=
  { s with ctxs := s.ctxs.map fun d => if d.id == c.id then c else d }
/-- Counts `n` events of code `ev` in the performance counters of a context that select it (R71). -/
def State.count (s : State) (ctx ev n : Nat) : State :=
  let c := s.ctx ctx
  match (List.range 8).filter fun k => (mget 0 c.pmcsel k).toNat % 256 == ev with
  | [] => s
  | ks => s.putCtx { c with pmc := ks.foldl (fun m k => mset 0 m k (mget 0 m k + BitVec.ofNat 64 n)) c.pmc }
/-- Replaces a team. -/
def State.putTeam (s : State) (t : Team) : State :=
  { s with teams := s.teams.map fun u => if u.tid == t.tid then t else u }
/-- A team by identifier. -/
def State.team? (s : State) (n : Nat) : Option Team := s.teams.find? fun t => t.tid == n
/-- A block by identifier. -/
def State.block? (s : State) (n : Nat) : Option Block := s.blocks.find? fun b => b.id == n
/-- Replaces a block. -/
def State.putBlock (s : State) (b : Block) : State :=
  { s with blocks := s.blocks.map fun c => if c.id == b.id then b else c }
/-- A node by number. -/
def State.node? (s : State) (n : Nat) : Option Node := s.nodes.find? fun x => x.num == n
/-- Replaces a node. -/
def State.putNode (s : State) (n : Node) : State :=
  { s with nodes := s.nodes.map fun x => if x.num == n.num then n else x }

/-! ### Barrier words (R139, R140) -/

/-- A barrier word (R139). -/
structure Bar where
  phase : Bool
  txb : Int
  expect : Nat
  pending : Nat
  init : Bool
  deriving DecidableEq, Repr

/-- Fields of the 64-bit word. -/
def Bar.ofNat (x : Nat) : Bar :=
  { phase := x.testBit 63, txb := sextInt 21 (bits x 62 42), expect := bits x 41 32, pending := bits x 31 22,
    init := x.testBit 21 }
/-- The 64-bit word. -/
def Bar.toNat (b : Bar) : Nat :=
  (if b.phase then 2 ^ 63 else 0) + wrapNat 21 b.txb * 2 ^ 42 + b.expect * 2 ^ 32 + b.pending * 2 ^ 22 +
    (if b.init then 2 ^ 21 else 0)

/-- After each event: a phase with nothing missing completes (R140). -/
def Bar.settle (b : Bar) : Bar :=
  if b.init && b.pending == 0 && b.txb == 0 then { b with phase := !b.phase, pending := b.expect } else b
/-- One arrival; none when PENDING is 0 (R140). -/
def Bar.arrive (b : Bar) : Option Bar :=
  if b.pending = 0 then none else some ({ b with pending := b.pending - 1 }).settle
/-- BART of `n` bytes; none when it is refused (R140, R360). -/
def Bar.announce (b : Bar) (n : Nat) : Option Bar :=
  if 2 ^ 20 ≤ n ∨ (2 ^ 20 : Int) ≤ b.txb + n then none else some ({ b with txb := b.txb + n }).settle
/-- Delivery of `n` bytes by an engine: the word, and whether the batch fails (R140). -/
def Bar.deliver (b : Bar) (n : Nat) : Bar × Bool :=
  if b.txb - n < -(2 ^ 20) then (({ b with txb := -(2 ^ 20) }).settle, true) else (({ b with txb := b.txb - n }).settle, false)
/-- BARI with `n` arrivals; none when it is refused (R360). -/
def Bar.start (b : Bar) (n : Nat) : Option Bar :=
  if n = 0 ∨ 1024 ≤ n ∨ (b.init ∧ (b.pending ≠ b.expect ∨ b.txb ≠ 0)) then none
  else some { phase := b.phase, txb := 0, expect := n, pending := n, init := true }

/-- Scratchpad address of a physical barrier word (R139). -/
def barAddr (n : Nat) : Nat := 0x5C100 + 8 * n
/-- Barrier word `n` of a core. -/
def State.bar (s : State) (core n : Nat) : Bar := .ofNat (leNat (mgetList 0 (s.coreSt core).spad (barAddr n) 8))
/-- Writes a barrier word. -/
def State.putBar (s : State) (core n : Nat) (b : Bar) : State := s.putSpad core (barAddr n) (leBytes 8 b.toNat)
/-- A word that an arrival from another core or an engine has reached: its waiters take the target end (R199, R200). -/
def State.markRemote (s : State) (core n : Nat) : State :=
  let c := s.coreSt core
  if c.remote.contains n then s else s.putCore core { c with remote := n :: c.remote }

/-! ### Remote writes of a gang on their way (R220) -/

/-- A BARX arrival or a cluster-shared store leaves its member. -/
def State.sendRemote (s : State) (r : Remote) : State := { s with remoteQ := s.remoteQ ++ [r] }

/-- Applies a remote write at its receiver. An arrival that finds PENDING 0 changes nothing. -/
def State.applyRemote (s : State) (r : Remote) : State :=
  match s.block? r.dst with
  | none => s
  | some m =>
    match r.bar with
    | some k =>
      match (s.bar m.core (m.bar0 + k)).arrive with
      | some b => (s.putBar m.core (m.bar0 + k) b).markRemote m.core (m.bar0 + k)
      | none => s
    | none => s.putSpad m.core (384 * m.row0 + r.addr) r.bytes

/-- Applies in order the remote writes that `sel` selects. -/
def State.flushRemote (s : State) (sel : Remote → Bool) : State :=
  match s.remoteQ with
  | [] => s
  | q => (q.filter sel).foldl State.applyRemote { s with remoteQ := q.filter fun r => !sel r }

/-- Applies the `n` oldest remote writes. -/
def State.landRemote (s : State) (n : Nat) : State :=
  match s.remoteQ with
  | [] => s
  | q => (q.take n).foldl State.applyRemote { s with remoteQ := q.drop n }

/-- Elements of a set given as bits. -/
def setBits (w : Nat) (x : Nat) : List Nat := (List.range w).filter fun i => x.testBit i

/-- Slices of a partition in ascending number (R83). -/
def Part.sliceList (p : Part) : List Nat := setBits 128 p.slices.toNat

/-- Home slice of a physical address (R83). -/
def homeSlice (slices : List Nat) (pa : Nat) : Nat :=
  let h := bits pa 20 7 ^^^ bits pa 34 21 ^^^ bits pa 47 35
  slices.getD (h % slices.length) 0

/-- Compute die of a core (R10). -/
def dieOfCore (core : Nat) : Nat := core / 80
/-- Compute die of a slice (R10). -/
def dieOfSlice (slice : Nat) : Nat := slice / 64

/-! ### The home of a byte -/

/-- First address of the host window (R174). -/
def hostBase : Nat := 0x4000_0000_0000

/-- A byte at its home: memory, the host window, or the chip scratchpad at 2^19 × slice + byte. -/
def State.homeByte (s : State) (chip : Bool) (a : Nat) : Byte :=
  if chip then mget memDefault s.chip a
  else if hostBase ≤ a then mget memDefault s.host (a - hostBase) else mget memDefault s.mem a

/-- Writes a byte at its home. New data has no error in it (log 105). -/
def State.setHomeByte (s : State) (chip : Bool) (a : Nat) (b : Byte) : State :=
  if chip then { s with chip := mset memDefault s.chip a b, chipPoison := s.chipPoison.filter (· != a / 4) }
  else if hostBase ≤ a then { s with host := mset memDefault s.host (a - hostBase) b }
  else { s with mem := mset memDefault s.mem a b, poison := s.poison.filter (· != a / 4) }

/-- Reads `n` bytes at their home (log 42). -/
def State.homeRead (s : State) (chip : Bool) (a n : Nat) : List Byte :=
  (List.range n).map fun i => s.homeByte chip (a + i)

/-- Writes bytes at their home. -/
def State.homeWrite (s : State) (chip : Bool) (a : Nat) : List Byte → State
  | [] => s
  | b :: bs => (s.setHomeByte chip a b).homeWrite chip (a + 1) bs

/-- The word's last writer, kept by its home (R221). -/
def State.noteWriter (s : State) (chip : Bool) (a ctx : Nat) : State :=
  let w := a / 4 * 4
  { s with writers := { chip := chip, pa := w, ctx := ctx } ::
      s.writers.filter fun x => !(x.chip == chip && x.pa == w) }

/-! ### L1 (R86, R125, R198, R199) -/

/-- Writes a line's dirty bytes to its home. -/
def State.writeBack (s : State) (l : Line) : State :=
  (setBits 128 l.dirty.toNat).foldl (fun s i =>
    (s.setHomeByte l.chip (128 * l.line + i) (mget memDefault l.data i)).noteWriter l.chip (128 * l.line + i) l.ctx) s

/-- Writes back the lines of a core that `wb` selects and drops those that `drop` selects. -/
def State.sweepL1 (s : State) (core : Nat) (wb drop : Line → Bool) (f : Line → Line) : State :=
  let ls := (s.coreSt core).l1
  let s := (ls.filter wb).foldl State.writeBack s
  let ls := (ls.filter fun l => !drop l).map fun l => if wb l then f { l with dirty := 0 } else l
  let c := s.coreSt core
  s.putCore core { c with l1 := ls }

/-- Source end of an edge for a slot (R199); `priv` includes the lines of g14 (R201). -/
def State.sourceEnd (s : State) (core slot : Nat) (priv : Bool) : State :=
  s.sweepL1 core (fun l => l.slots.getLsbD slot && (priv || !l.priv)) (fun _ => false)
    fun l => { l with slots := l.slots &&& ~~~(1#16 <<< slot) }

/-- Target end of an edge for a context (R199). -/
def State.targetEnd (s : State) (core ctx : Nat) (priv : Bool) : State :=
  let sel (l : Line) := l.ctx == ctx && (priv || !l.priv)
  s.sweepL1 core sel sel id

/-- Writes back and drops the lines of a core that meet a byte range of the home space. -/
def State.evictRange (s : State) (core : Nat) (chip : Bool) (a n : Nat) : State :=
  let sel (l : Line) := l.chip == chip && decide (128 * l.line < a + n) && decide (a < 128 * l.line + 128)
  s.sweepL1 core sel sel id

/-- Whether a line holds an address for a context. -/
def Line.holds (l : Line) (ctx : Nat) (chip : Bool) (a : Nat) : Bool :=
  l.ctx == ctx && l.chip == chip && l.line == a / 128

/-- Set of a line in L1: 1,024 sets, named by the low bits of the line address (R125) (log 101). -/
def Line.set (l : Line) : Nat := l.line % 1024

/-- Makes room in a set that holds 8 lines: one of them goes home and is dropped (R125, R198) (log 101). -/
def State.roomL1 (s : State) (core set : Nat) : State :=
  let ls := (s.coreSt core).l1.filter fun l => l.set == set
  if ls.length < 8 then s
  else
    match ls[Config.l1Victim s.tick set % ls.length]? with
    | some v => s.sweepL1 core (· == v) (· == v) id
    | none => s

/-- Brings the line of an address into L1 for a context, unless it is there (R86) (log 52); L1_MISS counts it (R71). -/
def State.fillL1 (s : State) (core ctx : Nat) (chip : Bool) (a : Nat) (priv : Bool) : State :=
  if (s.coreSt core).l1.any (·.holds ctx chip a) then s
  else
    let s := ((s.evictRange core chip (a / 128 * 128) 128).roomL1 core (a / 128 % 1024)).count ctx 6 1
    let base := a / 128 * 128
    let data : Map Byte :=
      if chip then mslice s.chip base 128
      else if hostBase ≤ base then mslice s.host (base - hostBase) 128 else mslice s.mem base 128
    let c := s.coreSt core
    s.putCore core { c with l1 := c.l1 ++ [{ ctx := ctx, chip := chip, line := a / 128, data := data, dirty := 0,
                                             slots := 0, priv := priv }] }

/-- Bytes of a DEF read inside one line. -/
def State.defRead (s : State) (core ctx : Nat) (chip : Bool) (a n : Nat) (priv : Bool) : State × List Byte :=
  let s := s.fillL1 core ctx chip a priv
  let l := (s.coreSt core).l1.find? (·.holds ctx chip a)
  (s, (List.range n).map fun i => mget memDefault ((l.map Line.data).getD []) (a % 128 + i))

/-- A DEF write inside one line, marked by the slot (R198, R199). -/
def State.defWrite (s : State) (core slot ctx : Nat) (chip : Bool) (a : Nat) (bs : List Byte) (priv : Bool) : State :=
  let s := s.fillL1 core ctx chip a priv
  let c := s.coreSt core
  let up (l : Line) : Line :=
    if l.holds ctx chip a then
      { l with data := msetList memDefault l.data (a % 128) bs,
               dirty := l.dirty ||| ((BitVec.ofNat 128 (2 ^ bs.length - 1)) <<< (a % 128)),
               slots := l.slots ||| (1#16 <<< slot) }
    else l
  s.putCore core { c with l1 := c.l1.map up }

/-! ### HOME and STREAM accesses on their way (R194, R195, R197) -/

/-- A range of the home space that an access reads or writes: chip scratchpad or memory, address, bytes. -/
abbrev HomeRange := Bool × Nat × Nat

/-- Whether two ranges meet one 128-byte line. -/
def meetLine (x y : HomeRange) : Bool :=
  x.1 == y.1 && decide (x.2.1 / 128 ≤ (y.2.1 + y.2.2) / 128) && decide (y.2.1 / 128 ≤ (x.2.1 + x.2.2) / 128)

/-- Whether the home of a range lies on the other compute die than a core (R10, R83, R197); host memory lies on none. -/
def State.farHome (s : State) (part core : Nat) (x : HomeRange) : Bool :=
  if x.1 then dieOfSlice (x.2.1 / 524288) != dieOfCore core
  else decide (x.2.1 < 0x80_0000_0000) && dieOfSlice (homeSlice (s.part part).sliceList x.2.1) != dieOfCore core

/-- Whether two accesses of a team keep their order at their homes: they meet, or neither home is on the other die (R194,
R197). A read may still pass an earlier write where no word is shared. -/
def State.inOrder (s : State) (part core : Nat) (x y : HomeRange) : Bool :=
  meetLine x y || !(s.farHome part core x || s.farHome part core y)

/-- Range of a store on its way. -/
def StoreEnt.range (e : StoreEnt) : HomeRange := (e.chip, e.pa, e.bytes.length)

/-- Whether a team's store stays behind an earlier one of its own (R179, R197). -/
def State.storeAfter (s : State) (a b : StoreEnt) : Bool :=
  a.tid == b.tid && (a.io || b.io || s.inOrder b.part b.core a.range b.range)

/-- What a load on its way reads at its home now. -/
def State.loadNow (s : State) (e : LoadEnt) : Nat :=
  leNat (e.pieces.flatMap fun (x : HomeRange) => s.homeRead x.1 x.2.1 x.2.2)

/-- A write of a team has been performed: its loads that come before it and are still on their way have been passed. -/
def State.passLoads (s : State) (tid seq : Nat) : State :=
  if s.loadQ.isEmpty then s
  else { s with loadQ := s.loadQ.map fun e =>
    if e.tid == tid && decide (e.seq < seq) && e.val.isNone then { e with passed := true } else e }

/-- Performs at their homes the loads on their way that `sel` selects: their values are those of this moment. -/
def State.readLoads (s : State) (sel : LoadEnt → Bool) : State :=
  if s.loadQ.any fun e => e.val.isNone && sel e then
    { s with loadQ := s.loadQ.map fun e => if e.val.isNone && sel e then { e with val := some (s.loadNow e) } else e }
  else s

/-- The ranges of a team's loads on their way that must be performed before an access with ranges `xs`: those in order with
it, and those in order with them. `es` lists the loads, latest first. -/
def State.loadsBefore (s : State) (xs : List HomeRange) : List LoadEnt → List HomeRange
  | [] => xs
  | e :: es =>
    if e.pieces.any fun x => xs.any fun y => s.inOrder e.part e.core x y then s.loadsBefore (xs ++ e.pieces) es
    else s.loadsBefore xs es

/-- Performs a team's loads on their way that come before the access `seq` with ranges `xs` and keep their order with it
(R194, R197). -/
def State.settleLoads (s : State) (tid seq : Nat) (xs : List HomeRange) : State :=
  let es := s.loadQ.filter fun e => e.tid == tid && decide (e.seq < seq) && e.val.isNone
  if es.isEmpty then s
  else
    let ys := s.loadsBefore xs es.reverse
    s.readLoads fun e => e.tid == tid && decide (e.seq < seq) &&
      e.pieces.any fun x => ys.any fun y => s.inOrder e.part e.core x y

/-- Performs the loads on their way that a later write of their team has passed. A DEF access comes after them, whoever makes
it: no cycle of po and rf may go through it (R196). -/
def State.settlePassed (s : State) : State := s.readLoads LoadEnt.passed

/-- Performs a store at its home, after the team's own accesses that it must not pass: loads, and remote writes on their way where
its home is on the team's die (R197). The line of it in the issuing core takes the bytes too. -/
def State.perform (s : State) (e : StoreEnt) (ctx : Nat) : State :=
  let s := if e.io then s.readLoads fun x => x.tid == e.tid && decide (x.seq < e.seq) else s.settleLoads e.tid e.seq [e.range]
  let s := if s.farHome e.part e.core e.range && !e.io then s else s.flushRemote fun r => r.tid == e.tid
  let s := ((s.homeWrite e.chip e.pa e.bytes).noteWriter e.chip e.pa ctx).passLoads e.tid e.seq
  let c := s.coreSt e.core
  let up (l : Line) : Line :=
    if l.chip == e.chip && l.line == e.pa / 128 then
      { l with data := msetList memDefault l.data (e.pa % 128) e.bytes,
               dirty := l.dirty &&& ~~~((BitVec.ofNat 128 (2 ^ e.bytes.length - 1)) <<< (e.pa % 128)) }
    else l
  if c.l1.isEmpty then s else s.putCore e.core { c with l1 := c.l1.map up }

/-- Performs every waiting store that `sel` selects, in order. -/
def State.flushStores (s : State) (ctx : Nat) (sel : StoreEnt → Bool) : State :=
  let go := s.storeQ.filter sel
  if go.isEmpty then s
  else go.foldl (fun s e => s.perform e ctx) { s with storeQ := s.storeQ.filter fun e => !sel e }

/-- Performs a team's waiting stores when one of them meets the line of an access (R193: they are its ancestors). -/
def State.settle (s : State) (tid ctx : Nat) (chip : Bool) (a n : Nat) : State :=
  if s.storeQ.any (fun e => e.tid == tid && meetLine e.range (chip, a, n)) then s.flushStores ctx fun e => e.tid == tid
  else s

/-- Everything of a team that is on its way is performed: its stores, its loads and its remote writes. -/
def State.flushTeam (s : State) (tid ctx : Nat) : State :=
  ((s.readLoads fun e => e.tid == tid).flushStores ctx fun e => e.tid == tid).flushRemote fun r => r.tid == tid

/-- The loads of teams that `sel` selects are no longer awaited. -/
def State.dropLoads (s : State) (sel : Nat → Bool) : State := { s with loadQ := s.loadQ.filter fun e => !sel e.tid }

/-- Before an access of a team that is performed at once: its stores and loads on their way that keep their order with it, or
all of them (`.pub`, `.obt` and IO accesses pass nothing, R179, R197). -/
def State.precede (s : State) (tid seq ctx part core : Nat) (all : Bool) (xs : List HomeRange) : State :=
  let own (e : StoreEnt) : Bool := e.tid == tid
  if all then s.flushTeam tid ctx
  else
    let s := s.settleLoads tid seq xs
    let s := if s.storeQ.any fun e => own e && (e.io || xs.any fun x => s.inOrder part core e.range x)
      then s.flushStores ctx own else s
    let s := if xs.all fun x => s.farHome part core x then s else s.flushRemote fun r => r.tid == tid
    s.passLoads tid seq

/-- Source end of a team's edge: what its slot marked in L1 and its accesses on their way reach the home (R199). -/
def State.sourceOf (s : State) (tid core slot ctx : Nat) (priv : Bool) : State :=
  (s.sourceEnd core slot priv).flushTeam tid ctx

/-- An arrival at a barrier whose waiters are teams of the same core: neither end is taken (R199), yet what the team wrote
precedes what the waiters read (R193). Its accesses on their way are performed, and its dirty lines count as those of every
slot of the block, so that a later source end of a waiter carries them on (R200) (log 103). -/
def State.localArrival (s : State) (tid core slot ctx : Nat) (slots : BitVec 16) : State :=
  let s := s.flushTeam tid ctx
  let c := s.coreSt core
  if c.l1.any fun l => l.slots.getLsbD slot then
    s.putCore core { c with l1 := c.l1.map fun l => if l.slots.getLsbD slot then { l with slots := l.slots ||| slots } else l }
  else s

/-! ### Translation (R174 to R181) -/

/-- A failed check of an access, with what the fault record takes from it (R183). -/
structure MFault where
  cause : Cause
  va : Nat := 0
  gpa : Nat := 0
  gstage : Bool := false
  walk : Bool := false
  pbmt : Nat := 0
  deriving DecidableEq, Repr

/-- Whether an address lies in a mapped range of R174. -/
def physMapped (pa : Nat) : Bool :=
  pa < 0x80_0000_0000 || (hostBase ≤ pa && pa < 0x8000_0000_0000) ||
    (0xFFF0_0000_0000 ≤ pa && pa < 0xFFF0_0100_0000)

/-- Requester ID of a partition's accesses through the host window: the lowest-numbered function bound to it (R174). -/
def State.requester (s : State) (part : Nat) : Option Nat :=
  ((s.pkg.funcs.filter fun f => f.2.part.toNat == part).map Prod.fst).min?

/-- Partition and map check of a context's access to a physical address (R84, R174). -/
def State.physCheck (s : State) (part pa : Nat) : Option Cause :=
  if pa < 0x80_0000_0000 then
    if (s.part part).groups.getLsbD (bits pa 38 34) then none else some .partBounds
  else if hostBase ≤ pa ∧ pa < 0x8000_0000_0000 then
    if (s.requester part).isSome then none else some .accessFault
  else some .accessFault

/-- A leaf of a walk: address of the page, its length, its flags and memory type. -/
structure Leaf where
  base : Nat
  len : Nat
  flags : BitVec 8
  pbmt : Nat
  deriving DecidableEq, Repr

/-- What a table entry says, read at one level (R178): none for a fault, else the next table or a leaf. -/
inductive Pte where
  | fault
  | table (a : Nat)
  | leaf (l : Leaf)
  deriving DecidableEq, Repr

/-- Interprets a table entry. Entries of the RISC-V formats; PRESUMED (log 15) for the reserved encodings that the RISC-V
privileged architecture itself gives: a misaligned superpage, and A, D, U or PBMT set in a pointer. -/
def readPte (pte level : Nat) : Pte :=
  let f := BitVec.ofNat 8 pte
  let pbmt := bits pte 62 61
  let ppn := bits pte 53 10
  let span := 2 ^ (9 * level)
  if !f.getLsbD 0 || (f.getLsbD 2 && !f.getLsbD 1) || bits pte 60 54 != 0 || pte.testBit 63 || pbmt == 3 then .fault
  else if f.getLsbD 1 || f.getLsbD 3 then
    if ppn % span != 0 then .fault
    else .leaf { base := 4096 * ppn, len := 4096 * span, flags := f, pbmt := pbmt }
  else if level == 0 || f.getLsbD 4 || f.getLsbD 6 || f.getLsbD 7 || pbmt != 0 then .fault
  else .table (4096 * ppn)

/-- Whether a leaf's flags grant an access (R178). `user`: the check is one of U-mode. -/
def flagsGrant (f : BitVec 8) (kind : AccKind) (user : Bool) : Bool :=
  let r := f.getLsbD 1; let w := f.getLsbD 2; let x := f.getLsbD 3; let u := f.getLsbD 4
  let a := f.getLsbD 6; let d := f.getLsbD 7
  let perm := match kind with
    | .read | .engRead | .walk => r
    | .write | .engWrite => w && d
    | .atomic => r && w && d
    | .fetch => x && (user || !u)
  perm && a && (!user || u)

/-- An 8-byte table entry, read as a HOME access (R178). -/
def State.pteAt (s : State) (a : Nat) : Nat := leNat (s.homeRead false a 8)

/-- The G-stage walk below a table at `level` (R178): the tables passed, by level, and the leaf; none is a fault of the
stage. -/
def State.walkGPath (s : State) (kind : AccKind) (gpa : Nat) : Nat → Nat → List (Nat × Nat) × Option Leaf
  | 0, table =>
    let a := table + 8 * bits gpa 20 12
    if physMapped a then
      match readPte (s.pteAt a) 0 with
      | .leaf l => ([], if flagsGrant l.flags kind true then some l else none)
      | _ => ([], none)
    else ([], none)
  | level + 1, table =>
    let lo := 12 + 9 * (level + 1)
    let idx := if level = 2 then bits gpa 49 39 else bits gpa (lo + 8) lo
    let a := table + 8 * idx
    if physMapped a then
      match readPte (s.pteAt a) (level + 1) with
      | .leaf l => ([], if flagsGrant l.flags kind true then some l else none)
      | .table t => let (p, l) := s.walkGPath kind gpa level t; ((level, t) :: p, l)
      | .fault => ([], none)
    else ([], none)

/-- The leaf of a G-stage walk. -/
def State.walkG (s : State) (kind : AccKind) (gpa level table : Nat) : Option Leaf := (s.walkGPath kind gpa level table).2

/-- The leaf of a guest page that Sorrel provides itself, such as the context page table, the node table and the pool area
(R53) (log 34): readable and writable data, but for a page that is being copied (R97) and those of the package register block,
which are read-only (R34). -/
def Part.ownLeaf (p : Part) (kind : AccKind) (gpa : Nat) : Option (Option Leaf) :=
  (p.own.find? fun x => x.1 == gpa / 4096).map fun x =>
    let flags : BitVec 8 := if (p.drnBusy && x.2 == p.drnSrc.toNat / 4096) || decide (0xFFF0_0000_0 ≤ x.2) then 0xD3 else 0xD7
    if flagsGrant flags kind true then some { base := 4096 * x.2, len := 4096, flags := flags, pbmt := 0 } else none

/-- G-stage walk of a guest physical address from a table at a level on: the tables passed and the leaf. -/
def State.gwalk (s : State) (part : Nat) (kind : AccKind) (gpa level table : Nat) : List (Nat × Nat) × Option Leaf :=
  match (s.part part).ownLeaf kind gpa with
  | some l => ([], l)
  | none => s.walkGPath kind gpa level table

/-- G-stage translation of a guest physical address. -/
def State.gstage (s : State) (part : Nat) (kind : AccKind) (gpa : Nat) : Option Leaf :=
  if gpa < 2 ^ 50 then (s.gwalk part kind gpa 3 (s.part part).groot).2 else none

/-- What a complete walk has found: the leaf of either stage, and the tables passed by level (R180). -/
structure Walk where
  leaf : Leaf
  gleaf : Leaf
  path : List (Nat × Nat)
  gpath : List (Nat × Nat)
  deriving DecidableEq, Repr

/-- Adds a table to the path of a walk. -/
def Walk.via (level t : Nat) : Except MFault Walk → Except MFault Walk
  | .ok w => .ok { w with path := (level, t) :: w.path }
  | .error f => .error f

/-- A complete walk of both stages below a guest table (R178). `gs` gives the table at which the G-stage walk of the page's
address starts. -/
def State.walkV (s : State) (part : Nat) (kind : AccKind) (user : Bool) (va : Nat) (gs : Nat → Nat × Nat) :
    Nat → Nat → Except MFault Walk
  | level, table =>
    let a := table + 8 * bits va (12 + 9 * level + 8) (12 + 9 * level)
    match s.gstage part .read a with
    | none => .error { cause := .guestPageFault, va := va, gpa := a, gstage := true, walk := true }
    | some g =>
      let pa := g.base + a % g.len
      if (s.physCheck part pa).isSome then .error { cause := .accessFault, va := va, walk := true }
      else
        match readPte (s.pteAt pa) level with
        | .fault => .error { cause := .pageFault, va := va }
        | .leaf l =>
          if !flagsGrant l.flags kind user then .error { cause := .pageFault, va := va, pbmt := l.pbmt }
          else
            let gpa := l.base + va % l.len
            let w := s.gwalk part kind gpa (gs gpa).1 (gs gpa).2
            match if gpa < 2 ^ 50 then w.2 else none with
            | none => .error { cause := .guestPageFault, va := va, gpa := gpa, gstage := true, pbmt := l.pbmt }
            | some g => .ok { leaf := l, gleaf := g, path := [], gpath := w.1 }
        | .table t =>
          match level with
          | 0 => .error { cause := .pageFault, va := va }
          | level' + 1 => Walk.via level' t (s.walkV part kind user va gs level' t)

/-- Who makes an access. -/
structure Who where
  tid : Nat
  core : Nat
  slot : Nat
  ctx : Nat
  part : Nat
  /-- checked as U-mode (R178) -/
  user : Bool
  /-- instructions that the team has issued before -/
  seq : Nat := 0
  deriving DecidableEq, Repr

/-- A translated address. -/
structure Phys where
  pa : Nat
  pbmt : Nat
  deriving DecidableEq, Repr

/-- Whether an access reads data, and so meets an uncorrectable error in it (R207, R210). -/
def AccKind.readsData : AccKind → Bool
  | .read | .atomic | .engRead => true
  | _ => false

/-- Whether every byte of a range of the home space is new data of the accessing team's core: written in its line of L1, or by a store
of the team on its way. -/
def State.ownData (s : State) (w : Who) (chip : Bool) (a n : Nat) : Bool :=
  let l := (s.coreSt w.core).l1.find? (·.holds w.ctx chip a)
  (List.range n).all fun i =>
    (l.any fun l => l.dirty.getLsbD ((a + i) % 128)) ||
      s.storeQ.any fun e => e.tid == w.tid && e.chip == chip && decide (e.pa ≤ a + i) && decide (a + i < e.pa + e.bytes.length)

/-- Whether an access reads data in which there is an uncorrectable error (R207, R210) (log 105). -/
def State.dataBad (s : State) (w : Who) (kind : AccKind) (chip : Bool) (a n : Nat) : Bool :=
  kind.readsData && (if chip then s.chipPoison else s.poison).any (fun k => decide (a < 4 * k + 4) && decide (4 * k < a + n)) &&
    !(kind != .engRead && s.ownData w chip a n)

/-- Checks of a translated address: the map, the partition and the page type (R84, R174, R179, R207). -/
def State.finalCheck (s : State) (w : Who) (kind : AccKind) (va : Nat) (p : Phys) : Except MFault Phys :=
  match if p.pa < 2 ^ 48 then s.physCheck w.part p.pa else some .accessFault with
  | some c => .error { cause := c, va := va, pbmt := p.pbmt }
  | none =>
    let plain := match kind with | .read | .write | .walk => true | _ => false
    if p.pbmt == 2 && !plain then .error { cause := .accessFault, va := va, pbmt := 2 }
    else .ok p

/-- A cached translation that covers an address for a context, in the cache of a core or of its cluster (R180). -/
def Tlb.covers (e : Tlb) (core ctx va : Nat) : Bool :=
  e.cluster == core / 8 && (e.core.isNone || e.core == some core) && e.ctx == ctx && decide (e.va ≤ va) &&
    decide (va < e.va + e.len)

/-- Tables of a path from which a walk of an address may start: those of the same region as the entry's own address. -/
def startsOf (path : List (Nat × Nat)) (own a top : Nat) : List (Nat × Nat) :=
  path.filter fun x => decide (x.1 < top) && own / 2 ^ (21 + 9 * x.1) == a / 2 ^ (21 + 9 * x.1)

/-- Where a walk of a virtual address starts: at the root, or at a table that a cached non-leaf entry gives (R180, log 102). -/
def State.startV (s : State) (core ctx va root : Nat) : Nat × Nat :=
  let opts := (3, root) :: (s.tlb.filter fun e => e.cluster == core / 8 && (e.core.isNone || e.core == some core) &&
    e.ctx == ctx).flatMap fun e => startsOf e.path e.va va 3
  opts.getD (Config.walkFrom s.tick % opts.length) (3, root)

/-- The same for the G-stage of a partition. -/
def State.startG (s : State) (core part gpa : Nat) : Nat × Nat :=
  let root := (s.part part).groot
  let opts := (3, root) :: (s.tlb.filter fun e => e.cluster == core / 8 && (e.core.isNone || e.core == some core) &&
    e.part == part).flatMap fun e => startsOf e.gpath e.gpa gpa 3
  opts.getD (Config.walkFrom (s.tick + 1) % opts.length) (3, root)

/-- Puts a translation in the cache of a core, 32 entries, and of its cluster, 2,048 entries (R180). -/
def State.cacheTlb (s : State) (core : Nat) (e : Tlb) : State :=
  let c := s.tlb.filter fun x => x.core == some core
  let k := s.tlb.filter fun x => x.core.isNone && x.cluster == core / 8
  let rest := s.tlb.filter fun x => !(x.core == some core) && !(x.core.isNone && x.cluster == core / 8)
  { s with tlb := { e with core := some core } :: c.take 31 ++ { e with core := none } :: k.take 2047 ++ rest }

/-- Translates a 48-bit virtual address (R177 to R180). -/
def State.translate (s : State) (w : Who) (kind : AccKind) (va : Nat) : State × Except MFault Phys :=
  let c := s.ctx w.ctx
  if kind != .fetch && c.heapEn && c.hb.toNat ≤ va && va < c.hb.toNat + c.hl.toNat then
    (s, s.finalCheck w kind va { pa := (va + c.ho.toNat) % 2 ^ 64, pbmt := 0 })
  else
    let hit := s.tlb.find? fun e => e.covers w.core w.ctx va &&
      flagsGrant e.gflags kind w.user && flagsGrant e.hflags kind true
    match hit with
    | some e => (s, s.finalCheck w kind va { pa := e.pa + (va - e.va), pbmt := e.pbmt })
    | none =>
      let from_ := s.startV w.core w.ctx va c.vroot.toNat
      let gs := s.startG w.core w.part
      let s := { s with tlb := s.tlb.filter fun e => !e.covers w.core w.ctx va }
      let fresh := s.walkV w.part kind w.user va (fun _ => (3, (s.part w.part).groot)) 3 c.vroot.toNat
      match match s.walkV w.part kind w.user va gs from_.1 from_.2 with | .ok x => Except.ok x | .error _ => fresh with
      | .error f => (s, .error f)
      | .ok x =>
        let l := x.leaf; let g := x.gleaf
        let gpa := l.base + va % l.len
        let len := Nat.min l.len g.len
        let pbmt := if l.pbmt == 0 then g.pbmt else l.pbmt
        let pa := g.base + gpa % g.len
        let e : Tlb := { cluster := w.core / 8, ctx := w.ctx, part := w.part, va := va - va % len, len := len,
                         pa := pa - va % len, gpa := gpa - va % len, gflags := l.flags, hflags := g.flags, pbmt := pbmt,
                         path := x.path, gpath := x.gpath }
        (s.cacheTlb w.core e, s.finalCheck w kind va { pa := pa, pbmt := pbmt })

/-! ### Accesses to a virtual address -/

/-- The pieces of an access: each lies in one aligned 4-byte word (R173, R189). -/
def pieces (a : Nat) : Nat → Nat → List (Nat × Nat)
  | 0, _ => []
  | fuel + 1, n => if n = 0 then [] else
      let k := Nat.min n (4 - a % 4)
      (a, k) :: pieces (a + k) fuel (n - k)

/-- Translates every piece of an access; the first failure is the access's, an error in the data read among them (R207). -/
def State.translateAll (s : State) (w : Who) (kind : AccKind) :
    List (Nat × Nat) → State × Except MFault (List (Phys × Nat))
  | [] => (s, .ok [])
  | (a, n) :: r =>
    match s.translate w kind (a % 2 ^ 48) with
    | (s, .error f) => (s, .error f)
    | (s, .ok p) =>
      if s.dataBad w kind false p.pa n then (s, .error { cause := .dataError, va := a % 2 ^ 48, pbmt := p.pbmt })
      else
        match s.translateAll w kind r with
        | (s, .error f) => (s, .error f)
        | (s, .ok ps) => (s, .ok ((p, n) :: ps))

/-- Whether an access of policy DEF may be kept in L1: plain memory of type PMA (R179, R198). -/
def Phys.cached (p : Phys) (pol : Nat) : Bool := pol == 0 && p.pbmt == 0 && p.pa < 0x80_0000_0000

/-- A read at the home that comes after a store to a page of type IO, or reads such a page, passes none of the team's own accesses
(R179, R197). -/
def State.settleIo (s : State) (w : Who) (io : Bool) : State :=
  if io then s.flushTeam w.tid w.ctx
  else if s.storeQ.any fun e => e.tid == w.tid && e.io then s.flushStores w.ctx fun e => e.tid == w.tid
  else s

/-- Reads one piece under a policy (R198). -/
def State.readPiece (s : State) (w : Who) (pol : Nat) (chip : Bool) (p : Phys) (n : Nat) (priv : Bool) :
    State × List Byte :=
  let s := s.settle w.tid w.ctx chip p.pa n
  if (if chip then pol == 0 else p.cached pol) then s.settlePassed.defRead w.core w.ctx chip p.pa n priv
  else
    let s := (s.settleIo w (!chip && p.pbmt == 2)).evictRange w.core chip p.pa n
    (s, s.homeRead chip p.pa n)

/-- Writes one piece under a policy (R195, R198). A DEF write comes after every load of the team (R196), another one after those
to its line. -/
def State.writePiece (s : State) (w : Who) (pol : Nat) (chip : Bool) (p : Phys) (bs : List Byte) (priv : Bool) : State :=
  let cached := if chip then pol == 0 else p.cached pol
  let s := s.readLoads fun e => e.tid == w.tid && (cached || e.pieces.any fun x => meetLine x (chip, p.pa, bs.length))
  if cached then
    (s.settlePassed.settle w.tid w.ctx chip p.pa bs.length).defWrite w.core w.slot w.ctx chip p.pa bs priv
  else { s with storeQ := s.storeQ ++
    [{ tid := w.tid, core := w.core, part := w.part, chip := chip, pa := p.pa, bytes := bs, seq := w.seq,
       io := !chip && p.pbmt == 2 }] }

/-- Reads translated pieces. -/
def State.readPieces (s : State) (w : Who) (pol : Nat) (chip priv : Bool) : List (Phys × Nat) → State × List Byte
  | [] => (s, [])
  | (p, n) :: r =>
    let (s, bs) := s.readPiece w pol chip p n priv
    let (s, cs) := s.readPieces w pol chip priv r
    (s, bs ++ cs)

/-- Writes translated pieces. -/
def State.writePieces (s : State) (w : Who) (pol : Nat) (chip priv : Bool) (bs : List Byte) :
    List (Phys × Nat) → State
  | [] => s
  | (p, n) :: r => (s.writePiece w pol chip p (bs.take n) priv).writePieces w pol chip priv (bs.drop n) r

/-- A plain read of `n` bytes of the context's virtual memory (R178 to R180, R193). -/
def State.readVa (s : State) (w : Who) (pol va n : Nat) : State × Except MFault (List Byte) :=
  match s.translateAll w .read (pieces va (n + 1) n) with
  | (s, .error f) => (s, .error f)
  | (s, .ok ps) => let (s, bs) := s.readPieces w pol false false ps; (s, .ok bs)

/-- An access of an engine, the sequencer or another unit at the home, never through L1 (R200). -/
def State.readHomeVa (s : State) (w : Who) (kind : AccKind) (va n : Nat) : State × Except MFault (List Byte) :=
  match s.translateAll w kind (pieces va (n + 1) n) with
  | (s, .error f) => (s, .error f)
  | (s, .ok ps) => (s, .ok (ps.flatMap fun (p, k) => s.homeRead false p.pa k))

/-- Writes translated pieces at the home at once. -/
def State.writeHomePieces (s : State) (ctx : Nat) (chip : Bool) (bs : List Byte) : List (Phys × Nat) → State
  | [] => s
  | (p, k) :: r =>
    ((s.homeWrite chip p.pa (bs.take k)).noteWriter chip p.pa ctx).writeHomePieces ctx chip (bs.drop k) r

/-- A write at the home by an engine or another unit. -/
def State.writeHomeVa (s : State) (w : Who) (kind : AccKind) (va : Nat) (bs : List Byte) : State × Option MFault :=
  match s.translateAll w kind (pieces va (bs.length + 1) bs.length) with
  | (s, .error f) => (s, some f)
  | (s, .ok ps) => (s.writeHomePieces w.ctx false bs ps, none)

/-! ### Writes of the device itself, such as those of frames (R119) -/

/-- Whether an address lies in a page that Sorrel has write-protected for its copy (R97). -/
def Part.inFlight (p : Part) (pa : Nat) : Bool :=
  p.drnPtes.any (fun y => let b := 4096 * bits y.2.2.toNat 53 10
    y.2.2.getLsbD 2 && decide (b ≤ pa) && decide (pa < b + y.2.1)) ||
    (p.drnBusy && pa / 4096 == p.drnSrc.toNat / 4096)

/-- Where a byte of memory stands: at its address, and in the copy of its page while a larger page is moved part by part. -/
def Part.copiesOf (p : Part) (pa : Nat) : List Nat :=
  pa :: (p.drnParts.filter fun x => x.1 == pa / 4096).map fun x => 4096 * x.2 + pa % 4096

/-- Places of a write that the device itself makes: it goes on in a page that is being copied (log 16). -/
def State.ownPlaces (s : State) (w : Who) : List (Nat × Nat) → State × Option (List Nat)
  | [] => (s, some [])
  | (a, n) :: r =>
    let (s, p) := match s.translate w .write (a % 2 ^ 48) with
      | (s, .ok p) => (s, some p)
      | (s, .error f) =>
        if f.cause = Cause.guestPageFault then
          match s.translate w .read (a % 2 ^ 48) with
          | (s, .ok p) => (s, if (s.part w.part).inFlight p.pa then some p else none)
          | (s, .error _) => (s, none)
        else (s, none)
    match p, s.ownPlaces w r with
    | some p, (s, some ps) => (s, some ((List.range n).map (p.pa + ·) ++ ps))
    | _, (s, _) => (s, none)

/-- A write of the device itself at the home; a failed translation writes nothing (log 16). -/
def State.ownWrite (s : State) (w : Who) (va : Nat) (bs : List Byte) : State :=
  match s.ownPlaces w (pieces va (bs.length + 1) bs.length) with
  | (s, none) => s
  | (s, some as) => (as.zip bs).foldl (fun (s : State) x =>
      ((s.part w.part).copiesOf x.1).foldl (fun (s : State) a => (s.setHomeByte false a x.2).noteWriter false a w.ctx) s) s

/-! ### Sorrel's accesses to guest memory, and the first-touch pool (R184) -/

/-- Physical address of a guest physical address for Sorrel's own accesses. -/
def State.gpa? (s : State) (part a : Nat) : Option Nat :=
  (s.gstage part .read a).bind fun l =>
    let pa := l.base + a % l.len
    if physMapped pa then some pa else none
/-- Bytes of guest memory as Sorrel reads them; none where an address does not translate. -/
def State.gpaRead (s : State) (part a n : Nat) : Option (List Byte) :=
  (List.range n).mapM fun i => (s.gpa? part (a + i)).map fun pa => s.homeByte false pa
/-- A little-endian field of the pool area. -/
def State.poolField (s : State) (p : Part) (off n : Nat) : Nat := ((s.gpaRead p.id (p.pool + off) n).map leNat).getD 0
/-- Whether the pool of a size code holds fewer entries than LOW. -/
def State.poolLow (s : State) (p : Part) (code : Nat) : Bool :=
  decide (s.poolField p (64 * code + 8) 8 - s.poolField p (64 * code) 8 < s.poolField p (64 * code + 0x18) 4)
/-- Sorrel raises POOL_LOW of a size code when FILL − TAKE falls below LOW; `s0` is the state before. -/
def State.watchPools (s : State) (s0 : State) (part : Nat) : State :=
  let p := s.part part
  let low := (List.range 3).filter fun k => s.poolLow p k && !s0.poolLow p k
  { s with pkg := { s.pkg with irqs := s.pkg.irqs ++ low.map fun k => (part, 0x300 + k) } }

end Sys2Proof.Machine
end

