-- ==== Sys2Proof/Machine/Operands.lean ====
section
/-! DEFINITION. Operands: registers, the handler window, latches, specials, constants and segments (R122, R131, R136, R171 to
R173, R273, R274, R320, R325), and what each instruction names. -/

namespace Sys2Proof.Machine

/-- A team at issue with its block. -/
structure Env where
  s : State
  t : Team
  b : Block
  /-- opcode of the instruction at issue -/
  op : Nat := 0
  deriving DecidableEq, Repr

/-- A block that no team has; it stands where a team's block is missing, which no reachable state has. -/
def Block.absent : Block :=
  { id := 0, node := 0, part := 0, ctx := 0, core := 0, index := 0, header := 0, segs := [], row0 := 0, rows := 0,
    saveRows := 0, rsRows := 0, bar0 := 0, tiles := [], gang := 0, gangN := 0, gangId := 0, rank := 0, nrank := 1,
    ncore := 0, launch := 0, reserved := [], shared := none, record := [], nteam := 1,
    roles := false, cont := false, draw := none, saved := none, mem0 := [], host0 := [] }

/-- Block of a team. -/
def State.blockOf (s : State) (t : Team) : Block := (s.block? t.blk).getD Block.absent

/-- The resident team of a slot. -/
def State.teamAt (s : State) (core slot half : Nat) : Option Team :=
  s.teams.find? fun t => t.resident && t.core == core && t.slot == slot && t.half == half

/-- The team that issues next. -/
def State.curTeam (s : State) : Option Team := s.teamAt s.sel.core s.sel.slot s.sel.half

/-- Lanes of a team, ascending. -/
def Team.laneList (t : Team) : List Nat := List.range t.lanes
/-- All lanes of a team. -/
def Team.all (t : Team) : Lanes := BitVec.ofNat 1024 (2 ^ t.lanes - 1)
/-- Mask words of a team, W (R122, R227). -/
def Team.words (t : Team) : Nat := ceilDiv t.lanes 32
/-- The set of the lanes for which `f` holds. -/
def Team.lanesOf (t : Team) (f : Nat → Bool) : Lanes :=
  BitVec.ofNat 1024 ((List.range t.lanes).foldl (fun a l => if f l then a + 2 ^ l else a) 0)
/-- Lanes of a set, ascending. -/
def Team.list (t : Team) (w : Lanes) : List Nat := (List.range t.lanes).filter fun l => w.getLsbD l
/-- Mask words that hold a lane of a set. -/
def Team.wordsOf (t : Team) (w : Lanes) : List Nat :=
  (List.range t.words).filter fun j => (w.toNat >>> (32 * j)) % 2 ^ 32 != 0

/-! ### Register files -/

/-- A predicate; p7 is always true (R271). -/
def Team.pred (t : Team) (p : Nat) : Lanes := if p = 7 then t.all else mget 0 t.preds p
/-- Writes a predicate in the lanes of `w`. -/
def Team.putPred (t : Team) (p : Nat) (w v : Lanes) : Team :=
  { t with preds := mset 0 t.preds p ((t.pred p &&& ~~~w) ||| (v &&& w)) }
/-- An s register (R131). -/
def Team.sreg (t : Team) (n : Nat) : DWord := mget 0 t.sregs n
/-- Writes an s register. -/
def Team.putS (t : Team) (n : Nat) (x : DWord) : Team := { t with sregs := mset 0 t.sregs n x }

/-- Where a vector register name leads in a handler: the window or the register itself (R136). -/
def Team.vname (t : Team) (r : Nat) : Nat ⊕ Nat :=
  match t.trap with
  | some tr =>
    if 248 ≤ r ∧ r < 256 then
      match tr.window with
      | .granules _ => .inl (r - 248)
      | .spill k => .inr (32 * k - 8 + (r - 248))
    else .inr r
  | none => .inr r

/-- The window's registers of case 1. -/
def Team.winRegs (t : Team) : Map Word :=
  match t.trap with
  | some tr => match tr.window with | .granules m => m | .spill _ => []
  | none => []

/-- Row of a vector register, by lane. -/
def Team.row (t : Team) (r : Nat) : Map Word :=
  match t.vname r with
  | .inl j => mslice t.winRegs (1024 * j) 1024
  | .inr r => mslice t.vregs (1024 * r) 1024

/-- A lane's vector register. -/
def Team.getV (t : Team) (r l : Nat) : Word :=
  match t.vname r with
  | .inl j => mget 0 t.winRegs (1024 * j + l)
  | .inr r => mget 0 t.vregs (1024 * r + l)

/-- Replaces the row of a vector register. -/
def Team.putRow (t : Team) (r : Nat) (row : Map Word) : Team :=
  match t.vname r with
  | .inl j =>
    match t.trap with
    | some tr => { t with trap := some { tr with window := .granules (mput t.winRegs (1024 * j) 1024 row) } }
    | none => t
  | .inr r => { t with vregs := mput t.vregs (1024 * r) 1024 row }

/-- Writes a vector register in the lanes of `w`. -/
def Team.putV (t : Team) (r : Nat) (w : Lanes) (f : Nat → Word) : Team :=
  let old := t.row r
  t.putRow r (mrow 0 1024 fun l => if w.getLsbD l && l < t.lanes then f l else mget 0 old l)

/-- Writes a run of registers, one function for each. -/
def Team.putRun (t : Team) (r : Nat) (w : Lanes) : List (Nat → Word) → Team
  | [] => t
  | f :: fs => (t.putV r w f).putRun (r + 1) w fs

/-- Writes a 64-bit result to a pair, the low word first (R320). -/
def Team.putPair (t : Team) (r : Nat) (w : Lanes) (f : Nat → DWord) : Team :=
  t.putRun r w [fun l => (f l).truncate 32, fun l => (f l >>> 32).truncate 32]

/-- A lane's value of latch b1 to b8. -/
def Team.latch (t : Team) (k l : Nat) : Word := mget 0 ((t.latches.getD (k - 1) none).getD []) l

/-! ### Operands -/

/-- The code's special in a lane (R274). -/
def Env.special (e : Env) (c l : Nat) : DWord :=
  let t := e.t; let b := e.b
  match c with
  | 0x120 => BitVec.ofNat 64 l
  | 0x121 => BitVec.ofNat 64 (l / 4)
  | 0x122 => BitVec.ofNat 64 t.num
  | 0x123 => b.index &&& 0xFFFF_FFFF
  | 0x124 => b.index >>> 32
  | 0x125 => BitVec.ofNat 64 b.gang
  | 0x126 => BitVec.ofNat 64 b.rank
  | 0x127 => BitVec.ofNat 64 b.nrank
  | 0x128 => BitVec.ofNat 64 b.ncore
  | 0x129 => (mget {} t.elems l).elem.zeroExtend 64
  | 0x12A => BitVec.ofNat 64 t.tier
  | 0x12C => BitVec.ofNat 64 (l / 32)
  | 0x12D => BitVec.ofNat 64 t.lanes
  | 0x12E => BitVec.ofNat 64 t.slot
  | 0x12F => BitVec.ofNat 64 t.core
  | _ => 0

/-- Value of an inline constant (R273). -/
def constVal (c : Nat) : Int := (c : Int) - 0x150

/-- A 32-bit operand in a lane (R273). -/
def Env.src32 (e : Env) (c l : Nat) : Word :=
  if c < 0x100 then e.t.getV c l
  else if isLatch c then e.t.latch (c - 0xFF) l
  else if isS c then (e.t.sreg (c - 0x108)).truncate 32
  else if isSpecial c then (e.special c l).truncate 32
  else if isConst c then BitVec.ofInt 32 (constVal c)
  else 0

/-- A 64-bit operand in a lane: a pair, an s register, a constant sign-extended, a special zero-extended (R320). -/
def Env.src64 (e : Env) (c l : Nat) : DWord :=
  if c < 0x100 then (e.t.getV (c + 1) l) ++ (e.t.getV c l)
  else if isS c then e.t.sreg (c - 0x108)
  else if isSpecial c then (e.special c l &&& 0xFFFF_FFFF)
  else if isConst c then BitVec.ofInt 64 (constVal c)
  else 0

/-- A 64-bit uniform operand: an s register or a constant. -/
def Env.uval (e : Env) (c : Nat) : DWord := e.src64 c 0

/-- The value that format M adds an offset to (R171). -/
def Env.addrVal (e : Env) (c l : Nat) : Int :=
  if c < 0x108 then ((e.src32 c l).toNat : Int)
  else if isS c then (e.t.sreg (c - 0x108)).toInt
  else if isConst c then constVal c
  else ((e.special c l).toNat : Int)

/-- An operand of format U (R278): s0 to s23, or 31 for zero. -/
def Env.uSrc (e : Env) (c : Nat) : DWord := if c = 31 then 0 else e.t.sreg c

/-- The team as it accesses memory (R178). -/
def Env.who (e : Env) : Who :=
  { tid := e.t.tid, core := e.t.core, slot := e.t.slot, ctx := e.b.ctx, part := e.b.part, user := e.t.trap.isNone,
    seq := e.t.issued }

/-! ### Guards and participants -/

/-- Lanes whose guard holds (R271). -/
def Team.guard (t : Team) (h : Hdr) : Lanes :=
  let p := t.pred h.gp.toNat
  if h.gn == 1 then ~~~p &&& t.all else p

/-- Active lanes whose guard holds. -/
def Team.act (t : Team) (h : Hdr) : Lanes := t.mask &&& t.guard h
/-- Active, non-helper lanes whose guard holds. -/
def Team.actNH (t : Team) (h : Hdr) : Lanes := t.act h &&& ~~~t.helper

/-! ### Segments (R171 to R173) -/

/-- BASE of a segment entry. -/
def segBase (g : BitVec 128) : Nat := bits g.toNat 47 0
/-- LIMIT of a segment entry. -/
def segLimit (g : BitVec 128) : Nat := bits g.toNat 111 64
/-- Reserved bits of a segment entry, or an end beyond the address space. -/
def segBad (g : BitVec 128) : Bool :=
  bits g.toNat 127 116 != 0 || bits g.toNat 63 48 != 0 || decide (segBase g + segLimit g > 2 ^ 48)

/-- Forms the virtual address of an access through a segment; none is SEG_LIMIT (R173). -/
def segAddr (g : BitVec 128) (k : Nat) (val off : Int) (size : Nat) (write fetch : Bool) : Option Nat :=
  let o := val * (2 ^ bits g.toNat 114 112 : Nat) + off
  let o := BitVec.toInt (BitVec.ofInt 64 o)
  if segBad g || decide (o < 0) || decide (o + size > segLimit g) || (k == 15 && !fetch) || (write && g.getLsbD 115)
  then none
  else some ((segBase g + o.toNat) % 2 ^ 48)

/-- Segment `k` of a block. -/
def Block.seg (b : Block) (k : Nat) : BitVec 128 := b.segs.getD k 0

/-- Block-relative byte to scratchpad byte of the core (R126, R171). -/
def Block.spadAddr (b : Block) (a : Nat) : Nat := 384 * b.row0 + a

/-- Header fields (R254). -/
def Block.fore (b : Block) : Bool := b.header.getLsbD 55
/-- RATEPROG. -/
def Block.ratep (b : Block) : Bool := b.header.getLsbD 53
/-- LIVE, the await-live count. -/
def Block.live (b : Block) : Nat := bits b.header.toNat 47 40
/-- ROWS. -/
def hdrRows (h : DWord) : Nat := bits h.toNat 31 16
/-- SAVEROWS. -/
def hdrSave (h : DWord) : Nat := bits h.toNat 39 32
/-- BASECH. -/
def hdrBase (h : DWord) : Nat := bits h.toNat 52 48
/-- Team lanes. -/
def hdrLanes (h : DWord) : Nat := 16 * bits h.toNat 15 0

/-! ### What an instruction names -/

/-- Channels of a colour format (R187). -/
def fmtChannels (f : Nat) : Nat :=
  match f with
  | 1 | 5 | 8 | 0x0C | 0x10 => 1
  | 2 | 6 | 9 => 2
  | _ => 4

/-- Bytes of a texel or sample (R187); 0 for an unknown code. -/
def fmtBytes (f : Nat) : Nat :=
  match f with
  | 1 | 0x0C => 1
  | 2 | 5 => 2
  | 3 | 6 | 8 | 0x10 => 4
  | 7 | 9 | 0x0B => 8
  | 0x0A => 16
  | _ => 0

/-- Little-endian field of a record. -/
def fieldOf (bs : List Byte) (off n : Nat) : Nat := leNat ((bs.drop off).take n)

/-- Run length of RTW and RTR (R350). -/
def Block.rtRun (b : Block) : Nat :=
  match b.draw with
  | some d => if fieldOf d.target 0 8 = 0 then 4 else fmtChannels (fieldOf d.target 0x1C 1)
  | none => 4

/-- Registers of a source: v registers, s registers (from 1024) and predicates (from 2048). -/
def srcRegs (k : Src) (c : Nat) : List Nat :=
  let many (n : Nat) := (List.range n).map (c + ·)
  match k with
  | .unused | .tile => []
  | .pred => if c < 7 then [2048 + c] else []
  | .run m => many m
  | .pair => if c < 0x100 then many 2 else if isS c then [1024 + (c - 0x108)] else []
  | .value m => if c < 0x100 then many m else if isS c then [1024 + (c - 0x108)] else []
  | _ => if c < 0x100 then [c] else if isS c then [1024 + (c - 0x108)] else []

/-- Registers of a destination. -/
def dstRegs (k : Dst) (d : Nat) : List Nat :=
  match k with
  | .vec n | .vecNoLatch n => (List.range n).map (d + ·)
  | .sreg => [1024 + d]
  | .pred => [2048 + d]
  | _ => []

/-- Registers that an instruction reads. -/
def regsRead (i : Instr) (rt : Nat) : List Nat :=
  let g := i.hdr.gp.toNat
  let guard := if g < 7 then [2048 + g] else []
  let op := i.opcode
  guard ++ match i.body with
  | .v f =>
    let s := shapeV op f.fn.toNat ((i.second.map BitVec.toNat).getD 0)
    let a := if op == 0x89 then Src.run rt else s.a
    (if op == 0x7D then (List.range 7).map (2048 + ·) else []) ++ srcRegs a f.sa.toNat ++ srcRegs s.b f.sb.toNat ++ srcRegs s.c f.sc.toNat
  | .vi f => srcRegs (typeSrc (bits f.fn.toNat 3 0)) f.sa.toNat
  | .u f =>
    let one (c : BitVec 5) : List Nat := if c.toNat < 24 then [1024 + c.toNat] else []
    let usesA := op != 0x36 && !(op == 0x35 && f.i == 1)
    let usesB := op != 0x35 && op != 0x36 && f.i == 0
    (if usesA then one f.sa else []) ++ (if usesB then one f.sb else []) ++ (if op == 0x39 then one f.d else [])
  | .m f =>
    let n := sizeRegs f.size.toNat
    if op == 0x81 || op == 0x83 || op == 0x85 then f.data.toNat :: srcRegs (.value n) f.addr.toNat
    else srcRegs .any f.addr.toNat
  | .c f => if op == 9 then [1024 + bits f.fn.toNat 19 15] else []
  | .event => []

/-- Registers that an instruction writes; none for D under WS (R132). -/
def regsWritten (i : Instr) (rt : Nat) : List Nat :=
  let op := i.opcode
  if i.hdr.ws == 1 then [] else
  match i.body with
  | .v f =>
    let s := shapeV op f.fn.toNat ((i.second.map BitVec.toNat).getD 0)
    dstRegs (if op == 0x8B then Dst.vec rt else s.d) f.d.toNat
  | .vi f => dstRegs (typeDst (bits f.fn.toNat 7 4)) f.d.toNat
  | .u f => [1024 + f.d.toNat]
  | .m f =>
    if op == 0x80 || op == 0x82 || op == 0x84 then dstRegs (.vec (sizeRegs f.size.toNat)) f.data.toNat else []
  | .c f => if op == 9 then [1024 + bits f.fn.toNat 19 15] else []
  | .event => []

/-- Tiles that an instruction names in its first word. -/
def tilesNamed (i : Instr) : List Nat :=
  match i.body with
  | .v f =>
    let s := shapeV i.opcode f.fn.toNat 0
    (if s.d == .tile then [f.d.toNat] else []) ++ (if s.c == .tile then [f.sc.toNat] else [])
  | _ => []

/-- Latches that an instruction names, by number 1 to 8. -/
def latchesNamed (i : Instr) : List Nat :=
  let one (u : Bool) (c : Nat) : List Nat := if u && isLatch c then [c - 0xFF] else []
  match i.body with
  | .v f =>
    let s := shapeV i.opcode f.fn.toNat ((i.second.map BitVec.toNat).getD 0)
    one (s.a != .pred) f.sa.toNat ++ one (s.b != .pred) f.sb.toNat ++ one (s.c != .pred) f.sc.toNat
  | .vi f => one true f.sa.toNat
  | .m f => one true f.addr.toNat
  | _ => []

end Sys2Proof.Machine
end

