-- ==== Sys2Proof/Machine/Graph.lean ====
section
/-! DEFINITION. Records, frames and the ends of teams and blocks (R104 to R121, R127, R151, R215, R309, R315, R393, R394). -/

namespace Sys2Proof.Machine

/-! ### Firmware cores and command links (R57 to R62) -/

/-- Default watchdog window of a firmware core (R62): OPEN_US and CLOSE_US. -/
def fwWindow (k : Nat) : BitVec 16 × BitVec 16 :=
  if k ≤ 1 then (500, 5000) else if k = 22 then (1000, 50000) else (200, 2000)
/-- A firmware core as package reset leaves it; the standby is off (R57). -/
def freshCore (k : Nat) : FwCore := { openUs := (fwWindow k).1, closeUs := (fwWindow k).2, off := k == 1 }
/-- A firmware core: 0 scheduler, 1 standby, 2 + c leaf c, 22 island. One that is not listed is as package reset left it. -/
def Pkg.core (p : Pkg) (k : Nat) : FwCore := alookup (freshCore k) p.fw k
/-- Replaces a firmware core. -/
def Pkg.putCore (p : Pkg) (k : Nat) (c : FwCore) : Pkg := { p with fw := aput p.fw k c }
/-- Whether the leaf of a cluster runs (R63, R64). -/
def Pkg.leafUp (p : Pkg) (c : Nat) : Bool :=
  !p.leafFailed.contains c && !(p.core (2 + c)).restarting && !(p.core (2 + c)).off

/-- Key of a link in the package's list. -/
def linkKey : LinkId → Nat
  | .sorrel => 0
  | .down c => 1 + c % 20
  | .up c => 21 + c % 20

/-- A link. -/
def Pkg.link (p : Pkg) (l : LinkId) : Link := alookup {} p.links (linkKey l)
/-- Replaces a link. -/
def Pkg.putLink (p : Pkg) (l : LinkId) (x : Link) : Pkg := { p with links := aput p.links (linkKey l) x }

/-- A send takes a permit, or is discarded and sets OVERRUN (R58). -/
def Link.send (x : Link) (m : LinkMsg) : Link :=
  if x.permits = 0 then { x with overrun := true } else { x with inbox := x.inbox ++ [m], permits := x.permits - 1 }
/-- A send on a link. -/
def State.sendLink (s : State) (l : LinkId) (m : LinkMsg) : State :=
  { s with pkg := s.pkg.putLink l ((s.pkg.link l).send m) }

/-! ### Launch packets (R106) -/

/-- Header word of a packet. -/
def pktHeader (p : List Byte) : DWord := BitVec.ofNat 64 (fieldOf p 0 8)
/-- Context identifier. -/
def pktCtx (p : List Byte) : Nat := fieldOf p 0x24 1
/-- MCAST. -/
def pktMcast (p : List Byte) : Bool := (fieldOf p 0x26 2).testBit 0
/-- ROLES. -/
def pktRoles (p : List Byte) : Bool := (fieldOf p 0x26 2).testBit 1
/-- CMASK. -/
def pktCmask (p : List Byte) : Nat := fieldOf p 0x38 20

/-- Node kinds (R103). -/
def Node.kind (n : Node) : Nat := fieldOf n.descBytes 0 1
/-- QCAP. -/
def Node.qcap (n : Node) : Nat := fieldOf n.descBytes 4 4
/-- Whether every team of a launch shares its record (R393). -/
def Node.shares (n : Node) : Bool := n.kind != 0 || pktMcast n.pkt
/-- Block count of a grid for a root record (R106, R111). -/
def Node.nblock (n : Node) (root : List Byte) : Nat :=
  let k := fieldOf n.pkt 0x30 8
  if k = 0 then fieldOf root 0 8 else k

/-- C of a node (R103); a block of a DRAW node takes one record (R148). -/
def Node.coalC (n : Node) : Nat :=
  if n.kind = 3 then 1 else Nat.min 1024 (Nat.max 1 (fieldOf n.descBytes 0x10 2))
/-- Partition of a node. -/
def Node.part (n : Node) : Nat := n.num / 2 ^ 20

/-! ### Queue state blocks (R65) -/

/-- FLAGS of a queue state block. -/
def Node.flags (n : Node) : Nat :=
  (if n.status == .valid then 1 else 0) + (if n.kind == 1 then 2 else 0) + (if n.kind == 2 then 4 else 0) +
    (if n.blkHeld then 8 else 0) + (if (pktHeader n.pkt).getLsbD 53 then 16 else 0) + (if n.lost then 32 else 0)

/-- Bytes 0x00 to 0xFB of a node's queue state block. -/
def Node.blockBody (n : Node) : List Byte :=
  leBytes 4 n.num ++ leBytes 1 n.part ++ leBytes 1 (pktCtx n.pkt) ++ leBytes 2 n.flags ++
  leBytes 8 (Config.queueBase n.num).toNat ++ leBytes 4 n.qcap ++ leBytes 4 n.share ++ leBytes 8 n.desc.toNat ++
  leBytes 2 n.coalC ++ leBytes 2 (fieldOf n.descBytes 0x12 2) ++ leBytes 4 0 ++ leBytes 8 n.blkNext.toNat ++
  (List.range 20).flatMap (fun c => leBytes 2 (mget 0 n.quota c)) ++ (List.range 20).flatMap (fun c => leBytes 1 (mget 0 n.age c)) ++
  leBytes 4 n.lastSeq.toNat ++ leBytes 8 n.blkOldest.toNat ++ leBytes 8 n.gen.toNat ++
  leBytes 20 (((List.range 160).filter fun k => mget 0 n.placed k != 0).foldl (fun a k => a + 2 ^ k) 0) ++
  (List.range 20).flatMap (fun c => leBytes 4 (mget 0 n.leafSeq c).toNat) ++ leBytes 24 0

/-- The 256-byte block, with the CHECK that stands in it. -/
def Node.blockBytes (n : Node) : List Byte :=
  let c := BitVec.ofNat 32 (crc32c n.blockBody)
  n.blockBody ++ leBytes 4 (if n.damaged then c ^^^ 1#32 else c).toNat

/-- Whether CHECK of a node's block holds. -/
def Node.checkOk (n : Node) : Bool :=
  (if n.damaged then BitVec.ofNat 32 (crc32c n.blockBody) ^^^ 1#32 else BitVec.ofNat 32 (crc32c n.blockBody)) ==
    BitVec.ofNat 32 (crc32c n.blockBody)

/-- A queue state block is written: GEN counts it, and HELD is the scheduler's own; NEXT_BLOCK and OLDEST change by the leaves'
reports alone (R65) (log 111). -/
def Node.written (n : Node) : Node := { n with gen := n.gen + 1, damaged := false, blkHeld := n.held }

/-- A node with its queue state block as HBM5 then holds it (R65) (log 33). -/
def State.storeNode (s : State) (n : Node) : State :=
  let s := s.putNode n
  let a := Config.queueBlock n.num % 2 ^ 31 * 256
  { s with mem := msetList memDefault s.mem a n.blockBytes, poison := s.poison.filter fun k => k / 64 != a / 256 }
/-- The scheduler writes a node's queue state block, 256 bytes as one transaction (R65). -/
def State.writeNode (s : State) (n : Node) : State := s.storeNode n.written

/-! ### HELD (R115) -/

/-- Successors of a node that are registered (R103, R115). -/
def State.successors (s : State) (n : Node) : List Node :=
  (List.range 4).filterMap fun k =>
    let x := fieldOf n.descBytes (0x18 + 4 * k) 4
    if x = 0xFFFF_FFFF then none
    else (s.node? x).bind fun m => if m.status == .valid || m.status == .retiring then some m else none

/-- HELD by the fill of the successors' queues (R115). -/
def State.heldNow (s : State) (n : Node) : Bool :=
  let ss := s.successors n
  if ss.any fun m => decide (7 * m.qcap < 8 * m.queue.length) then true
  else if ss.all fun m => decide (4 * m.queue.length ≤ 3 * m.qcap) then false else n.held

/-- Whether a node has a table entry that may run: VALID or RETIRING (R102). -/
def Node.live (n : Node) : Bool := n.status == .valid || n.status == .retiring

/-- Takes HELD of every node of a partition anew. -/
def State.updateHeld (s : State) (part : Nat) : State :=
  (s.nodes.filter fun n => n.part == part && n.live).foldl (fun (s : State) (n : Node) =>
    s.putNode { n with held := s.heldNow n }) s

/-! ### Reports of the leaves (R60, R65) -/

/-- A leaf has something to report of a node (R111, R114, R118); what it has not sent yet of the same kind gives way to the present
value. -/
def Node.report (n : Node) (c : Nat) (b : LinkBody) : Node :=
  let old (x : Nat × LinkBody) : Bool := match x.2, b with
    | .age _ _, .age _ _ => x.1 == c
    | .started _ _, .started _ _ => x.1 == c
    | .oldest _ _, .oldest _ _ => x.1 == c
    | _, _ => false
  { n with due := n.due.filter (fun x => !old x) ++ [(c, b)] }

/-- A leaf reports something of a node at once where it may send and has nothing older to send of it; else the report waits for
LINK_MESSAGE_SEND. -/
def State.sendUp (s : State) (c num : Nat) (b : LinkBody) : State :=
  match s.node? num with
  | none => s
  | some n =>
    if s.pkg.leafUp c && !(s.pkg.core (2 + c)).mute && (s.pkg.link (.up c)).permits != 0 && n.due.all (·.1 != c) then
      let k := mget 0 n.leafSent c + 1
      (s.putNode { n with leafSent := mset 0 n.leafSent c k }).sendLink (.up c) { node := num, seq := k, body := b }
    else s.putNode (n.report c b)

/-- The lowest unfinished block of the grid whose root record stands at the head of a node's queue (R111): of those that run or are
saved, else the next to start. -/
def State.gridOldest (s : State) (n : Node) : Nat :=
  match n.queue with
  | [] => n.nextBlock.toNat
  | q :: _ =>
    let bs := (s.blocks.filter fun b => b.node == n.num && b.shared == some q.seq).map fun b => b.index.toNat
    let cs := (s.conts.filter fun c => c.node == n.num && c.shared == some q.seq).map fun c => c.index.toNat
    (bs ++ cs).foldl Nat.min (if q.taken then n.nextBlock.toNat else 0)

/-! ### Frames (R119 to R121) -/

/-- Size of a frame: L lanes, n live registers. -/
def frameSize (lanes n : Nat) : Nat :=
  roundUp (128 + 192 + 32 * ceilDiv lanes 32 + 512 + 4 * lanes * n) 128

/-- Writes a little-endian field of a frame at its home; a failed translation writes nothing (log 16). -/
def State.putField (s : State) (w : Who) (va n x : Nat) : State := s.ownWrite w va (leBytes n x)

/-- Reads a little-endian field of a frame at its home; 0 when translation fails (log 16). -/
def State.getField (s : State) (w : Who) (va n : Nat) : Nat :=
  match (s.readHomeVa w .read va n).2 with
  | .ok bs => leNat bs
  | .error _ => 0

/-- Takes a frame from the head of the free list of a frame segment in one step: none when the list is empty. Its header is
zero but for NODE (log 70). -/
def State.takeFrame (s : State) (w : Who) (g13 : BitVec 128) (node : Nat) : State × Option Nat :=
  let base := segBase g13
  let head := s.getField w base 8
  if head = 0 then (s, none)
  else
    let f := (base + head) % 2 ^ 48
    let next := s.getField w f 8
    let free := s.getField w (base + 8) 4
    let s := (s.putField w base 8 next).putField w (base + 8) 4 (free - 1)
    (s.ownWrite w f (List.replicate 0x2C 0 ++ leBytes 4 node ++ List.replicate 80 0), some f)

/-- Returns a frame to the head of the free list in one step. -/
def State.giveFrame (s : State) (w : Who) (g13 : BitVec 128) (f : Nat) : State :=
  let base := segBase g13
  let head := s.getField w base 8
  let free := s.getField w (base + 8) 4
  ((s.putField w f 8 head).putField w base 8 ((f + 2 ^ 48 - base) % 2 ^ 48)).putField w (base + 8) 4 (free + 1)

/-- Sets FLAGS of a frame: bit 0 STOLEN, bit 1 PARKED, bit 2 SPAWN_WAIT. -/
def State.frameFlags (s : State) (w : Who) (f x : Nat) : State := s.putField w (f + 0x0C) 2 x
/-- JOIN of a frame. -/
def State.join (s : State) (w : Who) (f : Nat) : Nat := s.getField w (f + 8) 4
/-- Adds to JOIN of a frame. -/
def State.addJoin (s : State) (w : Who) (f n : Nat) : State := s.putField w (f + 8) 4 (s.join w f + n)
/-- Decrements JOIN of a frame. -/
def State.decJoin (s : State) (w : Who) (f : Nat) : State := s.putField w (f + 8) 4 (s.join w f - 1)

/-! ### Records (R104, R107, R121, R394) -/

/-- A PCIe function by number. -/
def Pkg.func (p : Pkg) (k : Nat) : Func := alookup {} p.funcs k
/-- Replaces a function. -/
def Pkg.putFunc (p : Pkg) (k : Nat) (f : Func) : Pkg := { p with funcs := aput p.funcs k f }
/-- A queue pair of a function. -/
def Func.pair (f : Func) (q : Nat) : Pair := alookup {} f.pairs q
/-- Replaces a queue pair. -/
def Func.putPair (f : Func) (q : Nat) (p : Pair) : Func := { f with pairs := aput f.pairs q p }

/-- Changes a client command that runs. -/
def State.onClient (s : State) (c : Client) (f : Cmd → Cmd) : State :=
  let fn := s.pkg.func c.fn
  let p := fn.pair c.q
  if p.flight.any fun (x : Cmd) => x.idx == c.idx then
    let fl := p.flight.map fun (x : Cmd) => if x.idx == c.idx then f x else x
    { s with pkg := s.pkg.putFunc c.fn (fn.putPair c.q { p with flight := fl }) }
  else s

/-- Whether one of a record's client commands has been cancelled: its guest launches no more of its work (R37, R45). -/
def State.cancelled (s : State) (cs : List Client) : Bool :=
  cs.any fun c => (s.pkg.func c.fn).cancelled.contains (c.q, c.idx)

/-- A record of a client command, or a joined descendant of one, has retired (R44). -/
def State.clientRetire (s : State) (c : Client) (bad : Bool) : State :=
  s.onClient c fun (x : Cmd) => { x with live := x.live - 1, bad := x.bad || bad }

/-- Retires a record of a node: it leaves the queue (HELD of other nodes follows, R115), its client commands learn of it, and JOIN of its joined parent's frame is
decremented. -/
def State.retire (s : State) (w : Who) (node seq : Nat) (bad : Bool) : State :=
  match s.node? node with
  | none => s
  | some n =>
    match n.queue.find? fun (q : QEntry) => q.seq == seq with
    | none => s
    | some q =>
      let s := (s.putNode { n with queue := n.queue.filter fun (x : QEntry) => x.seq != seq }).updateHeld n.part
      let s := q.clients.foldl (fun (s : State) c => s.clientRetire c (bad || q.bad)) s
      if q.link.getLsbD 63 then s.decJoin { w with ctx := q.pctx, user := true } (q.link.toNat % 2 ^ 48) else s

/-- Retires a record unlaunched (R107): REFUSED counts it. -/
def State.refuse (s : State) (w : Who) (node seq : Nat) : State :=
  let s := match s.node? node with
    | some n => s.putNode { n with refused := if n.refused = 0xFFFF_FFFF then n.refused else n.refused + 1 }
    | none => s
  s.retire w node seq true

/-- A team that shares a launch's record is done or has ended: the record retires when every team of every block that shares
it is (R109, R111, R394). A draw's record retires with the draw (R164). -/
def State.shareDone (s : State) (w : Who) (b : Block) (bad : Bool) : State :=
  match b.shared, s.node? b.node with
  | some seq, some n =>
    match n.queue.find? fun q => q.seq == seq with
    | none => s
    | some q =>
      let q' := { q with live := q.live - 1, bad := q.bad || bad }
      let s := s.putNode { n with queue := n.queue.map fun x => if x.seq == seq then q' else x }
      let started := q.cores.isEmpty && (n.kind != 1 || pktMcast n.pkt || decide (n.nblock q.bytes ≤ n.nextBlock.toNat))
      if q'.live = 0 ∧ started ∧ b.draw.isNone then s.retire w b.node seq bad else s
  | _, _ => s

/-- Whether a block is the last copy of its launch (R109). -/
def State.lastCopy (s : State) (b : Block) : Bool :=
  !(s.blocks.any fun c => c.id != b.id && c.node == b.node && c.shared == b.shared) &&
    match b.shared, s.node? b.node with
    | some seq, some n => (n.queue.find? fun (q : QEntry) => q.seq == seq).elim true fun q => q.cores.isEmpty
    | _, _ => true

/-- A draw is over: its root record retires, with the last copy of a multicast launch (R109, R164). -/
def State.drawDone (s : State) (w : Who) (b : Block) (bad : Bool) : State :=
  match b.shared with
  | none => s
  | some seq =>
    if s.lastCopy b then s.retire w b.node seq bad
    else if bad then
      match s.node? b.node with
      | some n => s.putNode { n with queue := n.queue.map fun (q : QEntry) => if q.seq == seq then { q with bad := true } else q }
      | none => s
    else s

/-- Retires every record of a run in queue order (R394). -/
def State.retireRun (s : State) (w : Who) (node first : Nat) (bad : Bool) : Nat → State
  | 0 => s
  | n + 1 => (s.retire w node first bad).retireRun w node (first + 1) bad n

/-- Step 3 of DONE for a team, and its end (R394). -/
def State.doneRun (s : State) (w : Who) (t : Team) (bad : Bool) : State × Team :=
  let b := s.blockOf t
  let s := match t.run with
    | some r => if r.shared then s else s.retireRun w b.node r.first bad r.len
    | none => s
  if b.shared.isSome && !t.done then (s.shareDone w b bad, { t with run := none, done := true })
  else (s, { t with run := none })

/-! ### Locks, operations and batches (R204, R215, R369) -/

/-- Removes the range locks that `sel` selects on every core (log 57). -/
def State.dropLocks (s : State) (sel : Lock → Bool) : State :=
  let cores : Map CoreSt := s.cores.filterMap fun (n, c) =>
    let c := { c with locks := c.locks.filter fun l => !sel l }
    if c = {} then none else some (n, c)
  let blocks := s.blocks.map fun b => match b.saved with
    | some v => if v.locks.any sel then { b with saved := some { v with locks := v.locks.filter fun l => !sel l } } else b
    | none => b
  { s with cores := cores, blocks := blocks }

/-- Removes engine operations and frees the bands that they have taken. -/
def State.dropOps (s : State) (sel : EngOp → Bool) : State :=
  { s with cores := s.cores.filterMap fun (n, c) =>
      let c := { c with ops := c.ops.filter fun o => !sel o }
      if c = {} then none else some (n, c) }

/-! ### The end of a block (R112, R151, R315) -/

/-- A block with no team left leaves its core; records it reserved and nothing took are free again. Its leaf reports the lowest
unfinished block of the present grid (R111). -/
def State.endBlock (s : State) (b : Block) : State :=
  let s := { s with blocks := s.blocks.filter fun c => c.id != b.id }
  let s := (s.dropLocks fun l => l.blk == b.id).dropOps fun o => o.blk == b.id
  match s.node? b.node with
  | none => s
  | some n =>
    let n := { n with queue := n.queue.map fun q =>
      if q.block == some b.id && !q.taken then { q with block := none } else q }
    let s := s.putNode n
    match n.queue with
    | q :: _ =>
      if n.kind == 1 && !pktMcast n.pkt && b.shared == some q.seq then
        s.sendUp (b.core / 8) n.num (.oldest q.seq (s.gridOldest n))
      else s
    | [] => s

/-- Who a team is at the home of its frame and records. -/
def State.whoOf (s : State) (t : Team) : Who :=
  let b := s.blockOf t
  { tid := t.tid, core := t.core, slot := t.slot, ctx := b.ctx, part := b.part, user := true }

/-- A team ends: its run retires, its locks and slot are free, and its block ends with its last team (R151, R315, R394). -/
def State.endTeam (s : State) (t : Team) (bad : Bool) : State :=
  let w := s.whoOf t
  let b := s.blockOf t
  let s := s.sourceOf t.tid t.core t.slot b.ctx false
  let (s, t) := s.doneRun w t bad
  let s := match t.frame with
    | some f => if s.join w f = 0 then s.giveFrame w (b.seg 13) f else s
    | none => s
  let s := s.dropLocks fun l => l.tid == t.tid
  let s := { s with teams := s.teams.filter fun u => u.tid != t.tid }.dropLoads fun n => n == t.tid
  if s.teams.any (fun u => u.blk == t.blk) || b.draw.isSome then s else s.endBlock b

/-- Ends a list of teams. -/
def State.endTeams (s : State) (bad : Bool) : List Team → State
  | [] => s
  | t :: ts => (s.endTeam t bad).endTeams bad ts

/-- An abort of a block (R215): its teams end at once, its operations are cancelled, its locks clear, and each record it
holds retires with no aw edge. -/
def State.abortBlock (s : State) (b : Block) : State :=
  let ts := s.teams.filter fun t => t.blk == b.id
  let s := (s.flushStores b.ctx fun x => ts.any fun t => t.tid == x.tid).flushRemote fun r => r.src == b.id
  let s := (s.dropOps fun o => o.blk == b.id).dropLocks fun l => l.blk == b.id
  let s := { s with teams := s.teams.filter fun t => t.blk != b.id }.dropLoads fun n => ts.any fun t => t.tid == n
  let w : Who := { tid := 0, core := b.core, slot := 0, ctx := b.ctx, part := b.part, user := true }
  let s := ts.foldl (fun (s : State) (t : Team) =>
    match t.run with
    | some r => if r.shared then s else s.retireRun w b.node r.first true r.len
    | none => s) s
  let s := (ts.filter fun t => !t.done).foldl (fun s _ => s.shareDone w b true) s
  let s := match s.node? b.node with
    | some n => (n.queue.filter fun (q : QEntry) => q.block == some b.id).foldl (fun (s : State) (q : QEntry) => s.retire w b.node q.seq true) s
    | none => s
  let s := if b.draw.isSome then s.drawDone w b true else s
  s.endBlock b

end Sys2Proof.Machine
end

