-- ==== Sys2Proof/Machine/Ops.lean ====
section
/-! DEFINITION. Issue, the checks of decode, taking a trap and returning from it, and the completion of an instruction (R128,
R131 to R136, R147, R161, R207 to R216, R308, R309, R404 to R409). -/

namespace Sys2Proof.Machine

/-- What exec and step answer. -/
abbrev Out := Host.Outcome State Fault Refusal

/-! ### Register granules (R128 to R130, R136) -/

/-- Granules that a team holds: its chunks, and its handler window in case 1. -/
def Team.granules (t : Team) : Nat :=
  t.words * t.chunks +
    match t.trap with
    | some tr => match tr.window with | .granules _ => tr.words.length | .spill _ => 0
    | none => 0

/-- Granules that a list of teams holds. The halves of a forerunner pair share the chunks of their word: they count for the
lower half, or for the upper one that is left alone (R226). -/
def teamGranules (ts : List Team) : Nat :=
  (ts.map fun t => t.granules - if t.half = 1 ∧ ts.any (fun u => u.blk == t.blk && u.slot == t.slot && u.half == 0)
    then t.words * t.chunks else 0).sum

/-- Granules in use in a partition's quota on a core. -/
def State.granulesUsed (s : State) (core part : Nat) : Nat :=
  teamGranules (s.teams.filter fun t => t.resident && t.core == core && (s.blockOf t).part == part)

/-- A partition's quota on a core. -/
def Part.quota (p : Part) (core : Nat) : Quota := alookup {} p.quotas core

/-- Free granules of a partition's quota on a core. DESIGN CHOICE (log 122): of a resize's joined quota until RELEASE. -/
def State.granulesFree (s : State) (core part : Nat) : Nat :=
  ((s.part part).quota core).granules - s.granulesUsed core part

/-- A protected block: the lowest unfinished block of its grid (R112, R130). Blocks start in index order, so that is one below
which no block of the grid runs or is saved; a block that goes on as a continuation is still that block. -/
def State.protected (s : State) (b : Block) : Bool :=
  match s.node? b.node with
  | some n => n.kind == 1 && !pktMcast n.pkt &&
      !s.blocks.any (fun c => c.node == b.node && c.shared == b.shared && decide (c.index.toNat < b.index.toNat)) &&
      !s.conts.any fun c => c.node == b.node && c.shared == b.shared && decide (c.index.toNat < b.index.toNat)
  | none => false

/-- Mask words of a block's widest team. -/
def State.widestOf (s : State) (b : Block) : Nat := ((s.teams.filter fun t => t.blk == b.id).map Team.words).foldl Nat.max 0

/-- The granules kept for a block: W of its widest team while it is protected and a team holds fewer than 8 chunks (R130). -/
def State.reserveOf (s : State) (b : Block) : Nat :=
  if s.protected b && s.teams.any fun t => t.blk == b.id && decide (t.chunks < 8) then s.widestOf b else 0

/-- The VGROW reserve of a partition on a core, that of every protected block there (R130). -/
def State.reserve (s : State) (core part : Nat) : Nat :=
  ((s.blocks.filter fun b => b.core == core && b.part == part && b.saved.isNone).map s.reserveOf).sum

/-! ### The pushes of a guarded transfer (R305 to R307, R312) -/

/-- Offset of the next instruction. -/
def Env.nextPc (e : Env) (i : Instr) : CodeOff := e.t.pc + BitVec.ofNat 48 i.size

/-- Depth limit of a rejoin stack (R305). -/
def Team.depthLimit (t : Team) : Nat := if t.fore then 16 else 32

/-- Lanes that wait on an entry: v0 becomes its index + 1 (R306). -/
def Team.waitOn (t : Team) (w : Lanes) (i : Nat) : Team := t.putV 0 w fun _ => BitVec.ofNat 32 (i + 1)

/-- Pushes an entry. The push to depth 1 first writes 0 to v0 in every lane (R306). -/
def Team.push (t : Team) (e : Rejoin) : Team :=
  let t := if t.stack.isEmpty then t.putV 0 t.all fun _ => 0 else t
  { t with stack := t.stack ++ [e] }

/-- A group of a guarded transfer. -/
structure Group307 where
  dest : CodeOff
  calls : Bool
  lanes : Lanes
  deriving DecidableEq, Repr

/-- Adds a lane to its group; groups ascend by destination, the calling one first. -/
def addGroup (dest : CodeOff) (calls : Bool) (l : Nat) : List Group307 → List Group307
  | [] => [{ dest := dest, calls := calls, lanes := 1#1024 <<< l }]
  | g :: gs =>
    if g.dest = dest ∧ g.calls = calls then { g with lanes := g.lanes ||| (1#1024 <<< l) } :: gs
    else if dest.toNat < g.dest.toNat || (dest == g.dest && calls) then
      { dest := dest, calls := calls, lanes := 1#1024 <<< l } :: g :: gs
    else g :: addGroup dest calls l gs

/-- One push of a transfer: an entry C, or an entry P with the lanes that wait on it, merged into a P of the same PC on
top. -/
def Team.pushGroup (t : Team) (e : Rejoin) (w : Lanes) : Team :=
  match e.kind, t.stack.getLast? with
  | .pending, some top =>
    if top = e then t.waitOn w (t.stack.length - 1) else (t.push e).waitOn w t.stack.length
  | .pending, none => (t.push e).waitOn w 0
  | _, _ => t.push e

/-- The pushes of a transfer for its groups after the first, from last to second, then the run group's call. -/
def Team.pushAll (t : Team) (ret : CodeOff) (run : Group307) (others : List Group307) : Team :=
  let t := others.reverse.foldl (fun (t : Team) g =>
    let t := if g.calls then t.push { pc := ret, kind := .call } else t
    t.pushGroup { pc := g.dest, kind := .pending } g.lanes) t
  if run.calls then t.push { pc := ret, kind := .call } else t

/-- Target of a format C transfer (R282). -/
def Env.offTarget (e : Env) (f : FC) : CodeOff := e.t.pc + BitVec.ofInt 48 (8 * f.off.toInt)

/-- A lane's target of BRX and CALLX (R312). -/
def Env.laneTarget (e : Env) (f : FV) (l : Nat) : CodeOff :=
  BitVec.ofNat 48 ((e.src32 f.sa.toNat l).toNat / 8 * 8)

/-- Groups of a transfer, in the order in which they run (R307). -/
def Env.groups (e : Env) (i : Instr) (call : Bool) (target : Nat → CodeOff) : List Group307 :=
  let t := e.t
  let ret := e.nextPc i
  let go := t.act i.hdr
  let gs := (t.list t.mask).foldl (fun gs l =>
    if go.getLsbD l then addGroup (target l) call l gs else addGroup ret false l gs) []
  if call then gs.filter Group307.calls ++ gs.filter fun g => !g.calls else gs

/-- The team after the pushes of a transfer; none where it pushes nothing. -/
def Env.pushes (e : Env) (i : Instr) (gs : List Group307) : Option Team :=
  match gs with
  | [] => none
  | run :: others => if others.isEmpty && !run.calls then none else some (e.t.pushAll (e.nextPc i) run others)

/-- A transfer that would push beyond the depth limit: REG_LIMIT (R305, R307). -/
def Env.transferOver (e : Env) (i : Instr) : Bool :=
  let overflows (call : Bool) (target : Nat → CodeOff) : Bool :=
    (e.pushes i (e.groups i call target)).any fun t => decide (t.depthLimit < t.stack.length)
  match i with
  | .bra f => overflows false fun _ => e.offTarget f
  | .brx f => overflows false (e.laneTarget f)
  | .call f => overflows true fun _ => e.offTarget f
  | .callx f => overflows true (e.laneTarget f)
  | _ => false

/-! ### Checks of decode (R208) -/

/-- Opcodes unassigned under GEN 2 (R292). -/
def gen2Illegal (op : Nat) : Bool :=
  op == 0x0C || op == 0x0D || (0xC0 ≤ op && op < 0xC8) || (0xD8 ≤ op && op < 0xE0)

/-- Control-register numbers that R409 assigns. -/
def csrAssigned (n : Nat) : Bool := n < 0x15 || (0x18 ≤ n && n < 0x1D)

/-- The control-register number or fault-record selector that an instruction names in SA. -/
def Env.selector (e : Env) (i : Instr) : Option DWord :=
  match i.body with
  | .v f => if [0xE3, 0xE4, 0xEA].contains i.opcode then some (e.uval f.sa.toNat) else none
  | _ => none

/-- Reserved values that decode reads from a register: CSR numbers and FREC selectors (R408, R413). -/
def Env.selectorBad (e : Env) (i : Instr) : Bool :=
  match e.selector i with
  | some x => if i.opcode == 0xEA then decide (256 ≤ x.toNat) else !csrAssigned x.toNat
  | none => false

/-- Tiers in which an opcode is legal (R147). -/
def tierOk (op tier : Nat) : Bool :=
  if op == 0xD8 then 2 ≤ tier
  else if op == 0xD9 || op == 0xDA || op == 0xDB || op == 0xDD || op == 0x89 || op == 0x8A then tier == 5 || tier == 6
  else if op == 0xDC then 2 ≤ tier && tier ≤ 6
  else if op == 0xDE || op == 0xDF then tier == 7
  else if 0xC0 ≤ op && op < 0xC8 then tier == 0 || tier == 3 || tier == 5
  else if op == 0xD0 || op == 0xD1 || op == 0xD2 then tier != 7
  else if op == 0xD3 || op == 0xD4 then tier == 0
  else true

/-- Entry of the tier table for a tier 1 to 7; all ones when the section is absent (R106). -/
def Draw.tierEntry (d : Draw) (tier : Nat) : DWord := d.tiers.getD (tier - 1) 0xFFFF_FFFF_FFFF_FFFF
/-- NEXP of a tier; 0 for an absent one. -/
def Draw.nexp (d : Draw) (tier : Nat) : Nat :=
  let x := d.tierEntry tier
  if x = 0xFFFF_FFFF_FFFF_FFFF then 0 else bits x.toNat 55 48
/-- Whether a tier has a section. -/
def Draw.hasTier (d : Draw) (tier : Nat) : Bool := d.tierEntry tier != 0xFFFF_FFFF_FFFF_FFFF

/-- Sources that RGET may name in a tier (R161). -/
def rgetSource (src tier : Nat) : Bool :=
  if tier == 7 then src == 1 || src == 2
  else if src == 5 then tier == 6
  else decide (src < tier) && (src == 1 || src == 2 || src == 3)

/-- RATE_MISMATCH (R147, R161). -/
def Env.rateBad (e : Env) (i : Instr) : Bool :=
  let rate := i.hdr.rate.toNat
  (if e.b.ratep then rate != e.t.tier else rate != 0) || !tierOk i.opcode e.t.tier ||
    match i, e.b.draw with
    | .rget f, some d =>
      let src := bits f.fn.toNat 2 0
      !rgetSource src e.t.tier || !d.hasTier src
    | _, _ => false

/-- Export slot named by a tier read, with its source tier (R161, R398). -/
def slotNamed : Instr → Option (Nat × Nat)
  | .rget f => some (bits f.fn.toNat 2 0, bits f.fn.toNat 7 3)
  | .rbary f => some (4, bits f.fn.toNat 7 3)
  | .rflat f => some (4, bits f.fn.toNat 7 3)
  | _ => none

/-- Barrier number that an instruction names (R359). -/
def Env.barrierNamed (e : Env) (i : Instr) : Option Nat :=
  match i.body with
  | .v f => if 0xB0 ≤ i.opcode && i.opcode ≤ 0xB5 then some ((e.uval f.sa.toNat).toNat % 2 ^ 32) else none
  | _ => none

/-- REG_LIMIT at decode (R128, R161, R226, R320, R359, R371). -/
def Env.regBad (e : Env) (i : Instr) : Bool :=
  let t := e.t
  let regs := regsRead i e.b.rtRun ++ regsWritten i e.b.rtRun
  regs.any (fun r => r < 1024 && !(r < 32 * t.chunks || (t.trap.isSome && 248 ≤ r && r < 256))) ||
    (t.fore && regs.any fun r => 1024 + 12 ≤ r && r < 2048) ||
    (tilesNamed i).any (fun m => e.b.tiles.length ≤ m) ||
    (match slotNamed i, e.b.draw with | some (src, k), some d => decide (d.nexp src ≤ k) | _, _ => false) ||
    (match e.barrierNamed i with | some b => decide (128 ≤ b) | none => false)

/-- DIVERGED_UNIFORM (R131). -/
def Env.divergedBad (e : Env) (i : Instr) : Bool :=
  !e.t.stack.isEmpty && e.t.trap.isNone && (regsRead i 0 ++ regsWritten i 0).any fun r => 1024 ≤ r && r < 2048

/-- Opcodes that an open latch region allows (R134) (log 62). -/
def regionAllows (op : Nat) : Bool :=
  op == 0x00 || (0x10 ≤ op && op < 0x80) || [0x80, 0x82, 0x84, 0x86, 0x87, 0x88, 0x8B].contains op ||
    [0xD8, 0xD9, 0xDA, 0xDB, 0xDF, 0xE3, 0xE7].contains op

/-- Registers that an instruction reads from the register file before its region has written them. -/
def Region.newReads (r : Region) (reads : List Nat) : List Nat := reads.filter fun x => !r.writes.contains x

/-- LATCH_REGION (R132 to R134). An instruction whose WS opens a region is the region's first, so it must be one that a
region allows. -/
def Env.latchBad (e : Env) (i : Instr) : Bool :=
  let named := latchesNamed i
  if named.isEmpty then i.hdr.ws == 1 && !regionAllows i.opcode
  else
    match e.t.region with
    | none => true
    | some r =>
      let seen := r.reads ++ r.newReads (regsRead i e.b.rtRun)
      r.count ≥ 64 || !regionAllows i.opcode ||
        named.any (fun k => r.count < k || (e.t.latches.getD (k - 1) none).isNone) ||
        (regsWritten i e.b.rtRun).any fun x => seen.contains x && !r.writes.contains x

/-- PRIVILEGE (R405, R408). -/
def Env.privBad (e : Env) (i : Instr) : Bool :=
  e.t.trap.isNone && (i.opcode == 0xE1 || i.opcode == 0xE8 ||
    (i.opcode == 0xE4 && match e.selector i with | some x => decide (x.toNat ≤ 0x12) | none => false))

/-- The cause of priorities 2 to 8 that an instruction meets when the team reaches it (R207, R208). -/
def Env.decodeCause (e : Env) (i : Instr) : Option Cause :=
  if encCheck i = some .illegal || (e.t.fore && gen2Illegal i.opcode) then some .illegalOpcode
  else if encCheck i = some .reserved || e.selectorBad i then some .reservedField
  else if e.rateBad i then some .rateMismatch
  else if e.regBad i || e.transferOver i then some .regLimit
  else if e.divergedBad i then some .divergedUniform
  else if e.latchBad i then some .latchRegion
  else if e.privBad i then some .privilege
  else none

/-! ### The count of an instruction (R71, R143) -/

/-- Whether an instruction holds its pipe for one clk whatever the mask: control, uniform, engine, matrix and system (R143, R404). -/
def wholeOp (op : Nat) : Bool :=
  decide (op < 0x10) || (0x30 ≤ op && op < 0x40) || (0xB8 ≤ op && op < 0xD0) || (0xE0 ≤ op && op ≤ 0xEA)

/-- Clk that a pass holds its pipe (R145); 1 where the table gives none (log 106). -/
def occupancy (op : Nat) : Nat :=
  if 0x48 ≤ op && op < 0x50 then 2 else if (0x50 ≤ op && op < 0x55) || op == 0x7A then 4 else 1

/-- Mask words of a team that hold an active lane. -/
def Team.filled (t : Team) : Nat := (t.wordsOf t.mask).length

/-- The state in which an issued instruction has been counted: INSTR_ISSUED, PASSES and PASSES_SKIPPED of R71. The pass of a
pair's second half is its first half's (R228). An instruction that goes on at its CURSOR has been counted (R217). -/
def Env.counted (e : Env) : State :=
  let s := e.s.count e.b.ctx 2 1
  if e.t.cursor != 0 then e.s
  else if e.s.sel.joint then s
  else if wholeOp e.op then s.count e.b.ctx 3 1
  else (s.count e.b.ctx 3 (occupancy e.op * e.t.filled)).count e.b.ctx 4 (e.t.words - e.t.filled)

/-! ### Taking a trap (R207 to R216) -/

/-- Code of a cause (R207). -/
def Cause.code : Cause → Nat
  | .illegalOpcode => 0x01 | .reservedField => 0x02 | .rateMismatch => 0x03 | .regLimit => 0x04
  | .divergedUniform => 0x05 | .latchRegion => 0x06 | .privilege => 0x07 | .trap => 0x08 | .syscall => 0x09
  | .bkpt => 0x0A | .nonuniform => 0x10 | .descInvalid => 0x11 | .frameExhausted => 0x12 | .barrierState => 0x13
  | .nodeUnknown => 0x14 | .engineFault => 0x15 | .segLimit => 0x20 | .misaligned => 0x21 | .rangeLocked => 0x22
  | .pageFault => 0x23 | .guestPageFault => 0x24 | .partBounds => 0x25 | .accessFault => 0x26 | .linkLost => 0x27
  | .dataError => 0x28 | .doubleTrap => 0x30

/-- Priority of a cause met at execution (R207). -/
def Cause.prio : Cause → Nat
  | .segLimit => 11 | .misaligned => 12 | .rangeLocked => 13
  | .pageFault | .guestPageFault | .partBounds | .accessFault | .dataError => 14
  | _ => 10

/-- Async causes (R210). -/
def Cause.isAsync (c : Cause) : Bool := c == .linkLost || c == .engineFault

/-- Fault record of a trap (R183, R207). -/
def Raise.record (r : Raise) : FaultRec :=
  { cause := BitVec.ofNat 64 (r.cause.code + (if r.cause == .engineFault then 256 * r.k else 0) +
      (if r.cause.isAsync then 1024 else 0)),
    pc := r.pc.zeroExtend 64, insn := r.insn, info := r.info, eaddr := r.eaddr, va := r.va, gpa := r.gpa }

/-- Trap state of step 3 of R212. -/
def Team.trapState (t : Team) (r : Raise) (w : Window) (words : List Nat) : TrapState :=
  let (mask, helper) := t.restore.getD (t.mask, t.helper)
  { resume := r.resume, size := r.size, mask := mask, helper := helper, pending := r.pending, full := r.full,
    s20 := [20, 21, 22, 23].map t.sreg, p6 := t.pred 6, depth := t.stack.length, window := w, words := words,
    mid := t.mid, packets := r.packets, later := t.packets, fault := r.record,
    cursor := if r.packets.isEmpty then 0 else t.cursor, table := if r.packets.isEmpty then none else t.table }

/-- The mask of a handler: the trapping lanes. -/
def Team.inHandler (t : Team) (r : Raise) (w : Window) (words : List Nat) (entry : CodeOff) : Team :=
  { t with latches := [], region := none, trap := some (t.trapState r w words), mask := r.lanes, helper := 0,
           restore := none, mid := none, packets := [], pc := entry, status := .ready, stall := 0, fault := r.record,
           cursor := 0, table := none }

/-- Scratchpad byte of a team's first save row (R126, R136). A continuation is the only team of its block. -/
def Block.saveAt (b : Block) (t : Team) : Nat := 384 * (b.row0 + b.rows + b.saveRows * (if b.cont then 0 else t.num))

/-- The other half of a forerunner pair, or the team itself (R226). -/
def State.mate (s : State) (t : Team) : Team :=
  if t.fore then (s.teamAt t.core t.slot (1 - t.half)).getD t else t

/-- Bytes of the eight highest held registers of a mask word: register-major, lanes ascending (R136). A forerunner pair's
word holds the lower half's lanes and then the upper half's (R227); `u` is the other half. -/
def Team.spillBytes (t u : Team) (j : Nat) : List Byte :=
  (List.range 8).flatMap fun k => (List.range 32).flatMap fun l =>
    let r := 1024 * (32 * t.chunks - 8 + k)
    let x := if !t.fore then mget 0 t.vregs (r + 32 * j + l)
      else mget 0 (if l / 16 = t.half then t.vregs else u.vregs) (r + l % 16)
    leBytes 4 x.toNat

/-- Spills the registers of the trapping words to the save rows, in ascending word order. -/
def State.spill (s : State) (t : Team) (b : Block) (words : List Nat) : State :=
  s.putSpad t.core (b.saveAt t) (words.flatMap (t.spillBytes (s.mate t)))

/-- Restores the spilled registers of one word from the save rows, for a team that held `chunks` at entry. -/
def State.unspill (s : State) (t : Team) (b : Block) (chunks n j : Nat) : Team :=
  let c := s.coreSt t.core
  (List.range 8).foldl (fun (t : Team) k => (List.range (if t.fore then 16 else 32)).foldl (fun (t : Team) l =>
    let a := b.saveAt t + 1024 * n + 128 * k + 4 * (if t.fore then 16 * t.half + l else l)
    let x := BitVec.ofNat 32 (leNat (mgetList 0 c.spad a 4))
    { t with vregs := mset 0 t.vregs (1024 * (32 * chunks - 8 + k) + 32 * j + l) x }) t) t

/-! ### Loads on their way (R132, R144, R197, R218) -/

/-- GEN of a slot (R217). -/
def State.slotGen (s : State) (core slot : Nat) : BitVec 4 := BitVec.ofNat 4 (mget 0 (s.coreSt core).gens slot)

/-- Words that a load of a SIZE code writes (R281). -/
def loadWords (size x : Nat) : List Word :=
  match size with
  | 3 => [BitVec.ofNat 32 x, BitVec.ofNat 32 (x / 2 ^ 32)]
  | 4 => (List.range 4).map fun k => BitVec.ofNat 32 (x / 2 ^ (32 * k))
  | 5 => [BitVec.ofInt 32 (sextInt 8 x)]
  | 6 => [BitVec.ofInt 32 (sextInt 16 x)]
  | _ => [BitVec.ofNat 32 x]

/-- Values by register and lane of a list of lanes' loads. -/
def loadVals (dst size : Nat) (vals : List (Nat × Nat)) : List (Nat × Word) :=
  vals.flatMap fun v => (loadWords size v.2).zipIdx.map fun (x, k) => (1024 * (dst + k) + v.1, x)

/-- Registers that a load in flight writes: those of its size, or the channels of an RTR. -/
def Flight.regs (f : Flight) : Nat := if f.fmt = 0 then sizeRegs f.size else fmtChannels f.fmt

/-- A return writes its registers, and the latch of the load: the one of its place among the instructions issued since (R132,
R218). A return of another GEN has no effect. -/
def Team.land (t : Team) (f : Flight) : Team :=
  if f.gen != t.gen then t
  else
    let n := f.regs
    let val (k l : Nat) : Word := alookup 0 f.vals (1024 * (f.dst + k) + l)
    let t := if f.latchOnly then t else t.putRun f.dst f.lanes ((List.range n).map val)
    let p := t.issued - f.seq - 1
    match t.latches[p]? with
    | some (some m) =>
      let row := mrow 0 t.lanes fun l => if f.lanes.getLsbD l then val 0 l else mget 0 m l
      if n = 1 ∧ f.fmt = 0 ∧ f.seq < t.issued then { t with latches := t.latches.set p (some row) } else t
    | _ => t

/-- A team without its `n`th load in flight. -/
def Team.dropFlight (t : Team) (n : Nat) : Team := { t with flights := t.flights.eraseIdx n }

/-- Whether an access at its home belongs to a load in flight of a team. -/
def LoadEnt.ofFlight (e : LoadEnt) (t : Team) (f : Flight) : Bool :=
  e.tid == t.tid && e.seq == f.seq && f.lanes.getLsbD e.lane

/-- A load with what its accesses have read at their homes. -/
def Flight.withReads (f : Flight) (es : List LoadEnt) : Flight :=
  { f with vals := loadVals f.dst f.size (es.map fun e => (e.lane, e.val.getD 0)) ++ f.vals }

/-- Performs the accesses of a load in flight that its home has not performed yet, after those that it must not pass. -/
def State.readFlight (s : State) (t : Team) (f : Flight) : State :=
  match s.loadQ.filter fun e => e.ofFlight t f with
  | [] => s
  | es => (s.settleLoads t.tid f.seq (es.flatMap LoadEnt.pieces)).readLoads fun e => e.ofFlight t f

/-- Accesses that belong to a load in flight, taken out. -/
def State.takeReads (s : State) (t : Team) (f : Flight) : State × List LoadEnt :=
  let s := s.readFlight t f
  ({ s with loadQ := s.loadQ.filter fun e => !e.ofFlight t f }, s.loadQ.filter fun e => e.ofFlight t f)

/-- A load that reads at a home has returned, the `n`th in flight: those before it that do so too are not read anew (R194). -/
def Team.overtake (t : Team) (n : Nat) (f : Flight) : Team :=
  if f.home && t.flights.any Flight.home then
    { t with flights := t.flights.zipIdx.map fun x => if x.2 < n && x.1.home then { x.1 with fixed := true } else x.1 }
  else t

/-- The `n`th load in flight of a team returns. -/
def State.landFlight (s : State) (t : Team) (n : Nat) : State × Team :=
  match t.flights[n]? with
  | none => (s, t)
  | some f =>
    let (s, es) := s.takeReads t f
    (s, ((t.dropFlight n).overtake n f).land (f.withReads es))

/-- Every load in flight of a team returns. -/
def State.landAll (s : State) (t : Team) : State × Team :=
  (List.range t.flights.length).foldl (fun (x : State × Team) _ => x.1.landFlight x.2 0) (s, t)

/-- Whether a load in flight belongs to the region that is open: a halt drops it, since the region replays (R217). -/
def Team.inOpen (t : Team) (f : Flight) : Bool := f.inRegion && t.region.any fun r => decide (t.issued ≤ f.seq + r.count)

/-- The loads of a team that a halt does not read anew return (R193, R194) (log 128). -/
def State.landFixed (s : State) (t : Team) : State × Team :=
  (List.range t.flights.length).reverse.foldl (fun (x : State × Team) n =>
    if (x.2.flights[n]?).any fun f => f.fixed && !x.2.inOpen f then x.1.landFlight x.2 n else x) (s, t)

/-- Opcodes that write memory, or begin an edge to accesses of others: a load still in flight comes before what they do, and so is
not read anew after it (R193). -/
def fixesLoads (op : Nat) : Bool := decide (0x80 ≤ op) && !regionAllows op

/-- The team as an instruction of an opcode completes: the loads in flight that it must not be read anew after are marked. -/
def Team.fixLoads (t : Team) (op : Nat) : Team :=
  if fixesLoads op && !t.flights.isEmpty then { t with flights := t.flights.map fun f => { f with fixed := true } } else t

/-- Opcodes in front of which every load of the team has returned: what they end, save or rename reaches every register. -/
def waitsAll (op : Nat) : Bool := [0x0A, 0x0D, 0xD0, 0xD1, 0xD2, 0xDC, 0xDE, 0xE1].contains op

/-- Whether an instruction depends on a load in flight: it names a register or the latch that the load writes, v0 counts the
lanes that wait, or it writes the render target that an RTR reads (R144, R306, R352). -/
def Team.waitsFor (t : Team) (rt : Nat) (i : Instr) (f : Flight) : Bool :=
  let name (r : Nat) : Nat := match t.vname r with | .inl j => 1024 + j | .inr r => r
  let mine := if f.latchOnly then [] else (List.range f.regs).map fun k => name (f.dst + k)
  waitsAll i.opcode || (f.fmt != 0 && (i.opcode == 0x89 || i.opcode == 0x8A)) || (latchesNamed i).any (fun k => k + f.seq == t.issued) ||
    ((regsRead i rt ++ regsWritten i rt).any fun r => decide (r < 1024) && mine.contains (name r)) ||
    ((!t.stack.isEmpty || decide (i.opcode < 0x0E)) && mine.contains 0)

/-- The load in flight that an instruction waits for first. -/
def Team.blocker (t : Team) (rt : Nat) (i : Instr) : Option Nat := t.flights.findIdx? (t.waitsFor rt i)

/-- Tells Sorrel of a cause in a partition (R213, R216). -/
def State.notify (s : State) (part : Nat) (c : Cause) : State :=
  { s with pkg := { s.pkg with irqs := s.pkg.irqs ++ [(part, 0x100 + c.code)] } }

/-- Delivery of a trap: Sorrel holds the team for a GUEST_PAGE_FAULT; any other trap in a handler is a DOUBLE_TRAP; without
a handler the block is aborted; else the handler window is formed and the handler begins (R136, R211 to R216)
(log 51). -/
def State.takeTrap (s : State) (t : Team) (r : Raise) : State :=
  let (s, t) := s.landAll t
  let b := s.blockOf t
  let hvec := (s.ctx b.ctx).hvec
  let words := t.wordsOf r.lanes
  if r.cause == .guestPageFault then
    let held : Team := { t with latches := [], region := none, status := .sorrel,
                                hold := some (t.trapState r (.granules []) words), restore := none, mid := none,
                                packets := [], table := none, fault := r.record, stall := 0x0E }
    (s.putTeam held).notify b.part .guestPageFault
  else if t.trap.isSome || r.cause == .doubleTrap then (s.notify b.part .doubleTrap).abortBlock b
  else if !hvec.getLsbD 0 then s.abortBlock b
  else
    let entry : CodeOff := (hvec.truncate 48) &&& 0xFFFF_FFFF_FFF8
    if s.granulesUsed t.core b.part + s.reserve t.core b.part + words.length ≤ ((s.part b.part).quota t.core).granules then
      s.putTeam (t.inHandler r (.granules []) words entry)
    else if 1024 * words.length ≤ 384 * b.saveRows then
      (s.spill t b words).putTeam (t.inHandler r (.spill t.chunks) words entry)
    else
      let since := match t.status with | .window _ n => n | _ => s.timeNs
      s.putTeam { t with status := .window r since, stall := 0x0E, latches := [], region := none }

/-- Resume point of a trap at the present instruction: the region's start inside an open region (R135, R209). -/
def Team.resumeAt (t : Team) (i : Instr) : CodeOff × Nat :=
  match t.region with
  | some r => (r.start, r.size)
  | none => (t.pc, i.size)

/-- A team cause at the present instruction (R209), in a state that has counted it or has not. -/
def Env.teamTrap (e : Env) (s : State) (i : Instr) (c : Cause) : Out :=
  let (resume, size) := e.t.resumeAt i
  .next (s.takeTrap e.t
    { cause := c, lanes := e.t.mask &&& ~~~e.t.helper, pending := e.t.mask, full := true, pc := e.t.pc,
      insn := i.word, resume := resume, size := size })

/-- A team cause that an issued instruction meets. -/
def Env.trapTeam (e : Env) (i : Instr) (c : Cause) : Out := e.teamTrap e.counted i c

/-- Ends an open region in front of an instruction that names no latch. -/
def Team.closeRegion (t : Team) (i : Instr) : Team :=
  if (latchesNamed i).isEmpty then { t with region := none } else t

/-- Region of a team as an instruction issues (R133). -/
def Team.openRegion (t : Team) (i : Instr) (rt : Nat) : Team :=
  let reads := regsRead i rt
  let writes := regsWritten i rt
  match t.region with
  | some r =>
    { t with region := some { r with count := r.count + 1, reads := r.reads ++ r.newReads reads,
                                     writes := r.writes ++ writes } }
  | none =>
    if i.hdr.ws == 1 then
      { t with region := some { start := t.pc, size := i.size, count := 1, reads := reads, writes := writes } }
    else t

/-- Merges while the top entry is P and its PC is the team's: its lanes join the mask and their v0 becomes 0 (R308). -/
def Team.mergeGo : Nat → Team → Team
  | 0, t => t
  | n + 1, t =>
    match t.stack.getLast? with
    | some e =>
      if e.kind == .pending && e.pc == t.pc then
        let w := t.lanesOf fun l => t.getV 0 l == BitVec.ofNat 32 t.stack.length
        Team.mergeGo n { (t.putV 0 w fun _ => 0) with mask := t.mask ||| w, stack := t.stack.dropLast }
      else t
    | none => t

/-- The merge before an issue (R308). -/
def Team.merge (t : Team) : Team := t.mergeGo t.stack.length

/-- Delivers the oldest async cause that waits, in front of an instruction of `size` bytes (R210, R213). -/
def State.takeAsync (s : State) (t : Team) (size : Nat) : State :=
  match t.async with
  | [] => s
  | c :: r =>
    s.takeTrap { t with async := r }
      { cause := c.cause, lanes := c.lanes, pending := t.mask, full := t.restore.isNone, pc := c.pc, insn := c.insn, va := c.va,
        resume := (match t.region with | some g => g.start | none => t.pc),
        size := (match t.region with | some g => g.size | none => size), info := c.info, eaddr := c.eaddr, k := c.k }

/-- Issues an instruction in the selected team: the merge of R308, the checks of decode, the latch region, then its meaning. -/
def issue (i : Instr) (s : State) (k : Env → Out) : Out :=
  match s.curTeam with
  | none => .refused .noTeam
  | some t0 =>
    let u := t0.merge
    let t := u.closeRegion i
    let s := s.putTeam u
    let e : Env := { s := s, t := t, b := s.blockOf t, op := i.opcode }
    match e.decodeCause i with
    | some c => e.teamTrap e.s i c
    | none => k { e with t := t.openRegion i e.b.rtRun }

/-- The environment in which the selected team executes an instruction that meets no cause of decode; none where no team is
selected or a cause is met. -/
def State.ready (s : State) (i : Instr) : Option Env :=
  match s.curTeam with
  | none => none
  | some t0 =>
    let u := t0.merge
    let t := u.closeRegion i
    let s := s.putTeam u
    let e : Env := { s := s, t := t, b := s.blockOf t, op := i.opcode }
    if e.decodeCause i = none then some { e with t := t.openRegion i e.b.rtRun } else none

/-! ### Completion -/

/-- An instruction has issued: the latches shift (R132), and neither a CURSOR nor a reason of an earlier refusal is left
(R74, R217). -/
def Team.shift (t : Team) (x : Option (Map Word)) : Team :=
  { t with latches := (x :: t.latches).take 8, issued := t.issued + 1, yielded := none, fetchWait := .no, stall := 0,
           cursor := 0, table := none }

/-- The mask that stands again after a retried instruction (R214) (log 46). -/
def Team.unretry (t : Team) : Team :=
  match t.restore with
  | some (m, h) => { t with mask := m, helper := h, restore := none }
  | none => t

/-- Completes an instruction and continues at `pc`. -/
def Env.doneAt (e : Env) (t : Team) (lat : Option (Map Word)) (pc : CodeOff) : Out :=
  .next (e.counted.putTeam { ((t.fixLoads e.op).shift lat).unretry with pc := pc })

/-- clk from a taken branch, or a resume that finds lanes, to the next issue (R145, R309). -/
def branchClk : Nat := 6

/-- Completes a transfer of control: after a taken one the team waits for fetch (R145, R425). -/
def Env.goTo (e : Env) (t : Team) (pc : CodeOff) (taken : Bool) : Out :=
  .next (e.counted.putTeam { (t.shift none).unretry with
    pc := pc, fetchWait := if taken then .upTo (e.s.clk + branchClk) else .no })

/-- Completes an instruction and continues at the next. -/
def Env.done (e : Env) (i : Instr) (t : Team) (lat : Option (Map Word)) : Out := e.doneAt t lat (e.nextPc i)

/-- Completes an instruction that writes nothing in the team. -/
def Env.skip (e : Env) (i : Instr) : Out := e.done i e.t none

/-- A single vector result in the lanes of `w`: register and latch, or latch alone under WS (R132). -/
def Env.vec (e : Env) (i : Instr) (d : Nat) (w : Lanes) (f : Nat → Word) : Out :=
  if i.hdr.ws == 1 then
    e.done i e.t (some (mrow 0 e.t.lanes fun l => if w.getLsbD l then f l else 0))
  else
    let t := e.t.putV d w f
    e.done i t (some (t.row d))

/-- A 64-bit result: the latch is empty (R320). -/
def Env.pair (e : Env) (i : Instr) (d : Nat) (w : Lanes) (f : Nat → DWord) : Out :=
  e.done i (e.t.putPair d w f) none

/-- A predicate result in the lanes of `w` (R317). -/
def Env.predOut (e : Env) (i : Instr) (d : Nat) (w : Lanes) (f : Nat → Bool) : Out :=
  e.done i (e.t.putPred d w (e.t.lanesOf f)) none

/-- A uniform result (R323). -/
def Env.sOut (e : Env) (i : Instr) (d : Nat) (x : DWord) : Out := e.done i (e.t.putS d x) none

/-- A team that is not ready: it has not issued, it tries the instruction again, and the reason is kept (R74, R144). Its
latches and its region stay as they were. -/
def Env.stallAt (e : Env) (reason : Nat) : Out :=
  .next (e.s.putTeam { e.t with stall := reason, region := (e.s.team? e.t.tid).bind Team.region })

/-- A team that parks at its instruction: its latches become empty (R132). -/
def Env.park (e : Env) (st : Status) (reason : Nat) : Out :=
  .next (e.counted.putTeam { e.t.fixLoads e.op with status := st, stall := reason, latches := [], region := none })

/-- A parked team continues at the next instruction of `size` bytes. -/
def Team.wake (t : Team) (size : Nat) : Team :=
  { t.unretry with status := .ready, pc := t.pc + BitVec.ofNat 48 size, stall := 0 }

/-! ### Failed batches (R210, R370) -/

/-- The failure that a wait on a counter reports: that of its oldest complete batch with one, or at EXIT (`all`) of operations left
open (log 67). -/
def Counter.failure (c : Counter) (all : Bool) : Option (DWord × DWord) :=
  match c.batches.find? fun b => b.failed && b.ops.isEmpty with
  | some b => some (b.fault, b.eaddr)
  | none => if all && c.openFailed then some (c.openFault, c.openEaddr) else none

/-- A counter whose failures a wait has observed: each is reported once (R370). -/
def Counter.reported (c : Counter) (all : Bool) : Counter :=
  { c with batches := c.batches.filter fun b => !(b.failed && b.ops.isEmpty), openFailed := c.openFailed && !all }

/-- Takes the failures that a wait observes out of a counter. -/
def Counter.takeFailure (c : Counter) (all : Bool) : Option (Counter × DWord × DWord) :=
  (c.failure all).map fun x => (c.reported all, x)

/-- Takes the failures that EXIT observes out of a team's counters, with the first counter of a list that has one. -/
def Team.takeFailure (t : Team) (all : Bool) (ks : List Nat) : Option (Nat × Team × DWord × DWord) :=
  (ks.findSome? fun k => ((t.counters.getD k {}).failure all).map fun x => (k, x)).map fun x =>
    (x.1, { t with counters := t.counters.map fun c => c.reported all }, x.2)

/-- ENGINE_FAULT at the wait `i`: INFO is the kind of the failed access, the resume point is the wait. -/
def Env.engineFault (e : Env) (i : Instr) (k : Nat) (t : Team) (info eaddr : DWord) : Out :=
  .next (e.counted.takeTrap t
    { cause := .engineFault, lanes := t.mask &&& ~~~t.helper, pending := t.mask, full := true, pc := t.pc,
      insn := i.word, resume := t.pc, size := i.size, info := info, eaddr := eaddr, k := k })

/-! ### Lane causes (R209) -/

/-- A cause that a lane meets, with its fault-record fields. -/
structure LaneFault where
  lane : Nat
  f : MFault
  deriving DecidableEq, Repr

/-- INFO of a memory fault (R183). -/
def infoOf (seg space size kind : Nat) (f : MFault) : DWord :=
  BitVec.ofNat 64 (seg + 16 * space + 64 * size + 512 * (if f.walk then 6 else kind) +
    (if f.gstage then 4096 else 0) + 8192 * f.pbmt)

/-- Of the causes met, the one of highest priority; among causes of priority 14, that of the lowest lane. -/
def topFault (fs : List LaneFault) : Option LaneFault :=
  fs.foldl (fun best x => match best with
    | none => some x
    | some b => if x.f.cause.prio < b.f.cause.prio || (x.f.cause.prio == b.f.cause.prio && x.lane < b.lane)
        then some x else some b) none

/-- Raises the lane causes of an instruction in a state where the other lanes have completed it. `t` is the team as it stood
at issue inside a region, or with the other lanes' results outside one. -/
def Env.trapLanes (e : Env) (i : Instr) (s : State) (t : Team) (fs : List LaneFault) (seg space size kind : Nat) : Out :=
  match topFault fs with
  | none => .next s
  | some top =>
    let trapping := fs.filter fun x => x.f.cause == top.f.cause
    let set (xs : List LaneFault) : Lanes := xs.foldl (fun a x => a ||| (1#1024 <<< x.lane)) 0
    let (resume, sz) := e.t.resumeAt i
    let s := ({ e with s := s }).counted
    let s := if top.f.cause == .rangeLocked then s.count e.b.ctx 8 1 else s
    .next (s.takeTrap t
      { cause := top.f.cause, lanes := set trapping, pending := if t.region.isSome then e.t.mask else set fs,
        full := t.region.isSome, pc := e.t.pc, insn := i.word, resume := resume, size := sz,
        va := trapping.foldl (fun m x => mset 0 m x.lane (BitVec.ofNat 64 x.f.va)) [],
        gpa := trapping.foldl (fun m x => mset 0 m x.lane (BitVec.ofNat 64 x.f.gpa)) [],
        info := infoOf seg space size kind top.f })

/-- One fault met by every lane of a set, for a read that the team makes once (R331). -/
def faultAll (t : Team) (w : Lanes) (f : MFault) : List LaneFault := (t.list w).map fun l => { lane := l, f := f }

end Sys2Proof.Machine
end

