-- ==== Sys2Proof/Machine/Numerics.lean ====
section
/-! DEFINITION. Number formats and exact arithmetic (R229 to R253). A value is exact; each rounding is one step. -/

namespace Sys2Proof.Machine

/-- An exact value: NaN, an infinity, or ± m × 2^e. -/
inductive Fl where
  | nan
  | inf (neg : Bool)
  | fin (neg : Bool) (m : Nat) (e : Int)
  deriving DecidableEq, Repr

/-- Rounding modes (R229), coded as FN [8:7]. -/
inductive Rnd where
  | rn | rz | ru | rd
  deriving DecidableEq, Repr

/-- A mode by its code (R277). -/
def Rnd.ofCode (c : Nat) : Rnd := match c with | 1 => .rz | 2 => .ru | 3 => .rd | _ => .rn

/-- A format with infinities: exponent bits and fraction bits (R233). -/
structure Fmt where
  eb : Nat
  fb : Nat
  deriving DecidableEq, Repr

/-- binary64 -/
def f64 : Fmt := ⟨11, 52⟩
/-- binary32 -/
def f32 : Fmt := ⟨8, 23⟩
/-- binary16 -/
def f16 : Fmt := ⟨5, 10⟩
/-- BF16 -/
def bf16 : Fmt := ⟨8, 7⟩
/-- ACC36 -/
def acc36 : Fmt := ⟨8, 27⟩

/-- Exponent bias. -/
def Fmt.bias (f : Fmt) : Int := 2 ^ (f.eb - 1) - 1
/-- Exponent of the last place of a subnormal. -/
def Fmt.qmin (f : Fmt) : Int := 1 - f.bias - f.fb
/-- Magnitude code of infinity. -/
def Fmt.infCode (f : Fmt) : Nat := (2 ^ f.eb - 1) * 2 ^ f.fb
/-- The canonical quiet NaN (R230, R233). -/
def Fmt.nanCode (f : Fmt) : Nat := f.infCode + 2 ^ (f.fb - 1)
/-- Weight of the sign bit. -/
def Fmt.signBit (f : Fmt) : Nat := 2 ^ (f.eb + f.fb)

/-- Value of a code. -/
def Fmt.dec (f : Fmt) (c : Nat) : Fl :=
  let neg := c.testBit (f.eb + f.fb)
  let e := (c / 2 ^ f.fb) % 2 ^ f.eb
  let m := c % 2 ^ f.fb
  if e = 2 ^ f.eb - 1 then (if m = 0 then .inf neg else .nan)
  else if e = 0 then .fin neg m f.qmin
  else .fin neg (m + 2 ^ f.fb) (f.qmin + e - 1)

/-- Bits of a number. -/
def bitLen (m : Nat) : Nat := if m = 0 then 0 else Nat.log2 m + 1

/-- Whether a magnitude k + r / 2^d, with more below when `sticky`, rounds up. -/
def roundsUp (mode : Rnd) (neg : Bool) (k r d : Nat) (sticky : Bool) : Bool :=
  let inexact := r != 0 || sticky
  match mode with
  | .rz => false
  | .ru => !neg && inexact
  | .rd => neg && inexact
  | .rn => if d = 0 then false else
      let half := 2 ^ (d - 1)
      decide (half < r) || (r == half && (sticky || k % 2 == 1))

/-- Rounds m × 2^e (and a fraction of 2^e more when `sticky`) to a multiple of 2^q: the multiple. -/
def roundQ (mode : Rnd) (neg : Bool) (m : Nat) (e q : Int) (sticky : Bool) : Nat :=
  if q ≤ e then m * 2 ^ (e - q).toNat
  else
    let d := (q - e).toNat
    let k := m / 2 ^ d
    if roundsUp mode neg k (m % 2 ^ d) d sticky then k + 1 else k

/-- Magnitude code of m × 2^e on a grid with fraction width `fb` and least quantum 2^qmin, with no upper bound. -/
def gridCode (fb : Nat) (qmin : Int) (mode : Rnd) (neg : Bool) (m : Nat) (e : Int) (sticky : Bool) : Nat :=
  if m = 0 ∧ !sticky then 0
  else
  let q := max qmin (e + bitLen m - 1 - fb)
  (q - qmin).toNat * 2 ^ fb + roundQ mode neg m e q sticky

/-- One rounding of a magnitude to a format (R229). -/
def Fmt.roundMag (f : Fmt) (mode : Rnd) (neg : Bool) (m : Nat) (e : Int) (sticky : Bool) : Nat :=
  let s := if neg then f.signBit else 0
  let c := gridCode f.fb f.qmin mode neg m e sticky
  if c < f.infCode then s + c
  else
    let toMax := match mode with | .rn => false | .rz => true | .ru => neg | .rd => !neg
    s + (if toMax then f.infCode - 1 else f.infCode)

/-- One rounding of a value to a format: rnd_fmt (R253). -/
def Fmt.rnd (f : Fmt) (mode : Rnd) : Fl → Nat
  | .nan => f.nanCode
  | .inf neg => (if neg then f.signBit else 0) + f.infCode
  | .fin neg m e => f.roundMag mode neg m e false

/-- rne_fmt -/
def Fmt.rne (f : Fmt) (x : Fl) : Nat := f.rnd .rn x

/-- Replaces a subnormal code by the zero of its sign (`.ftz`, R231). -/
def Fmt.flush (f : Fmt) (c : Nat) : Nat :=
  if (c / 2 ^ f.fb) % 2 ^ f.eb = 0 then (if c.testBit (f.eb + f.fb) then f.signBit else 0) else c

/-! ### Exact operations -/

/-- Sign of a value; NaN counts as positive. -/
def Fl.neg : Fl → Bool
  | .nan => false
  | .inf n => n
  | .fin n _ _ => n
/-- Whether a value is a zero. -/
def Fl.isZero : Fl → Bool
  | .fin _ 0 _ => true
  | _ => false
/-- Negation. -/
def Fl.minus : Fl → Fl
  | .nan => .nan
  | .inf n => .inf !n
  | .fin n m e => .fin (!n) m e
/-- Magnitude. -/
def Fl.abs : Fl → Fl
  | .nan => .nan
  | .inf _ => .inf false
  | .fin _ m e => .fin false m e

/-- The exact product. -/
def Fl.mul : Fl → Fl → Fl
  | .nan, _ | _, .nan => .nan
  | .inf a, .inf b => .inf (a != b)
  | .inf a, .fin b m _ | .fin b m _, .inf a => if m = 0 then .nan else .inf (a != b)
  | .fin a m e, .fin b n f => .fin (a != b) (m * n) (e + f)

/-- Signed multiple of 2^q of a finite value; `q` is at most its exponent. -/
def Fl.units (q : Int) : Fl → Int
  | .fin n m e => (if n then -1 else 1) * (m * 2 ^ (e - q).toNat : Nat)
  | _ => 0

/-- Exponent of a value's last place; that of `d` for values with none. -/
def Fl.expo (d : Int) : Fl → Int
  | .fin _ 0 _ => d
  | .fin _ _ e => e
  | _ => d

/-- An integer multiple of 2^q as a value; `z` is the sign of a zero. -/
def Fl.ofUnits (k : Int) (q : Int) (z : Bool) : Fl := .fin (if k = 0 then z else decide (k < 0)) k.natAbs q

/-- Special values of a sum (first two lines of R244). -/
def sumSpecial (ts : List Fl) : Option Fl :=
  if ts.any (· == .nan) || (ts.any (· == .inf true) && ts.any (· == .inf false)) then some .nan
  else if ts.any (· == .inf true) then some (.inf true)
  else if ts.any (· == .inf false) then some (.inf false)
  else none

/-- The least exponent of a list of values. -/
def minExpo (ts : List Fl) : Int :=
  match (ts.filter fun t => !t.isZero).map (Fl.expo 0) with
  | [] => 0
  | e :: es => es.foldl min e

/-- The exact sum of terms. An exact zero is −0 when every term is −0, or when `rd` holds and not every term is +0
(R326). -/
def sumFl (rd : Bool) (ts : List Fl) : Fl :=
  match sumSpecial ts with
  | some x => x
  | none =>
    let q := minExpo ts
    let k := (ts.map fun t => if t.isZero then 0 else t.units q).foldl (· + ·) 0
    let allNeg := ts.all fun t => t.isZero && t.neg
    let allPos := ts.all fun t => t.isZero && !t.neg
    Fl.ofUnits k q (allNeg || (rd && !allPos))

/-- The sum of two values. -/
def Fl.add (mode : Rnd) (a b : Fl) : Fl := sumFl (mode == .rd) [a, b]
/-- The difference of two values. -/
def Fl.sub (a b : Fl) : Fl := sumFl false [a, b.minus]

/-- Order of two values that are not NaN: −1, 0 or 1; zeros are equal. -/
def Fl.cmp : Fl → Fl → Int
  | .inf a, .inf b => if a = b then 0 else if a then -1 else 1
  | .inf a, _ => if a then -1 else 1
  | _, .inf b => if b then 1 else -1
  | x, y =>
    let q := minExpo [x, y]
    let d := (if x.isZero then 0 else x.units q) - (if y.isZero then 0 else y.units q)
    if d < 0 then -1 else if d = 0 then 0 else 1

/-- Less or equal, false on NaN. -/
def Fl.le (a b : Fl) : Bool := a != .nan && b != .nan && decide (a.cmp b ≤ 0)
/-- Less, false on NaN. -/
def Fl.lt (a b : Fl) : Bool := a != .nan && b != .nan && decide (a.cmp b < 0)

/-- fmin_num (R232). -/
def fminNum (a b : Fl) : Fl :=
  if a = .nan then b else if b = .nan then a
  else if a.isZero && b.isZero then (if a.neg then a else b)
  else if a.cmp b ≤ 0 then a else b
/-- fmax_num (R232). -/
def fmaxNum (a b : Fl) : Fl :=
  if a = .nan then b else if b = .nan then a
  else if a.isZero && b.isZero then (if a.neg then b else a)
  else if a.cmp b ≤ 0 then b else a

/-- Rounds a finite value to an integer under a mode. -/
def Fl.toInt (mode : Rnd) : Fl → Int
  | .fin n m e => let k := roundQ mode n m e 0 false; if n then -(k : Int) else k
  | _ => 0

/-- Rounds a value to an integer and clamps it; NaN gives 0 (R242). -/
def Fl.toIntSat (mode : Rnd) (lo hi : Int) (x : Fl) : Int :=
  match x with
  | .nan => 0
  | .inf n => if n then lo else hi
  | x => max lo (min hi (x.toInt mode))

/-- An integer as a value. -/
def Fl.ofInt (k : Int) : Fl := Fl.ofUnits k 0 false

/-- Correctly rounded quotient code, special values as IEEE: a / b. -/
def Fmt.div (f : Fmt) (mode : Rnd) (a b : Fl) : Nat :=
  match a, b with
  | .nan, _ | _, .nan => f.nanCode
  | .inf _, .inf _ => f.nanCode
  | .inf n, b => f.rnd mode (.inf (n != b.neg))
  | a, .inf n => f.rnd mode (.fin (a.neg != n) 0 0)
  | .fin n m e, .fin n' m' e' =>
    if m' = 0 then (if m = 0 then f.nanCode else f.rnd mode (.inf (n != n')))
    else if m = 0 then f.rnd mode (.fin (n != n') 0 0)
    else
      let k := bitLen m' + f.fb + 4
      let num := m * 2 ^ k
      f.roundMag mode (n != n') (num / m') (e - e' - k) (num % m' != 0)

/-- Integer square root: bits from `k` down. -/
def isqrtGo (n : Nat) : Nat → Nat → Nat
  | 0, r => r
  | k + 1, r =>
    let t := r + 2 ^ k
    isqrtGo n k (if t * t ≤ n then t else r)
/-- Integer square root. -/
def isqrt (n : Nat) : Nat := isqrtGo n (bitLen n / 2 + 1) 0

/-- Correctly rounded square root code (R252). -/
def Fmt.sqrt (f : Fmt) (mode : Rnd) : Fl → Nat
  | .nan => f.nanCode
  | .inf n => if n then f.nanCode else f.infCode
  | .fin n m e =>
    if m = 0 then f.rnd mode (.fin n 0 0)
    else if n then f.nanCode
    else
      let k := 2 * f.fb + 8 + (e % 2).toNat
      let x := m * 2 ^ k
      let r := isqrt x
      f.roundMag mode false r ((e - k) / 2) (r * r != x)

/-! ### Narrow formats (R235 to R237) and block scales (R238) -/

/-- Narrow floating formats: fraction bits, least quantum, width. -/
structure NFmt where
  fb : Nat
  qmin : Int
  width : Nat
  hasNan : Bool
  deriving DecidableEq, Repr

/-- Q8E4 -/
def q8e4 : NFmt := ⟨3, -9, 8, true⟩
/-- Q8E5 -/
def q8e5 : NFmt := ⟨2, -16, 8, true⟩
/-- Q4E2 -/
def q4e2 : NFmt := ⟨1, -1, 4, false⟩

/-- dec_fmt of a narrow floating format. -/
def NFmt.dec (f : NFmt) (c : Nat) : Fl :=
  let half := 2 ^ (f.width - 1)
  let mag := c % half
  let neg := c.testBit (f.width - 1)
  if mag = 0 then (if neg && f.hasNan then .nan else .fin false 0 0)
  else
    let e := mag / 2 ^ f.fb
    let m := mag % 2 ^ f.fb
    if e = 0 then .fin neg m f.qmin else .fin neg (m + 2 ^ f.fb) (f.qmin + e - 1)

/-- sat_fmt of a narrow floating format (R237). -/
def NFmt.sat (f : NFmt) (mode : Rnd) (x : Fl) : Nat :=
  let half := 2 ^ (f.width - 1)
  match x with
  | .nan => if f.hasNan then half else 0
  | .inf n => (if n then half else 0) + (half - 1)
  | .fin n m e =>
    let c := Nat.min (gridCode f.fb f.qmin mode n m e false) (half - 1)
    if c = 0 then 0 else (if n then half else 0) + c

/-- sat_i8 and sat_i4: the code of width `w`. -/
def satInt (w : Nat) (mode : Rnd) (x : Fl) : Nat :=
  wrapNat w (x.toIntSat mode (-(2 ^ (w - 1) : Nat)) ((2 ^ (w - 1) : Nat) - 1))

/-- sat_int36 (R234): the code. -/
def satInt36 (x : Int) : Nat := wrapNat 36 (max (-(2 ^ 35 - 1)) (min (2 ^ 35 - 1) x))
/-- sat_i32. -/
def satI32 (x : Int) : Int := max (-(2 ^ 31)) (min (2 ^ 31 - 1) x)

/-- Value of an S16 scale (R238). -/
def decS16 (c : Nat) : Fl :=
  let e := (c / 512) % 128
  if c % 65536 = 0xFFFF then .nan else if e = 0 then .fin false 0 0
  else .fin false (512 + c % 512) ((e : Int) - 72)

/-- sat_s16 (R238). -/
def satS16 (x : Fl) : Nat :=
  match x with
  | .nan => 0xFFFF
  | .inf n => if n then 0xFFFF else 0xFFFE
  | .fin n m e =>
    if n then 0xFFFF else if m = 0 then 0
    else
      let top := e + bitLen m - 1
      if top < -62 then 0
      else
        let q := top - 9
        let k := roundQ .rn false m e q false
        Nat.min 0xFFFE ((q + 72).toNat * 512 + k - 512)

/-! ### Companding (R240, R241) -/

/-- binary32 word `k` of a table. -/
def tabWord (tab : List Byte) (k : Nat) : Nat := fieldNat tab (4 * k)
where
  /-- A 32-bit little-endian field. -/
  fieldNat (bs : List Byte) (off : Nat) : Nat := leNat ((bs.drop off).take 4)

/-- Whether a table is valid (R240). -/
def tableOk (tab : List Byte) : Bool :=
  let v (k j : Nat) := f32.dec (tabWord tab (4 * k + j))
  tabWord tab 0 == 0 && tabWord tab 1 == 0 &&
    (List.range 16).all (fun k => v k 0 != .nan && v k 1 != .nan &&
      (match v k 2, v k 3 with
       | .fin a m _, .fin b n _ => !a && !b && m != 0 && n != 0
       | _, _ => false)) &&
    (List.range 15).all (fun k => (v k 0).lt (v (k + 1) 0) && (v k 1).lt (v (k + 1) 1))

/-- compand with X_LO in field `x`, Y_LO in field `y`, the slope in field `sl` (R241): a value of binary32. -/
def compandWith (tab : List Byte) (x y sl : Nat) (v : Fl) : Fl :=
  match v with
  | .nan => .nan
  | .inf n => .inf n
  | v =>
    let a := v.abs
    let w (k j : Nat) := f32.dec (tabWord tab (4 * k + j))
    let k := ((List.range 16).filter fun k => (w k x).le a).foldl (fun _ k => k) 0
    let r (z : Fl) := f32.dec (f32.rne z)
    let res := r (Fl.add .rn (w k y) (r ((r (a.sub (w k x))).mul (w k sl))))
    if v.neg then res.minus else res
/-- compand -/
def compand (tab : List Byte) (v : Fl) : Fl := compandWith tab 0 1 2 v
/-- uncompand -/
def uncompand (tab : List Byte) (v : Fl) : Fl := compandWith tab 1 0 3 v

/-! ### The window of a matrix step (R244, R246) -/

/-- Truncates a value toward zero to a multiple of 2^q. -/
def Fl.trunc (q : Int) : Fl → Fl
  | .fin n m e => if q ≤ e then .fin n m e else .fin n (m / 2 ^ (q - e).toNat) q
  | x => x

/-- window_acc36 and window_f64: `span` is 59 or 119; the accumulator is one of the terms when there is one. -/
def window (f : Fmt) (span : Nat) (terms : List Fl) : Nat :=
  match sumSpecial terms with
  | some x => f.rne x
  | none =>
    let nz := terms.filter fun t => !t.isZero
    match nz.map fun t => match t with | .fin _ m e => e + bitLen m - 1 | _ => 0 with
    | [] => f.rne (.fin (terms.all fun t => t.neg) 0 0)
    | e :: es =>
      let top := es.foldl max e
      f.rne (sumFl false (nz.map (Fl.trunc (top - span))))

end Sys2Proof.Machine
end

