-- ==== Sys2Proof/Machine/Special.lean ====
section
/-! DEFINITION. Correctly rounded special functions (R252). A result is bracketed between two multiples of 2^-P; when both
ends round alike, that is the correctly rounded result, else the precision grows. -/

namespace Sys2Proof.Machine

/-- A bracket [lo, hi] in units of 2^-p. -/
structure Bracket where
  lo : Int
  hi : Int
  deriving DecidableEq, Repr

/-- Rounds `x` units of 2^-p to nearest in a format. -/
def roundUnits (f : Fmt) (p : Nat) (x : Int) : Nat := f.rne (.fin (decide (x < 0)) x.natAbs (-(p : Int)))

/-- Rounds the value that a bracket function encloses, at the first precision of a list at which it decides. -/
def zivGo (f : Fmt) (g : Nat → Bracket) : List Nat → Nat
  | [] => roundUnits f 2048 (g 2048).lo
  | p :: ps =>
    let b := g p
    let c := roundUnits f p b.lo
    if c = roundUnits f p b.hi then c else zivGo f g ps

/-- Correct rounding to nearest of the value that a bracket function encloses. -/
def ziv (f : Fmt) (g : Nat → Bracket) : Nat := zivGo f g [192, 512]

/-- Sum of (−1)^i t_i / (2 i + 1) with t_0 = x and t_(i+1) = t_i / d, rounded down: `sg` alternates the signs. -/
def oddSeries (sg : Bool) (d : Nat) : Nat → Nat → Int → Nat → Int
  | 0, _, acc, _ => acc
  | fuel + 1, t, acc, i =>
    if t = 0 then acc
    else
      let term : Int := (t / (2 * i + 1) : Nat)
      oddSeries sg d fuel (t / d) (if sg && i % 2 == 1 then acc - term else acc + term) (i + 1)

/-- π in units of 2^-p, within p units, by Machin's formula. -/
def piUnits (p : Nat) : Int :=
  let one := 2 ^ p
  let at5 := oddSeries true 25 (p + 2) (one / 5) 0 0
  let at239 := oddSeries true (239 * 239) (p + 2) (one / 239) 0 0
  16 * at5 - 4 * at239

/-- ln 2 in units of 2^-p, within p units: 2 artanh(1/3). -/
def ln2Units (p : Nat) : Int := 2 * oddSeries false 9 (p + 2) (2 ^ p / 3) 0 0

/-- exp of x units of 2^-p for 0 ≤ x < 2^p, in units of 2^-p, within 2 p units: the Taylor terms t_i = t_(i-1) x / i. -/
def expGo (p x : Nat) : Nat → Nat → Nat → Nat → Nat
  | 0, _, acc, _ => acc
  | fuel + 1, t, acc, i => if t = 0 then acc else expGo p x fuel (t * x / 2 ^ p / i) (acc + t) (i + 1)
/-- exp on [0, 1). -/
def expUnits (p x : Nat) : Nat := expGo p x (p + 2) (2 ^ p) 0 1

/-- Value of a finite positive or negative number in units of 2^-p, rounded down. -/
def toUnits (p : Nat) : Fl → Int
  | .fin n m e =>
    let k : Int := e + p
    let a : Int := (m : Int) * (if n then -1 else 1)
    if 0 ≤ k then a * 2 ^ k.toNat else a / 2 ^ (-k).toNat
  | _ => 0

/-- Error allowance of the fixed-point evaluations, in units of 2^-p. -/
def slack (p : Nat) : Int := 64 * p + 64

/-- FEXP2 (R252). -/
def fexp2 (f : Fmt) (x : Fl) : Nat :=
  match x with
  | .nan => f.nanCode
  | .inf n => if n then 0 else f.infCode
  | x =>
    if x.isZero then f.rne (.ofInt 1)
    else if (Fl.ofInt (f.bias + 2)).le x then f.infCode
    else if x.le (.ofInt (f.qmin - 2)) then 0
    else
      let n := x.toInt .rd
      if (Fl.ofInt n).cmp x = 0 then f.rne (.fin false 1 n)
      else
        let fr := x.sub (.ofInt n)
        ziv f fun p =>
          -- the fraction's power of two in units of 2^-p, then scaled by 2^n
          let w := p + 200
          let y := (toUnits w fr * ln2Units w / 2 ^ w).toNat
          let v : Int := expUnits w y
          let sc (k : Int) : Int := let k := k * 2 ^ (n + 400).toNat; k / 2 ^ (w + 400 - p)
          ⟨sc (v - slack w), sc (v + slack w) + 1⟩

/-- ln of m × 2^(1 − len) in [1, 2), in units of 2^-p. -/
def lnUnits (p m : Nat) : Int :=
  let len := bitLen m
  let one := 2 ^ (len - 1)
  let z := (m - one) * 2 ^ p / (m + one)
  -- artanh by its odd series, with the square of z as a ratio
  let rec go : Nat → Nat → Int → Nat → Int
    | 0, _, acc, _ => acc
    | fuel + 1, t, acc, i => if t = 0 then acc else go fuel (t * z / 2 ^ p * z / 2 ^ p) (acc + (t / (2 * i + 1) : Nat)) (i + 1)
  2 * go (p + 2) z 0 0

/-- FLOG2 (R252). -/
def flog2 (f : Fmt) (x : Fl) : Nat :=
  match x with
  | .nan => f.nanCode
  | .inf n => if n then f.nanCode else f.infCode
  | .fin n m e =>
    if m = 0 then f.signBit + f.infCode
    else if n then f.nanCode
    else
      let k : Int := e + bitLen m - 1
      if m = 2 ^ (bitLen m - 1) then f.rne (.ofInt k)
      else ziv f fun p =>
        let w := p + 64
        let v := k * 2 ^ w + lnUnits w m * 2 ^ w / ln2Units w
        ⟨(v - slack w) / 2 ^ 64, (v + slack w) / 2 ^ 64 + 1⟩

/-- Taylor series of sine (i from 1) and cosine (i from 0) of r units of 2^-p: t_(i+2) = −t_i r² / ((i + 1)(i + 2)). -/
def trigGo (p : Nat) (r : Int) : Nat → Int → Int → Nat → Int
  | 0, _, acc, _ => acc
  | fuel + 1, t, acc, i =>
    if t = 0 then acc
    else trigGo p r fuel (-(t * r / 2 ^ p * r / 2 ^ p / ((i + 1) * (i + 2) : Nat))) (acc + t) (i + 2)

/-- Sine (`odd` = 0) or cosine (`odd` = 1) of a finite value of magnitude at least 2^-14. -/
def trig (f : Fmt) (odd : Nat) (x : Fl) : Nat :=
  ziv f fun p =>
    let w := p + 64
    let big := w + 160
    let pi := piUnits big
    let xu := toUnits big x
    let n := (2 * xu + pi / 2) / pi
    let r := (xu - n * pi / 2) / 2 ^ 160
    let quad := (n % 4).toNat + odd
    let s := trigGo w r (w + 2) r 0 1
    let c := trigGo w r (w + 2) (2 ^ w) 0 0
    let v := match quad % 4 with | 0 => s | 1 => c | 2 => -s | _ => -c
    ⟨(v - slack w) / 2 ^ 64, (v + slack w) / 2 ^ 64 + 1⟩

/-- Whether a finite value's magnitude is below 2^-14. There sin x and tanh x round to x, and cos x to 1, in binary32 and
binary16. -/
def tiny : Fl → Bool
  | .fin _ m e => decide (e + bitLen m ≤ -14)
  | _ => false

/-- FSIN (R252). -/
def fsin (f : Fmt) (x : Fl) : Nat :=
  match x with
  | .nan | .inf _ => f.nanCode
  | x => if tiny x then f.rne x else trig f 0 x
/-- FCOS (R252). -/
def fcos (f : Fmt) (x : Fl) : Nat :=
  match x with
  | .nan | .inf _ => f.nanCode
  | x => if tiny x then f.rne (.ofInt 1) else trig f 1 x

/-- FTANH (R252). -/
def ftanh (f : Fmt) (x : Fl) : Nat :=
  match x with
  | .nan => f.nanCode
  | .inf n => f.rne (.fin n 1 0)
  | x =>
    if tiny x then f.rne x
    else if (Fl.ofInt 10).le x.abs then f.rne (.fin x.neg 1 0)
    else
      let c := ziv f fun p =>
        let w := p + 64
        -- e^(2|x|) as 2^k e^r
        let y := (toUnits w x.abs * 2)
        let l := ln2Units w
        let k := (y / l).toNat
        let v : Int := (expUnits w (y - k * l).toNat : Int) * 2 ^ k
        let err := slack w * 2 ^ (k + 2)
        let q (v : Int) := (v - 2 ^ w) * 2 ^ w / (v + 2 ^ w)
        ⟨q (v - err) / 2 ^ 64 - 1, q (v + err) / 2 ^ 64 + 1⟩
      c + (if x.neg then f.signBit else 0)

/-- FRSQ (R252). -/
def frsq (f : Fmt) (x : Fl) : Nat :=
  match x with
  | .nan => f.nanCode
  | .inf n => if n then f.nanCode else 0
  | .fin n m e =>
    if m = 0 then (if n then f.signBit else 0) + f.infCode
    else if n then f.nanCode
    else
      let odd := (e % 2).toNat
      let m := m * 2 ^ odd
      let e := e - odd
      let k := f.fb + 8 + bitLen m
      let r := isqrt (2 ^ (2 * k) / m)
      f.roundMag .rn false r (-(e / 2) - k) (r * r * m != 2 ^ (2 * k))

end Sys2Proof.Machine
end

