-- ==== Sys2Proof/Machine/Draw.lean ====
section
/-! DEFINITION. The rate sequencer and the rate store of a draw: batches, records, setup and raster (R146 to R164). -/

namespace Sys2Proof.Machine

/-- Order of primitive keys (R149). -/
def keyLt (a b : Nat × Nat × Nat) : Bool :=
  a.1 < b.1 || (a.1 == b.1 && (a.2.1 < b.2.1 || (a.2.1 == b.2.1 && a.2.2 < b.2.2)))

/-- Inserts behind every entry whose key is not greater. -/
def insertKey {α : Type} (key : α → Nat × Nat × Nat) (x : α) : List α → List α
  | [] => [x]
  | y :: ys => if keyLt (key x) (key y) then x :: y :: ys else y :: insertKey key x ys

/-- Bytes of a record of a tier; 0 for an absent section, which keeps none (R157). -/
def Draw.recBytes (d : Draw) (tier : Nat) : Nat :=
  if d.hasTier tier then 16 + 16 * ceilDiv (d.nexp tier) 4 else 0
/-- Free bytes of the rate store, judged as a total (R160). -/
def Draw.freeBytes (d : Draw) : Nat := d.rs * 384 - (d.recs.map RsRec.bytes).sum
/-- A record by number. -/
def Draw.rec? (d : Draw) (id : Nat) : Option RsRec := d.recs.find? fun (r : RsRec) => r.id == id
/-- A triangle by number. -/
def Draw.tri? (d : Draw) (id : Nat) : Option Tri := d.tris.find? fun (t : Tri) => t.id == id
/-- Whether `n` 16-byte units from `off` on lie in the rate store and meet no record. -/
def Draw.holeAt (d : Draw) (n off : Nat) : Bool :=
  decide (off + n ≤ 24 * d.rs) && d.recs.all fun (r : RsRec) =>
    r.bytes == 0 || decide (off + n ≤ r.off) || decide (r.off + r.bytes / 16 ≤ off)
/-- Places of the rate store at which a record of `n` units fits, among those at a border of a hole. -/
def Draw.holes (d : Draw) (n : Nat) : List Nat :=
  (0 :: d.recs.flatMap fun (r : RsRec) => [r.off + r.bytes / 16, r.off - n]).filter (d.holeAt n)
/-- Place of a record where the records stand close together, in the order of their allocation. -/
def Draw.packed (d : Draw) (id : Nat) : Nat :=
  ((d.recs.filter fun (r : RsRec) => decide (r.id < id)).map fun (r : RsRec) => r.bytes / 16).sum

/-- Adds a record; an absent section has one of no bytes, for the account alone. Which hole it takes is free, and without one
of its size the records move together (R160) (log 17). -/
def Draw.alloc (d : Draw) (tier : Nat) (elem : Word) (retain : Nat) (up : Option Nat) (key : Nat × Nat × Nat) :
    Draw × Nat :=
  let hs := d.holes (d.recBytes tier / 16)
  ({ d with recs := (d.recs.map fun (r : RsRec) => { r with off := if hs.isEmpty then d.packed r.id else r.off }) ++
                      [{ id := d.next, tier := tier, elem := elem, retain := retain, up := up, vals := [],
                         bytes := d.recBytes tier, key := key, nexp := if d.hasTier tier then d.nexp tier else 0,
                         off := if hs.isEmpty then d.packed d.next else hs.getD (Config.recordHole d.next % hs.length) 0 }],
            next := d.next + 1 }, d.next)
/-- Releases one hold on a record; at 0 it goes, and a meshlet's vertex records go with it (R159). -/
def Draw.release (d : Draw) (id : Nat) : Draw :=
  match d.rec? id with
  | none => d
  | some r =>
    if r.retain ≤ 1 then
      { d with recs := d.recs.filter fun (x : RsRec) => x.id != id && !(r.tier == 3 && x.tier == 4 && x.up == some id) }
    else { d with recs := d.recs.map fun (x : RsRec) => if x.id == id then { x with retain := r.retain - 1 } else x }
/-- Ancestor of a tier, from a record up. -/
def Draw.ancestor (d : Draw) (tier : Nat) : Nat → Option Nat → Option RsRec
  | 0, _ => none
  | _, none => none
  | fuel + 1, some id =>
    match d.rec? id with
    | none => none
    | some r => if r.tier == tier then some r else d.ancestor tier fuel r.up

/-- The record that a record's UP names: the nearest ancestor that has a record in the rate store. -/
def Draw.upOf (d : Draw) (r : RsRec) : Option RsRec :=
  let rec go : Nat → Option Nat → Option RsRec
    | 0, _ => none
    | _, none => none
    | f + 1, some id => (d.rec? id).bind fun x => if x.bytes = 0 then go f x.up else some x
  go 8 r.up

/-- The bytes of a record: its header, then its export slots (R157). -/
def Draw.recImage (d : Draw) (r : RsRec) : List Byte :=
  leBytes 4 r.retain ++ leBytes 1 r.tier ++ leBytes 1 r.nexp ++ leBytes 2 0 ++ leBytes 4 r.elem.toNat ++
    leBytes 4 (match d.upOf r with | some u => u.off | none => 0xFFFF_FFFF) ++
    (List.range ((r.bytes - 16) / 4)).flatMap fun j => leBytes 4 (r.vals.getD j 0).toNat

/-- First byte of a block's rate store in its core's scratchpad: the last rows of the block (R126, R158). -/
def Block.rateBase (b : Block) : Nat := 384 * (b.row0 + b.rows + b.saveRows * b.nteam)

/-- A block's draw changes: its records stand in the rows of the rate store (R157). -/
def State.putDraw (s : State) (b : Block) (d : Draw) : State :=
  (d.recs.filter fun (r : RsRec) => r.bytes != 0).foldl (fun (s : State) (r : RsRec) =>
    s.putSpad b.core (b.rateBase + 16 * r.off) (d.recImage r)) (s.putBlock { b with draw := some d })

/-- Stores the exports of an element (R156). -/
def Draw.export_ (d : Draw) (id : Nat) (vals : List Word) : Draw :=
  { d with recs := d.recs.map fun (r : RsRec) => if r.id == id then { r with vals := vals } else r }

/-- A record goes, whatever still holds it: that of an element removed by RKILL (R159). -/
def Draw.forget (d : Draw) (id : Nat) : Draw := { d with recs := d.recs.filter fun (r : RsRec) => r.id != id }

/-- A triangle finishes: its meshlet's record is released once (R159). -/
def Draw.finishTri (d : Draw) (t : Tri) : Draw :=
  ({ d with tris := d.tris.map fun (x : Tri) => if x.id == t.id then { x with finished := true } else x }).release t.meshlet

/-- One coarse pixel of a triangle is done with; its record is released, and with its last one the triangle finishes. -/
def Draw.finishCpix (d : Draw) (c : LaneElem) : Draw :=
  let d := match c.own with | some r => d.release r | none => d
  match c.tri.bind d.tri? with
  | none => d
  | some t =>
    let t := { t with open_ := t.open_ - 1 }
    let d := { d with tris := d.tris.map fun (x : Tri) => if x.id == t.id then t else x }
    if t.open_ = 0 then d.finishTri t else d

/-- Primitive key of the triangle of an element. -/
def Draw.elemKey (d : Draw) (c : LaneElem) : Nat × Nat × Nat := ((c.tri.bind d.tri?).map Tri.key).getD (0, 0, 0)

/-- A coarse pixel after its cpix batch: its samples wait, or it is done with. -/
def Draw.pushSample (d : Draw) (c : LaneElem) : Draw :=
  if d.hasTier 6 then { d with sampWait := insertKey d.elemKey c d.sampWait } else d.finishCpix c

/-- A quad of coarse pixels after raster. Without a cpix section its covered pixels go on at once. -/
def Draw.pushCpix (d : Draw) (quad : List LaneElem) : Draw :=
  if d.hasTier 5 then { d with cpixWait := d.cpixWait ++ [quad] }
  else (quad.filter LaneElem.live).foldl Draw.pushSample d

/-- A meshlet after its meshlet batch. -/
def Draw.pushVert (d : Draw) (m : MeshWait) : Draw := { d with vertWait := insertKey MeshWait.key m d.vertWait }

/-- Vertices and triangles of a meshlet entry. -/
def MeshWait.nvert (m : MeshWait) : Nat := fieldOf m.entry 0 1
/-- NTRI -/
def MeshWait.ntri (m : MeshWait) : Nat := fieldOf m.entry 1 1
/-- Whether a meshlet entry is in range (R149). -/
def meshOk (e : List Byte) : Bool :=
  let nv := fieldOf e 0 1; let nt := fieldOf e 1 1
  e.length == 16 && 1 ≤ nv && nv ≤ 64 && 1 ≤ nt && nt ≤ 124 && fieldOf e 2 2 == 0

/-- The unit as it reads the draw's tables: the context's own accesses at the home. -/
def Block.unit (b : Block) : Who :=
  { tid := 0, core := b.core, slot := 0, ctx := b.ctx, part := b.part, user := true }

/-- Bytes that a unit reads for a draw; a failed read gives none (log 17). -/
def State.unitRead (s : State) (b : Block) (va n : Nat) : List Byte :=
  match (s.readHomeVa b.unit .read (va % 2 ^ 48) n).2 with
  | .ok bs => bs
  | .error _ => []

/-- The meshlets of an object are swept, in order; entries out of range are culled (R149). -/
def State.pushMeshlets (s : State) (b : Block) (d : Draw) (obj : Nat) : Draw :=
  match d.rec? obj with
  | none => d
  | some r =>
    let ent := s.unitRead b (fieldOf d.root 0 8 + 16 * r.elem.toNat) 16
    let first := fieldOf ent 0 4
    (List.range (fieldOf ent 4 4)).foldl (fun d k =>
      let e := s.unitRead b (fieldOf d.root 8 8 + 16 * (first + k)) 16
      if meshOk e then
        let m : MeshWait := { key := (r.elem.toNat, k, 0), obj := obj, idx := first + k, entry := e, rec_ := 0, verts := [] }
        if d.hasTier 3 then { d with meshWait := insertKey MeshWait.key m d.meshWait }
        else
          let (d, id) := d.alloc 3 (BitVec.ofNat 32 m.idx) (m.ntri + 1) (some obj) m.key
          d.pushVert { m with rec_ := id }
      else d) d

/-- The objects are swept: they wait for object batches, or their meshlets do. -/
def State.pushObjects (s : State) (b : Block) (d : Draw) : Draw :=
  let objs := (d.recs.filter fun (r : RsRec) => r.tier == 2).map RsRec.id
  if d.hasTier 2 then { d with objWait := objs } else objs.foldl (s.pushMeshlets b) d

/-- A draw starts: the frame record and every object record are allocated (R160). -/
def State.startDraw (s : State) (b : Block) (root target : List Byte) (tiers : List DWord) (rs : Nat) : Draw :=
  let d : Draw := { root := root, target := target, tiers := tiers, rs := rs, recs := [], tris := [], batches := [],
                    rays := [], objWait := [], meshWait := [], vertWait := [], setupWait := [], cpixWait := [],
                    framed := false, sampWait := [], next := 1 }
  let (d, frame) := d.alloc 1 0 1 none (0, 0, 0)
  let d := (List.range (fieldOf root 0x18 4)).foldl
    (fun (d : Draw) k => (d.alloc 2 (BitVec.ofNat 32 k) 1 (some frame) (k, 0, 0)).1) d
  if d.hasTier 1 then d else s.pushObjects b { d with framed := true }

/-! ### Setup and raster (R153 to R155) -/

/-- Sample offsets (ox, oy) in sixteenths of a pixel (R154). -/
def sampleOff (k : Nat) : Int × Int :=
  match k with | 0 => (6, 2) | 1 => (14, 6) | 2 => (2, 10) | _ => (10, 14)

/-- rne_f32 of a value, as a value. -/
def r32 (x : Fl) : Fl := f32.dec (f32.rne x)
/-- rne_f32 of a quotient. -/
def div32 (a b : Fl) : Fl := f32.dec (f32.div .rn a b)
/-- A binary32 word as a value. -/
def w32 (x : Word) : Fl := f32.dec x.toNat

/-- A vertex in 1/256 pixels (R153): none drops the triangle. -/
def setupVertex (v : List Word) (width height : Nat) : Option (Int × Int × Word) :=
  let g (k : Nat) := w32 (v.getD k 0)
  let finite (x : Fl) : Bool := match x with | .fin _ _ _ => true | _ => false
  if !((Fl.ofInt 0).lt (g 3)) || !(finite (g 0) && finite (g 1) && finite (g 2) && finite (g 3)) then none
  else
    let half (n : Nat) : Fl := .fin false n (-1)
    let one := Fl.ofInt 1
    let xs := r32 ((r32 (Fl.add .rn (div32 (g 0) (g 3)) one)).mul (half width))
    let ys := r32 ((r32 (one.sub (div32 (g 1) (g 3)))).mul (half height))
    let lim := Fl.ofInt 65536
    if lim.le xs.abs || lim.le ys.abs || xs == .nan || ys == .nan then none
    else some ((xs.mul (.ofInt 256)).toInt .rn, (ys.mul (.ofInt 256)).toInt .rn, v.getD 3 0)

/-- The edge test of R154 for vertices in coverage order. -/
def insideEdge (xa ya xb yb px py : Int) : Bool :=
  let e := (xb - xa) * (py - ya) - (yb - ya) * (px - xa)
  decide (e > 0) || (e == 0 && (decide (yb > ya) || (yb == ya && decide (xb < xa))))

/-- Whether a triangle covers a point in 1/256 pixels. -/
def Tri.covers (t : Tri) (px py : Int) : Bool :=
  let x (i : Nat) := t.x.getD i 0
  let y (i : Nat) := t.y.getD i 0
  let (b, c) := if t.swap then (2, 1) else (1, 2)
  insideEdge (x 0) (y 0) (x b) (y b) px py && insideEdge (x b) (y b) (x c) (y c) px py &&
    insideEdge (x c) (y c) (x 0) (y 0) px py

/-- Position of bit `k` of a coarse pixel's coverage mask: pixel x, pixel y, sample (R155). -/
def cpixBit (cx cy k : Nat) : Nat × Nat × Nat := (2 * cx + k % 2, 2 * cy + k / 2 % 2, k / 4)

/-- Sample position in 1/256 pixels (R154). -/
def samplePos (x y k : Nat) : Int × Int := (256 * (x : Int) + 16 * (sampleOff k).1, 256 * (y : Int) + 16 * (sampleOff k).2)

/-- Coverage mask of a coarse pixel (R155); pixels outside the viewport have no samples. -/
def Tri.coverage (t : Tri) (width height cx cy : Nat) : BitVec 16 :=
  BitVec.ofNat 16 ((List.range 16).foldl (fun a k =>
    let (x, y, s) := cpixBit cx cy k
    let (px, py) := samplePos x y s
    if x < width && y < height && t.covers px py then a + 2 ^ k else a) 0)

/-- Coarse-pixel quads of a triangle in row-major order of their top-left coarse pixel, those with coverage (R150, R155). -/
def Tri.quads (t : Tri) (width height : Nat) : List (List LaneElem) :=
  let lo (l : List Int) : Nat := ((l.foldl min (l.headD 0)) / 1024 - 1).toNat
  let hi (l : List Int) (n : Nat) : Nat := Nat.min (((l.foldl max (l.headD 0)) / 1024 + 1).toNat) ((n + 3) / 4)
  let x0 := lo t.x; let y0 := lo t.y
  (List.range (hi t.y height + 1 - y0)).flatMap fun j => (List.range (hi t.x width + 1 - x0)).filterMap fun i =>
    let quad := (List.range 4).map fun q =>
      let cx := 2 * (x0 + i) + q % 2
      let cy := 2 * (y0 + j) + q / 2
      let cov := t.coverage width height cx cy
      ({ elem := BitVec.ofNat 32 (cx + 65536 * cy), live := cov != 0, own := none, up := some t.meshlet,
         tri := some t.id, cov := cov } : LaneElem)
    if quad.any LaneElem.live then some quad else none

/-- Whether an element of a tier may still come from a coarser one with a lower key than `k`. -/
def Draw.coarserBelow (d : Draw) (tier : Nat) (k : Nat × Nat × Nat) : Bool :=
  !d.framed || d.objWait.any (fun o => match d.rec? o with | some r => keyLt r.key k | none => false) ||
    (decide (4 ≤ tier) && d.meshWait.any (fun m => keyLt m.key k)) ||
    d.batches.any fun b => decide (b.tier < tier) && keyLt b.key k

/-- Whether work of a lower key than a meshlet's is still on its way to setup: quads enter in key order (R150). -/
def Draw.upstreamBelow (d : Draw) (k : Nat × Nat × Nat) : Bool :=
  d.coarserBelow 4 k || d.vertWait.any (fun m => keyLt m.key k) || d.batches.any fun b => b.tier == 4 && keyLt b.key k

/-- Setup of the next triangle (R153, R155, R159): none when no triangle can be taken. -/
def State.setupNext (s : State) (b : Block) (d : Draw) : Option Draw :=
  match d.setupWait with
  | [] => none
  | m :: rest =>
    if d.upstreamBelow m.key then none
    else
      let k := m.key.2.2
      let key := m.key
      let width := fieldOf d.root 0x1C 2
      let height := fieldOf d.root 0x1E 2
      let flags := fieldOf d.root 0x20 4
      let next : MeshWait := { m with key := (m.key.1, m.key.2.1, k + 1) }
      let last := decide (m.ntri ≤ k + 1)
      let idx := s.unitRead b (fieldOf m.entry 8 8 + 3 * k) 3
      let vs := idx.map fun i => (m.verts.getD i.toNat none)
      let named := idx.length == 3 && idx.all fun i => i.toNat < m.nvert
      let d := { d with setupWait := if last then rest else next :: rest }
      let drop (d : Draw) : Draw := d.release m.rec_
      let pos := vs.map fun v => (v.bind d.rec?).bind fun r => setupVertex r.vals width height
      let d := match named, pos with
        | true, [some (x0, y0, w0), some (x1, y1, w1), some (x2, y2, w2)] =>
          let area := (x1 - x0) * (y2 - y0) - (y1 - y0) * (x2 - x0)
          let front := decide (area > 0) != flags.testBit 2
          if area = 0 || (front && flags.testBit 1) || (!front && flags.testBit 0) then drop d
          else
            let t : Tri := { id := d.next, key := key, meshlet := m.rec_, verts := vs.filterMap id, x := [x0, x1, x2],
                             y := [y0, y1, y2], w := [w0, w1, w2], swap := decide (area < 0), open_ := 0,
                             finished := false }
            let quads := t.quads width height
            let n : Nat := (quads.map fun q => (q.filter LaneElem.live).length).sum
            if n = 0 then drop d
            else
              let d := { d with tris := d.tris ++ [{ t with open_ := n }], next := d.next + 1 }
              quads.foldl Draw.pushCpix d
        | _, _ => drop d
      some (if last then d.release m.rec_ else d)

/-! ### Batches (R150 to R152, R160) -/

/-- Bytes that a batch of a tier may need: N_t (R160). -/
def Draw.batchBytes (d : Draw) (lanes tier : Nat) : Nat :=
  if tier = 3 ∨ tier = 4 ∨ tier = 5 then lanes * d.recBytes tier else 0
/-- Whether a batch of a tier may start (R160). -/
def Draw.room (d : Draw) (lanes tier : Nat) : Bool :=
  if tier < 3 ∨ 5 < tier then true
  else decide (((([3, 4, 5].filter fun u => tier ≤ u).map fun u => d.batchBytes lanes u).sum) ≤ d.freeBytes)

/-- Takes quads from the front of a queue while lanes remain and no two cover one sample (log 18). -/
def takeQuads (covers : LaneElem → LaneElem → Bool) : Nat → List (List LaneElem) → List (List LaneElem) →
    List (List LaneElem) × List (List LaneElem)
  | 0, acc, ws => (acc, ws)
  | _, acc, [] => (acc, [])
  | n + 1, acc, q :: ws =>
    if acc.any (fun p => p.any fun a => q.any fun b => covers a b) then (acc, q :: ws)
    else takeQuads covers n (acc ++ [q]) ws

/-- Whether two coarse pixels, of one element number, share a covered sample. -/
def LaneElem.overlaps (a b : LaneElem) : Bool := a.elem == b.elem && (a.cov &&& b.cov) != 0

/-- Lanes of a list of elements from lane `k`. -/
def laneMap (k : Nat) (xs : List LaneElem) : Map LaneElem :=
  (xs.zipIdx k).filterMap fun (x, l) => if x = {} then none else some (l, x)

/-- Whether an element of the meshlet or vertex tier may enter a batch now, its coarser batch having ended (R418): one with lower keys
still to come does while the records that those need keep room for a full batch of every tier (R152, R160) (log 18). -/
def Draw.mayEnter (d : Draw) (lanes tier : Nat) (k : Nat × Nat × Nat) : Bool :=
  !d.coarserBelow tier k ||
    decide (d.batchBytes lanes tier + ([3, 4, 5].map fun u => d.batchBytes lanes u).sum ≤ d.freeBytes)

/-- Forms the ready batch of a tier for a team of `lanes` lanes, if there is one, and takes its elements. -/
def Draw.form (d : Draw) (lanes tier team : Nat) : Option (Draw × TierBatch) :=
  let mk (d : Draw) (key : Nat × Nat × Nat) (m : Map LaneElem) (ms : List MeshWait) : Option (Draw × TierBatch) :=
    some ({ d with next := d.next + 1 }, { id := d.next, tier := tier, key := key, lanes := m, mesh := ms, team := team })
  match tier with
  | 1 => if d.framed then none
    else mk { d with framed := true } (0, 0, 0) [(0, { elem := 0, live := true, own := some 1 })] []
  | 2 =>
    let go := d.objWait.take lanes
    match go with
    | [] => none
    | o :: _ =>
      let xs := go.map fun o => ({ elem := ((d.rec? o).map RsRec.elem).getD 0, live := true, own := some o, up := some 1 } : LaneElem)
      mk { d with objWait := d.objWait.drop lanes } (((d.rec? o).map RsRec.key).getD (0, 0, 0)) (laneMap 0 xs) []
  | 3 =>
    match (d.meshWait.take lanes).filter fun m => d.mayEnter lanes 3 m.key with
    | [] => none
    | m :: ms =>
      let go := ms.length + 1
      let (d, xs) := (m :: ms).foldl (fun (d, xs) m =>
        let (d, id) := Draw.alloc d 3 (BitVec.ofNat 32 m.idx) (m.ntri + 1) (some m.obj) m.key
        (d, xs ++ [({ elem := BitVec.ofNat 32 m.idx, live := true, own := some id, up := some m.obj } : LaneElem)])) (d, [])
      mk { d with meshWait := d.meshWait.drop go } m.key (laneMap 0 xs) (m :: ms)
  | 4 =>
    match (d.vertWait.take (lanes / 64)).filter fun m => d.mayEnter lanes 4 m.key with
    | [] => none
    | m :: ms =>
      let go := ms.length + 1
      let (d, xs) := (m :: ms).foldl (fun (d, xs) m =>
        let (d, vs) := (List.range m.nvert).foldl (fun (d, vs) v =>
          let e := BitVec.ofNat 32 (fieldOf m.entry 4 4 + v)
          let (d, id) := Draw.alloc d 4 e 1 (some m.rec_) m.key
          (d, vs ++ [({ elem := e, live := true, own := some id, up := some m.rec_ } : LaneElem)])) (d, [])
        (d, xs ++ vs ++ List.replicate (64 - m.nvert) {})) (d, [])
      mk { d with vertWait := d.vertWait.drop go } m.key (laneMap 0 xs) (m :: ms)
  | 5 =>
    match takeQuads LaneElem.overlaps (lanes / 4) [] d.cpixWait with
    | ([], _) => none
    | (q :: qs, rest) =>
      let (d, xs) := (q :: qs).flatten.foldl (fun (d, xs) c =>
        if c.live then
          let key := ((c.tri.bind (Draw.tri? d)).map Tri.key).getD (0, 0, 0)
          let (d, id) := Draw.alloc d 5 c.elem 1 c.up key
          (d, xs ++ [({ c with own := some id } : LaneElem)])
        else (d, xs ++ [c])) (d, [])
      mk { d with cpixWait := rest } ((((q.head?.bind LaneElem.tri).bind d.tri?).map Tri.key).getD (0, 0, 0)) (laneMap 0 xs) []
  | 6 =>
    let (go, rest) := takeQuads LaneElem.overlaps (lanes / 16) [] (d.sampWait.map fun c => [c])
    match go.flatten with
    | [] => none
    | c :: cs =>
      let xs := (c :: cs).flatMap fun c => (List.range 16).map fun k =>
        let (x, y, sm) := cpixBit (c.elem.toNat % 65536) (c.elem.toNat / 65536) k
        ({ elem := BitVec.ofNat 32 (x % 2 ^ 15 + 2 ^ 15 * (y % 2 ^ 15) + 2 ^ 30 * sm), live := c.cov.getLsbD k, own := none,
           up := if c.own.isSome then c.own else c.up, tri := c.tri, cov := if c.cov.getLsbD k then 1 else 0 } : LaneElem)
      mk { d with sampWait := rest.flatten } (d.elemKey c) (laneMap 0 xs) []
  | 7 =>
    let ready := (d.rays.filter fun (r : Ray) => r.hit.isSome && r.batch.isNone && r.ret.isNone).foldl
      (fun acc r => insertKey Ray.key r acc) []
    match if d.hasTier 7 then ready.take lanes else [] with
    | [] => none
    | r :: rs =>
      let ids := (r :: rs).map Ray.id
      let xs := (r :: rs).map fun r => ({ elem := BitVec.ofNat 32 r.lane, live := true, own := none, up := r.up,
                                          tri := some r.id } : LaneElem)
      mk { d with rays := d.rays.map fun (x : Ray) => if ids.contains x.id then { x with batch := some d.next } else x }
        r.key (laneMap 0 xs) []
  | _ => none

/-- The batch that a free team is given: the finest tier that is ready, and while one waits for room nothing coarser
(R152, R160). -/
def Draw.choose (d : Draw) (lanes team : Nat) : List Nat → Option (Draw × TierBatch)
  | [] => none
  | tier :: ts =>
    match d.form lanes tier team with
    | some x => if d.room lanes tier then some x else none
    | none => d.choose lanes team ts

/-- %elem of helper lanes without an element of their own, and the records they read: those of the lowest lane of the quad that holds
one. In the cpix and sample tiers each has its own (R161, R417). -/
def helperElems (tier : Nat) (m : Map LaneElem) (helpers : List Nat) : Map LaneElem :=
  if tier = 5 ∨ tier = 6 then m
  else helpers.foldl (fun (acc : Map LaneElem) l =>
    match ((List.range 4).map fun q => mget {} m (l / 4 * 4 + q)).find? LaneElem.live with
    | some x => mset {} acc l { mget {} m l with elem := x.elem, up := x.up }
    | none => acc) m

/-- A team starts a batch at its section's entry (R124, R150, R151, R402, R417). -/
def Team.startBatch (t : Team) (d : Draw) (bt : TierBatch) : Team :=
  let el (l : Nat) : LaneElem := mget {} bt.lanes l
  let live := t.lanesOf fun l => (el l).live
  let quad := t.lanesOf fun l => (List.range 4).any fun q => (el (l / 4 * 4 + q)).live
  let t := { t with tier := bt.tier, batch := some bt.id, elems := helperElems bt.tier bt.lanes (t.list (quad &&& ~~~live)), mask := quad, helper := quad &&& ~~~live,
                    preds := [], stack := [], latches := [], region := none, status := .ready, fetchWait := .firstIssue,
                    pc := (d.tierEntry bt.tier).truncate 48 }
  if bt.tier = 7 then
    t.putRun 0 live ((List.range 8).map fun k => fun l =>
      match (el l).tri.bind fun i => d.rays.find? fun (r : Ray) => r.id == i with
      | some r => r.vals.getD k 0
      | none => 0)
  else t

/-- Gives a free team of a draw its next batch, with the target end of a ray's sp edge (R200); with none left and none to come
the team ends (R151, R152). -/
def State.dispatchBatch (s : State) (t : Team) : State :=
  let b := s.blockOf t
  match b.draw with
  | none => s
  | some d =>
    let rayTeam := d.hasTier 7 && decide (((s.teams.filter fun u => u.blk == b.id).map Team.num).foldl Nat.max 0 = t.num)
    match d.choose t.lanes t.tid (if rayTeam then [7] else [6, 5, 4, 3, 2, 1]) with
    | some (d, bt) =>
      let s := s.putDraw b { d with batches := d.batches ++ [bt] }
      (if bt.tier = 7 then s.targetEnd t.core b.ctx false else s).putTeam (t.startBatch d bt)
    | none =>
      let fin := d.framed && d.objWait.isEmpty && d.meshWait.isEmpty && d.vertWait.isEmpty && d.setupWait.isEmpty &&
        d.cpixWait.isEmpty && d.sampWait.isEmpty && d.batches.isEmpty && d.rays.all fun (r : Ray) => r.ret.isSome
      if fin then s.endTeam t false else s

/-- Exported registers of a lane. -/
def Team.exports (t : Team) (d : Draw) (tier l : Nat) : List Word :=
  let first := bits (d.tierEntry tier).toNat 63 56
  (List.range (d.nexp tier)).map fun k => mget 0 t.vregs (1024 * (first + k) + l)

/-- A ray of an ended batch that no RRET has returned gives four zeros (R402). -/
def Ray.ended (r : Ray) (batch : Nat) : Ray :=
  if r.batch == some batch && r.ret.isNone then { r with ret := some [0, 0, 0, 0] } else r

/-- JOIN of the spawners' frames is decremented for rays that end (R402). -/
def State.endRays (s : State) (b : Block) : List Ray → State
  | [] => s
  | r :: rs => (s.decJoin b.unit r.frame).endRays b rs

/-- A batch ends (steps 2 to 4 of R151): exports, the records of removed elements, and what its elements descend to. -/
def State.endBatch (s : State) (t : Team) : State :=
  let b := s.blockOf t
  match b.draw, t.batch with
  | some d, some id =>
    match d.batches.find? fun (x : TierBatch) => x.id == id with
    | none => s
    | some bt =>
      let el (l : Nat) : LaneElem := mget {} t.elems l
      let was (l : Nat) : LaneElem := mget {} bt.lanes l
      let d := { d with batches := d.batches.filter fun (x : TierBatch) => x.id != id }
      let d := if bt.tier ≤ 5 then t.laneList.foldl (fun (d : Draw) l =>
          match (el l).live, (el l).own with
          | true, some r => d.export_ r (t.exports d bt.tier l)
          | _, _ => d) d
        else d
      let d : Draw := match bt.tier with
        | 1 => s.pushObjects b d
        | 2 => t.laneList.foldl (fun (d : Draw) l =>
            match (was l).live, (el l).live, (was l).own with
            | true, true, some r => s.pushMeshlets b d r
            | true, false, some r => d.forget r
            | _, _, _ => d) d
        | 3 => (bt.mesh.zipIdx).foldl (fun (d : Draw) (m, l) =>
            match (was l).own with
            | some r =>
              if (el l).live then d.pushVert { m with rec_ := r }
              else d.forget r
            | none => d) d
        | 4 => (bt.mesh.zipIdx).foldl (fun (d : Draw) (m, k) =>
            let vs := (List.range m.nvert).map fun v => if (el (64 * k + v)).live then (was (64 * k + v)).own else none
            let dead := (List.range m.nvert).filterMap fun v =>
              if (el (64 * k + v)).live then none else (was (64 * k + v)).own
            let d := { d with recs := d.recs.filter fun (x : RsRec) => !dead.contains x.id }
            { d with setupWait := insertKey MeshWait.key { m with verts := vs } d.setupWait }) d
        | 5 => t.laneList.foldl (fun (d : Draw) l =>
            if !(was l).live then d
            else if (el l).live then d.pushSample (was l) else d.finishCpix (was l)) d
        | 6 =>
          -- one coarse pixel for each 16 lanes
          (List.range (t.lanes / 16)).foldl (fun (d : Draw) k =>
            let c := was (16 * k)
            if c = {} then d else d.finishCpix { c with own := if d.hasTier 5 then c.up else none }) d
        | _ => d
      let s := if bt.tier = 7 then s.endRays b (d.rays.filter fun (r : Ray) => r.batch == some id && r.ret.isNone) else s
      let d : Draw := if bt.tier = 7 then { d with rays := d.rays.map fun (r : Ray) => r.ended id } else d
      let s := s.dropLocks fun l => l.tid == t.tid
      let d := { d with rays := d.rays.filter fun (r : Ray) => !(r.team == t.tid && r.ret.isSome) }
      let s := s.putDraw b d
      s.putTeam { t with batch := none, tier := 0, mask := 0, helper := 0, elems := [], latches := [], region := none,
                         rays := [] }
  | _, _ => s

end Sys2Proof.Machine
end

