-- ==== Sys2Proof/Machine/Control.lean ====
section
/-! DEFINITION. Control flow, divergence and register chunks: 0x00 to 0x0D (R128 to R130, R305 to R316). -/

namespace Sys2Proof.Machine

/-- Whether an engine operation or a collective of the team is outstanding (R151). -/
def Env.engBusy (e : Env) : Bool :=
  (e.s.coreSt e.t.core).ops.any (fun o => o.tid == e.t.tid) ||
    e.s.groups.any (fun g => g.insts.any fun c => c.tid == e.t.tid)

/-- Whether something that EXIT waits for is outstanding: an operation of the team, or a joined child (R151). -/
def Env.busy (e : Env) : Bool :=
  e.engBusy || match e.t.frame with | some f => e.s.join e.who f != 0 | none => false

/-- Resumption of R309: pops until lanes are found; none when the team ends. -/
def Team.resumeGo : Nat → Team → Option Team
  | 0, t => if t.mask = 0 then none else some t
  | fuel + 1, t =>
    if t.mask ≠ 0 then some t
    else
      match t.stack.getLast? with
      | none => none
      | some e =>
        let i := t.stack.length - 1
        let w := t.lanesOf fun l => t.getV 0 l == BitVec.ofNat 32 (i + 1)
        Team.resumeGo fuel { (t.putV 0 w fun _ => 0) with stack := t.stack.dropLast, mask := w, pc := e.pc }

/-- Whether the team's tier exports a register beyond the chunks that it holds (R128, R286). -/
def Env.exportBad (e : Env) : Bool :=
  match e.b.draw with
  | some d =>
    let first := bits (d.tierEntry e.t.tier).toNat 63 56
    decide (0 < d.nexp e.t.tier) && decide (32 * e.t.chunks < first + d.nexp e.t.tier)
  | none => false

/-- A team whose mask may have become empty continues at `pc`, resumes, or ends its batch or itself (R151, R309, R315). A
failure met in a handler waits for an RTT (R213). -/
def Env.leave (e : Env) (i : Instr) (t : Team) (pc : CodeOff) : Out :=
  let u : Team := { (t.shift none).unretry with pc := pc }
  match Team.resumeGo t.stack.length u with
  | some t => .next (e.counted.putTeam (if u.mask = 0 then { t with fetchWait := .upTo (e.s.clk + branchClk) } else t))
  | none =>
    if e.busy then e.stallAt (if e.engBusy then 8 else 9)
    else if e.b.draw.isSome && e.exportBad then e.trapTeam i .regLimit
    else
      match if e.t.trap.isSome then none else e.t.takeFailure true [0, 1, 2, 3] with
      | some (k, t, info, eaddr) => e.engineFault i k t info eaddr
      | none =>
        if t.batch.isSome then .next ((e.counted.putTeam t).endBatch t)
        else .next ((e.counted.putTeam t).endTeam t false)

/-- Whether `leave` completes now: it neither waits nor traps. -/
def Env.mayLeave (e : Env) (t : Team) (pc : CodeOff) : Bool :=
  (Team.resumeGo t.stack.length ({ (t.shift none).unretry with pc := pc })).isSome ||
    (!e.busy && !(e.b.draw.isSome && e.exportBad) &&
      (e.t.trap.isSome || (e.t.takeFailure true [0, 1, 2, 3]).isNone))

/-- Lanes that finish leave the mask for good (R309), and the mask that stands again after a retried instruction too. -/
def Team.finish (t : Team) (w : Lanes) : Team :=
  { t with mask := t.mask &&& ~~~w, helper := t.helper &&& ~~~w,
           restore := t.restore.map fun (x : Lanes × Lanes) => (x.1 &&& ~~~w, x.2 &&& ~~~w) }

/-- Lanes that arrive at an entry leave the mask and wait on it (R309). -/
def Team.arrive (t : Team) (w : Lanes) (i : Nat) : Team :=
  { t.waitOn w i with mask := t.mask &&& ~~~w, restore := t.restore.map fun (x : Lanes × Lanes) => (x.1 &&& ~~~w, x.2) }

/-- Index of the nearest entry of a kind; none when the other kind of M and C stands above it (R311). -/
def nearest (k : RejoinKind) (st : List Rejoin) : Option Nat :=
  match st.reverse.findIdx? fun e => e.kind != .pending with
  | none => none
  | some j =>
    let i := st.length - 1 - j
    if (st.getD i { pc := 0, kind := .pending }).kind = k then some i else none

/-! ### Guarded transfers (R307, R312) -/

/-- The link CALLX writes in each lane whose guard holds (R312). -/
def Team.putLink (t : Team) (link : Option Nat) (go : Lanes) (ret : CodeOff) : Team :=
  match link with
  | some d => t.putV d go fun _ => ret.truncate 32
  | none => t

/-- A guarded transfer whose pushes decode has found room for: `target` gives each lane's target; `link` is the register of
CALLX. The link is written after the
transfer's pushes, so a link into v0 stands over the wait numbers (DEDUCED, log 37). -/
def Env.transfer (e : Env) (i : Instr) (call : Bool) (target : Nat → CodeOff) (link : Option Nat) : Out :=
  let t := e.t
  let go := t.act i.hdr
  let ret := e.nextPc i
  let gs := e.groups i call target
  match gs with
  | [] => e.doneAt t none ret
  | run :: _ =>
    let taken := run.calls || run.dest != ret
    match e.pushes i gs with
    | none => e.goTo (t.putLink link go ret) run.dest taken
    | some t => e.goTo { t.putLink link go ret with mask := run.lanes } run.dest taken

/-- NOP (R310). -/
def execNop (f : FC) (s : State) : Out := issue (.nop f) s fun e => e.skip (.nop f)

/-- BRA (R307). -/
def execBra (f : FC) (s : State) : Out :=
  issue (.bra f) s fun e => e.transfer (.bra f) false (fun _ => e.offTarget f) none

/-- BRX (R312). -/
def execBrx (f : FV) (s : State) : Out :=
  issue (.brx f) s fun e => e.transfer (.brx f) false (e.laneTarget f) none

/-- CALL (R307). -/
def execCall (f : FC) (s : State) : Out :=
  issue (.call f) s fun e => e.transfer (.call f) true (fun _ => e.offTarget f) none

/-- CALLX (R312). -/
def execCallx (f : FV) (s : State) : Out :=
  issue (.callx f) s fun e => e.transfer (.callx f) true (e.laneTarget f) (some f.d.toNat)

/-- RET (R311). -/
def execRet (f : FC) (s : State) : Out :=
  issue (.ret f) s fun e =>
    match nearest .call e.t.stack with
    | none => e.trapTeam (.ret f) .regLimit
    | some i => e.leave (.ret f) (e.t.arrive e.t.mask i) (e.nextPc (.ret f))

/-- MARK (R311). -/
def execMark (f : FC) (s : State) : Out :=
  issue (.mark f) s fun e =>
    let t := e.t.push { pc := e.offTarget f, kind := .region }
    if t.depthLimit < t.stack.length then e.trapTeam (.mark f) .regLimit else e.done (.mark f) t none

/-- JOIN (R311). -/
def execJoin (f : FC) (s : State) : Out :=
  issue (.join f) s fun e =>
    match nearest .region e.t.stack with
    | none => e.trapTeam (.join f) .regLimit
    | some i => e.leave (.join f) (e.t.arrive e.t.mask i) (e.nextPc (.join f))

/-- BRK (R311) (log 38). -/
def execBrk (f : FC) (s : State) : Out :=
  issue (.brk f) s fun e =>
    match nearest .region e.t.stack with
    | none => e.trapTeam (.brk f) .regLimit
    | some i =>
      let w := e.t.act f.h
      if w = 0 then e.skip (.brk f) else e.leave (.brk f) (e.t.arrive w i) (e.nextPc (.brk f))

/-- LOOP (R313). -/
def execLoop (f : FC) (s : State) : Out :=
  issue (.loop f) s fun e =>
    let n := bits f.fn.toNat 19 15
    let x := e.t.sreg n - 1
    e.goTo (e.t.putS n x) (if x ≠ 0 then e.offTarget f else e.nextPc (.loop f)) (x != 0)

/-- The rays that lanes of a ray batch hold and have not returned (R150). -/
def Env.raysOf (e : Env) (w : Lanes) : List (Nat × Ray) :=
  match e.b.draw with
  | none => []
  | some d => (e.t.list w).filterMap fun l =>
      ((mget {} e.t.elems l).tri.bind fun i => d.rays.find? fun (r : Ray) => r.id == i && r.ret.isNone).map fun r => (l, r)

/-- Rays end with what their lanes return, and JOIN of the spawners' frames is decremented (R402). -/
def Env.returnRays (e : Env) (rs : List (Nat × Ray)) (val : Nat → List Word) : Env :=
  match e.b.draw with
  | none => e
  | some d =>
    let up (r : Ray) : Ray :=
      match rs.find? fun (x : Nat × Ray) => x.2.id == r.id with
      | some (l, _) => { r with ret := some (val l) }
      | none => r
    let s := e.s.putBlock { e.b with draw := some { d with rays := d.rays.map up } }
    { e with s := s.endRays e.b (rs.map Prod.snd) }

/-- EXIT (R315). A ray lane that ends without RRET returns four zeros (R402). -/
def execExit (f : FC) (s : State) : Out :=
  issue (.exit f) s fun e =>
    let i : Instr := .exit f
    let w := e.t.act f.h
    let t := e.t.finish w
    (if e.t.tier = 7 ∧ e.mayLeave t (e.nextPc i) then e.returnRays (e.raysOf (e.t.actNH f.h)) fun _ => [0, 0, 0, 0] else e).leave
      i t (e.nextPc i)

/-- YIELD: the team counts as the youngest of its pipe, and is not considered in the clk that follows (R314). -/
def execYield (f : FC) (s : State) : Out :=
  issue (.yield f) s fun e => .next (e.counted.putTeam
    { (e.t.shift none).unretry with age := e.s.clk, yielded := some e.s.clk, pc := e.nextPc (.yield f) })

/-- Takes the next chunk, which reads as zero in every lane (R128). -/
def Team.grow (t : Team) : Team :=
  { t with chunks := t.chunks + 1, vregs := mclear t.vregs (32768 * t.chunks) 32768 }

/-- Whether VGROW may take a chunk now: unreserved granules first, and for a protected block its own reserve (R129, R130). -/
def State.canGrow (s : State) (t : Team) : Bool :=
  let b := s.blockOf t
  let free := s.granulesFree t.core b.part
  let keep := s.reserve t.core b.part - s.reserveOf b
  decide (t.words + keep ≤ free)

/-- VGROW (R129). -/
def execVgrow (f : FC) (s : State) : Out :=
  issue (.vgrow f) s fun e =>
    if e.t.chunks = 8 ∨ ((e.s.part e.b.part).quota e.t.core).granules < e.t.words * (e.t.chunks + 1) then
      e.trapTeam (.vgrow f) .regLimit
    else if e.s.canGrow e.t then e.done (.vgrow f) e.t.grow none
    else e.park (.vgrow e.s.clk) 10

/-- VSHRINK (R128). -/
def execVshrink (f : FC) (s : State) : Out :=
  issue (.vshrink f) s fun e =>
    if e.t.chunks ≤ e.t.base then e.skip (.vshrink f)
    else
      let k := e.t.chunks - 1
      e.done (.vshrink f) { e.t with chunks := k, vregs := mclear e.t.vregs (32768 * k) 32768 } none

end Sys2Proof.Machine
end

