-- ==== Sys2Proof/Machine/Flags.lean ====
section
/-! DEFINITION. Comparisons, saturation and the flags that FN selects (R232, R295, R300, R318 to R320). The part has no
status flags: a comparison writes a predicate. -/

namespace Sys2Proof.Machine

/-- A comparison by its code 0 to 5, from the sign of a − b (R300). -/
def cmpCode (c : Nat) (d : Int) : Bool :=
  match c with
  | 0 => d == 0
  | 1 => d != 0
  | 2 => decide (d < 0)
  | 3 => decide (d ≤ 0)
  | 4 => decide (0 < d)
  | _ => decide (0 ≤ d)

/-- A floating comparison: on a NaN it answers `u` (R318). -/
def cmpFloat (c : Nat) (u : Bool) (a b : Fl) : Bool :=
  if a = .nan ∨ b = .nan then u else cmpCode c (a.cmp b)

/-- Clamps an exact result to the range of width `w`. -/
def clampInt (w : Nat) (uns : Bool) (x : Int) : Int :=
  if uns then max 0 (min ((2 ^ w : Nat) - 1) x)
  else max (-((2 ^ (w - 1) : Nat) : Int)) (min ((2 ^ (w - 1) : Nat) - 1) x)

/-- Saturated or wrapped result of width `w` (R320). -/
def fitInt (w : Nat) (uns sat : Bool) (x : Int) : Nat := wrapNat w (if sat then clampInt w uns x else x)

/-- W, SAT and X64 of an integer FN (R295). -/
def fnW (fn : BitVec 9) : Bool := fn.getLsbD 0
/-- SAT -/
def fnSat (fn : BitVec 9) : Bool := fn.getLsbD 1
/-- X64 -/
def fnLong (fn : BitVec 9) : Bool := fn.getLsbD 2

/-- An integer operand in a lane: 32 or 64 bits, signed or unsigned. -/
def Env.int (e : Env) (long uns : Bool) (c l : Nat) : Int :=
  if long then (if uns then ((e.src64 c l).toNat : Int) else (e.src64 c l).toInt)
  else (if uns then ((e.src32 c l).toNat : Int) else (e.src32 c l).toInt)

/-- Completes an integer instruction with a 32-bit or 64-bit result for each lane. -/
def Env.intOut (e : Env) (i : Instr) (d : Nat) (long : Bool) (f : Nat → Nat) : Out :=
  let w := e.t.act i.hdr
  if long then e.pair i d w fun l => BitVec.ofNat 64 (f l) else e.vec i d w fun l => BitVec.ofNat 32 (f l)

end Sys2Proof.Machine
end

