-- ==== Sys2Proof/Machine/Lanes.lean ====
section
/-! DEFINITION. The accesses of lanes: the spaces, their checks in order of priority, and what is read and written (R94,
R171 to R173, R204, R207, R342, R344). -/

namespace Sys2Proof.Machine

/-- Where a checked access goes. -/
inductive Target where
  /-- a virtual address with its translated pieces -/
  | va (a : Nat) (ps : List (Phys × Nat))
  /-- a byte of a core's scratchpad -/
  | spad (core a : Nat)
  /-- a byte of the chip scratchpad: 2^19 × slice + byte -/
  | chip (a : Nat)
  /-- a byte of the chip scratchpad that a resize has discarded, by its offset (R95) -/
  | gone (o : Nat)
  deriving DecidableEq, Repr

/-- Ranges of the home space that a checked access of `n` bytes reaches. A scratchpad byte counts as one beyond every physical
address: its home is on the team's own die (R197, R198). -/
def Target.ranges (n : Nat) : Target → List HomeRange
  | .va _ ps => ps.map fun p => (false, p.1.pa, p.2)
  | .spad c a => [(false, 2 ^ 60 + 2 ^ 24 * c + a, n)]
  | .chip a => [(true, a, n)]
  | .gone _ => []

/-- Whether an access is served at a home rather than in L1 (R198). -/
def Target.atHome (pol : Nat) : Target → Bool
  | .va _ ps => ps.any fun p => !p.1.cached pol
  | .spad .. | .gone _ => true
  | .chip _ => pol != 0

/-- Bytes of the chip scratchpad that a resize has discarded: free (log 87). -/
def State.goneBytes (s : State) (o n : Nat) : List Byte := (List.range n).map fun i => Config.goneByte s.tick (o + i)

/-- Whether a plain access of a core's team meets a range lock (R204) (log 129): `space` 0 by virtual address of the context, 1 by
block-relative address of block `owner`. -/
def State.locked (s : State) (core ctx space owner a n : Nat) (write : Bool) : Bool :=
  (s.coreSt core).locks.any fun l =>
    l.space == space && (if space = 0 then l.ctx == ctx else l.owner == owner) &&
      decide (a < l.base + l.len) && decide (l.base < a + n) && (l.dest || l.noRead || write)

/-- The member of the block's gang that a SPACE 2 address names; outside a gang 0 names the block itself (R171). -/
def State.member (s : State) (b : Block) (j : Int) : Option Block :=
  if b.gangN = 0 then (if j = 0 then some b else none)
  else if j < 0 ∨ (b.gangN : Int) ≤ j then none
  else if j = b.gang then some b
  else s.blocks.find? fun c => c.gangId == b.gangId && decide ((c.gang : Int) = j)

/-- A checked scratchpad byte of a block (R171). -/
def Block.spadOk (b : Block) (a : Int) (n : Nat) : Bool :=
  decide (0 ≤ a) && decide (a + n ≤ 384 * b.rows) && decide (a % n = 0)

/-- Chip-scratchpad byte of a partition offset (R83, R84) (log 60): until RELEASE the size is that of before the resize, where
that is the greater, and the bytes beyond the slices have been discarded (R91, R95) (log 87). -/
def Part.chipAt (p : Part) (o : Int) (n : Nat) : Option Target :=
  let l := p.sliceList
  let size := 524288 * Nat.max l.length (setBits 128 p.oldSlices.toNat).length
  if o < 0 ∨ (size : Int) < o + n then none
  else if o.toNat < 524288 * l.length then some (.chip (524288 * l.getD (o.toNat / 524288) 0 + o.toNat % 524288))
  else some (.gone o.toNat)

/-- Translates a checked access of SPACE 0 after the range locks (R207). -/
def State.checkVa (s : State) (w : Who) (kind : AccKind) (va n : Nat) : State × Except MFault Target :=
  let write := match kind with | .read => false | _ => true
  if s.locked w.core w.ctx 0 0 va n write then (s, .error { cause := .rangeLocked, va := va })
  else
    match s.translateAll w kind (pieces va (n + 1) n) with
    | (s, .error f) => (s, .error f)
    | (s, .ok ps) => (s, .ok (.va va ps))

/-- Whether an access of a scratchpad reads data in which there is an uncorrectable error (R207) (log 105). In memory each piece is
judged as it is translated. -/
def State.targetBad (s : State) (w : Who) (kind : AccKind) (t : Target) (n : Nat) : Bool :=
  match t with
  | .spad c a => kind.readsData &&
      (s.spadPoison.any fun x => x.1 == c && decide (a < 4 * x.2 + 4) && decide (4 * x.2 < a + n)) &&
      !s.remoteQ.any fun r => r.tid == w.tid && r.bar.isNone && (s.block? r.dst).any fun m => m.core == c &&
        decide (384 * m.row0 + r.addr ≤ a) && decide (a + n ≤ 384 * m.row0 + r.addr + r.bytes.length)
  | .chip a => s.dataBad w kind true a n
  | .va .. | .gone _ => false

/-- Forms the address of an access through SPACE and SEG and checks it, but for errors in the data of a scratchpad (R171, R173, R204,
R354). -/
def Env.checkAddr (e : Env) (s : State) (kind : AccKind) (space seg : Nat) (val off : Int) (n : Nat) :
    State × Except MFault Target :=
  let w := e.who
  let write := match kind with | .read => false | _ => true
  let atomic := match kind with | .atomic => true | _ => false
  let a := BitVec.toInt (BitVec.ofInt 64 (val + off))
  match space with
  | 0 =>
    match segAddr (e.b.seg seg) seg val off n write false with
    | none => (s, .error { cause := .segLimit })
    | some va =>
      if atomic && va % n != 0 then (s, .error { cause := .misaligned, va := va }) else s.checkVa w kind va n
  | 1 =>
    if !e.b.spadOk a n then (s, .error { cause := .segLimit })
    else if s.locked w.core w.ctx 1 e.b.id a.toNat n write then (s, .error { cause := .rangeLocked })
    else (s, .ok (.spad w.core (e.b.spadAddr a.toNat)))
  | 2 =>
    match s.member e.b (a / 393216) with
    | none => (s, .error { cause := .segLimit })
    | some m =>
      let r := a % 393216
      if !m.spadOk r n then (s, .error { cause := .segLimit })
      else if m.core == w.core && s.locked w.core w.ctx 1 m.id r.toNat n write then
        (s, .error { cause := .rangeLocked })
      else (s, .ok (.spad m.core (m.spadAddr r.toNat)))
  | _ =>
    if a % n ≠ 0 then (s, .error { cause := .segLimit })
    else
      match (s.part w.part).chipAt a n with
      | none => (s, .error { cause := .partBounds })
      | some t => (s, .ok t)

/-- Checks and forms the address of an access through SPACE and SEG (R171, R173, R204, R207, R354). -/
def Env.check (e : Env) (s : State) (kind : AccKind) (space seg : Nat) (val off : Int) (n : Nat) :
    State × Except MFault Target :=
  match e.checkAddr s kind space seg val off n with
  | (s, .ok t) => if s.targetBad e.who kind t n then (s, .error { cause := .dataError }) else (s, .ok t)
  | x => x

/-- Whether an access of SPACE 2 would reach a gang member that is migrating alone (R94). -/
def State.migrating (s : State) (b : Block) (j : Int) : Bool :=
  match s.member b j with
  | some m => m.id != b.id && m.saved.isSome
  | none => false

/-- Block-relative place of a scratchpad byte of a core: the block that holds its row. -/
def State.ownerOf (s : State) (core a : Nat) : Option (Block × Nat) :=
  (s.blocks.find? fun (b : Block) => b.core == core && b.saved.isNone && decide (384 * b.row0 ≤ a) &&
      decide (a < 384 * (b.row0 + b.rows))).map fun b => (b, a - 384 * b.row0)

/-- A team's own remote writes to a peer's scratchpad are applied before its next access there. -/
def State.settleRemote (s : State) (w : Who) (core : Nat) : State :=
  if core = w.core then s else s.flushRemote fun r => r.tid == w.tid

/-- Before a team's access of a scratchpad, which is one of its own die and of policy DEF (R197, R198): a write passes none of
its loads and no store to a home of this die, a read no load to one. -/
def State.beforeSpad (s : State) (w : Who) (write : Bool) : State :=
  let x : HomeRange := (false, 2 ^ 60, 0)
  let s := if write then s.readLoads fun e => e.tid == w.tid else s.settleLoads w.tid w.seq [x]
  let s := if s.storeQ.any fun e => e.tid == w.tid && (e.io || (write && s.inOrder w.part w.core e.range x)) then
    s.flushStores w.ctx fun e => e.tid == w.tid else s
  s.settlePassed

/-- Reads a checked access. -/
def State.loadAt (s : State) (w : Who) (pol : Nat) (priv : Bool) (t : Target) (n : Nat) : State × List Byte :=
  match t with
  | .va _ ps => s.readPieces w pol false priv ps
  | .spad c a => let s := (s.settleRemote w c).beforeSpad w false; (s, mgetList 0 (s.coreSt c).spad a n)
  | .gone o => (s, s.goneBytes o n)
  | .chip a => s.readPieces w pol true false ((pieces a (n + 1) n).map fun (x, k) => ({ pa := x, pbmt := 0 }, k))

/-- Writes a checked access. -/
def State.storeAt (s : State) (w : Who) (pol : Nat) (priv : Bool) (t : Target) (bs : List Byte) : State :=
  match t with
  | .va _ ps => s.writePieces w pol false priv bs ps
  | .gone _ => s
  | .spad c a =>
    let s := s.beforeSpad w true
    match if c = w.core then none else s.ownerOf c a, s.team? w.tid with
    | some (m, r), some t => s.sendRemote { tid := w.tid, src := t.blk, dst := m.id, bar := none, addr := r, bytes := bs }
    | _, _ =>
      (s.flushRemote fun r => r.tid == w.tid).putSpad c a bs
  | .chip a => s.writePieces w pol true false bs
      ((pieces a (bs.length + 1) bs.length).map fun (x, k) => ({ pa := x, pbmt := 0 }, k))

/-- Reads at the home, whatever the policy (R354). -/
def State.homeLoad (s : State) (t : Target) (n : Nat) : List Byte :=
  match t with
  | .va _ ps => ps.flatMap fun (p, k) => s.homeRead false p.pa k
  | .spad c a => mgetList 0 (s.coreSt c).spad a n
  | .chip a => s.homeRead true a n
  | .gone o => s.goneBytes o n

/-- Writes at the home. -/
def State.homeStore (s : State) (ctx : Nat) (t : Target) (bs : List Byte) : State :=
  match t with
  | .va _ ps => s.writeHomePieces ctx false bs ps
  | .spad c a => s.putSpad c a bs
  | .chip a => (s.homeWrite true a bs).noteWriter true a ctx
  | .gone _ => s

/-- Before an access at the home: the team's waiting stores to the line are performed, and its core's copy of the line is
written back and dropped (R194, R198). -/
def State.toHome (s : State) (w : Who) (t : Target) (n : Nat) : State :=
  match t with
  | .va _ ps => ps.foldl (fun (s : State) (p : Phys × Nat) =>
      (s.settle w.tid w.ctx false p.1.pa p.2).evictRange w.core false p.1.pa p.2) s
  | .spad c _ => s.settleRemote w c
  | .chip a => (s.settle w.tid w.ctx true a n).evictRange w.core true a n
  | .gone _ => s

/-! ### Accesses of several lanes -/

/-- What a lane's access met. -/
structure LaneAcc where
  lane : Nat
  /-- VA for SPACE 0, else the address of R171 -/
  addr : Nat
  /-- none: a helper's access that would fault -/
  tgt : Option Target
  deriving DecidableEq, Repr

/-- Conflict clk of the passes of an access: in each pass, the largest number of distinct words that one bank of the core's
scratchpad delivers, beyond the first (R137). -/
def Env.conflicts (e : Env) (n : Nat) (as : List LaneAcc) : Nat :=
  ((List.range e.t.words).map fun j =>
    let ws := ((as.filter fun x => x.lane / 32 == j).flatMap fun x => match x.tgt with
      | some (.spad c a) => if c = e.t.core then (List.range (ceilDiv n 4)).map (a / 4 + ·) else []
      | _ => []).dedup
    ((List.range 96).map fun b => (ws.filter fun w => w % 96 == b).length).foldl Nat.max 0 - 1).sum

/-- Counts the conflict clk of accesses to a scratchpad: they hold the pipe too (R71, R137, R143) (log 106). -/
def Env.bankedAt (e : Env) (s : State) (n : Nat) (as : List LaneAcc) : State :=
  let k := e.conflicts n as
  if k = 0 then s
  else ({ s with sel := { s.sel with held := s.sel.held + k } } : State).count e.b.ctx 7 k |>.count e.b.ctx 3 k

/-- Counts the conflict clk of an access through a space. -/
def Env.banked (e : Env) (s : State) (space n : Nat) (as : List LaneAcc) : State :=
  if space = 1 ∨ space = 2 then e.bankedAt s n as else s

/-- Checks the accesses of a list of lanes in ascending order. A helper's failure gives no target (R124). -/
def Env.checkLanes (e : Env) (chk : State → Nat → State × Except MFault Target) (addr : Nat → Nat) :
    State → List Nat → State × List LaneAcc × List LaneFault
  | s, [] => (s, [], [])
  | s, l :: ls =>
    match chk s l with
    | (s, .ok t) =>
      let (s, as, fs) := e.checkLanes chk addr s ls
      (s, { lane := l, addr := (match t with | .va a _ => a | _ => addr l), tgt := some t } :: as, fs)
    | (s, .error f) =>
      let (s, as, fs) := e.checkLanes chk addr s ls
      if e.t.helper.getLsbD l then (s, { lane := l, addr := f.va, tgt := none } :: as, fs)
      else (s, as, { lane := l, f := f } :: fs)

/-- Reads the lanes' accesses in ascending order; a helper without a target reads 0. -/
def State.loadLanes (s : State) (w : Who) (pol : Nat) (priv : Bool) (n : Nat) :
    List LaneAcc → State × List (Nat × Nat)
  | [] => (s, [])
  | a :: as =>
    let (s, x) := match a.tgt with
      | some t => let (s, bs) := s.loadAt w pol priv t n; (s, leNat bs)
      | none => (s, 0)
    let (s, r) := s.loadLanes w pol priv n as
    (s, (a.lane, x) :: r)

/-- Writes the lanes' values in ascending order, so that the highest-numbered lane's is the one kept (R137, R190). -/
def State.storeLanes (s : State) (w : Who) (pol : Nat) (priv : Bool) (n : Nat) (val : Nat → Nat) :
    List LaneAcc → State
  | [] => s
  | a :: as =>
    (match a.tgt with
     | some t => s.storeAt w pol priv t (leBytes n (val a.lane))
     | none => s).storeLanes w pol priv n val as

/-! ### Reads that the team makes once (R331, R346, R377) -/

/-- A plain DEF read of a context virtual address by the team, range locks included. -/
def Env.readOnce (e : Env) (s : State) (va n : Nat) : State × Except MFault (List Byte) :=
  match s.checkVa e.who .read (va % 2 ^ 48) n with
  | (s, .error f) => (s, .error f)
  | (s, .ok t) => let (s, bs) := s.loadAt e.who 0 false t n; (s, .ok bs)

/-- A table or descriptor that lanes `w` read once: `ok` judges its bytes, DESC_INVALID traps, a fault is the lane cause of
every non-helper lane, and lanes that are all helpers go on with none (R331, R346). `none` also for lanes that are none. -/
def Env.readTable (e : Env) (i : Instr) (w : Lanes) (va n align : Nat) (ok : List Byte → Bool)
    (k : Env → Option (List Byte) → Out) : Out :=
  let nh := w &&& ~~~e.t.helper
  if w = 0 then k e none
  else if va % align ≠ 0 then (if nh = 0 then k e none else e.trapTeam i .descInvalid)
  else
    match e.readOnce e.s va n with
    | (s, .error f) => if nh = 0 then k { e with s := s } none
        else ({ e with s := s }).trapLanes i s e.t (faultAll e.t nh f)
          (Config.infoField 1 % 16) 0 (Config.infoField 3 % 8) 0
    | (s, .ok bs) =>
      if ok bs then k { e with s := s } (some bs)
      else if nh = 0 then k { e with s := s } none else ({ e with s := s }).trapTeam i .descInvalid

end Sys2Proof.Machine
end

