-- ==== Sys2Proof/Machine/Fp.lean ====
section
/-! DEFINITION. Floating point: 0x40 to 0x58 (R325 to R329). -/

namespace Sys2Proof.Machine

/-- Code of a floating operand in a lane: a constant is converted exactly, everything else is a bit pattern (R325). -/
def Env.fpCode (e : Env) (f : Fmt) (c l : Nat) : Nat :=
  if isConst c then f.rne (.ofInt (constVal c))
  else (if f.eb = 11 then (e.src64 c l).toNat else (e.src32 c l).toNat) % (2 * f.signBit)

/-- Code of an operand under `.ftz` (R231). -/
def Fmt.inCode (f : Fmt) (ftz : Bool) (c : Nat) : Nat := if ftz then f.flush c else c
/-- Code of a result under `.ftz` (R231). -/
def Fmt.outCode (f : Fmt) (ftz : Bool) (c : Nat) : Nat := if ftz then f.flush c else c

/-- Value of a floating operand. -/
def Env.fp (e : Env) (f : Fmt) (ftz : Bool) (c l : Nat) : Fl := f.dec (f.inCode ftz (e.fpCode f c l))

/-- Format of SEL (R297). -/
def selFmt (fn : BitVec 9) : Fmt := if fn.toNat % 64 = 0 then f32 else f16
/-- Mode of FN (R277). -/
def fnMode (fn : BitVec 9) : Rnd := Rnd.ofCode (bits fn.toNat 8 7)
/-- `.ftz` of FN (R277). -/
def fnFtz (fn : BitVec 9) : Bool := fn.getLsbD 6

/-- A binary32 or binary16 instruction: `op` gives the result's code. -/
def Env.fpOut (e : Env) (i : Instr) (f : FV) (op : Fmt → Rnd → (Nat → Fl) → Nat → Nat) : Out :=
  let m := selFmt f.fn
  let z := fnFtz f.fn
  e.vec i f.d.toNat (e.t.act i.hdr) fun l =>
    BitVec.ofNat 32 (m.outCode z (op m (fnMode f.fn) (fun c => e.fp m z c l) l))

/-- FRND on a value (R327). -/
def frnd (f : Fmt) (mode : Rnd) (a : Fl) : Nat :=
  match a with
  | .fin n _ _ => f.rne (.fin n (a.toInt mode).natAbs 0)
  | x => f.rne x

/-- FSCALE on a value (R327). The exponent step is clamped where every further step gives the same result (log 65). -/
def fscale (f : Fmt) (mode : Rnd) (a : Fl) (b : Int) : Nat :=
  match a with
  | .fin n m e => if m = 0 then f.rne a else f.rnd mode (.fin n m (e + max (-4000) (min 4000 b)))
  | x => f.rne x

/-- FCLASS on a code (R327). -/
def fclass (f : Fmt) (c : Nat) : Nat :=
  let neg := c.testBit (f.eb + f.fb)
  let e := (c / 2 ^ f.fb) % 2 ^ f.eb
  let m := c % 2 ^ f.fb
  let bit :=
    if e = 2 ^ f.eb - 1 then
      (if m = 0 then (if neg then 0 else 7) else if m.testBit (f.fb - 1) then 9 else 8)
    else if e = 0 then
      (if m = 0 then (if neg then 3 else 4) else (if neg then 2 else 5))
    else (if neg then 1 else 6)
  2 ^ bit

/-- The sum of two values and the sum of a product and a value, with the sign of an exact zero (R326). -/
def Fl.fma (mode : Rnd) (a b c : Fl) : Fl := Fl.add mode (a.mul b) c

/-- FADD -/
def execFadd (f : FV) (s : State) : Out :=
  issue (.fadd f) s fun e => e.fpOut (.fadd f) f fun m r v _ => m.rnd r (Fl.add r (v f.sa.toNat) (v f.sb.toNat))
/-- FMUL -/
def execFmul (f : FV) (s : State) : Out :=
  issue (.fmul f) s fun e => e.fpOut (.fmul f) f fun m r v _ => m.rnd r ((v f.sa.toNat).mul (v f.sb.toNat))
/-- FFMA -/
def execFfma (f : FV) (s : State) : Out :=
  issue (.ffma f) s fun e => e.fpOut (.ffma f) f fun m r v _ =>
    m.rnd r (Fl.fma r (v f.sa.toNat) (v f.sb.toNat) (v f.sc.toNat))
/-- FMIN -/
def execFmin (f : FV) (s : State) : Out :=
  issue (.fmin f) s fun e => e.fpOut (.fmin f) f fun m _ v _ => m.rne (fminNum (v f.sa.toNat) (v f.sb.toNat))
/-- FMAX -/
def execFmax (f : FV) (s : State) : Out :=
  issue (.fmax f) s fun e => e.fpOut (.fmax f) f fun m _ v _ => m.rne (fmaxNum (v f.sa.toNat) (v f.sb.toNat))
/-- FRND -/
def execFrnd (f : FV) (s : State) : Out :=
  issue (.frnd f) s fun e => e.fpOut (.frnd f) f fun m r v _ => frnd m r (v f.sa.toNat)
/-- FCLASS: an integer result, which is not flushed. -/
def execFclass (f : FV) (s : State) : Out :=
  issue (.fclass f) s fun e => e.vec (.fclass f) f.d.toNat (e.t.act f.h) fun l =>
    let m := selFmt f.fn
    BitVec.ofNat 32 (fclass m (m.inCode (fnFtz f.fn) (e.fpCode m f.sa.toNat l)))
/-- FSCALE -/
def execFscale (f : FV) (s : State) : Out :=
  issue (.fscale f) s fun e => e.fpOut (.fscale f) f fun m r v l =>
    fscale m r (v f.sa.toNat) (e.src32 f.sb.toNat l).toInt
/-- FRCP -/
def execFrcp (f : FV) (s : State) : Out :=
  issue (.frcp f) s fun e => e.fpOut (.frcp f) f fun m r v _ => m.div r (.fin false 1 0) (v f.sa.toNat)
/-- FRSQ -/
def execFrsq (f : FV) (s : State) : Out :=
  issue (.frsq f) s fun e => e.fpOut (.frsq f) f fun m _ v _ => Machine.frsq m (v f.sa.toNat)
/-- FSQRT -/
def execFsqrt (f : FV) (s : State) : Out :=
  issue (.fsqrt f) s fun e => e.fpOut (.fsqrt f) f fun m r v _ => m.sqrt r (v f.sa.toNat)
/-- FEXP2 -/
def execFexp2 (f : FV) (s : State) : Out :=
  issue (.fexp2 f) s fun e => e.fpOut (.fexp2 f) f fun m _ v _ => Machine.fexp2 m (v f.sa.toNat)
/-- FLOG2 -/
def execFlog2 (f : FV) (s : State) : Out :=
  issue (.flog2 f) s fun e => e.fpOut (.flog2 f) f fun m _ v _ => Machine.flog2 m (v f.sa.toNat)
/-- FSIN -/
def execFsin (f : FV) (s : State) : Out :=
  issue (.fsin f) s fun e => e.fpOut (.fsin f) f fun m _ v _ => Machine.fsin m (v f.sa.toNat)
/-- FCOS -/
def execFcos (f : FV) (s : State) : Out :=
  issue (.fcos f) s fun e => e.fpOut (.fcos f) f fun m _ v _ => Machine.fcos m (v f.sa.toNat)
/-- FTANH -/
def execFtanh (f : FV) (s : State) : Out :=
  issue (.ftanh f) s fun e => e.fpOut (.ftanh f) f fun m _ v _ => Machine.ftanh m (v f.sa.toNat)

/-- A binary64 instruction (R328). -/
def Env.fp64Out (e : Env) (i : Instr) (f : FV) (op : Rnd → (Nat → Fl) → Nat) : Out :=
  e.pair i f.d.toNat (e.t.act i.hdr) fun l => BitVec.ofNat 64 (op (fnMode f.fn) fun c => e.fp f64 false c l)

/-- DADD -/
def execDadd (f : FV) (s : State) : Out :=
  issue (.dadd f) s fun e => e.fp64Out (.dadd f) f fun r v => f64.rnd r (Fl.add r (v f.sa.toNat) (v f.sb.toNat))
/-- DMUL -/
def execDmul (f : FV) (s : State) : Out :=
  issue (.dmul f) s fun e => e.fp64Out (.dmul f) f fun r v => f64.rnd r ((v f.sa.toNat).mul (v f.sb.toNat))
/-- DFMA -/
def execDfma (f : FV) (s : State) : Out :=
  issue (.dfma f) s fun e => e.fp64Out (.dfma f) f fun r v =>
    f64.rnd r (Fl.fma r (v f.sa.toNat) (v f.sb.toNat) (v f.sc.toNat))
/-- DMIN -/
def execDmin (f : FV) (s : State) : Out :=
  issue (.dmin f) s fun e => e.fp64Out (.dmin f) f fun _ v => f64.rne (fminNum (v f.sa.toNat) (v f.sb.toNat))
/-- DMAX -/
def execDmax (f : FV) (s : State) : Out :=
  issue (.dmax f) s fun e => e.fp64Out (.dmax f) f fun _ v => f64.rne (fmaxNum (v f.sa.toNat) (v f.sb.toNat))

/-- One half of a paired operand: a constant's value stands in both halves (R325, R329). -/
def Env.halfCode (e : Env) (m : Fmt) (c l h : Nat) : Nat :=
  if isConst c then m.rne (.ofInt (constVal c)) else (e.src32 c l).toNat / 2 ^ (16 * h) % 65536

/-- A paired-half instruction (R329). -/
def Env.halves (e : Env) (i : Instr) (f : FV) (op : Fmt → Rnd → (Nat → Fl) → Nat) : Out :=
  let m := if f.fn.toNat % 64 = 0 then f16 else bf16
  let z := fnFtz f.fn
  let one (l h : Nat) : Nat :=
    m.outCode z (op m (fnMode f.fn) fun c => m.dec (m.inCode z (e.halfCode m c l h)))
  e.vec i f.d.toNat (e.t.act i.hdr) fun l => BitVec.ofNat 32 (one l 0 + 65536 * one l 1)

/-- HADD2 -/
def execHadd2 (f : FV) (s : State) : Out :=
  issue (.hadd2 f) s fun e => e.halves (.hadd2 f) f fun m r v => m.rnd r (Fl.add r (v f.sa.toNat) (v f.sb.toNat))
/-- HMUL2 -/
def execHmul2 (f : FV) (s : State) : Out :=
  issue (.hmul2 f) s fun e => e.halves (.hmul2 f) f fun m r v => m.rnd r ((v f.sa.toNat).mul (v f.sb.toNat))
/-- HFMA2 -/
def execHfma2 (f : FV) (s : State) : Out :=
  issue (.hfma2 f) s fun e => e.halves (.hfma2 f) f fun m r v =>
    m.rnd r (Fl.fma r (v f.sa.toNat) (v f.sb.toNat) (v f.sc.toNat))
/-- HMAX2 -/
def execHmax2 (f : FV) (s : State) : Out :=
  issue (.hmax2 f) s fun e => e.halves (.hmax2 f) f fun m _ v => m.rne (fmaxNum (v f.sa.toNat) (v f.sb.toNat))

end Sys2Proof.Machine
end

