-- ==== Sys2Proof/Machine/Convert.lean ====
section
/-! DEFINITION. Conversion, companding and packed dot: 0x60 to 0x68 (R330 to R334, R242, R249). -/

namespace Sys2Proof.Machine

/-- Value of a source of a type code in a lane (R298, R330). -/
def Env.cvtSrc (e : Env) (ty : Nat) (ftz : Bool) (c l : Nat) : Fl :=
  let int (w : Nat) (uns : Bool) : Fl :=
    let x := (e.src32 c l).toNat
    .ofInt (if uns then ((x % 2 ^ w : Nat) : Int) else sextInt w x)
  match ty with
  | 0 => e.fp f64 false c l
  | 1 => e.fp f32 ftz c l
  | 2 => e.fp f16 ftz c l
  | 3 => e.fp bf16 false c l
  | 4 => int 32 false
  | 5 => int 32 true
  | 6 => .ofInt (e.src64 c l).toInt
  | 7 => .ofInt (e.src64 c l).toNat
  | 8 => int 16 false
  | 9 => int 16 true
  | 10 => int 8 false
  | _ => int 8 true

/-- Clamped integer of a type, as its 32-bit or 64-bit result (R242, R330). -/
def cvtInt (w : Nat) (uns : Bool) (mode : Rnd) (x : Fl) : Nat :=
  let lo : Int := if uns then 0 else -((2 ^ (w - 1) : Nat) : Int)
  let hi : Int := if uns then (2 ^ w : Nat) - 1 else (2 ^ (w - 1) : Nat) - 1
  wrapNat (if w = 64 then 64 else 32) (x.toIntSat mode lo hi)

/-- Result of a conversion of a value to a type code (R242, R330). -/
def cvtDst (ty : Nat) (mode : Rnd) (ftz : Bool) (x : Fl) : Nat :=
  match ty with
  | 0 => f64.rnd mode x
  | 1 => f32.outCode ftz (f32.rnd mode x)
  | 2 => f16.outCode ftz (f16.rnd mode x)
  | 3 => bf16.rnd mode x
  | 4 => cvtInt 32 false mode x
  | 5 => cvtInt 32 true mode x
  | 6 => cvtInt 64 false mode x
  | 7 => cvtInt 64 true mode x
  | 8 => cvtInt 16 false mode x
  | 9 => cvtInt 16 true mode x
  | 10 => cvtInt 8 false mode x
  | 11 => cvtInt 8 true mode x
  | 12 => q8e4.sat mode x
  | 13 => q8e5.sat mode x
  | 14 => q4e2.sat mode x
  | _ => satInt 4 mode x

/-- CVT (R330): FN [10:9] mode, [8] `.ftz`, [7:4] TO, [3:0] FROM. -/
def execCvt (f : FVI) (s : State) : Out :=
  issue (.cvt f) s fun e =>
    let n := f.fn.toNat
    let tgt := bits n 7 4
    let res (l : Nat) : Nat :=
      cvtDst tgt (Rnd.ofCode (bits n 10 9)) (n.testBit 8) (e.cvtSrc (bits n 3 0) (n.testBit 8) f.sa.toNat l)
    if typePair tgt then e.pair (.cvt f) f.d.toNat (e.t.act f.h) fun l => BitVec.ofNat 64 (res l)
    else e.vec (.cvt f) f.d.toNat (e.t.act f.h) fun l => BitVec.ofNat 32 (res l)

/-- Width of a packed element type (R236). -/
def elemWidth (ty : Nat) : Nat := if ty = 14 ∨ ty = 15 then 4 else if ty = 2 ∨ ty = 3 ∨ ty = 8 ∨ ty = 9 then 16 else 8

/-- Code of element `k` of a packed word (R236). -/
def elemCode (ty x k : Nat) : Nat := x / 2 ^ (elemWidth ty * k) % 2 ^ elemWidth ty

/-- Value of an element code. -/
def elemDec (ty c : Nat) : Fl :=
  match ty with
  | 2 => f16.dec c
  | 3 => bf16.dec c
  | 8 => .ofInt (sextInt 16 c)
  | 9 => .ofInt c
  | 10 => .ofInt (sextInt 8 c)
  | 11 => .ofInt c
  | 12 => q8e4.dec c
  | 13 => q8e5.dec c
  | 14 => q4e2.dec c
  | _ => .ofInt (sextInt 4 c)

/-- sat_fmt of a narrow type (R237): 10, 12, 13, 14 and 15. -/
def elemSat (ty : Nat) (mode : Rnd) (x : Fl) : Nat :=
  match ty with
  | 10 => satInt 8 mode x
  | 12 => q8e4.sat mode x
  | 13 => q8e5.sat mode x
  | 14 => q4e2.sat mode x
  | _ => satInt 4 mode x

/-- Packed elements, element 0 in the low bits (R236). -/
def packElems (ty : Nat) (cs : List Nat) : Nat := (cs.zipIdx.map fun (c, k) => c * 2 ^ (elemWidth ty * k)).sum

/-- Elements of PACK and UNPACK. -/
def packCount (ty : Nat) : Nat := if ty = 14 ∨ ty = 15 then 8 else 4

/-- The companding table that a register names: 0 is no table. It is read once for the instruction: passes that are done after an
event take the table that its first passes have read (R331). -/
def Env.companding (e : Env) (i : Instr) (w : Lanes) (c : Nat) (k : Env → Option (List Byte) → Out) : Out :=
  let va := (e.uval c).toNat
  if va = 0 then k e none
  else
    match e.t.table with
    | some bs => k e (if bs.isEmpty then none else some bs)
    | none => e.readTable i w va 256 64 tableOk k

/-- Code of the operand that names a companding table. -/
def tableCode : Instr → Option Nat
  | .pack f => some f.sc.toNat
  | .unpack f | .cmpd f | .icmpd f => some f.sb.toNat
  | _ => none

/-- The table that an instruction reads before any lane's result, with the state after the read; none where it traps (R331). -/
def Env.tableRead (e : Env) (i : Instr) : Option (State × Option (List Byte)) :=
  match (tableCode i).map fun c => (e.uval c).toNat with
  | none => some (e.s, none)
  | some va =>
    let helpers : Bool := e.t.actNH i.hdr == 0
    if va = 0 ∨ e.t.act i.hdr = 0 then some (e.s, none)
    else if va % 64 ≠ 0 then (if helpers then some (e.s, some []) else none)
    else
      match e.readOnce e.s va 256 with
      | (s, .error _) => if helpers then some (s, some []) else none
      | (s, .ok bs) => if tableOk bs then some (s, some bs) else if helpers then some (s, some []) else none

/-- PACK (R331, R332) -/
def execPack (f : FV) (s : State) : Out :=
  issue (.pack f) s fun e =>
    let w := e.t.act f.h
    let ty := bits f.fn.toNat 3 0
    e.companding (.pack f) w f.sc.toNat fun e tab? =>
      let one (l k : Nat) : Nat :=
        let y := (f32.dec (e.t.getV (f.sa.toNat + k) l).toNat).mul (e.fp f32 false f.sb.toNat l)
        match tab? with
        | some tab => elemSat ty (fnMode f.fn) (compand tab (f32.dec (f32.rne y)))
        | none => elemSat ty (fnMode f.fn) y
      e.vec (.pack f) f.d.toNat w fun l =>
        BitVec.ofNat 32 (packElems ty ((List.range (packCount ty)).map (one l)))

/-- UNPACK (R331, R332) -/
def execUnpack (f : FV) (s : State) : Out :=
  issue (.unpack f) s fun e =>
    let w := e.t.act f.h
    let ty := bits f.fn.toNat 3 0
    e.companding (.unpack f) w f.sb.toNat fun e tab? =>
      let one (k l : Nat) : Word :=
        let x := elemDec ty (elemCode ty (e.src32 f.sa.toNat l).toNat k)
        BitVec.ofNat 32 (f32.rne (match tab? with | some tab => uncompand tab x | none => x))
      e.done (.unpack f) (e.t.putRun f.d.toNat w ((List.range (packCount ty)).map one)) none

/-- QSCALE (R333) -/
def execQscale (f : FV) (s : State) : Out :=
  issue (.qscale f) s fun e => e.vec (.qscale f) f.d.toNat (e.t.act f.h) fun l =>
    BitVec.ofNat 32 (f32.rnd (fnMode f.fn)
      ((e.fp f32 false f.sa.toNat l).mul (decS16 ((e.src32 f.sb.toNat l).toNat % 65536))))

/-- A companding instruction; without a table only a NaN changes (R333). -/
def Env.companded (e : Env) (i : Instr) (f : FV) (op : List Byte → Fl → Fl) : Out :=
  let w := e.t.act i.hdr
  e.companding i w f.sb.toNat fun e tab? =>
    e.vec i f.d.toNat w fun l =>
      let x := e.fp f32 false f.sa.toNat l
      BitVec.ofNat 32 (f32.rne (match tab? with | some tab => op tab x | none => x))

/-- CMPD -/
def execCmpd (f : FV) (s : State) : Out := issue (.cmpd f) s fun e => e.companded (.cmpd f) f compand
/-- ICMPD -/
def execIcmpd (f : FV) (s : State) : Out := issue (.icmpd f) s fun e => e.companded (.icmpd f) f uncompand

/-- Whether an ELEM is floating (R334). -/
def elemFloat (ty : Nat) : Bool := ty == 2 || ty == 3 || ty == 12 || ty == 13 || ty == 14

/-- Code of element `k` of a packed operand: a constant's value stands in both halves of a paired one (R325). -/
def Env.elemAt (e : Env) (ty c l k : Nat) : Nat :=
  if ty = 2 then e.halfCode f16 c l k
  else if ty = 3 then e.halfCode bf16 c l k
  else elemCode ty (e.src32 c l).toNat k

/-- A packed dot product of `n` elements (R249, R334). -/
def Env.dot (e : Env) (i : Instr) (f : FV) (n : Nat) : Out :=
  let ty := bits f.fn.toNat 3 0
  let mode := fnMode f.fn
  e.vec i f.d.toNat (e.t.act i.hdr) fun l =>
    let el (c k : Nat) : Fl := elemDec ty (e.elemAt ty c l k)
    let prods : List Fl := (List.range n).map fun k => (el f.sa.toNat k).mul (el f.sb.toNat k)
    if elemFloat ty then
      BitVec.ofNat 32 (f32.rnd mode (sumFl (mode == .rd) (prods ++ [e.fp f32 false f.sc.toNat l])))
    else
      let uns := ty == 9 || ty == 11
      let c : Int := if uns then (e.src32 f.sc.toNat l).toNat else (e.src32 f.sc.toNat l).toInt
      let x := (prods.map fun p => p.units 0).sum + c
      BitVec.ofNat 32 (wrapNat 32 (if f.fn.getLsbD 4 then satI32 x else x))

/-- DOT2 -/
def execDot2 (f : FV) (s : State) : Out := issue (.dot2 f) s fun e => e.dot (.dot2 f) f 2
/-- DOT4 -/
def execDot4 (f : FV) (s : State) : Out := issue (.dot4 f) s fun e => e.dot (.dot4 f) f 4
/-- DOT8 -/
def execDot8 (f : FV) (s : State) : Out := issue (.dot8 f) s fun e => e.dot (.dot8 f) f 8

end Sys2Proof.Machine
end

