-- ==== Sys2Proof/Machine/Exchange.lean ====
section
/-! DEFINITION. Lane exchange: 0x70 to 0x76 (R335 to R340). -/

namespace Sys2Proof.Machine

/-- Writes for each guarded lane the bits that another lane's operand holds (R335). -/
def Env.fromLane (e : Env) (i : Instr) (f : FV) (src : Nat → Nat) : Out :=
  e.vec i f.d.toNat (e.t.act i.hdr) fun l => e.src32 f.sa.toNat (src l)

/-- First lane of a lane's quad (R336). -/
def quadBase (l : Nat) : Nat := l / 4 * 4

/-- QSWAP -/
def execQswap (f : FV) (s : State) : Out :=
  issue (.qswap f) s fun e => e.fromLane (.qswap f) f fun l => quadBase l + ((l % 4) ^^^ (f.fn.toNat % 4 + 1))
/-- QBCAST -/
def execQbcast (f : FV) (s : State) : Out :=
  issue (.qbcast f) s fun e => e.fromLane (.qbcast f) f fun l => quadBase l + f.fn.toNat % 4

/-- rne_f32 of the difference of an operand in two lanes. -/
def Env.quadDiff (e : Env) (c l m : Nat) : Nat := f32.rne ((e.fp f32 false c l).sub (e.fp f32 false c m))

/-- Lanes of QDDX for quad lane `q` (R336). -/
def ddxLanes (coarse : Bool) (q : Nat) : Nat × Nat := if coarse then (1, 0) else (q ||| 1, q &&& 2)
/-- Lanes of QDDY. -/
def ddyLanes (coarse : Bool) (q : Nat) : Nat × Nat := if coarse then (2, 0) else (q ||| 2, q &&& 1)

/-- A quad derivative. -/
def Env.ddOut (e : Env) (i : Instr) (f : FV) (lanes : Bool → Nat → Nat × Nat) : Out :=
  e.vec i f.d.toNat (e.t.act i.hdr) fun l =>
    let p := lanes (f.fn.getLsbD 0) (l % 4)
    BitVec.ofNat 32 (e.quadDiff f.sa.toNat (quadBase l + p.1) (quadBase l + p.2))

/-- QDDX -/
def execQddx (f : FV) (s : State) : Out := issue (.qddx f) s fun e => e.ddOut (.qddx f) f ddxLanes
/-- QDDY -/
def execQddy (f : FV) (s : State) : Out := issue (.qddy f) s fun e => e.ddOut (.qddy f) f ddyLanes

/-- Source lane of XLANE inside a span of `w` lanes: the mask word, or the half of a forerunner word (R337, R340). -/
def xlaneSrc (mode w i b : Nat) : Nat :=
  match mode with
  | 0 => b % w
  | 1 => if i < b then i else i - b
  | 2 => if w ≤ i + b then i else i + b
  | _ => i ^^^ (b % w)

/-- XLANE -/
def execXlane (f : FV) (s : State) : Out :=
  issue (.xlane f) s fun e =>
    let w := if e.t.fore then 16 else 32
    e.fromLane (.xlane f) f fun l =>
      l / w * w + xlaneSrc (f.fn.toNat % 4) w (l % w) (e.src32 f.sb.toNat l).toNat

/-- One combination of PSCAN and TREDUCE (R338). -/
def scanOp (opn : Nat) (x y : Word) : Word :=
  match opn with
  | 0 => x + y
  | 1 => BitVec.ofNat 32 (f32.rne (Fl.add .rn (f32.dec x.toNat) (f32.dec y.toNat)))
  | 2 => if x.toInt ≤ y.toInt then x else y
  | 3 => if x.toInt ≤ y.toInt then y else x
  | 4 => if x.toNat ≤ y.toNat then x else y
  | 5 => if x.toNat ≤ y.toNat then y else x
  | 6 => x &&& y
  | _ => x ||| y

/-- Identities of the operations (R338). -/
def scanId (opn : Nat) : Word :=
  match opn with
  | 2 => 0x7FFF_FFFF
  | 3 => 0x8000_0000
  | 4 | 6 => 0xFFFF_FFFF
  | _ => 0

/-- Inclusive prefix results by lane, in ascending order of participants; the first one's value stands as it is. -/
def scanList (opn : Nat) : Option Word → List (Nat × Word) → List (Nat × Option Word × Word)
  | _, [] => []
  | acc, (l, x) :: r =>
    let y := match acc with | some a => scanOp opn a x | none => x
    (l, acc, y) :: scanList opn (some y) r

/-- An operand of PSCAN and TREDUCE: binary32 for `.add.f32`. -/
def Env.scanSrc (e : Env) (opn c l : Nat) : Word :=
  if opn = 1 then BitVec.ofNat 32 (e.fpCode f32 c l) else e.src32 c l

/-- The participants' prefixes (R338). -/
def Env.scan (e : Env) (f : FV) : List (Nat × Option Word × Word) :=
  let opn := f.fn.toNat % 8
  scanList opn none ((e.t.list (e.t.actNH f.h)).map fun l => (l, e.scanSrc opn f.sa.toNat l))

/-- PSCAN: FN [2:0] the operation, [3] `.excl`. -/
def execPscan (f : FV) (s : State) : Out :=
  issue (.pscan f) s fun e =>
    let xs := e.scan f
    e.vec (.pscan f) f.d.toNat (e.t.actNH f.h) fun l =>
      match xs.find? fun x => x.1 == l with
      | some (_, before, y) => if f.fn.getLsbD 3 then before.getD (scanId (f.fn.toNat % 8)) else y
      | none => 0

/-- TREDUCE: written in helpers too. -/
def execTreduce (f : FV) (s : State) : Out :=
  issue (.treduce f) s fun e =>
    let y := match (e.scan f).getLast? with | some x => x.2.2 | none => scanId (f.fn.toNat % 8)
    e.vec (.treduce f) f.d.toNat (e.t.act f.h) fun _ => y

end Sys2Proof.Machine
end

