-- ==== Sys2Proof/Machine/Predicate.lean ====
section
/-! DEFINITION. Comparisons and predicate logic: 0x78 to 0x7E (R317 to R319). -/

namespace Sys2Proof.Machine

/-- PCMPI: FN [2:0] CMP, [3] `.w`, [4] `.64`. -/
def execPcmpi (f : FV) (s : State) : Out :=
  issue (.pcmpi f) s fun e =>
    let uns := f.fn.getLsbD 3
    let long := f.fn.getLsbD 4
    e.predOut (.pcmpi f) f.d.toNat (e.t.act f.h) fun l =>
      cmpCode (f.fn.toNat % 8) (e.int long uns f.sa.toNat l - e.int long uns f.sb.toNat l)

/-- A floating comparison: FN [2:0] CMP, [3] `.u`. -/
def Env.cmpOut (e : Env) (i : Instr) (f : FV) (m : Fmt) : Out :=
  e.predOut i f.d.toNat (e.t.act i.hdr) fun l =>
    cmpFloat (f.fn.toNat % 8) (f.fn.getLsbD 3) (e.fp m false f.sa.toNat l) (e.fp m false f.sb.toNat l)

/-- PCMPF -/
def execPcmpf (f : FV) (s : State) : Out := issue (.pcmpf f) s fun e => e.cmpOut (.pcmpf f) f f32
/-- PCMPD -/
def execPcmpd (f : FV) (s : State) : Out := issue (.pcmpd f) s fun e => e.cmpOut (.pcmpd f) f f64

/-- PLUT -/
def execPlut (f : FV) (s : State) : Out :=
  issue (.plut f) s fun e =>
    let b (c : BitVec 9) (l k : Nat) : Nat := if (e.t.pred c.toNat).getLsbD l then k else 0
    e.predOut (.plut f) f.d.toNat (e.t.act f.h) fun l =>
      f.fn.getLsbD (b f.sa l 4 + b f.sb l 2 + b f.sc l 1)

/-- The vote of PAGREE: mode 0 `.all`, 1 `.any`, 2 `.uni`. -/
def agree (mode : Nat) (votes : List Bool) : Bool :=
  match mode with
  | 0 => votes.all id
  | 1 => votes.any id
  | _ => votes.all id || votes.all not

/-- PAGREE -/
def execPagree (f : FV) (s : State) : Out :=
  issue (.pagree f) s fun e =>
    let v := agree (f.fn.toNat % 4) ((e.t.list (e.t.actNH f.h)).map fun l => (e.t.pred f.sa.toNat).getLsbD l)
    e.predOut (.pagree f) f.d.toNat (e.t.act f.h) fun _ => v

/-- PTOV -/
def execPtov (f : FV) (s : State) : Out :=
  issue (.ptov f) s fun e => e.vec (.ptov f) f.d.toNat (e.t.act f.h) fun l =>
    BitVec.ofNat 32 ((List.range 8).map fun p => if (e.t.pred p).getLsbD l then 2 ^ p else 0).sum

/-- VTOP -/
def execVtop (f : FV) (s : State) : Out :=
  issue (.vtop f) s fun e => e.predOut (.vtop f) f.d.toNat (e.t.act f.h) fun l => e.src32 f.sa.toNat l != 0

end Sys2Proof.Machine
end

