-- ==== Sys2Proof/Machine/Memory.lean ====
section
/-! DEFINITION. Loads, stores, prefetch: 0x80 to 0x86 (R218, R341 to R345). -/

namespace Sys2Proof.Machine

/-- The passes of a load as flights, one for each mask word that holds a lane (R218). -/
def Env.flights (e : Env) (pc : CodeOff) (dst size space pol : Nat) (ws : Bool) (as : List LaneAcc)
    (vals : List (Nat × Nat)) : List Flight :=
  (List.range e.t.words).filterMap fun j =>
    let here (l : Nat) : Bool := l / 32 == j
    match as.filter fun a => here a.lane with
    | [] => none
    | xs => some
      { gen := e.t.gen, seq := e.t.issued, pc := pc, dst := dst, word := j, size := size, space := space, pol := pol,
        lanes := xs.foldl (fun m a => m ||| (1#1024 <<< a.lane)) 0,
        addr := xs.foldl (fun m a => mset 0 m a.lane a.addr) [],
        vals := loadVals dst size (vals.filter fun v => here v.1),
        latchOnly := ws, inRegion := e.t.region.isSome,
        home := xs.any fun a => a.tgt.any (Target.atHome pol) }

/-- What a load reads at its home, where it goes there: not through L1, not in a scratchpad, not to a page of type IO, whose
accesses are never reordered (R179, R197, R198). -/
def Target.late (pol n : Nat) : Target → Option (List HomeRange)
  | .va a ps => if ps.all fun p => !p.1.cached pol && p.1.pbmt != 2 then some ((Target.va a ps).ranges n) else none
  | .chip a => if pol = 0 then none else some ((Target.chip a).ranges n)
  | .spad .. | .gone _ => none

/-- The accesses of a load that its homes have still to perform (R197). -/
def State.queueLoads (s : State) (w : Who) (pol n : Nat) (as : List LaneAcc) : State :=
  match as.filterMap fun a => (a.tgt.bind (Target.late pol n)).map fun ps =>
      ({ tid := w.tid, core := w.core, part := w.part, seq := w.seq, lane := a.lane, pieces := ps, val := none } : LoadEnt) with
  | [] => s
  | es => { s with loadQ := s.loadQ ++ es }

/-- Completes a load whose lanes have all been read: its passes are in flight until they return (log 54). -/
def Env.launchLoad (e : Env) (i : Instr) (s : State) (dst size space pol : Nat) (as : List LaneAcc)
    (vals : List (Nat × Nat)) : Out :=
  let ws := i.hdr.ws == 1
  let lat : Option (Map Word) := if sizeRegs size = 1 then some (if ws then [] else e.t.row dst) else none
  let fl := e.flights e.t.pc dst size space pol ws as vals
  ({ e with s := s.queueLoads e.who pol (sizeBytes size) as }).done i { e.t with flights := e.t.flights ++ fl } lat

/-- A load: every lane's check, the reads, and the flights. Where lanes trap, the others complete outside a region and
nothing is kept inside one (R209, R342). -/
def Env.load (e : Env) (i : Instr) (f : FM) (seg : Nat) (priv : Bool)
    (chk : State → Nat → State × Except MFault Target) (addr : Nat → Nat) : Out :=
  let size := f.size.toNat
  let n := sizeBytes size
  let w := e.t.act i.hdr
  let dst := f.data.toNat
  let (s, as, fs) := e.checkLanes chk addr e.s (e.t.list w)
  let s := e.banked s f.space.toNat n as
  if fs.isEmpty then
    let (s, vals) := s.loadLanes e.who f.pol.toNat priv n as
    e.launchLoad i s dst size f.space.toNat f.pol.toNat as vals
  else if e.t.region.isSome then e.trapLanes i s e.t fs seg f.space.toNat size 0
  else
    let (s, vals) := s.loadLanes e.who f.pol.toNat priv n as
    let t := (e.flights e.t.pc dst size f.space.toNat f.pol.toNat false as vals).foldl
      (fun (t : Team) (f : Flight) => t.land f) { e.t with latches := [] }
    e.trapLanes i s t fs seg f.space.toNat size 0

/-- A store: the lanes that meet no cause are performed; helpers perform nothing (R209, R342). -/
def Env.store (e : Env) (i : Instr) (f : FM) (seg : Nat) (priv : Bool)
    (chk : State → Nat → State × Except MFault Target) (addr : Nat → Nat) : Out :=
  let size := f.size.toNat
  let n := sizeBytes size
  let val (l : Nat) : Nat :=
    if sizeRegs size = 1 then (e.src32 f.addr.toNat l).toNat
    else leNat ((List.range (sizeRegs size)).flatMap fun k => leBytes 4 (e.t.getV (f.addr.toNat + k) l).toNat)
  let (s, as, fs) := e.checkLanes chk addr e.s (e.t.list (e.t.actNH i.hdr))
  let s := (e.banked s f.space.toNat n as).storeLanes e.who f.pol.toNat priv n val as
  if fs.isEmpty then ({ e with s := s }).skip i
  else e.trapLanes i s e.t fs seg f.space.toNat size 1

/-- Whether a lane of an access of SPACE 2 would reach a migrating member (R94). -/
def Env.mustWait (e : Env) (space : Nat) (w : Lanes) (addr : Nat → Int) : Bool :=
  space == 2 && (e.t.list w).any fun l => e.s.migrating e.b (addr l / 393216)

/-- LD and LDV: each lane's offset is OFF16, and `z` times its number for LDV (R171, R342, R343). -/
def Env.loadM (e : Env) (i : Instr) (f : FM) (z : Nat) : Out :=
  let space := f.space.toNat
  let off (l : Nat) : Int := f.off.toInt + (z * l : Nat)
  let addr (l : Nat) : Int := e.addrVal f.addr.toNat l + off l
  if e.mustWait space (e.t.act f.h) addr then e.stallAt 0x0C
  else
    e.load i f f.seg.toNat false
      (fun s l => e.check s .read space f.seg.toNat (e.addrVal f.addr.toNat l) (off l) (sizeBytes f.size.toNat))
      fun l => (addr l).toNat

/-- ST and STV: the base is the register DATA. -/
def Env.storeM (e : Env) (i : Instr) (f : FM) (z : Nat) : Out :=
  let space := f.space.toNat
  let off (l : Nat) : Int := f.off.toInt + (z * l : Nat)
  let base (l : Nat) : Int := ((e.t.getV f.data.toNat l).toNat : Int)
  if e.mustWait space (e.t.actNH f.h) fun l => base l + off l then e.stallAt 0x0C
  else
    e.store i f f.seg.toNat false
      (fun s l => e.check s .write space f.seg.toNat (base l) (off l) (sizeBytes f.size.toNat))
      fun l => (base l + off l).toNat

/-- LD -/
def execLd (f : FM) (s : State) : Out := issue (.ld f) s fun e => e.loadM (.ld f) f 0
/-- ST -/
def execSt (f : FM) (s : State) : Out := issue (.st f) s fun e => e.storeM (.st f) f 0
/-- LDV -/
def execLdv (f : FM) (s : State) : Out := issue (.ldv f) s fun e => e.loadM (.ldv f) f (sizeBytes f.size.toNat)
/-- STV -/
def execStv (f : FM) (s : State) : Out := issue (.stv f) s fun e => e.storeM (.stv f) f (sizeBytes f.size.toNat)

/-- The check of a lane-private access: through g14 at the segment offset of R172 (R344). -/
def Env.checkPriv (e : Env) (s : State) (kind : AccKind) (o : Int) (l n : Nat) : State × Except MFault Target :=
  if o < 0 ∨ 65536 < o + n then (s, .error { cause := .segLimit })
  else e.check s kind 0 14 0 ((2 ^ 26 * e.t.pix + 2 ^ 16 * l : Nat) + o) n

/-- LDL (log 58) -/
def execLdl (f : FM) (s : State) : Out :=
  issue (.ldl f) s fun e =>
    e.load (.ldl f) f 14 true
      (fun s l => e.checkPriv s .read (e.addrVal f.addr.toNat l + f.off.toInt) l (sizeBytes f.size.toNat)) fun _ => 0
/-- STL -/
def execStl (f : FM) (s : State) : Out :=
  issue (.stl f) s fun e =>
    e.store (.stl f) f 14 true
      (fun s l => e.checkPriv s .write ((e.t.getV f.data.toNat l).toNat + f.off.toInt) l (sizeBytes f.size.toNat))
      fun _ => 0

/-- One lane's prefetch: a lane whose address fails is dropped; no lock is checked and no IO page touched (R345). -/
def Env.prefetch (e : Env) (s : State) (f : FM) (l : Nat) : State :=
  let w := e.who
  let val := e.addrVal f.addr.toNat l
  let keep (s : State) (chip : Bool) (a : Nat) : State :=
    if f.pol = 0 then s.fillL1 w.core w.ctx chip a false else s
  if f.space = 3 then
    match (s.part w.part).chipAt (val + f.off.toInt) 1 with
    | some (.chip a) => keep s true a
    | _ => s
  else
    match segAddr (e.b.seg f.seg.toNat) f.seg.toNat val f.off.toInt 1 false false with
    | none => s
    | some va =>
      match s.translate w .read va with
      | (s, .ok p) => if p.pbmt = 2 then s else if p.cached 0 then keep s false p.pa else s
      | (s, .error _) => s

/-- PFETCH (log 64) -/
def execPfetch (f : FM) (s : State) : Out :=
  issue (.pfetch f) s fun e =>
    let s := (e.t.list (e.t.act f.h)).foldl (fun (s : State) l => e.prefetch s f l) e.s
    ({ e with s := s }).skip (.pfetch f)

end Sys2Proof.Machine
end

