-- ==== Sys2Proof/Machine/Atomic.lean ====
section
/-! DEFINITION. Atomics: 0xA0 to 0xA4 (R202, R250, R353 to R358). -/

namespace Sys2Proof.Machine

/-- Source end of the issuing team (R199). -/
def Env.source (e : Env) (s : State) : State := s.sourceOf e.t.tid e.t.core e.t.slot e.b.ctx false
/-- Target end of the issuing team (R199). -/
def Env.target (e : Env) (s : State) : State := s.targetEnd e.t.core e.b.ctx false

/-- Before the team's access at the home of ranges `xs`: what it must not pass is performed; `.pub` and `.obt` pass nothing
(R197). -/
def Env.precede (e : Env) (s : State) (tied : Bool) (xs : List HomeRange) : State :=
  s.precede e.t.tid e.t.issued e.b.ctx e.b.part e.t.core tied xs

/-- Fields of an atomic's two words (R301). -/
structure AtomF where
  opn : Nat
  ty : Nat
  pub : Bool
  obt : Bool
  off : Int
  seg : Nat
  space : Nat
  deriving DecidableEq, Repr

/-- Reads the fields of an atomic. -/
def atomF (f : FV) (w2 : BitVec 64) : AtomF :=
  { opn := bits f.fn.toNat 3 0, ty := bits f.fn.toNat 6 4, pub := f.fn.getLsbD 7, obt := f.fn.getLsbD 8,
    off := sextInt 32 (bits w2.toNat 63 32), seg := bits w2.toNat 31 28, space := bits w2.toNat 27 26 }

/-- Whether a type is 64 bits wide (R353). -/
def AtomF.wide (a : AtomF) : Bool := a.ty == 2 || a.ty == 3 || a.ty == 5
/-- Bytes of an operand. -/
def AtomF.bytes (a : AtomF) : Nat := if a.wide then 8 else 4

/-- An operand of an atomic in a lane, as bits. -/
def Env.atomSrc (e : Env) (a : AtomF) (c l : Nat) : Nat :=
  if a.ty = 4 then e.fpCode f32 c l
  else if a.ty = 5 then e.fpCode f64 c l
  else if a.wide then (e.src64 c l).toNat else (e.src32 c l).toNat

/-- The operation of an atomic on the word's value (R355). -/
def atomOp (ty opn v b : Nat) : Nat :=
  let w := if ty = 2 ∨ ty = 3 ∨ ty = 5 then 64 else 32
  let sgn := ty == 1 || ty == 3
  let le : Bool := if sgn then decide (sextInt w v ≤ sextInt w b) else decide (v ≤ b)
  let m := if ty = 4 then f32 else f64
  if opn = 6 then b
  else if ty = 4 ∨ ty = 5 then
    match opn with
    | 0 => m.rne (Fl.add .rn (m.dec v) (m.dec b))
    | 1 => m.rne (fminNum (m.dec v) (m.dec b))
    | _ => m.rne (fmaxNum (m.dec v) (m.dec b))
  else
    match opn with
    | 0 => (v + b) % 2 ^ w
    | 1 => if le then v else b
    | 2 => if le then b else v
    | 3 => v &&& b
    | 4 => v ||| b
    | _ => v ^^^ b

/-- Performs the participants' steps at the home in ascending lanes: each lane's old value (R250, R355). -/
def Env.atomGo (e : Env) (n : Nat) (step : Nat → Nat → Nat) : State → List LaneAcc → State × List (Nat × Nat)
  | s, [] => (s, [])
  | s, a :: as =>
    match a.tgt with
    | none => e.atomGo n step s as
    | some t =>
      let s := s.toHome e.who t n
      let v := leNat (s.homeLoad t n)
      let s := s.homeStore e.b.ctx t (leBytes n (step a.lane v))
      let (s, r) := e.atomGo n step s as
      (s, (a.lane, v) :: r)

/-- Registers of a 32-bit or 64-bit result by lane. -/
def atomRuns (wide : Bool) (v : Nat → Nat) : List (Nat → Word) :=
  if wide then [fun l => BitVec.ofNat 32 (v l), fun l => BitVec.ofNat 32 (v l / 2 ^ 32)]
  else [fun l => BitVec.ofNat 32 (v l)]

/-- An atomic of many lanes (R354, R355, R358): the checks, the source end of `.pub`, the steps, the target end of `.obt`;
`fin` gives the team with its results, from the old values and the lanes that completed. -/
def Env.atomic (e : Env) (i : Instr) (f : FV) (w2 : BitVec 64) (step : AtomF → Nat → Nat → Nat)
    (fin : AtomF → Team → List (Nat × Nat) → Lanes → Team) : Out :=
  let a := atomF f w2
  let w := e.t.actNH i.hdr
  let base (l : Nat) : Int := e.addrVal f.sa.toNat l
  if e.mustWait a.space w fun l => base l + a.off then e.stallAt 0x0C
  else
    let (s, as, fs) := e.checkLanes (fun s l => e.check s .atomic a.space a.seg (base l) a.off a.bytes)
      (fun l => (base l + a.off).toNat) e.s (e.t.list w)
    let s := e.banked s a.space a.bytes as
    let s := e.precede s ((a.pub || a.obt) && !as.isEmpty) (as.flatMap fun x => x.tgt.elim [] (Target.ranges a.bytes))
    let s := if a.pub && !as.isEmpty then e.source s else s
    let (s', olds) := e.atomGo a.bytes (step a) s as
    let s := if e.t.trap.isSome then s'.watchPools s e.b.part else s'
    let s := if a.obt && !as.isEmpty then e.target s else s
    let done := (laneSet' (olds.map Prod.fst)) ||| (e.t.act i.hdr &&& e.t.helper)
    let t := fin a e.t olds done
    if fs.isEmpty then ({ e with s := s }).done i t none
    else e.trapLanes i s t fs a.seg a.space (if a.wide then 3 else 2) 2
where
  /-- The set of the lanes of a list. -/
  laneSet' (ls : List Nat) : Lanes := ls.foldl (fun m l => m ||| (1#1024 <<< l)) 0

/-- Old values to D; helper lanes receive 0 (R355). -/
def atomDst (d : Nat) (a : AtomF) (t : Team) (olds : List (Nat × Nat)) (done : Lanes) : Team :=
  t.putRun d done (atomRuns a.wide fun l => alookup 0 olds l)

/-- ATOM -/
def execAtom (f : FV) (w2 : BitVec 64) (s : State) : Out :=
  issue (.atom f w2) s fun e =>
    e.atomic (.atom f w2) f w2 (fun a l v => atomOp a.ty a.opn v (e.atomSrc a f.sb.toNat l)) (atomDst f.d.toNat)
/-- ACAS -/
def execAcas (f : FV) (w2 : BitVec 64) (s : State) : Out :=
  issue (.acas f w2) s fun e =>
    e.atomic (.acas f w2) f w2
      (fun a l v => if v = e.atomSrc a f.sb.toNat l then e.atomSrc a f.sc.toNat l else v) (atomDst f.d.toNat)
/-- RED -/
def execRed (f : FV) (w2 : BitVec 64) (s : State) : Out :=
  issue (.red f w2) s fun e =>
    e.atomic (.red f w2) f w2 (fun a l v => atomOp a.ty a.opn v (e.atomSrc a f.sb.toNat l)) fun _ t _ _ => t
/-- ATOMS (R356) (log 61) -/
def execAtoms (f : FV) (w2 : BitVec 64) (s : State) : Out :=
  issue (.atoms f w2) s fun e =>
    e.atomic (.atoms f w2) f w2 (fun a l v => atomOp a.ty a.opn v (e.atomSrc a f.sb.toNat l)) fun _ t olds _ =>
      match olds with
      | [] => t
      | (_, v) :: _ => t.putS f.d.toNat (BitVec.ofNat 64 v)

/-- The home of a word that AWAITV watches: its space as Status keeps it, and its address there. -/
def State.watchAt (s : State) (t : Target) : Nat × Nat :=
  match t with
  | .va _ ps => (0, match ps with | (p, _) :: _ => p.pa | [] => 0)
  | .spad c a => (1, match s.ownerOf c a with | some (b, r) => 2 ^ 20 * b.id + r | none => 0)
  | .chip a => (3, a)
  | .gone o => (4, o)

/-- Value of a watched word at its home. -/
def State.watched (s : State) (space a n : Nat) : Nat :=
  match space with
  | 0 => leNat (s.homeRead false a n)
  | 1 =>
    match s.block? (a / 2 ^ 20) with
    | some b => leNat (match b.saved with
        | some v => mgetList 0 v.spad (a % 2 ^ 20) n
        | none => mgetList 0 (s.coreSt b.core).spad (384 * b.row0 + a % 2 ^ 20) n)
    | none => 0
  | 3 => leNat (s.homeRead true a n)
  | _ => leNat (s.goneBytes a n)

/-- AWAITV (R357) (log 63) -/
def execAwaitv (f : FV) (w2 : BitVec 64) (s : State) : Out :=
  issue (.awaitv f w2) s fun e =>
    let a := atomF f w2
    let w := e.t.act f.h
    let nh := e.t.actNH f.h
    let n := a.bytes
    let put (x : Nat) : Team := e.t.putRun f.d.toNat w (atomRuns a.wide fun _ => x)
    if w = 0 then e.skip (.awaitv f w2)
    else if nh = 0 then e.done (.awaitv f w2) (put 0) none
    else
      let base := e.addrVal f.sa.toNat 0
      if e.mustWait a.space nh fun _ => base + a.off then e.stallAt 0x0C
      else
        match e.check e.s .atomic a.space a.seg base a.off n with
        | (s, .error x) => e.trapLanes (.awaitv f w2) s e.t (faultAll e.t nh x) a.seg a.space (if a.wide then 3 else 2) 2
        | (s, .ok t) =>
          let s := (e.precede s a.obt (t.ranges n)).toHome e.who t n
          let x := leNat (s.homeLoad t n)
          let b := (e.uval f.sb.toNat).toNat % 2 ^ (8 * n)
          if x ≠ b then
            let s := if a.obt then e.target s else s
            ({ e with s := s }).done (.awaitv f w2) (put x) none
          else
            let h := s.watchAt t
            let named := match t with | .va va _ => va | _ => (base + a.off).toNat
            ({ e with s := s, t := { e.t with waddr := named } }).park (.awaitv h.1 h.2 n (BitVec.ofNat 64 b) f.d.toNat w a.obt) 9

end Sys2Proof.Machine
end

