-- ==== Sys2Proof/Machine/Barrier.lean ====
section
/-! DEFINITION. Barriers: 0xB0 to 0xB5 (R139, R140, R359 to R362). -/

namespace Sys2Proof.Machine

/-- Target end of a waiter, when an arrival came from elsewhere. -/
def State.barTarget (s : State) (core ctx n : Nat) : State :=
  if (s.coreSt core).remote.contains n then s.targetEnd core ctx false else s

/-- Physical number of the word that SA names. -/
def Env.barNum (e : Env) (f : FV) : Nat := e.b.bar0 + (e.uval f.sa.toNat).toNat % 2 ^ 32

/-- A barrier instruction acts when a non-helper lane's guard holds (R359). -/
def Env.barrier (e : Env) (i : Instr) (k : Out) : Out := if e.t.actNH i.hdr = 0 then e.skip i else k

/-- Applies a change of the block's own word, or traps BARRIER_STATE with the word unchanged. -/
def Env.barChange (e : Env) (i : Instr) (n : Nat) (b : Option Bar) (k : Env → Out) : Out :=
  match b with
  | none => e.trapTeam i .barrierState
  | some b => k { e with s := e.s.putBar e.t.core n b }

/-- Waits until PHASE differs from bit 0 of *p* (R360, R361). -/
def Env.barWait (e : Env) (i : Instr) (n : Nat) (p : Bool) : Out :=
  if (e.s.bar e.t.core n).phase != p then ({ e with s := e.s.barTarget e.t.core e.b.ctx n }).skip i
  else e.park (.barrier (n - e.b.bar0) p) 7

/-- BARI -/
def execBari (f : FV) (s : State) : Out :=
  issue (.bari f) s fun e => e.barrier (.bari f) <|
    let n := e.barNum f
    e.barChange (.bari f) n ((e.s.bar e.t.core n).start (e.uval f.sb.toNat).toNat) fun e => e.skip (.bari f)
/-- Applies the arrivals on their way to a block's barrier word: they reach it before a later arrival (R140, log 104). -/
def State.landArrivals (s : State) (b : Block) (k : Nat) : State := s.flushRemote fun r => r.dst == b.id && r.bar == some k

/-- Arrival at the block's own word, after what the team wrote and read (R193, log 103). -/
def Env.arriveOwn (e : Env) (i : Instr) (n : Nat) (k : Env → Out) : Out :=
  let e := { e with s := e.s.landArrivals e.b (n - e.b.bar0) }
  let slots := (e.s.teams.filter fun t => t.blk == e.b.id && t.resident).foldl (fun (m : BitVec 16) t => m ||| (1#16 <<< t.slot)) 0
  e.barChange i n (e.s.bar e.t.core n).arrive fun e =>
    k { e with s := e.s.localArrival e.t.tid e.t.core e.t.slot e.b.ctx slots }

/-- BARA -/
def execBara (f : FV) (s : State) : Out :=
  issue (.bara f) s fun e => e.barrier (.bara f) <|
    e.arriveOwn (.bara f) (e.barNum f) fun e => e.skip (.bara f)
/-- BARW -/
def execBarw (f : FV) (s : State) : Out :=
  issue (.barw f) s fun e => e.barrier (.barw f) <|
    let n := e.barNum f
    if !(e.s.bar e.t.core n).init then e.trapTeam (.barw f) .barrierState
    else e.barWait (.barw f) n ((e.uval f.sb.toNat).getLsbD 0)
/-- BARAW: the arrival happens before the wait. -/
def execBaraw (f : FV) (s : State) : Out :=
  issue (.baraw f) s fun e => e.barrier (.baraw f) <|
    let n := e.barNum f
    if !(e.s.bar e.t.core n).init then e.trapTeam (.baraw f) .barrierState
    else e.arriveOwn (.baraw f) n fun e =>
      e.barWait (.baraw f) n ((e.uval f.sb.toNat).getLsbD 0)
/-- BART -/
def execBart (f : FV) (s : State) : Out :=
  issue (.bart f) s fun e => e.barrier (.bart f) <|
    let n := e.barNum f
    e.barChange (.bart f) n ((e.s.bar e.t.core n).announce (e.uval f.sb.toNat).toNat) fun e => e.skip (.bart f)
/-- BARX (R362) (log 41) -/
def execBarx (f : FV) (s : State) : Out :=
  issue (.barx f) s fun e => e.barrier (.barx f) <|
    let g : Int := (e.uval f.sb.toNat).toNat
    match e.s.member e.b g with
    | none => e.trapLanes (.barx f) e.s e.t (faultAll e.t (e.t.actNH f.h) { cause := .segLimit })
        (Config.infoField 6 % 16) (Config.infoField 7 % 4) (Config.infoField 8 % 8) 0
    | some m =>
      let k := (e.uval f.sa.toNat).toNat % 2 ^ 32
      let n := m.bar0 + k
      if m.id = e.b.id then
        e.arriveOwn (.barx f) n fun e => e.skip (.barx f)
      else if e.s.migrating e.b g then e.stallAt 0x0C
      else
        let s := e.s.landArrivals m k
        match (s.bar m.core n).arrive with
        | none => ({ e with s := s } : Env).trapTeam (.barx f) .barrierState
        | some _ =>
          let s := e.source s
          ({ e with s := s.sendRemote { tid := e.t.tid, src := e.b.id, dst := m.id, bar := some k, addr := 0, bytes := [] } }).skip
            (.barx f)

end Sys2Proof.Machine
end

