-- ==== Sys2Proof/Machine/Fetch.lean ====
section
/-! DEFINITION. Instruction fetch (R178, R182, R212). -/

namespace Sys2Proof.Machine

/-- Virtual address of a code offset: through g15 in lane code, the offset itself in the handler (R182, R212); none is
SEG_LIMIT, as at an entry beyond every offset (R108). -/
def Env.codeVa (e : Env) (pc : CodeOff) : Option Nat :=
  if e.t.trap.isSome then some pc.toNat else if e.t.farEntry then none else segAddr (e.b.seg 15) 15 0 pc.toNat 8 false true

/-- The 8 bytes of an instruction word, read at the home. A word stored to during the block's life is fetched as its old or
its new bytes, and which is free (R182, log 20). -/
def Env.fetchWord (e : Env) (pc : CodeOff) : State × Except MFault DWord :=
  match e.codeVa pc with
  | none => (e.s, .error { cause := .segLimit, va := (segBase (e.b.seg 15) + pc.toNat) % 2 ^ 48 })
  | some va =>
    match e.s.translateAll e.who .fetch (pieces va 9 8) with
    | (s, .error f) => (s, .error f)
    | (s, .ok ps) =>
      let word (x : State) : DWord := BitVec.ofNat 64 (leNat (ps.flatMap fun (p, k) => x.homeRead false p.pa k))
      let new := word s
      let old := word { s with mem := e.b.mem0, host := e.b.host0 }
      (s, .ok (if old = new then new else if Config.oldFetch (16 * s.tick + bits pc.toNat 3 3) then old else new))

/-- What fetch answers: an instruction, undecodable words with their length, or a fault of priority 1 with the first word, 0
where that one faults (R183). -/
inductive Fetched where
  | instr (i : Instr)
  | bad (w : DWord) (size : Nat)
  | fault (insn : DWord) (f : MFault)
  deriving DecidableEq, Repr

/-- Fetches and decodes the instruction at the team's PC. -/
def Env.fetch (e : Env) : State × Fetched :=
  match e.fetchWord e.t.pc with
  | (s, .error f) => (s, .fault 0 f)
  | (s, .ok w) =>
    if isTwoWord w then
      match ({ e with s := s }).fetchWord (e.t.pc + 8) with
      | (s, .error f) => (s, .fault w f)
      | (s, .ok w2) => (s, match decode w w2 with | some i => .instr i | none => .bad w 16)
    else (s, match decode w 0 with | some i => .instr i | none => .bad w 8)

/-- The instruction word and length at an offset, as the fault record and RTT.skip take them; a NOP where fetch fails. -/
def Env.codeAt (e : Env) (pc : CodeOff) : DWord × Nat :=
  match (e.fetchWord pc).2 with
  | .ok w => (w, if isTwoWord w then 16 else 8)
  | .error _ => (0, 8)

/-- The waiting team of a core's slot with its block. -/
def State.envOf (s : State) (t : Team) : Env := { s := s, t := t, b := s.blockOf t }

/-- SEG of the load at an offset, as INFO gives it for its return or its reissue (R183); free for an RTR, which names no segment
(log 19). -/
def Env.segAt (e : Env) (pc : CodeOff) : Nat :=
  match decode (e.codeAt pc).1 0 with
  | some (.ld f) => f.seg.toNat
  | some (.ldv f) => f.seg.toNat
  | some (.ldl _) => 14
  | _ => Config.infoField 9 % 16

/-- A team cause met at fetch (priority 1) or by undecodable words (priority 2): R182, R207, R208. `gpa` is that of a G-stage
fault, 0 without one (R183). -/
def Env.fetchTrap (e : Env) (c : Cause) (insn : DWord) (size : Nat) (info eaddr : DWord) (gpa : Nat) : Out :=
  let (resume, sz) := match e.t.region with | some r => (r.start, r.size) | none => (e.t.pc, size)
  .next (e.s.takeTrap e.t
    { cause := c, lanes := e.t.mask &&& ~~~e.t.helper, pending := e.t.mask, full := true, pc := e.t.pc,
      insn := insn, resume := resume, size := sz, info := info, eaddr := eaddr,
      gpa := (e.t.list (e.t.mask &&& ~~~e.t.helper)).foldl (fun m l => mset 0 m l (BitVec.ofNat 64 gpa)) [] })

end Sys2Proof.Machine
end

