-- ==== Sys2Proof/Machine/Engine.lean ====
section
/-! DEFINITION. Copy and gather engines, batches: 0xB8 to 0xBE (R204, R210, R217, R363 to R370). -/

namespace Sys2Proof.Machine

/-! ### The end of an operation and its batch (R204, R369, R370) -/

/-- Marks a batch as failed; the first failure is the one reported (log 67). -/
def Batch.fail (b : Batch) (f a : DWord) : Batch :=
  if b.failed then b else { b with failed := true, fault := f, eaddr := a }

/-- Marks the batch of an operation as failed. -/
def Counter.fail (c : Counter) (id : Nat) (f a : DWord) : Counter :=
  if c.opened.contains id then
    (if c.openFailed then c else { c with openFailed := true, openFault := f, openEaddr := a })
  else { c with batches := c.batches.map fun b => if b.all.contains id then b.fail f a else b }

/-- Drops the batches that are complete and did not fail. -/
def Counter.prune (c : Counter) : Counter :=
  { c with batches := c.batches.filter fun b => b.failed || !b.ops.isEmpty }

/-- An operation is over: the counter, and the operations of a batch that is complete with it. -/
def Counter.opEnd (c : Counter) (id : Nat) : Counter × List Nat :=
  let bs := c.batches.map fun b => if b.ops.contains id then { b with ops := b.ops.filter (· != id) } else b
  let gone := bs.filter fun b => b.ops.isEmpty && b.all.contains id
  (({ c with batches := bs }).prune, gone.flatMap Batch.all)

/-- Changes counter `k` of a team. -/
def State.onCounter (s : State) (tid k : Nat) (f : Counter → Counter) : State :=
  match s.team? tid with
  | some t => s.putTeam { t with counters := t.counters.set k (f (t.counters.getD k {})) }
  | none => s

/-- Operations of the batch that an operation belongs to, or that it has been issued into. -/
def Counter.batchOf (c : Counter) (id : Nat) : List Nat :=
  if c.opened.contains id then c.opened else (c.batches.find? fun b => b.all.contains id).elim [] Batch.all

/-- Fails the batch of an operation: the entries of its operations clear (R204, R210). -/
def State.failOp (s : State) (tid k id : Nat) (f a : DWord) : State :=
  match s.team? tid with
  | some t =>
    let c := t.counters.getD k {}
    (s.putTeam { t with counters := t.counters.set k (c.fail id f a) }).dropLocks fun l => (c.batchOf id).contains l.op
  | none => s

/-- An operation of a counter is over; the locks of a batch clear when it completes (R204). -/
def State.endOp (s : State) (tid k id : Nat) : State :=
  match s.team? tid with
  | some t =>
    let (c, gone) := (t.counters.getD k {}).opEnd id
    (s.putTeam { t with counters := t.counters.set k c }).dropLocks fun l => gone.contains l.op
  | none => s

/-- Removes an operation from its core's engine, and ends it. -/
def State.retireOp (s : State) (core : Nat) (o : EngOp) : State :=
  let c := s.coreSt core
  (s.putCore core { c with ops := c.ops.filter fun x => x.id != o.id }).endOp o.tid o.k o.id

/-- Replaces an operation in its core's engine. -/
def State.putOp (s : State) (core : Nat) (o : EngOp) : State :=
  let c := s.coreSt core
  s.putCore core { c with ops := c.ops.map fun x => if x.id == o.id then o else x }

/-- An operation stops at its cursor and fails its batch with the fault (R210). -/
def State.faultOp (s : State) (core : Nat) (o : EngOp) (seg space kind : Nat) (f : MFault) : State :=
  (s.failOp o.tid o.k o.id (infoOf seg space (Config.infoField 0 % 8) kind f) (BitVec.ofNat 64 f.va)).retireOp core o

/-- INFO and EADDR of a batch that fails without an access of its own that the rules name (R27, R416): free (log 19). -/
def unstatedFault : DWord × DWord := (BitVec.ofNat 64 (Config.infoField 10), BitVec.ofNat 64 (Config.infoField 11))

/-- An operation whose request to a neighbour completes with LINK_LOST fails its batch (R27). -/
def State.loseOp (s : State) (core : Nat) (o : EngOp) : State :=
  (s.failOp o.tid o.k o.id unstatedFault.1 unstatedFault.2).retireOp core o

/-- The first operation of an engine in issue order (R204). -/
def CoreSt.head (c : CoreSt) (g : Engine) : Option EngOp := c.ops.find? fun o => o.eng == g

/-- Issuing team and block of an operation. -/
def State.opEnv (s : State) (o : EngOp) : Option Env :=
  match s.team? o.tid, s.block? o.blk with
  | some t, some b => some { s := s, t := t, b := b }
  | _, _ => none

/-- Who an operation is: checked in the mode of its issue (R178). -/
def Env.opWho (e : Env) (o : EngOp) : Who := { e.who with user := !o.smode }

/-! ### Accesses of an engine (R364, R368) -/

/-- A checked place of a block's scratchpad inside one aligned unit of 16 bytes, the alignment of operands and rows (R364). -/
def Block.unitAt (m : Block) (a : Int) : Except MFault Target :=
  if m.spadOk (a - a % 16) 16 then .ok (.spad m.core (m.spadAddr a.toNat)) else .error { cause := .segLimit }

/-- A checked place inside one aligned unit of 16 bytes in SPACE 1 to 3. -/
def Env.chunkAt (e : Env) (space : Nat) (a : Int) : Except MFault Target :=
  match space with
  | 1 => e.b.unitAt a
  | 2 =>
    match e.s.member e.b (a / 393216) with
    | none => .error { cause := .segLimit }
    | some m => m.unitAt (a % 393216)
  | _ =>
    match (e.s.part e.b.part).chipAt (a - a % 16) 16 with
    | none => .error { cause := .partBounds }
    | some (.chip c) => .ok (.chip (c + (a % 16).toNat))
    | some t => .ok (match t with | .gone o => .gone (o + (a % 16).toNat) | t => t)

/-- The parts of an access of `n` bytes at `a`, from `o` on, that lie each in one aligned unit of 16 bytes: offset and
length. -/
def chunks (a : Int) : Nat → Nat → Nat → List (Nat × Nat)
  | 0, _, _ => []
  | fuel + 1, o, n => if n = 0 then [] else
      let k := Nat.min n (16 - ((a + o) % 16).toNat)
      (o, k) :: chunks a fuel (o + k) (n - k)

/-- Checks chunks in order. -/
def checkChunks (f : Nat → Except MFault Target) : List (Nat × Nat) → Except MFault (List (Target × Nat))
  | [] => .ok []
  | (o, n) :: r =>
    match f o with
    | .error x => .error x
    | .ok t => match checkChunks f r with
      | .error x => .error x
      | .ok ts => .ok ((t, n) :: ts)

/-- The checked places of an engine's access of `n` bytes at `delta` from an operand's offset. -/
def Env.place (e : Env) (w : Who) (write : Bool) (space seg : Nat) (val : DWord) (delta : Int) (n : Nat) :
    State × Except MFault (List (Target × Nat)) :=
  if space = 0 then
    match segAddr (e.b.seg seg) seg val.toInt delta n write false with
    | none => (e.s, .error { cause := .segLimit })
    | some va =>
      match e.s.translateAll w (if write then .engWrite else .engRead) (pieces va (n + 1) n) with
      | (s, .error f) => (s, .error f)
      | (s, .ok ps) => (s, .ok [(.va va ps, n)])
  else
    let a := val.toInt + delta
    (e.s, match checkChunks (fun o => e.chunkAt space (BitVec.toInt (BitVec.ofInt 64 (a + o)))) (chunks a (n / 16 + 2) 0 n) with
      | .ok ts => if !write && ts.any fun t => e.s.targetBad w .engRead t.1 t.2 then .error { cause := .dataError } else .ok ts
      | x => x)

/-- The places of a multicast write: the same block-relative bytes of each receiving member (R365). -/
def Env.placeMcast (e : Env) (a : Int) (n : Nat) : List Nat → Except MFault (List (Block × List (Target × Nat)))
  | [] => .ok []
  | j :: js =>
    match e.s.member e.b j with
    | none => .error { cause := .segLimit }
    | some m =>
      match checkChunks (fun o => m.unitAt (a + o)) (chunks a (n / 16 + 2) 0 n), e.placeMcast a n js with
      | .error f, _ => .error f
      | _, .error f => .error f
      | .ok ts, .ok r => .ok ((m, ts) :: r)

/-- Reads places at the home. -/
def State.engLoad (s : State) (ts : List (Target × Nat)) : List Byte := ts.flatMap fun (t, n) => s.homeLoad t n

/-- Writes places at the home. -/
def State.engStore (s : State) (ctx : Nat) (bs : List Byte) : List (Target × Nat) → State
  | [] => s
  | (t, n) :: r => (s.homeStore ctx t (bs.take n)).engStore ctx (bs.drop n) r

/-- Delivery of `n` bytes at barrier word `bar` of a block; an under-run fails the operation's batch (R140, R368). -/
def State.deliver (s : State) (o : EngOp) (m : Block) (bar n : Nat) : State :=
  let (b, under) := (s.bar m.core (m.bar0 + bar)).deliver n
  let s := (s.putBar m.core (m.bar0 + bar) b).markRemote m.core (m.bar0 + bar)
  if under then s.failOp o.tid o.k o.id 0 0 else s

/-! ### Descriptors (R364 to R367) -/

/-- DSPACE -/
def EngOp.dspace (o : EngOp) : Nat := bits o.w2.toNat 63 61
/-- SSPACE -/
def EngOp.sspace (o : EngOp) : Nat := bits o.w2.toNat 60 58
/-- DSEG -/
def EngOp.dseg (o : EngOp) : Nat := bits o.w2.toNat 57 54
/-- SSEG -/
def EngOp.sseg (o : EngOp) : Nat := bits o.w2.toNat 53 50
/-- BAREN -/
def EngOp.baren (o : EngOp) : Bool := o.w2.getLsbD 49
/-- BAR -/
def EngOp.bar (o : EngOp) : Nat := bits o.w2.toNat 48 42
/-- MCAST -/
def EngOp.mcast (o : EngOp) : Nat := match o.kind with | .cpyt => bits o.w2.toNat 39 32 | _ => 0
/-- Element size. -/
def EngOp.esize (o : EngOp) : Nat := 2 ^ bits o.w2.toNat 39 36
/-- COUNT -/
def EngOp.count (o : EngOp) : Nat := bits o.w2.toNat 35 20
/-- ISEG -/
def EngOp.iseg (o : EngOp) : Nat := bits o.w2.toNat 19 16
/-- ISPACE -/
def EngOp.ispace (o : EngOp) : Nat := bits o.w2.toNat 15 13
/-- Row length of a copy in bytes. -/
def EngOp.rowLen (o : EngOp) : Nat :=
  match o.kind with | .cpyt => 16 * bits o.c.toNat 11 0 | _ => bits o.c.toNat 31 0
/-- Rows of a copy. -/
def EngOp.rowCount (o : EngOp) : Nat := match o.kind with | .cpyt => bits o.c.toNat 23 12 | _ => 1
/-- Source row stride in bytes. -/
def EngOp.sstride (o : EngOp) : Nat := match o.kind with | .cpyt => 16 * bits o.c.toNat 63 44 | _ => 0
/-- Destination row stride in bytes. -/
def EngOp.dstride (o : EngOp) : Nat := match o.kind with | .cpyt => 16 * bits o.c.toNat 43 24 | _ => 0

/-- A range of an operation: space, segment, offset and length. -/
structure Span where
  space : Nat
  seg : Nat
  val : DWord
  len : Nat
  deriving DecidableEq, Repr

/-- Bounding source and destination ranges as R368 lists them. -/
def EngOp.spans (o : EngOp) : List Span × List Span :=
  let src (n : Nat) : Span := { space := o.sspace, seg := o.sseg, val := o.b, len := n }
  let dst (n : Nat) : Span := { space := o.dspace, seg := o.dseg, val := o.a, len := n }
  let idx : Span := { space := o.ispace, seg := o.iseg, val := o.c, len := 4 * o.count }
  match o.kind with
  | .gath => ([idx], [dst (o.esize * o.count)])
  | .scat => ([src (o.esize * o.count), idx], [])
  | _ => ([src (o.sstride * (o.rowCount - 1) + o.rowLen)], [dst (o.dstride * (o.rowCount - 1) + o.rowLen)])

/-- First address of a range in its space: a virtual address for SPACE 0. -/
def Env.spanAt (e : Env) (r : Span) : Int :=
  if r.space = 0 then
    let g := e.b.seg r.seg
    (((segBase g : Int) + r.val.toInt * (2 ^ bits g.toNat 114 112 : Nat)) % (2 ^ 48 : Nat))
  else r.val.toInt

/-- Whether two ranges overlap in one space. -/
def Env.overlap (e : Env) (x y : Span) : Bool :=
  x.space == y.space && decide (e.spanAt x < e.spanAt y + y.len) && decide (e.spanAt y < e.spanAt x + x.len)

/-- DESC_INVALID at issue (R364, R365, R367). -/
def Env.engBad (e : Env) (o : EngOp) : Bool :=
  let (srcs, dsts) := o.spans
  let gather := o.kind == .gath || o.kind == .scat
  o.dspace == 4 || o.sspace == 4 || (gather && o.ispace == 4) ||
    o.a.toNat % 16 != 0 || o.b.toNat % 16 != 0 ||
    (match o.kind with
     | .cpy => o.rowLen == 0 || o.rowLen % 16 != 0
     | .cpyt => o.rowLen == 0 || o.rowCount == 0 ||
        (o.mcast != 0 && (o.dspace != 1 || decide (2 ^ e.b.gangN ≤ o.mcast)))
     | _ => o.c.toNat % 16 != 0 || !(decide (4 ≤ o.esize) && decide (o.esize ≤ 4096)) || o.count == 0) ||
    (match o.kind with
     | .scat => false
     | _ => srcs.any fun x => dsts.any fun y => e.overlap x y)

/-- Range-lock entries of a range, each with its core (R204, R368). -/
def Env.lockOf (e : Env) (o : EngOp) (dest : Bool) (mcast : Nat) (r : Span) : List (Nat × Lock) :=
  let mk (space owner base : Nat) : Lock :=
    { op := o.id, blk := e.b.id, tid := e.t.tid, ctx := e.b.ctx, space := space, owner := owner, base := base,
      len := r.len, dest := dest }
  match r.space with
  | 0 => [(e.t.core, mk 0 0 (e.spanAt r).toNat)]
  | 1 =>
    if mcast = 0 then [(e.t.core, mk 1 e.b.id r.val.toNat)]
    else (setBits 8 mcast).filterMap fun j => (e.s.member e.b j).map fun m => (m.core, mk 1 m.id r.val.toNat)
  | 2 =>
    let a := r.val.toInt
    let lo := a / 393216
    (List.range ((a + r.len - 1) / 393216 + 1 - lo).toNat).filterMap fun k =>
      let j := lo + k
      let from_ := max a (393216 * j)
      (e.s.member e.b j).map fun m => (m.core, { mk 1 m.id (from_ - 393216 * j).toNat with
        len := (min (a + r.len) (393216 * (j + 1)) - from_).toNat })
  | _ => []

/-- Entries of a core's range-lock table (R125). -/
def lockRoom : Nat := 64
/-- Depth of an engine's queue (R125, R373). -/
def queueRoom (g : Engine) : Nat := match g with | .copy | .gather => 16 | .step | .move => 8
/-- Whether two engines share a queue. -/
def sameQueue (g h : Engine) : Bool :=
  g == h || ((g == .step || g == .move) && (h == .step || h == .move))

/-- Enters locks in their cores' tables. -/
def State.addLocks (s : State) : List (Nat × Lock) → State
  | [] => s
  | (n, l) :: r =>
    let c := s.coreSt n
    (s.putCore n { c with locks := c.locks ++ [l] }).addLocks r

/-- Issues an engine operation (R204, R363): it waits for room in the queue and the tables; the source end and the
invalidation of R200 come first. -/
def Env.enqueue (e : Env) (i : Instr) (o : EngOp) (locks : List (Nat × Lock)) : Out :=
  let c := e.s.coreSt e.t.core
  let full := queueRoom o.eng ≤ (c.ops.filter fun x => sameQueue x.eng o.eng).length
  let tight := locks.any fun l =>
    lockRoom < (e.s.coreSt l.1).locks.length + (locks.filter fun m => m.1 == l.1).length
  if full || tight then e.stallAt 8
  else
    let s := (e.target (e.source e.s)).addLocks locks
    let c := s.coreSt e.t.core
    let s := s.putCore e.t.core { c with ops := c.ops ++ [o] }
    let k := e.t.counters.getD o.k {}
    ({ e with s := { s with nextId := s.nextId + 1 } }).done i
      { e.t with counters := e.t.counters.set o.k { k with opened := k.opened ++ [o.id] } } none

/-- The operation that an instruction of an engine issues, its operands captured. -/
def Env.newOp (e : Env) (f : FV) (w2 : DWord) (g : Engine) (kind : EngKind) : EngOp :=
  { id := e.s.nextId, tid := e.t.tid, blk := e.b.id, eng := g, kind := kind, k := bits f.fn.toNat 1 0,
    a := e.uval f.sa.toNat, b := e.uval f.sb.toNat, c := e.uval f.sc.toNat, w2 := w2, fn := f.fn.toNat, tile := 0,
    fmt := [], tabA := [], tabB := [], cursor := 0, taken := [], released := [], tcells := [],
    smode := e.t.trap.isSome, badFmt := false }

/-- CPY, CPYT, GATH and SCAT (R363 to R368). -/
def Env.bulk (e : Env) (i : Instr) (f : FV) (w2 : DWord) (g : Engine) (kind : EngKind) : Out :=
  if e.t.act i.hdr = 0 then e.skip i
  else
    let o := e.newOp f w2 g kind
    if e.engBad o then e.trapTeam i .descInvalid
    else
      let (srcs, dsts) := o.spans
      e.enqueue i o (srcs.flatMap (e.lockOf o false 0) ++ dsts.flatMap (e.lockOf o true o.mcast))

/-- CPY -/
def execCpy (f : FV) (w2 : BitVec 64) (s : State) : Out :=
  issue (.cpy f w2) s fun e => e.bulk (.cpy f w2) f w2 .copy .cpy
/-- CPYT -/
def execCpyt (f : FV) (w2 : BitVec 64) (s : State) : Out :=
  issue (.cpyt f w2) s fun e => e.bulk (.cpyt f w2) f w2 .copy .cpyt
/-- GATH -/
def execGath (f : FV) (w2 : BitVec 64) (s : State) : Out :=
  issue (.gath f w2) s fun e => e.bulk (.gath f w2) f w2 .gather .gath
/-- SCAT -/
def execScat (f : FV) (w2 : BitVec 64) (s : State) : Out :=
  issue (.scat f w2) s fun e => e.bulk (.scat f w2) f w2 .gather .scat

/-! ### Progress of an operation (R217, R365, R366, R368) -/

/-- Writes one delivery and counts it at the barrier. -/
def Env.deliverAt (e : Env) (o : EngOp) (delta : Int) (bs : List Byte) : State × Except MFault Unit :=
  let n := bs.length
  if o.mcast ≠ 0 then
    match e.placeMcast (BitVec.toInt (BitVec.ofInt 64 (o.a.toInt + delta))) n (setBits 8 o.mcast) with
    | .error f => (e.s, .error f)
    | .ok ms =>
      (ms.foldl (fun (s : State) (m : Block × List (Target × Nat)) =>
        let s := s.engStore e.b.ctx bs m.2
        if o.baren then s.deliver o m.1 o.bar n else s) e.s, .ok ())
  else
    match e.place (e.opWho o) true o.dspace o.dseg o.a delta n with
    | (s, .error f) => (s, .error f)
    | (s, .ok ts) =>
      let s := s.engStore e.b.ctx bs ts
      let m := if o.dspace = 2 then (s.member e.b ((o.a.toInt + delta) / 393216)).getD e.b else e.b
      (if o.baren then s.deliver o m o.bar n else s, .ok ())

/-- A failed access of an operation: a G-stage fault holds it at its cursor for Sorrel (R97, R216), any other fails it. -/
def Env.opFault (e : Env) (o : EngOp) (seg space kind : Nat) (f : MFault) : State :=
  if f.cause == .guestPageFault then e.s.notify e.b.part .guestPageFault
  else e.s.faultOp e.t.core o seg space kind f

/-- Moves an operation's cursor, and ends it at `total`. -/
def State.advance (s : State) (core : Nat) (o : EngOp) (cursor total : Nat) : State :=
  if total ≤ cursor then s.retireOp core o else s.putOp core { o with cursor := cursor }

/-- Whether a cluster-shared place belongs to a gang member that is migrating: the operation waits before it (R94). -/
def Env.awayAt (e : Env) (space : Nat) (a : Int) : Bool := space == 2 && e.s.migrating e.b (a / 393216)

/-- The same of a delivery, to a multicast's members among others. -/
def Env.destAway (e : Env) (o : EngOp) (delta : Int) : Bool :=
  if o.mcast = 0 then e.awayAt o.dspace (o.a.toInt + delta) else (setBits 8 o.mcast).any fun j => e.s.migrating e.b j

/-- One piece of a copy: it stays within a 128-byte line of the destination (R365). -/
def Env.copyPiece (e : Env) (o : EngOp) : State :=
  let r := o.cursor / o.rowLen
  let x := o.cursor % o.rowLen
  let d := o.dstride * r + x
  if e.awayAt o.sspace (o.b.toInt + (o.sstride * r + x : Nat)) || e.destAway o (d : Nat) then e.s else
  let at_ := (e.spanAt { space := o.dspace, seg := o.dseg, val := o.a, len := 0 } + d) % 128
  let n := Nat.min (o.rowLen - x) (128 - at_.toNat)
  match e.place (e.opWho o) false o.sspace o.sseg o.b (o.sstride * r + x : Nat) n with
  | (s, .error f) => ({ e with s := s }).opFault o o.sseg o.sspace 4 f
  | (s, .ok ts) =>
    match ({ e with s := s }).deliverAt o (d : Nat) (s.engLoad ts) with
    | (s, .error f) => ({ e with s := s }).opFault o o.dseg o.dspace 5 f
    | (s, .ok _) => s.advance e.t.core o (o.cursor + n) (o.rowLen * o.rowCount)

/-- One element of a gather or scatter: its index, its source bytes, then the write (R366). -/
def Env.gatherElement (e : Env) (o : EngOp) : State :=
  let n := o.esize
  if e.awayAt o.ispace (o.c.toInt + (4 * o.cursor : Nat)) then e.s else
  match e.place (e.opWho o) false o.ispace o.iseg o.c (4 * o.cursor : Nat) 4 with
  | (s, .error f) => ({ e with s := s }).opFault o o.iseg o.ispace 4 f
  | (s, .ok ts) =>
    let idx := leNat (s.engLoad ts)
    let (si, di) := match o.kind with | .gath => (idx, o.cursor) | _ => (o.cursor, idx)
    if e.awayAt o.sspace (o.b.toInt + (n * si : Nat)) || e.destAway o (n * di : Nat) then e.s else
    match ({ e with s := s }).place (e.opWho o) false o.sspace o.sseg o.b (n * si : Nat) n with
    | (s, .error f) => ({ e with s := s }).opFault o o.sseg o.sspace 4 f
    | (s, .ok ts) =>
      match ({ e with s := s }).deliverAt o (n * di : Nat) (s.engLoad ts) with
      | (s, .error f) => ({ e with s := s }).opFault o o.dseg o.dspace 5 f
      | (s, .ok _) => s.advance e.t.core o (o.cursor + 1) o.count

/-- Runs the first operation of an engine, if it is the one named. -/
def State.runHead (s : State) (core id : Nat) (g : Engine) (k : Env → EngOp → State) : State :=
  match (s.coreSt core).head g with
  | some o => if o.id = id then (match s.opEnv o with | some e => k e o | none => s) else s
  | none => s

/-- COPY_PIECE (R365) -/
def execCopyPiece (core op : Nat) (s : State) : Out := .next (s.runHead core op .copy fun e o => e.copyPiece o)
/-- GATHER_ELEMENT (R366) -/
def execGatherElement (core op : Nat) (s : State) : Out :=
  .next (s.runHead core op .gather fun e o => e.gatherElement o)

/-! ### Batches (R369, R370) -/

/-- Closed batches that are not complete. -/
def Counter.incomplete (c : Counter) : List Batch := c.batches.filter fun b => !b.ops.isEmpty

/-- Whether an operation is still outstanding: in an engine, or a collective. -/
def State.opLive (s : State) (core id : Nat) : Bool :=
  (s.coreSt core).ops.any (fun o => o.id == id) || s.groups.any fun g => g.insts.any fun c => c.op == id

/-- ECLOSE -/
def execEclose (f : FV) (s : State) : Out :=
  issue (.eclose f) s fun e =>
    let k := bits f.fn.toNat 1 0
    let c := e.t.counters.getD k {}
    if e.t.act f.h = 0 then e.skip (.eclose f)
    else if 65536 ≤ c.incomplete.length then e.stallAt 8
    else
      let live := c.opened.filter (e.s.opLive e.t.core)
      let b : Batch := { num := c.closed, ops := live, all := c.opened, failed := c.openFailed, fault := c.openFault,
                         eaddr := c.openEaddr }
      let c : Counter := { opened := [], closed := c.closed + 1, batches := c.batches ++ [b] }
      let s := if live.isEmpty then e.s.dropLocks fun l => b.all.contains l.op else e.s
      ({ e with s := s }).done (.eclose f) { e.t with counters := e.t.counters.set k c.prune } none

/-- Whether a wait on a counter is over (R369): EWAIT on batches up to `n`, EWAITO on at most `n` incomplete. -/
def Counter.waitOver (c : Counter) (atMost : Bool) (n : Nat) : Bool :=
  if atMost then decide (c.incomplete.length ≤ n)
  else c.incomplete.all fun b => !decide ((BitVec.ofNat 32 n - b.num).toNat < 2 ^ 31)

/-- A wait in the handler that observes a failed batch returns; the cause waits until RTT (R213) (log 66). -/
def Team.deferFault (t : Team) (insn : DWord) (k : Nat) (info eaddr : DWord) : Team :=
  { t with async := t.async ++ [{ cause := .engineFault, pc := t.pc, insn := insn, lanes := t.mask &&& ~~~t.helper,
                                  info := info, eaddr := eaddr, k := k }] }

/-- EWAIT and EWAITO. -/
def Env.ewait (e : Env) (i : Instr) (f : FV) (atMost : Bool) : Out :=
  let k := bits f.fn.toNat 1 0
  let n := (e.uval f.sa.toNat).toNat % 2 ^ 32
  let c := e.t.counters.getD k {}
  if e.t.act i.hdr = 0 then e.skip i
  else if !c.waitOver atMost n then e.park (.engine k atMost n) 8
  else
    let s := e.target e.s
    match c.takeFailure false with
    | none => ({ e with s := s }).skip i
    | some (c, info, eaddr) =>
      let t := { e.t with counters := e.t.counters.set k c }
      if t.trap.isSome then ({ e with s := s }).done i (t.deferFault i.word k info eaddr) none
      else ({ e with s := s }).engineFault i k t info eaddr

/-- EWAIT -/
def execEwait (f : FV) (s : State) : Out := issue (.ewait f) s fun e => e.ewait (.ewait f) f false
/-- EWAITO -/
def execEwaito (f : FV) (s : State) : Out := issue (.ewaito f) s fun e => e.ewait (.ewaito f) f true

/-- EWAIT_RETURN: a parked wait that is over returns, or traps ENGINE_FAULT (R370). -/
def execEwaitReturn (core slot half : Nat) (s : State) : Out :=
  match s.teamAt core slot half with
  | none => .next s
  | some t =>
    match t.status with
    | .engine k atMost n =>
      let c := t.counters.getD k {}
      if !c.waitOver atMost n then .next s
      else
        let (insn, size) := (s.envOf t).codeAt t.pc
        let s := s.targetEnd t.core (s.blockOf t).ctx false
        match c.takeFailure false with
        | none => .next (s.putTeam (t.wake size))
        | some (c, info, eaddr) =>
          let t := { t with counters := t.counters.set k c }
          if t.trap.isSome then .next (s.putTeam ((t.deferFault insn k info eaddr).wake size))
          else .next (s.takeTrap { t with status := .ready }
            { cause := .engineFault, lanes := t.mask &&& ~~~t.helper, pending := t.mask, full := true, pc := t.pc,
              insn := insn, resume := t.pc, size := size, info := info, eaddr := eaddr, k := k })
    | _ => .next s

end Sys2Proof.Machine
end

