-- ==== Sys2Proof/Machine/Matrix.lean ====
section
/-! DEFINITION. The matrix engine: 0xC0 to 0xC7 (R141, R239, R243 to R248, R371 to R390). -/

namespace Sys2Proof.Machine

/-! ### Bands and tags (R141, R373) -/

/-- A tag bit of a band of a physical tile. -/
def tagAt (v : BitVec 128) (p b : Nat) : Bool := v.getLsbD (8 * p + b)
/-- Sets a tag bit. -/
def putTag (v : BitVec 128) (p b : Nat) (x : Bool) : BitVec 128 :=
  let m := 1#128 <<< (8 * p + b)
  if x then v ||| m else v &&& ~~~m
/-- V := v, C := c on a band. -/
def CoreSt.tag (c : CoreSt) (p b : Nat) (v k : Bool) : CoreSt :=
  { c with tagV := putTag c.tagV p b v, tagC := putTag c.tagC p b k }

/-- A cell of a physical tile. -/
def CoreSt.cell (c : CoreSt) (p n : Nat) : BitVec 36 := mget 0 c.cells (4096 * p + n)

/-- How an access meets a band (R141). -/
inductive BandUse where
  | overwrite | accumulate | read | consume
  deriving DecidableEq, Repr

/-- The tag wait of a band. -/
def CoreSt.tagReady (c : CoreSt) (u : BandUse) (p b : Nat) : Bool :=
  match u with | .overwrite => tagAt c.tagC p b | _ => tagAt c.tagV p b
/-- The tag update on completing a band. -/
def CoreSt.tagDone (c : CoreSt) (u : BandUse) (p b : Nat) : CoreSt :=
  match u with
  | .overwrite | .accumulate => c.tag p b true false
  | .read => c
  | .consume => { c with tagC := putTag c.tagC p b true }

/-- Whether an operation has taken a band of a block's tile. -/
def CoreSt.bandTaken (c : CoreSt) (blk tile b : Nat) : Bool :=
  c.ops.any fun o => o.blk == blk && o.taken.contains (8 * tile + b)

/-! ### The format block (R375 to R377) -/

/-- MODE -/
def EngOp.mode (o : EngOp) : Nat := fieldOf o.fmt 0 1
/-- AFMT, or BFMT for `second`. -/
def EngOp.efmt (o : EngOp) (second : Bool) : Nat := fieldOf o.fmt (if second then 2 else 1) 1
/-- Block length of A or B: 0 for no scale. -/
def EngOp.blockLen (o : EngOp) (second : Bool) : Nat :=
  match bits (fieldOf o.fmt 3 1) (if second then 3 else 1) (if second then 2 else 0) with
  | 0 => 0 | 1 => 12 | 2 => 24 | _ => 48
/-- N of A or B. -/
def EngOp.sparse (o : EngOp) (second : Bool) : Nat :=
  bits (fieldOf o.fmt 4 1) (if second then 7 else 3) (if second then 4 else 0)
/-- ASCALE or BSCALE. -/
def EngOp.scale (o : EngOp) (second : Bool) : Nat := fieldOf o.fmt (if second then 0x0C else 8) 4
/-- ATAB or BTAB. -/
def EngOp.tabAt (o : EngOp) (second : Bool) : Nat := fieldOf o.fmt (if second then 0x18 else 0x10) 8
/-- The companding table read for A or B; empty without one. -/
def EngOp.tab (o : EngOp) (second : Bool) : List Byte := if second then o.tabB else o.tabA

/-- Bits of an element format. -/
def fmtBits (f : Nat) : Nat :=
  match f with | 0 => 64 | 1 | 4 => 32 | 2 | 3 => 16 | 10 | 12 | 13 => 8 | 14 | 15 => 4 | 16 => 1 | _ => 0

/-- Dense K of a step (R376); none when the formats fit no row. -/
def stepK (mode af bf : Nat) : Option Nat :=
  let m0 (f : Nat) : Bool := f < 4 || f == 10 || (12 ≤ f && f < 16)
  match mode with
  | 0 => if m0 af && m0 bf && fmtBits af == fmtBits bf then some (384 / fmtBits af) else none
  | 1 => if af = 2 ∧ bf = 2 then some 12 else none
  | 2 | 3 => if af = 16 ∧ bf = 16 then some 384 else none
  | _ => none

/-- Formats of 4, 8 and 16 bits. -/
def narrowFmt (f : Nat) : Bool := fmtBits f == 4 || fmtBits f == 8 || fmtBits f == 16
/-- Formats that may name a table. -/
def tableFmt (f : Nat) : Bool := f == 12 || f == 13 || f == 14

/-- The checks of R377 on one operand's scale and table fields. -/
def EngOp.sideBad (o : EngOp) (second : Bool) : Bool :=
  let f := o.efmt second
  (o.blockLen second != 0 && !(o.mode == 0 && narrowFmt f)) || o.scale second % 2 == 1 ||
    (o.scale second != 0 && o.blockLen second == 0) ||
    (o.tabAt second != 0 && (!(o.mode == 0 && tableFmt f) || o.tabAt second % 64 != 0))

/-- Reserved bits of a format block. -/
def EngOp.fmtReserved (o : EngOp) : Bool := fieldOf o.fmt 5 3 != 0 || bits (fieldOf o.fmt 3 1) 7 4 != 0

/-! ### Fields of the operations -/

/-- Whether an operation is MMA or MMAL. -/
def EngOp.isMma (o : EngOp) : Bool := o.kind == .mma
/-- ASPACE, or BSPACE. -/
def EngOp.opSpace (o : EngOp) (second : Bool) : Nat := if second then bits o.w2.toNat 60 58 else bits o.w2.toNat 63 61
/-- ASTRIDE, or BSTRIDE. -/
def EngOp.opStride (o : EngOp) (second : Bool) : Nat := if second then bits o.w2.toNat 45 34 else bits o.w2.toNat 57 46
/-- AINC, or BINC. -/
def EngOp.opInc (o : EngOp) (second : Bool) : Nat := if second then bits o.w2.toNat 23 14 else bits o.w2.toNat 33 24
/-- Steps of an MMAL, or 1; the operation keeps the step count of MMAL in its FN bit 8. -/
def EngOp.steps (o : EngOp) : Nat := if o.fn.testBit 8 then bits o.w2.toNat 13 0 else 1
/-- Value of SA, or of SB. -/
def EngOp.opVal (o : EngOp) (second : Bool) : Nat := if second then o.b.toNat else o.a.toNat
/-- OFF -/
def EngOp.opOff (o : EngOp) (second : Bool) : Nat := bits (o.opVal second) 31 0
/-- KORG -/
def EngOp.korg (o : EngOp) (second : Bool) : Nat := bits (o.opVal second) 47 32
/-- `.acc` -/
def EngOp.accum (o : EngOp) : Bool := o.fn.testBit 2
/-- `.consume` of MDRAIN. -/
def EngOp.consume (o : EngOp) : Bool := o.fn.testBit 3
/-- `.t` of MDRAIN. -/
def EngOp.trans (o : EngOp) : Bool := o.fn.testBit 4

/-- Whether the operation needs a tile pair (R381, R387). -/
def EngOp.pair (o : EngOp) : Bool :=
  match o.kind with
  | .mma => o.mode == 1 || (o.mode == 0 && o.efmt false == 0)
  | .mdrain => o.efmt false == 0 || (o.trans && o.efmt true == 0)
  | _ => false

/-- Tiles whose bands an operation takes. -/
def EngOp.dests (o : EngOp) : List Nat := if o.pair then [o.tile, o.tile + 1] else [o.tile]
/-- The tile that a tile-space A names. -/
def EngOp.aTile (o : EngOp) : List Nat := if o.isMma && o.opSpace false == 4 then [o.a.toNat % 16] else []
/-- Every tile that an operation names: a copy, gather or scatter names none. -/
def EngOp.names (o : EngOp) : List Nat :=
  match o.kind with
  | .cpy | .cpyt | .gath | .scat => []
  | .mma | .mzero | .mldt | .mdrain => o.dests ++ o.aTile
/-- How the operation meets the bands that it takes. -/
def EngOp.use (o : EngOp) : BandUse :=
  match o.kind with
  | .mma => if o.accum then .accumulate else .overwrite
  | .mdrain => if o.consume then .consume else .read
  | _ => .overwrite

/-- Physical tile of a block's tile; 16 for one that it does not hold. -/
def Block.phys (b : Block) (t : Nat) : Nat := b.tiles.getD t 16

/-- Positions that a step covers. -/
def EngOp.ke (o : EngOp) : Nat :=
  let k := (stepK o.mode (o.efmt false) (o.efmt true)).getD 0
  let n := Nat.max (o.sparse false) (o.sparse true)
  if n = 0 then k else k * 12 / n

/-- Bits of an element of an operand: a complex element is 4 bytes. -/
def EngOp.elemBits (o : EngOp) (second : Bool) : Nat := if o.mode = 1 then 32 else fmtBits (o.efmt second)

/-- Bytes of a row piece (R378). -/
def EngOp.piece (o : EngOp) (second : Bool) : Nat :=
  if o.sparse second = 0 then o.ke * o.elemBits second / 8 else roundUp (48 + 2 * (o.ke / 12)) 16

/-! ### Issue (R371, R372, R377, R390) -/

/-- Reads the tables that a format block names, one after the other. -/
def Env.readTabs (e : Env) (i : Instr) (o : EngOp) (k : Env → EngOp → Out) : Out :=
  let w := e.t.act i.hdr
  let one (e : Env) (second : Bool) (k : Env → List Byte → Out) : Out :=
    let va := o.tabAt second
    if va = 0 then k e [] else e.readTable i w va 256 64 tableOk fun e bs => k e (bs.getD [])
  one e false fun e ta => one e true fun e tb => k e { o with tabA := ta, tabB := tb }

/-- Range of an operand in SPACE 1 or 2, and of its scales (R390). -/
def EngOp.operandSpans (o : EngOp) (second : Bool) : List Span :=
  let bl := o.blockLen second
  let lo := o.korg second / bl
  let hi := (o.korg second + o.steps * o.ke - 1) / bl
  (if o.opSpace second = 4 then [] else
    [{ space := o.opSpace second, seg := 0, val := BitVec.ofNat 64 (o.opOff second),
       len := 16 * o.opInc second * (o.steps - 1) + 16 * o.opStride second * 63 + o.piece second }]) ++
  (if bl = 0 then [] else
    [{ space := 1, seg := 0, val := BitVec.ofNat 64 (o.scale second + 128 * lo), len := 128 * (hi + 1 - lo) }])

/-- DESC_INVALID of MMA and MMAL (R377 to R379). -/
def EngOp.mmaBad (o : EngOp) : Bool :=
  let na := o.sparse false; let nb := o.sparse true
  let okN (n f : Nat) : Bool := n == 0 || ((n == 4 || n == 6) && o.mode == 0 && narrowFmt f)
  o.fmtReserved || (stepK o.mode (o.efmt false) (o.efmt true)).isNone || o.steps == 0 ||
    o.sideBad false || o.sideBad true || !okN na (o.efmt false) || !okN nb (o.efmt true) || (na != 0 && nb != 0) ||
    (o.pair && o.tile % 2 == 1) || bits o.a.toNat 63 48 != 0 || bits o.b.toNat 63 48 != 0 ||
    !(o.opSpace true == 1 || o.opSpace true == 2) || o.opOff true % 16 != 0 ||
    (if o.opSpace false = 4 then
      16 ≤ o.opOff false || !([1, 2, 3, 12, 13].contains (o.efmt false)) || o.blockLen false != 0 || na != 0 ||
        o.tabAt false != 0 || o.opStride false != 0 || o.opInc false != 0 || o.dests.contains (o.a.toNat % 16)
    else !(o.opSpace false == 1 || o.opSpace false == 2) || o.opOff false % 16 != 0)

/-- MMA and MMAL (R371, R372, R377 to R381). -/
def Env.mma (e : Env) (i : Instr) (f : FV) (w2 : DWord) (many : Bool) : Out :=
  let w := e.t.act i.hdr
  let o : EngOp := { e.newOp f w2 .step .mma with tile := f.d.toNat, fn := f.fn.toNat + (if many then 256 else 0) }
  if e.t.actNH i.hdr = 0 then e.skip i
  else if o.aTile.any fun t => e.b.tiles.length ≤ t then e.trapTeam i .regLimit
  else
    e.readTable i w o.c.toNat 32 32 (fun _ => true) fun e bs =>
      let o := { o with fmt := bs.getD [] }
      if o.pair && decide (e.b.tiles.length ≤ o.tile + 1) then e.trapTeam i .regLimit
      else if o.mmaBad then e.trapTeam i .descInvalid
      else e.readTabs i o fun e o =>
        let a := (o.operandSpans false).zipIdx.flatMap fun x => (e.lockOf o false 0 x.1).map fun l =>
          (l.1, { l.2 with noRead := x.2 == 0 && o.opSpace false != 4 })
        e.enqueue i o (a ++ (o.operandSpans true).flatMap (e.lockOf o false 0))

/-- MMA -/
def execMma (f : FV) (w2 : BitVec 64) (s : State) : Out :=
  issue (.mma f w2) s fun e => e.mma (.mma f w2) f w2 false
/-- MMAL -/
def execMmal (f : FV) (w2 : BitVec 64) (s : State) : Out :=
  issue (.mmal f w2) s fun e => e.mma (.mmal f w2) f w2 true

/-- MZERO (R384) -/
def execMzero (f : FV) (s : State) : Out :=
  issue (.mzero f) s fun e =>
    if e.t.act f.h = 0 then e.skip (.mzero f)
    else e.enqueue (.mzero f) { e.newOp f 0 .move .mzero with tile := f.d.toNat } []

/-- SPACE of MLDT. -/
def EngOp.lspace (o : EngOp) : Nat := bits o.w2.toNat 63 61
/-- SEG of MLDT. -/
def EngOp.lseg (o : EngOp) : Nat := bits o.w2.toNat 60 57
/-- CONV -/
def EngOp.conv (o : EngOp) : Nat := bits o.w2.toNat 56 54
/-- Row stride of MLDT in bytes. -/
def EngOp.lstride (o : EngOp) : Nat := 16 * bits o.w2.toNat 53 42
/-- Bytes of an element of MLDT. -/
def EngOp.lsize (o : EngOp) : Nat := match o.conv with | 0 | 1 => 4 | 2 | 3 => 2 | _ => 8

/-- MLDT (R385) -/
def execMldt (f : FV) (w2 : BitVec 64) (s : State) : Out :=
  issue (.mldt f w2) s fun e =>
    let o : EngOp := { e.newOp f w2 .move .mldt with tile := f.d.toNat }
    if e.t.act f.h = 0 then e.skip (.mldt f w2)
    else if o.lspace = 4 ∨ 5 ≤ o.conv ∨ o.a.toNat % 16 ≠ 0 then e.trapTeam (.mldt f w2) .descInvalid
    else
      e.enqueue (.mldt f w2) o
        (e.lockOf o false 0 { space := o.lspace, seg := o.lseg, val := o.a, len := o.lstride * 63 + 64 * o.lsize })

/-- Space, segment, offset and row stride in bytes of a drain's direct or transposed rows (R386). -/
def EngOp.drainTo (o : EngOp) (second : Bool) : Nat × Nat × DWord × Nat :=
  let x := o.w2.toNat
  if second then (bits x 60 58, bits x 53 50, o.b, 16 * bits x 27 16) else (bits x 63 61, bits x 57 54, o.a, 16 * bits x 39 28)
/-- RMODE -/
def EngOp.rmode (o : EngOp) : Rnd := .ofCode (bits o.w2.toNat 41 40)
/-- Bytes of an output row. -/
def EngOp.rowBytes (o : EngOp) (second : Bool) : Nat := 8 * fmtBits (o.efmt second)

/-- DESC_INVALID of one side of MDRAIN (log 40). -/
def EngOp.drainBad (o : EngOp) (second : Bool) : Bool :=
  let (sp, _, off, _) := o.drainTo second
  !([0, 1, 2, 3, 4, 10, 12, 13, 14, 15].contains (o.efmt second)) || o.sideBad second || off.toNat % 16 != 0 || sp == 4

/-- Ranges that one side of MDRAIN writes (R390). -/
def EngOp.drainSpans (o : EngOp) (second : Bool) : List Span :=
  let (sp, seg, off, stride) := o.drainTo second
  let bl := o.blockLen second
  { space := sp, seg := seg, val := off, len := stride * 63 + o.rowBytes second } ::
    (if bl = 0 then [] else
      [{ space := 1, seg := 0, val := BitVec.ofNat 64 (o.scale second), len := 128 * ceilDiv 64 bl }])

/-- DESC_INVALID of MDRAIN (log 40). -/
def EngOp.mdrainBad (o : EngOp) : Bool :=
  o.mode != 0 || fieldOf o.fmt 4 1 != 0 || o.fmtReserved || o.drainBad false || o.sideBad true ||
    (o.trans && o.drainBad true) ||
    (o.pair && o.tile % 2 == 1)

/-- MDRAIN (R386, R387) -/
def execMdrain (f : FV) (w2 : BitVec 64) (s : State) : Out :=
  issue (.mdrain f w2) s fun e =>
    let i : Instr := .mdrain f w2
    let o : EngOp := { e.newOp f w2 .move .mdrain with tile := f.d.toNat }
    if e.t.actNH f.h = 0 then e.skip i
    else
      e.readTable i (e.t.act f.h) o.c.toNat 32 32 (fun _ => true) fun e bs =>
        let o := { o with fmt := bs.getD [] }
        if o.pair && decide (e.b.tiles.length ≤ o.tile + 1) then e.trapTeam i .regLimit
        else if o.mdrainBad then e.trapTeam i .descInvalid
        else e.readTabs i o fun e o =>
          e.enqueue i o
            ((o.drainSpans false ++ (if o.trans then o.drainSpans true else [])).flatMap (e.lockOf o true 0))

/-! ### Taking and releasing bands (R373) -/

/-- Whether an operation may take band `b` now: every earlier operation of the block that names one of its tiles has
released the band, no operation holds it, and the tag waits of R141 are met. -/
def CoreSt.canTake (c : CoreSt) (blk : Block) (o : EngOp) (b : Nat) : Bool :=
  let before := c.ops.takeWhile fun x => x.id != o.id
  (o.names.all fun t => before.all fun x => x.blk != o.blk || !x.names.contains t || x.released.contains b) &&
    (o.names.all fun t => !c.bandTaken o.blk t b) &&
    (o.dests.all fun t => decide (blk.tiles.length ≤ t) || c.tagReady o.use (blk.phys t) b) && o.aTile.all fun t => c.tagReady .read (blk.phys t) b

/-- Bands that an operation has not taken and not released. -/
def EngOp.untaken (o : EngOp) : List Nat :=
  (List.range 8).filter fun b => !o.taken.contains (8 * o.tile + b) && !o.released.contains b

/-- Takes bands in ascending order as far as they can be taken. -/
def CoreSt.takeBands (c : CoreSt) (blk : Block) (o : EngOp) : EngOp :=
  let bs := o.untaken.takeWhile (c.canTake blk o)
  { o with taken := o.taken ++ bs.flatMap fun b => o.dests.map fun t => 8 * t + b }

/-- Whether a step may read a tile-space A now: V is 1 on each of its bands, and none is taken (R373, R378). -/
def CoreSt.aReady (c : CoreSt) (blk : Block) (o : EngOp) : Bool :=
  o.aTile.all fun t => (List.range 8).all fun b => c.tagReady .read (blk.phys t) b && !c.bandTaken o.blk t b

/-- Whether an operation could proceed: a step needs every band, and a tile-space A to read; a pass needs its next band. -/
def CoreSt.canProceed (c : CoreSt) (blk : Block) (o : EngOp) : Bool :=
  match o.eng with
  | .step => o.untaken.all (c.canTake blk o) && c.aReady blk o
  | _ => c.canTake blk o o.cursor

/-- Whether the unit serves an operation: no earlier one of the unit could proceed. -/
def State.served (s : State) (core : Nat) (o : EngOp) : Bool :=
  let c := s.coreSt core
  !(c.ops.takeWhile fun x => x.id != o.id).any fun x =>
    x.eng == o.eng && (match s.block? x.blk with | some b => c.canProceed b x | none => false)

/-- Releases every band that an operation has taken, with its tag update. -/
def State.releaseAll (s : State) (core : Nat) (b : Block) (o : EngOp) : State :=
  let c := s.coreSt core
  s.putCore core (o.taken.foldl (fun (c : CoreSt) k => c.tagDone o.use (b.phys (k / 8)) (k % 8)) c)

/-! ### Operands of a step (R236, R243, R378, R379) -/

/-- One operand row of a step: values, imaginary parts of complex mode, and the bits of the binary modes. -/
structure Vec where
  re : List Fl
  im : List Fl
  raw : Nat
  deriving DecidableEq, Repr

/-- Reads chunks of SPACE 1 or 2. -/
def Env.readChunks (e : Env) (space : Nat) (a : Int) (n : Nat) : Except MFault (List Byte) :=
  match checkChunks (fun o => e.chunkAt space (a + o)) (chunks a (n / 16 + 2) 0 n) with
  | .error f => .error f
  | .ok ts => .ok (e.s.engLoad ts)

/-- Value of an element code of a matrix format. -/
def matDec (f c : Nat) : Fl := if f = 0 then f64.dec c else if f = 1 then f32.dec c else elemDec f c

/-- Applies a function that may fail along a list. -/
def mapOk {α β : Type} (f : α → Except MFault β) : List α → Except MFault (List β)
  | [] => .ok []
  | x :: xs =>
    match f x with
    | .error e => .error e
    | .ok y => match mapOk f xs with
      | .error e => .error e
      | .ok ys => .ok (y :: ys)

/-- Codes of a piece by dense position; none where sparsity keeps nothing (R243). -/
def EngOp.codes (o : EngOp) (second : Bool) (raw : Nat) : List (Option Nat) :=
  let w := o.elemBits second
  let code (k : Nat) : Nat := raw / 2 ^ (w * k) % 2 ^ w
  let n := o.sparse second
  if n = 0 then (List.range o.ke).map fun k => some (code k)
  else (List.range (o.ke / 12)).flatMap fun g =>
    let mask := bits raw (8 * (48 + 2 * g) + 11) (8 * (48 + 2 * g))
    let kept := ((List.range 12).filter fun b => mask.testBit b).take n
    (List.range 12).map fun b => (kept.findIdx? (· == b)).map fun k => code (n * g + k)

/-- Saturating rounding of a cell to the format of a tile-space A (R378). -/
def tileElem (f : Nat) (x : Fl) : Fl :=
  let sat (m : Fmt) : Fl :=
    match x with
    | .fin n _ _ => let c := m.rne x
      m.dec (if c % m.signBit = m.infCode then (if n then m.signBit else 0) + m.infCode - 1 else c)
    | x => m.dec (m.rne x)
  match f with
  | 1 => sat f32
  | 2 => sat f16
  | 3 => sat bf16
  | f => elemDec f (elemSat f .rn x)

/-- Row `r` of A or column `r` of B at step `st`. -/
def Env.operand (e : Env) (o : EngOp) (second : Bool) (st r : Nat) : Except MFault Vec :=
  let f := o.efmt second
  let p0 := o.korg second + st * o.ke
  if o.opSpace second = 4 then
    let c := e.s.coreSt e.t.core
    let p := e.b.phys (o.a.toNat % 16)
    .ok { re := (List.range o.ke).map fun k =>
            tileElem f (if p0 + k < 64 then acc36.dec (c.cell p (64 * r + p0 + k)).toNat else .fin false 0 0),
          im := [], raw := 0 }
  else
    match e.readChunks (o.opSpace second) (o.opOff second + 16 * o.opInc second * st + 16 * o.opStride second * r : Nat)
        (o.piece second) with
    | .error f => .error f
    | .ok bs =>
      let raw := leNat bs
      if 2 ≤ o.mode then .ok { re := [], im := [], raw := raw % 2 ^ 384 }
      else if o.mode = 1 then
        let cs := (o.codes second raw).map (·.getD 0)
        .ok { re := cs.map fun c => f16.dec (c % 65536), im := cs.map fun c => f16.dec (c / 65536), raw := 0 }
      else
        let tab := o.tab second
        let val (c : Nat) : Fl := let x := matDec f c; if tab.isEmpty then x else uncompand tab x
        let bl := o.blockLen second
        if bl = 0 then
          .ok { re := (o.codes second raw).map fun c => match c with | some c => val c | none => .fin false 0 0,
                im := [], raw := 0 }
        else
          let q0 := p0 / bl
          let nq := (p0 + o.ke - 1) / bl + 1 - q0
          match mapOk (fun q => e.readChunks 1 (o.scale second + 2 * (64 * (q0 + q) + r) : Nat) 2) (List.range nq) with
          | .error f => .error f
          | .ok ss =>
            let sc := ss.map fun b => decS16 (leNat b)
            .ok { re := (o.codes second raw).zipIdx.map fun (c, k) =>
                    match c with
                    | some c => (val c).mul (sc.getD ((p0 + k) / bl - q0) .nan)
                    | none => .fin false 0 0,
                  im := [], raw := 0 }

/-! ### A step (R244 to R248, R382) -/

/-- Whether a step accumulates in INT36 (R245). -/
def EngOp.isInt (o : EngOp) : Bool :=
  let int (f : Nat) : Bool := f == 10 || f == 15
  int (o.efmt false) && int (o.efmt true) && o.blockLen false == 0 && o.blockLen true == 0

/-- INT36 value of a cell. -/
def int36 (c : BitVec 36) : Int := c.toInt

/-- Set bits of a number below 2^384. -/
def popcount (x : Nat) : Nat := ((List.range 384).filter fun k => x.testBit k).length

/-- combine of R382 for one cell: the new cells of the tile and of its pair. -/
def EngOp.combine (o : EngOp) (first : Bool) (a b : Vec) (c0 c1 : BitVec 36) : BitVec 36 × BitVec 36 :=
  let acc (c : BitVec 36) : List Fl := if first then [] else [acc36.dec c.toNat]
  let cell (x : Nat) : BitVec 36 := BitVec.ofNat 36 x
  let old : Int := if first then 0 else int36 c0
  match o.mode with
  | 0 =>
    let ts := List.zipWith Fl.mul a.re b.re
    if o.isInt then (cell (satInt36 (ts.foldl (fun x t => x + t.units 0) old)), c1)
    else if o.efmt false = 0 then
      let c := bits c1.toNat 31 0 * 2 ^ 32 + bits c0.toNat 31 0
      let x := window f64 119 ((if first then [] else [f64.dec c]) ++ ts)
      (cell (bits x 31 0), cell (bits x 63 32))
    else (cell (window acc36 59 (acc c0 ++ ts)), c1)
  | 1 =>
    let ii := (List.zipWith Fl.mul a.im b.im).map Fl.minus
    (cell (window acc36 59 (acc c0 ++ List.zipWith Fl.mul a.re b.re ++ ii)),
     cell (window acc36 59 (acc c1 ++ List.zipWith Fl.mul a.re b.im ++ List.zipWith Fl.mul a.im b.re)))
  | 2 => (cell (satInt36 (old + 384 - 2 * popcount (a.raw ^^^ b.raw))), c1)
  | _ => (cell (satInt36 (old + popcount (a.raw &&& b.raw))), c1)

/-- Replaces all cells of a physical tile. -/
def CoreSt.putTile (c : CoreSt) (p : Nat) (f : Nat → BitVec 36) : CoreSt :=
  { c with cells := mput c.cells (4096 * p) 4096 (mrow 0 4096 f) }

/-- One step on every cell of the tile or its pair. -/
def Env.step (e : Env) (o : EngOp) : Except MFault CoreSt :=
  match mapOk (e.operand o false o.cursor) (List.range 64), mapOk (e.operand o true o.cursor) (List.range 64) with
  | .error f, _ => .error f
  | _, .error f => .error f
  | .ok as, .ok bs =>
    let c := e.s.coreSt e.t.core
    let rows := as.toArray
    let cols := bs.toArray
    let z : Vec := { re := [], im := [], raw := 0 }
    let p0 := e.b.phys o.tile
    let p1 := e.b.phys (o.tile + 1)
    let t0 := ((List.range 4096).map (c.cell p0)).toArray
    let t1 := if o.pair then ((List.range 4096).map (c.cell p1)).toArray else #[]
    let first := o.cursor == 0 && !o.accum
    let new := ((List.range 4096).map fun n =>
      o.combine first (rows.getD (n / 64) z) (cols.getD (n % 64) z) (t0.getD n 0) (t1.getD n 0)).toArray
    let c := c.putTile p0 fun n => (new.getD n (0, 0)).1
    .ok (if o.pair && decide (o.tile + 1 < e.b.tiles.length) then c.putTile p1 fun n => (new.getD n (0, 0)).2 else c)

/-- Space of the operand whose read failed, for the fault record. -/
def Env.stepSpace (e : Env) (o : EngOp) : Nat :=
  match mapOk (e.operand o false o.cursor) (List.range 64) with
  | .error _ => o.opSpace false
  | .ok _ => o.opSpace true

/-- Whether a step reads an operand row of a gang member that is migrating (R94). -/
def Env.stepAway (e : Env) (o : EngOp) : Bool :=
  [false, true].any fun second => (List.range 64).any fun r =>
    e.awayAt (o.opSpace second)
      (o.opOff second + 16 * o.opInc second * o.cursor + 16 * o.opStride second * r : Nat)

/-- A finished operation releases its bands; one that resumed with an invalid format block fails its batch (R374). -/
def State.finishOp (s : State) (core : Nat) (b : Block) (o : EngOp) : State :=
  let s := if o.badFmt then s.failOp o.tid o.k o.id 0 0 else s
  (s.releaseAll core b o).retireOp core o

/-- MATRIX_STEP: an operation takes the bands that it can, and when it holds them all, its unit serves it and
step starts are not paused (R18), runs one step (log 84). -/
def execMatrixStep (core op : Nat) (s : State) : Out :=
  let c := s.coreSt core
  match c.ops.find? fun o => o.id == op && o.eng == .step with
  | none => .next s
  | some o =>
    match s.opEnv o with
    | none => .next s
    | some e =>
      let free := s.served core o && decide (mget 0 s.pkg.pause (dieOfCore core) ≤ s.timeNs) &&
        !e.stepAway o && c.aReady e.b o
      let o := c.takeBands e.b o
      let s := s.putOp core o
      if !o.untaken.isEmpty || !free then .next s
      else
        match ({ e with s := s }).step o with
        | .error f => .next ((s.releaseAll core e.b o).faultOp core o 0 (e.stepSpace o) 4 f)
        | .ok c =>
          let s := (s.putCore core c).count e.b.ctx 5 1
          let o := { o with cursor := o.cursor + 1 }
          .next (if o.steps ≤ o.cursor then s.finishOp core e.b o else s.putOp core o)

/-! ### The move unit (R384, R385, R387) -/

/-- A quotient with enough bits for one later rounding: inexact results keep an odd last bit. -/
def Fl.quot (a b : Fl) : Fl :=
  match a, b with
  | .nan, _ | _, .nan | .inf _, .inf _ => .nan
  | .inf n, b => .inf (n != b.neg)
  | a, .inf n => .fin (a.neg != n) 0 0
  | .fin n m e, .fin n' m' e' =>
    if m' = 0 then (if m = 0 then .nan else .inf (n != n'))
    else
      let k := bitLen m' + 80
      let num := m * 2 ^ k
      .fin (n != n') (2 * (num / m') + (if num % m' = 0 then 0 else 1)) (e - e' - k - 1)

/-- fmax of a drain format (R387). -/
def drainMax (f : Nat) : Fl :=
  match f with
  | 12 => .fin false 480 0
  | 13 => .fin false 114688 0
  | 14 => .fin false 6 0
  | 10 => .fin false 127 0
  | 15 => .fin false 7 0
  | 2 => .fin false 65504 0
  | _ => .fin false 255 120

/-- qnt of R387. -/
def EngOp.qnt (o : EngOp) (second : Bool) (x : Fl) : Nat :=
  let f := o.efmt second
  let tab := o.tab second
  match f with
  | 1 => f32.rnd o.rmode x
  | 2 => f16.rnd o.rmode x
  | 3 => bf16.rnd o.rmode x
  | 4 => wrapNat 32 (x.toIntSat o.rmode (-(2 ^ 31)) (2 ^ 31 - 1))
  | f => elemSat f o.rmode (if tab.isEmpty then x else compand tab (f32.dec (f32.rne x)))

/-- The NaN code of a drain format; 0 in integer formats. -/
def EngOp.nanCode (o : EngOp) (second : Bool) : Nat :=
  match o.efmt second with
  | 2 => f16.nanCode
  | 3 => bf16.nanCode
  | 10 | 15 => 0
  | f => elemSat f .rn .nan

/-- Splits a list into blocks of `n`. -/
def blocksOf (n : Nat) : Nat → List Fl → List (List Fl)
  | 0, _ => []
  | k + 1, xs => if xs.isEmpty then [] else xs.take n :: blocksOf n k (xs.drop n)

/-- One output row: its element codes and its scale codes by block (R387). -/
def EngOp.drainRow (o : EngOp) (second : Bool) (cells : List (BitVec 36 × BitVec 36)) : List Nat × List Nat :=
  let f := o.efmt second
  if f = 0 then (cells.map fun c => bits c.2.toNat 31 0 * 2 ^ 32 + bits c.1.toNat 31 0, [])
  else
    let xs : List Fl := cells.map fun c => if f = 4 then .ofInt (int36 c.1) else acc36.dec c.1.toNat
    let bl := o.blockLen second
    if bl = 0 then (xs.map (o.qnt second), [])
    else
      let tab := o.tab second
      let top := if tab.isEmpty then drainMax f else uncompand tab (drainMax f)
      let one (ys : List Fl) : List Nat × Nat :=
        if ys.any (· == .nan) then (ys.map fun _ => o.nanCode second, 0xFFFF)
        else
          let mx := ys.foldl (fun (m : Fl) y => if m.cmp y.abs < 0 then y.abs else m) (.fin false 0 0)
          let code := satS16 (mx.quot top)
          if code = 0xFFFF then (ys.map fun _ => o.nanCode second, code)
          else if (decS16 code).isZero then (ys.map fun _ => 0, code)
          else (ys.map fun y => o.qnt second (y.quot (decS16 code)), code)
      let rs := (blocksOf bl 64 xs).map one
      (rs.flatMap Prod.fst, rs.map Prod.snd)

/-- Packs codes of `w` bits, the first in the low bits. -/
def packBits (w : Nat) : List Nat → Nat
  | [] => 0
  | c :: cs => c % 2 ^ w + 2 ^ w * packBits w cs

/-- A write of the move unit: its places, bytes, barrier delivery, and what a fault of it reports. -/
structure RowWrite where
  space : Nat
  seg : Nat
  val : DWord
  delta : Nat
  bytes : List Byte
  /-- counted at the barrier -/
  counted : Bool
  deriving DecidableEq, Repr

/-- Writes of output row `r` of one side: the scale codes, then the elements. -/
def EngOp.rowWrites (o : EngOp) (second : Bool) (r : Nat) (cells : List (BitVec 36 × BitVec 36)) : List RowWrite :=
  let (codes, scales) := o.drainRow second cells
  let (sp, seg, off, stride) := o.drainTo second
  let w := fmtBits (o.efmt second)
  (scales.zipIdx.map fun (c, q) =>
    { space := 1, seg := 0, val := BitVec.ofNat 64 (o.scale second), delta := 2 * (64 * q + r), bytes := leBytes 2 c,
      counted := false }) ++
  [{ space := sp, seg := seg, val := off, delta := stride * r, bytes := leBytes (8 * w) (packBits w codes),
     counted := o.baren }]

/-- The checked places of a write. -/
def Env.placeRow (e : Env) (o : EngOp) (x : RowWrite) : State × Except MFault (List (Target × Nat)) :=
  e.place (e.opWho o) true x.space x.seg x.val x.delta x.bytes.length

/-- The first fault that a list of writes would meet, with the write. -/
def Env.firstFault (e : Env) (o : EngOp) : List RowWrite → Option (RowWrite × MFault)
  | [] => none
  | x :: xs => match (e.placeRow o x).2 with
    | .error f => some (x, f)
    | .ok _ => e.firstFault o xs

/-- Performs writes in order up to the first that fails (log 39). -/
def Env.writeRows (e : Env) (o : EngOp) : List RowWrite → State × Option (RowWrite × MFault)
  | [] => (e.s, none)
  | x :: xs =>
    match e.placeRow o x with
    | (s, .error f) => (s, some (x, f))
    | (s, .ok ts) =>
      let s := s.engStore e.b.ctx x.bytes ts
      let m := if x.space = 2 then (s.member e.b ((x.val.toInt + x.delta) / 393216)).getD e.b else e.b
      let s := if x.counted then s.deliver o m o.bar x.bytes.length else s
      ({ e with s := s }).writeRows o xs

/-- Cells of a row of the tile or its pair. -/
def Env.rowCells (e : Env) (o : EngOp) (r : Nat) : List (BitVec 36 × BitVec 36) :=
  let c := e.s.coreSt e.t.core
  (List.range 64).map fun j =>
    (c.cell (e.b.phys o.tile) (64 * r + j), if o.pair then c.cell (e.b.phys (o.tile + 1)) (64 * r + j) else 0)

/-- Captures the cells of a band for the transposed rows. -/
def Env.capture (e : Env) (o : EngOp) (b : Nat) : EngOp :=
  if o.trans then
    let rows := (List.range 8).map fun r => e.rowCells o (8 * b + r)
    let put (m : Map (BitVec 36)) (h : Nat) (f : BitVec 36 × BitVec 36 → BitVec 36) : Map (BitVec 36) :=
      let xs := (rows.flatMap fun (x : List (BitVec 36 × BitVec 36)) => x.map f).toArray
      mput m (4096 * h + 512 * b) 512 (mrow 0 512 fun n => xs.getD n 0)
    { o with tcells := put (put o.tcells 0 Prod.fst) 1 Prod.snd }
  else o

/-- The writes of a drain's pass over a band: its direct rows, and after band 7 the transposed rows. -/
def Env.drainWrites (e : Env) (o : EngOp) (b : Nat) : List RowWrite :=
  ((List.range 8).flatMap fun r => o.rowWrites false (8 * b + r) (e.rowCells o (8 * b + r))) ++
    (if o.trans && b == 7 then
      (List.range 64).flatMap fun r => o.rowWrites true r ((List.range 64).map fun j =>
        (mget 0 o.tcells (64 * j + r), mget 0 o.tcells (4096 + 64 * j + r)))
    else [])

/-- A cell that MLDT loads (R385). -/
def EngOp.loadCell (o : EngOp) (c : Nat) : BitVec 36 :=
  BitVec.ofNat 36 <| match o.conv with
    | 0 => acc36.rne (f32.dec c)
    | 1 => wrapNat 36 (sextInt 32 c)
    | 2 => acc36.rne (f16.dec c)
    | 3 => acc36.rne (bf16.dec c)
    | _ => c

/-- Writes rows of cells of a physical tile from row `r`. -/
def CoreSt.putRows (c : CoreSt) (p r : Nat) : List (List (BitVec 36)) → CoreSt
  | [] => c
  | row :: rows =>
    let xs := row.toArray
    ({ c with cells := mput c.cells (4096 * p + 64 * r) 64 (mrow 0 64 fun j => xs.getD j 0) }).putRows p (r + 1) rows

/-- Reads the rows of a band for MLDT up to the first that fails. -/
def Env.loadRows (e : Env) (o : EngOp) : List Nat → State × List (List (BitVec 36)) × Option MFault
  | [] => (e.s, [], none)
  | r :: rs =>
    match e.place (e.opWho o) false o.lspace o.lseg o.a (o.lstride * r : Nat) (64 * o.lsize) with
    | (s, .error f) => (s, [], some f)
    | (s, .ok ts) =>
      let raw := leNat (s.engLoad ts)
      let w := 8 * o.lsize
      let row := (List.range 64).map fun j => o.loadCell (raw / 2 ^ (w * j) % 2 ^ w)
      let (s, rows, f) := ({ e with s := s }).loadRows o rs
      (s, row :: rows, f)

/-- The band of a pass is done: it is released with its tag update, and the operation ends with the last (R373). -/
def Env.bandDone (e : Env) (o : EngOp) (b : Nat) : State :=
  let c := e.s.coreSt e.t.core
  let c := o.dests.foldl (fun (c : CoreSt) t => c.tagDone o.use (e.b.phys t) b) c
  let s := e.s.putCore e.t.core c
  let o := { o with released := o.released ++ [b], cursor := b + 1 }
  if b = 7 then s.finishOp e.t.core e.b o else s.putOp e.t.core o

/-- A pass that fails: its band is released as if it had completed, and the batch fails (R373). -/
def Env.bandFail (e : Env) (o : EngOp) (b seg space kind : Nat) (f : MFault) : State :=
  let c := e.s.coreSt e.t.core
  let c := o.dests.foldl (fun (c : CoreSt) t => c.tagDone o.use (e.b.phys t) b) c
  (e.s.putCore e.t.core c).faultOp e.t.core o seg space kind f

/-- One pass of the move unit over band `b`. A G-stage fault holds the operation before its pass (R97). -/
def Env.pass (e : Env) (o : EngOp) (b : Nat) : State :=
  match o.kind with
  | .mldt =>
    let (s, rows, f) := e.loadRows o ((List.range 8).map (8 * b + ·))
    let put (s : State) : State := s.putCore e.t.core ((s.coreSt e.t.core).putRows (e.b.phys o.tile) (8 * b) rows)
    match f with
    | none => ({ e with s := put s }).bandDone o b
    | some f =>
      if f.cause == .guestPageFault then s.notify e.b.part .guestPageFault
      else ({ e with s := put s }).bandFail o b o.lseg o.lspace 4 f
  | .mdrain =>
    let o := e.capture o b
    let ws := e.drainWrites o b
    match e.firstFault o ws with
    | some (_, { cause := .guestPageFault, .. }) => e.s.notify e.b.part .guestPageFault
    | _ =>
      match e.writeRows o ws with
      | (s, none) => ({ e with s := s }).bandDone o b
      | (s, some (x, f)) => ({ e with s := s }).bandFail o b x.seg x.space 5 f
  | _ =>
    let c := (e.s.coreSt e.t.core).putRows (e.b.phys o.tile) (8 * b) (List.replicate 8 [])
    ({ e with s := e.s.putCore e.t.core c }).bandDone o b

/-- Whether a pass over a band reaches a gang member that is migrating (R94): rows that MLDT reads, rows that MDRAIN writes. -/
def Env.passAway (e : Env) (o : EngOp) (b : Nat) : Bool :=
  let rows := (List.range 8).map (8 * b + ·)
  match o.kind with
  | .mldt => rows.any fun r => e.awayAt o.lspace (o.a.toInt + (o.lstride * r : Nat))
  | .mdrain =>
    let side (second : Bool) (rs : List Nat) : Bool :=
      let (sp, _, off, stride) := o.drainTo second
      rs.any fun r => e.awayAt sp (off.toInt + (stride * r : Nat))
    side false rows || (o.trans && b == 7 && side true (List.range 64))
  | _ => false

/-- MOVE_BAND_PASS (R373) (log 69) -/
def execMoveBandPass (core op : Nat) (s : State) : Out :=
  let c := s.coreSt core
  match c.ops.find? fun o => o.id == op && o.eng == .move with
  | none => .next s
  | some o =>
    match s.opEnv o with
    | none => .next s
    | some e =>
      .next (if s.served core o && c.canTake e.b o o.cursor && !e.passAway o o.cursor then e.pass o o.cursor else s)

/-! ### MRD, MWR and MTAG (R141, R388, R389) -/

/-- Walks bands in ascending order: each is waited for, acted on and updated; none when a wait is not over. -/
def Env.bandWalk (e : Env) (tile : Nat) (use : Option BandUse) (act : CoreSt → Map Word → Nat → CoreSt × Map Word) :
    CoreSt → List Nat → Map Word → List Nat → CoreSt × List Nat × Map Word × Bool
  | c, seen, m, [] => (c, seen, m, true)
  | c, seen, m, b :: bs =>
    let p := e.b.phys tile
    if c.bandTaken e.b.id tile b || (match use with | some u => !c.tagReady u p b | none => false) then (c, seen, m, false)
    else
      let (c, m) := act c m b
      let c := match use with | some u => c.tagDone u p b | none => c
      e.bandWalk tile use act c (seen ++ [b]) m bs

/-- Runs a band walk over the bands still due, and completes or stalls with its progress kept. -/
def Env.bands (e : Env) (tile : Nat) (need : List Nat) (use : Option BandUse)
    (act : CoreSt → Map Word → Nat → CoreSt × Map Word) (fin : Env → Map Word → Out) : Out :=
  let (seen, m) := e.t.mid.getD ([], [])
  let due := need.filter fun b => !seen.contains b
  let (c, seen, m, ended) := e.bandWalk tile use act (e.s.coreSt e.t.core) seen m due
  let s := e.s.putCore e.t.core c
  if ended then fin { e with s := s, t := { e.t with mid := none } } m
  else ({ e with s := s, t := { e.t with mid := some (seen, m) } }).stallAt 8

/-- The cell of a lane. -/
def Env.cellOf (e : Env) (base l : Nat) : Nat := (e.uval base).toNat % 2 ^ 32 + l

/-- Bands that hold a cell of a lane of a set. -/
def Env.bandsOf (e : Env) (base : Nat) (w : Lanes) : List Nat :=
  let ls := e.t.list w
  (List.range 8).filter fun b => ls.any fun l => e.cellOf base l / 512 == b

/-- Completes MRD or MWR, or traps SEG_LIMIT in the lanes whose cell does not exist. -/
def Env.cellEnd (e : Env) (bad : Lanes) (i : Instr) (kind : Nat) (t : Team) (k : Out) : Out :=
  if bad = 0 then k
  else e.trapLanes i e.s t (faultAll e.t bad { cause := .segLimit })
    (Config.infoField 6 % 16) (Config.infoField 7 % 4) (Config.infoField 8 % 8) kind

/-- What MRD gives of a cell. -/
def mrdVal (conv : Nat) (c : BitVec 36) : Word :=
  match conv with
  | 0 => BitVec.ofNat 32 (f32.rne (acc36.dec c.toNat))
  | 1 => BitVec.ofInt 32 (satI32 (int36 c))
  | 2 => c.truncate 32
  | _ => (c >>> 32).truncate 32

/-- What MWR makes of a cell. -/
def mwrVal (conv : Nat) (c : BitVec 36) (a : Word) : BitVec 36 :=
  match conv with
  | 0 => BitVec.ofNat 36 (acc36.rne (f32.dec a.toNat))
  | 1 => a.signExtend 36
  | 2 => c.extractLsb' 32 4 ++ a
  | _ => a.extractLsb' 0 4 ++ c.extractLsb' 0 32

/-- MRD (R388). A helper whose cell does not exist reads 0 (R124). -/
def execMrd (f : FV) (s : State) : Out :=
  issue (.mrd f) s fun e =>
    let i : Instr := .mrd f
    let w := e.t.act f.h
    let conv := (e.uval f.sb.toNat).toNat % 2 ^ 32
    let base := f.sa.toNat
    let p := e.b.phys f.sc.toNat
    let ok := w &&& e.t.lanesOf fun l => decide (e.cellOf base l < 4096)
    if w ≠ 0 ∧ 4 ≤ conv then e.trapTeam i .descInvalid
    else
      let act (c : CoreSt) (m : Map Word) (b : Nat) : CoreSt × Map Word :=
        (c, (e.t.list ok).foldl (fun (m : Map Word) l =>
          if e.cellOf base l / 512 = b then mset 0 m l (mrdVal conv (c.cell p (e.cellOf base l))) else m) m)
      e.bands f.sc.toNat (e.bandsOf base ok) (some (if f.fn.getLsbD 3 then .consume else .read)) act fun e m =>
        let bad := w &&& ~~~e.t.helper &&& e.t.lanesOf fun l => decide (4096 ≤ e.cellOf base l)
        let done := w &&& ~~~bad
        e.cellEnd bad i 0 (e.t.putV f.d.toNat done fun l => mget 0 m l)
          (e.vec i f.d.toNat done fun l => mget 0 m l)

/-- MWR (R388) -/
def execMwr (f : FV) (s : State) : Out :=
  issue (.mwr f) s fun e =>
    let i : Instr := .mwr f
    let w := e.t.actNH f.h
    let conv := (e.uval f.sc.toNat).toNat % 2 ^ 32
    let base := f.sb.toNat
    let p := e.b.phys f.d.toNat
    let ok := w &&& e.t.lanesOf fun l => decide (e.cellOf base l < 4096)
    if e.t.act f.h ≠ 0 ∧ 4 ≤ conv then e.trapTeam i .descInvalid
    else
      let act (c : CoreSt) (m : Map Word) (b : Nat) : CoreSt × Map Word :=
        let old := mslice c.cells (4096 * p + 512 * b) 512
        let b0 := e.cellOf base 0
        ({ c with cells := mput c.cells (4096 * p + 512 * b) 512 (mrow 0 512 fun k =>
            let n := 512 * b + k
            let c := mget 0 old k
            if b0 ≤ n && ok.getLsbD (n - b0) then mwrVal conv c (e.src32 f.sa.toNat (n - b0)) else c) }, m)
      e.bands f.d.toNat (e.bandsOf base ok) (some .overwrite) act fun e _ =>
        e.cellEnd (w &&& e.t.lanesOf fun l => decide (4096 ≤ e.cellOf base l)) i 1 e.t (e.skip i)

/-- MTAG (R389) -/
def execMtag (f : FV) (s : State) : Out :=
  issue (.mtag f) s fun e =>
    let i : Instr := .mtag f
    let mask := (e.uval f.sa.toNat).toNat % 2 ^ 32
    let tags := (e.uval f.sb.toNat).toNat % 2 ^ 32
    if e.t.act f.h = 0 then e.skip i
    else if 256 ≤ mask ∨ 4 ≤ tags then e.trapTeam i .descInvalid
    else
      e.bands f.d.toNat (setBits 8 mask) none
        (fun c m b => (c.tag (e.b.phys f.d.toNat) b (tags.testBit 0) (tags.testBit 1), m)) fun e _ => e.skip i

end Sys2Proof.Machine
end

