-- ==== Sys2Proof/Machine/Spawn.lean ====
section
/-! DEFINITION. Spawn and records: 0xD0 to 0xD5 (R101, R104, R105, R119 to R121, R391 to R396), with the end of a wait for a
join and the save of a continuation. -/

namespace Sys2Proof.Machine

/-- The node that an s register names: none is NODE_UNKNOWN (R101, R102, R391). -/
def Env.nodeNamed (e : Env) (x : DWord) : Option Node :=
  if 2 ^ 24 ≤ x.toNat ∨ 4096 ≤ bits x.toNat 19 0 ∨ bits x.toNat 23 20 ≠ e.b.part then none
  else (e.s.node? x.toNat).bind fun n => if n.status == .valid then some n else none

/-- Free entries of a node's queue (R104, R396). DESIGN CHOICE (log 125): an entry is free once its record has retired, whether or
not older ones have. -/
def Node.free (n : Node) : Nat := n.qcap - n.queue.length

/-- The team as it reaches frames and records. -/
def Env.owner (e : Env) : Who := { e.who with user := true }

/-- Bytes of a lane's record run (R391). -/
def Team.recordOf (t : Team) (r l : Nat) : List Byte :=
  (List.range 16).flatMap fun k => leBytes 4 (t.getV (r + k) l).toNat

/-- A record enters a node's queue (R104, R106). -/
def Node.enter (n : Node) (now : Nat) (bytes : List Byte) (link : DWord) (ctx : Nat)
    (clients : List Client) : Node :=
  { n with queue := n.queue ++ [{ seq := n.count, bytes := bytes, link := link, arrived := now, block := none,
                                  taken := false, clients := clients, live := 0, cores := [], pctx := ctx, bad := false }],
           count := n.count + 1 }

/-- Records enter in list order. -/
def Node.enterAll (n : Node) (now : Nat) (link : DWord) (ctx : Nat) (clients : List Client) : List (List Byte) → Node
  | [] => n
  | r :: rs => (n.enter now r link ctx clients).enterAll now link ctx clients rs

/-- Client commands of the records that a team holds: those of its run, and the record that its block shares (R44). -/
def State.clientsOf (s : State) (t : Team) : List Client :=
  let b := s.blockOf t
  match s.node? b.node with
  | none => []
  | some n =>
    ((n.queue.filter fun (q : QEntry) => b.shared == some q.seq || (match t.run with
      | some r => decide (r.first ≤ q.seq) && decide (q.seq < r.first + r.len)
      | none => false)).flatMap QEntry.clients).dedup

/-- The run whose first position REC holds: the team's own, or the record that its block shares. -/
def Env.runNow (e : Env) : Option RecRun :=
  match e.t.run, e.b.shared with
  | some r, _ => some r
  | none, some q => if e.t.done then none else some { first := q, len := 1, shared := true }
  | none, none => none

/-- REC of a frame: the first queue position of a run and its length (R393). -/
def recField (run : Option RecRun) : Nat :=
  match run with | some r => r.first % 2 ^ 32 + 2 ^ 32 * (r.len % 2 ^ 16) | none => 0

/-- The team's frame, taken from g13 when it has none; the free list may be empty (R119). -/
def Env.withFrame (e : Env) (k : Env → Nat → Out) (empty : Env → Out) : Out :=
  match e.t.frame with
  | some f => k e f
  | none =>
    match e.s.takeFrame e.owner (e.b.seg 13) e.b.node with
    | (s, some f) =>
      let s := s.putField e.owner (f + 0x18) 8 (recField e.runNow)
      k { e with s := s, t := { e.t with frame := some f } } f
    | (s, none) => empty { e with s := s }

/-- The team parks, and its frame says so (R105, R119, R395) (log 70). -/
def Env.parkIn (e : Env) (st : Status) : Out :=
  match e.t.frame with
  | some f => ({ e with s := e.s.frameFlags e.owner f 2 }).park st 9
  | none => e.park st 9

/-- A parked team goes on. -/
def State.unpark (s : State) (t : Team) : State :=
  let s := match t.frame with | some f => s.frameFlags (s.whoOf t) f 0 | none => s
  s.putTeam (t.wake 8)

/-- Enqueues the emitters' records and adds them to JOIN, in one step; none while the queue lacks room (R104, R392). -/
def Env.spawnNow (e : Env) (f : FV) (joined : Bool) : Option State :=
  let ls := e.t.list (e.t.actNH f.h)
  match e.nodeNamed (e.uval f.sa.toNat) with
  | none => none
  | some n =>
    if n.free < ls.length then none
    else
      let fr := e.t.frame.getD 0
      let link : DWord := if joined then BitVec.ofNat 64 (2 ^ 63 + fr) else 0
      let cs := if joined then e.s.clientsOf e.t else []
      let s := cs.foldl (fun (s : State) c => s.onClient c fun (x : Cmd) => { x with live := x.live + ls.length }) e.s
      let s := (s.putNode (n.enterAll e.s.timeNs link e.b.ctx cs (ls.map (e.t.recordOf f.sb.toNat)))).updateHeld n.part
      some (if joined then s.addJoin e.owner fr ls.length else s)

/-- SPAWN and SPAWND (R392). -/
def Env.spawn (e : Env) (i : Instr) (f : FV) (joined : Bool) : Out :=
  if e.t.actNH i.hdr = 0 then e.skip i
  else if (e.nodeNamed (e.uval f.sa.toNat)).isNone then e.trapTeam i .nodeUnknown
  else
    let go (e : Env) : Out :=
      let e := { e with s := e.source e.s }
      match e.spawnNow f joined with
      | some s => ({ e with s := s }).skip i
      | none => e.parkIn (.spawn [])
    if joined then e.withFrame (fun e _ => go e) fun e => e.trapTeam i .frameExhausted else go e

/-- SPAWN -/
def execSpawn (f : FV) (s : State) : Out := issue (.spawn f) s fun e => e.spawn (.spawn f) f true
/-- SPAWND -/
def execSpawnd (f : FV) (s : State) : Out := issue (.spawnd f) s fun e => e.spawn (.spawnd f) f false

/-! ### Continuations (R105, R119, R120) -/

/-- Lanes of one mask word as 4 bytes. -/
def wordBytes (w : Lanes) (j : Nat) : List Byte := leBytes 4 ((w.toNat >>> (32 * j)) % 2 ^ 32)

/-- WAITSUM of an entry (R305, R306). -/
def Team.waitsum (t : Team) (i : Nat) : Nat :=
  let w := t.lanesOf fun l => t.getV 0 l == BitVec.ofNat 32 (i + 1)
  ((t.wordsOf w).map fun j => 2 ^ j).sum

/-- The 16 bytes of a rejoin-stack entry (R305). -/
def Team.stackBytes (t : Team) : List Byte :=
  (List.range 32).flatMap fun i =>
    match t.stack[i]? with
    | some e => leBytes 16 (e.pc.toNat + 2 ^ 48 * (match e.kind with | .region => 0 | .pending => 1 | .call => 2) +
        2 ^ 64 * t.waitsum i)
    | none => leBytes 16 0

/-- Bytes 0x10 onward of a saved frame (R119). -/
def Env.frameBytes (e : Env) : List Byte :=
  let t := e.t
  let run := e.runNow
  let parent := match run, e.s.node? e.b.node with
    | some r, some n => ((n.queue.find? fun q => q.seq == r.first).map fun q => q.link.toNat % 2 ^ 48).getD 0
    | _, _ => 0
  leBytes 8 parent ++
  leBytes 8 (recField run) ++
  leBytes 8 e.b.index.toNat ++ leBytes 2 t.num ++ leBytes 2 t.lanes ++ leBytes 4 e.b.node ++ List.replicate 80 0 ++
  ((List.range 24).flatMap fun k => leBytes 8 (t.sreg k).toNat) ++
  ((List.range t.words).flatMap fun j => wordBytes t.mask j ++ (List.range 7).flatMap fun p => wordBytes (t.pred p) j) ++
  t.stackBytes ++
  ((List.range e.b.live).flatMap fun r => (List.range t.lanes).flatMap fun l => leBytes 4 (t.getV r l).toNat)

/-- Saves a team as a continuation in its frame and frees its slot: STOLEN, and SPAWN_WAIT for a spawner (R105, R120). -/
def Env.saveCont (e : Env) (f : Nat) (pc : CodeOff) (spawnWait : Option (Nat × Nat)) : State :=
  let t := e.t
  let w := e.owner
  let c : Cont := { frame := f, node := e.b.node, ctx := e.b.ctx, part := e.b.part, segs := e.b.segs,
                    spawnWait := spawnWait, header := e.b.header,
                    pkt := ((e.s.node? e.b.node).map Node.pkt).getD [], lanes := t.lanes, run := t.run, rank := e.b.rank,
                    nrank := e.b.nrank, since := e.s.clk, counters := t.counters, index := e.b.index,
                    shared := e.b.shared, record := e.b.record, done := t.done }
  let s := e.s.sourceOf t.tid t.core t.slot e.b.ctx true
  let s := s.putField w f 8 pc.toNat
  let s := s.frameFlags w f (if spawnWait.isSome then 5 else 1)
  let s := s.putField w (f + 0x0E) 2 t.stack.length
  let s := s.ownWrite w (f + 0x10) e.frameBytes
  let s := s.dropLocks fun l => l.tid == t.tid
  let s := { s with teams := s.teams.filter fun (u : Team) => u.tid != t.tid, conts := s.conts ++ [c] }
  if s.teams.any fun u => u.blk == t.blk then s else s.endBlock e.b

/-- Values that the rays of a team have returned reach their lanes (R402). -/
def State.takeRays (s : State) (t : Team) : State × Team :=
  let b := s.blockOf t
  match b.draw with
  | none => (s, t)
  | some d =>
    let one (t : Team) (x : Nat × Nat) : Team :=
      match d.rays.find? fun (r : Ray) => r.id == x.1 with
      | some r => match r.ret with
        | some vs => t.putRun x.2 (1#1024 <<< r.lane) ((List.range 4).map fun k => fun _ => vs.getD k 0)
        | none => t
      | none => t
    let t := { t.rays.foldl one t with rays := [] }
    (s.putBlock { b with draw := some { d with rays := d.rays.filter fun (r : Ray) => !(r.team == t.tid && r.ret.isSome) } },
     t)

/-- Whether `.steal` acts as plain AWAIT (R166, R306, R395). -/
def Env.plainAwait (e : Env) : Bool :=
  e.b.ratep || e.b.gangN != 0 || e.b.roles || (!e.t.stack.isEmpty && e.b.live == 0)

/-- An AWAIT whose JOIN is 0 returns: the target end of the aw edges, and the values of its rays. -/
def Env.awaited (e : Env) (i : Instr) : Out :=
  let (s, t) := (e.target e.s).takeRays e.t
  ({ e with s := s }).done i t none

/-- AWAIT acts once for the team (R395). -/
def Env.await (e : Env) (i : Instr) : Out :=
  match e.t.frame with
  | none => e.skip i
  | some fr => if e.s.join e.owner fr = 0 then e.awaited i else e.parkIn .await

/-- AWAIT (R395). -/
def execAwait (f : FV) (s : State) : Out :=
  issue (.await f) s fun e => if e.t.act f.h = 0 then e.skip (.await f) else e.await (.await f)

/-- AWAIT.steal (R119, R120, R395) (log 70). -/
def execAwaitSteal (f : FV) (s : State) : Out :=
  issue (.awaitSteal f) s fun e =>
    let i : Instr := .awaitSteal f
    if e.t.act f.h = 0 then e.skip i
    else if e.plainAwait then e.await i
    else
      e.withFrame (fun e fr =>
        if e.s.join e.owner fr = 0 then e.awaited i
        else if e.engBusy then e.stallAt 8
        else .next (({ e with s := e.counted }).saveCont fr (e.nextPc i) none))
        fun e => e.trapTeam i .frameExhausted

/-- AWAIT_WAKE: JOIN of a parked team's frame has reached 0 (R395, R402). -/
def execAwaitWake (core slot half : Nat) (s : State) : Out :=
  match s.teamAt core slot half with
  | none => .next s
  | some t =>
    match t.status, t.frame with
    | .await, some fr =>
      let w := s.whoOf t
      if s.join w fr ≠ 0 then .next s
      else
        let (s, t) := (s.targetEnd t.core w.ctx false).takeRays t
        .next (s.unpark t)
    | _, _ => .next s

/-! ### RECG, DONE and NODEQ (R393, R394, R396) -/

/-- DONE for the team: none while JOIN is not 0. -/
def Env.doneNow (e : Env) : Option Env :=
  let w := e.owner
  if (match e.t.frame with | some f => e.s.join w f != 0 | none => false) then none
  else
    let s := e.source e.s
    let (s, t) := s.doneRun w e.t false
    let (s, t) := match t.frame with
      | some f => (s.giveFrame w (e.b.seg 13) f, { t with frame := none })
      | none => (s, t)
    some { e with s := e.target s, t := t }

/-- DONE (R394) (log 71) -/
def execDone (f : FV) (s : State) : Out :=
  issue (.done f) s fun e =>
    if e.t.mask &&& ~~~e.t.helper = 0 then e.skip (.done f)
    else match e.doneNow with
      | none => e.stallAt 9
      | some e => e.skip (.done f)

/-- A run of consecutive queue positions from the front of a list. -/
def runFront : List QEntry → List QEntry
  | [] => []
  | [q] => [q]
  | q :: r :: rs => if r.seq = q.seq + 1 then q :: runFront (r :: rs) else [q]

/-- The records that RECG takes for at most `n` receivers: of the block's reservation while it holds one, else the oldest
unreserved ones (R393) (log 73). -/
def Node.recgRun (n : Node) (blk max : Nat) : List QEntry :=
  let own := n.queue.filter fun (q : QEntry) => q.block == some blk && !q.taken
  (runFront (if own.isEmpty then n.queue.filter fun (q : QEntry) => q.block.isNone else own)).take max

/-- Writes a lane's record run. -/
def Team.putRecord (t : Team) (d l : Nat) (bs : List Byte) : Team :=
  t.putRun d (1#1024 <<< l) ((List.range 16).map fun k => fun _ => BitVec.ofNat 32 (fieldOf bs (4 * k) 4))

/-- The mask after RECG on a RECORD node, and the registers written (R124, R393). -/
def Team.receive (t : Team) (d : Nat) (ls : List Nat) (recs : List (List Byte)) : Team :=
  let got := (ls.zip recs)
  let quads := got.map fun x => x.1 / 4
  ls.foldl (fun (t : Team) l =>
    match got.find? fun x => x.1 == l with
    | some x => { t.putRecord d l x.2 with helper := t.helper &&& ~~~(1#1024 <<< l) }
    | none =>
      if quads.contains (l / 4) then { t.putRecord d l [] with helper := t.helper ||| (1#1024 <<< l) }
      else t.finish (1#1024 <<< l)) t

/-- The frame of a team, if it has one, holds its run (R393). -/
def Env.noteRun (e : Env) (run : Option RecRun) : State :=
  match e.t.frame with
  | some f => e.s.putField e.owner (f + 0x18) 8 (recField run)
  | none => e.s

/-- RECG (R393): a team that still holds a run first performs DONE. -/
def execRecg (f : FV) (s : State) : Out :=
  issue (.recg f) s fun e =>
    let i : Instr := .recg f
    let ls := e.t.list (e.t.act f.h)
    if e.b.shared.isSome then
      if ls.isEmpty then e.skip i
      else
        let e := { e with s := e.noteRun e.runNow }
        ({ e with s := e.target e.s }).done i (ls.foldl (fun (t : Team) l => t.putRecord f.d.toNat l e.b.record) e.t) none
    else
      let go (e : Env) : Out :=
        if ls.isEmpty then e.skip i
        else match e.s.node? e.b.node with
        | none => e.leave i (e.t.receive f.d.toNat ls []) (e.nextPc i)
        | some n =>
          let run := n.recgRun e.b.id ls.length
          let seqs := run.map QEntry.seq
          let mark (q : QEntry) : QEntry :=
            if seqs.contains q.seq then { q with block := some e.b.id, taken := true } else q
          let s := if run.isEmpty then e.s else e.target (e.s.putNode { n with queue := n.queue.map mark })
          let t := e.t.receive f.d.toNat ls (run.map QEntry.bytes)
          let held : Option RecRun := run.head?.map fun q => { first := q.seq, len := run.length, shared := false }
          let t : Team := { t with run := held }
          let s := ({ e with s := s }).noteRun held
          if t.mask = 0 then ({ e with s := s }).leave i t (e.nextPc i) else ({ e with s := s }).done i t none
      if e.t.run.isSome then (match e.doneNow with | none => e.stallAt 9 | some e => go e) else go e

/-- NODEQ (R396) -/
def execNodeq (f : FV) (s : State) : Out :=
  issue (.nodeq f) s fun e =>
    let w := e.t.act f.h
    if w = 0 then e.skip (.nodeq f)
    else match e.nodeNamed (e.uval f.sa.toNat) with
      | none => e.trapTeam (.nodeq f) .nodeUnknown
      | some n => e.done (.nodeq f) (e.t.putV f.d.toNat w fun _ => BitVec.ofNat 32 n.free) none

end Sys2Proof.Machine
end

