-- ==== Sys2Proof/Machine/Tier.lean ====
section
/-! DEFINITION. Tier instructions: 0xD8 to 0xDF (R161, R162, R166, R169, R251, R397 to R403), with the retry of a parked
spawner. -/

namespace Sys2Proof.Machine

/-- The draw of a team's block; an empty one outside a draw. -/
def Env.drawOf (e : Env) : Draw :=
  e.b.draw.getD { root := [], target := [], tiers := [], rs := 0, recs := [], tris := [], batches := [], rays := [],
                  objWait := [], meshWait := [], vertWait := [], setupWait := [], cpixWait := [], framed := false,
                  sampWait := [], next := 0 }

/-- Element of a lane. -/
def Env.elemOf (e : Env) (l : Nat) : LaneElem := mget {} e.t.elems l

/-- A value that the manual states for no lane without an element: free (log 13). -/
def Env.openWord (e : Env) (l : Nat) : Word := Config.freeWord (1024 * e.s.tick + l)

/-- Counts the conflict clk of a read of rate-store rows: slot `slot` of the records that each lane reads (R137, R397). -/
def Env.rateBanked (e : Env) (slot : Nat) (w : Lanes) (recs : Nat → List RsRec) : Env :=
  { e with s := e.bankedAt e.s 4 ((e.t.list w).flatMap fun l => (recs l).map fun (r : RsRec) =>
      let a := e.b.rateBase + 16 * r.off + 16 + 4 * slot
      ({ lane := l, addr := a, tgt := some (.spad e.t.core a) } : LaneAcc)) }

/-- RGET (R161, R398) -/
def execRget (f : FV) (s : State) : Out :=
  issue (.rget f) s fun e =>
    let d := e.drawOf
    let tier := bits f.fn.toNat 2 0
    let slot := bits f.fn.toNat 7 3
    let rec? (l : Nat) : Option RsRec := d.ancestor tier 8 (e.elemOf l).up
    (e.rateBanked slot (e.t.act f.h) fun l => (rec? l).toList).vec (.rget f) f.d.toNat (e.t.act f.h) fun l =>
      match rec? l with
      | some r => r.vals.getD slot 0
      | none => e.openWord l

/-- Evaluation point of a lane in 1/256 pixels (R161). -/
def evalPoint (tier : Nat) (el : Word) : Int × Int :=
  if tier = 6 then samplePos (bits el.toNat 14 0) (bits el.toNat 29 15) (bits el.toNat 31 30)
  else (512 * ((el.toNat % 65536 : Nat) : Int) + 256, 512 * ((el.toNat / 65536 : Nat) : Int) + 256)

/-- Perspective-correct interpolation (R251). -/
def interp (x y : List Int) (w v : List Word) (px py : Int) : Word :=
  let xi (i : Nat) : Int := x.getD i 0
  let yi (i : Nat) : Int := y.getD i 0
  let one := Fl.ofInt 1
  let term (j k i : Nat) : Fl :=
    let e := (xi j - px) * (yi k - py) - (yi j - py) * (xi k - px)
    r32 ((r32 (.ofInt e)).mul (div32 one (w32 (w.getD i 0))))
  let t0 := term 1 2 0; let t1 := term 2 0 1; let t2 := term 0 1 2
  let add (a b : Fl) : Fl := r32 (Fl.add .rn a b)
  let p (t : Fl) (i : Nat) : Fl := r32 (t.mul (w32 (v.getD i 0)))
  let den := add (add t0 t1) t2
  let num := add (add (p t0 0) (p t1 1)) (p t2 2)
  BitVec.ofNat 32 (f32.rne (num.mul (div32 one den)))

/-- Values of a slot at the vertices of a triangle. -/
def Draw.vertVals (d : Draw) (t : Tri) (slot : Nat) : List Word :=
  t.verts.map fun v => ((d.rec? v).map fun (r : RsRec) => r.vals.getD slot 0).getD 0

/-- Triangle of a lane. -/
def Env.triOf (e : Env) (l : Nat) : Option Tri := (e.elemOf l).tri.bind e.drawOf.tri?
/-- Records of the first `n` vertices of a lane's triangle. -/
def Env.vertRecs (e : Env) (n l : Nat) : List RsRec :=
  ((e.triOf l).toList.flatMap fun (t : Tri) => t.verts.take n).filterMap e.drawOf.rec?

/-- RBARY (R251, R398) -/
def execRbary (f : FV) (s : State) : Out :=
  issue (.rbary f) s fun e =>
    let slot := bits f.fn.toNat 7 3
    (e.rateBanked slot (e.t.act f.h) (e.vertRecs 3)).vec (.rbary f) f.d.toNat (e.t.act f.h) fun l =>
      match e.triOf l with
      | some t =>
        let (px, py) := evalPoint e.t.tier (e.elemOf l).elem
        interp t.x t.y t.w (e.drawOf.vertVals t slot) px py
      | none => e.openWord l

/-- RFLAT (R398) -/
def execRflat (f : FV) (s : State) : Out :=
  issue (.rflat f) s fun e =>
    let slot := bits f.fn.toNat 7 3
    (e.rateBanked slot (e.t.act f.h) (e.vertRecs 1)).vec (.rflat f) f.d.toNat (e.t.act f.h) fun l =>
      match e.triOf l with
      | some t => (e.drawOf.vertVals t slot).getD 0 0
      | none => e.openWord l

/-- RCOV (R399): in the sample tier the mask is bit 0 alone. -/
def execRcov (f : FV) (s : State) : Out :=
  issue (.rcov f) s fun e =>
    e.vec (.rcov f) f.d.toNat (e.t.act f.h) fun l =>
      let el := e.elemOf l
      if e.t.helper.getLsbD l || !el.live then 0 else el.cov.zeroExtend 32

/-- Removes the elements of a set of lanes: each becomes a helper, or its quad leaves the mask (R124, R400). A lane of
the quad that has finished by EXIT still counts as one with an element (log 72). -/
def Team.kill (t : Team) (w : Lanes) : Team :=
  let elems := (t.list w).foldl (fun (m : Map LaneElem) l => mset {} m l { mget {} m l with live := false }) t.elems
  let dead := t.lanesOf fun l => (t.list w).any (fun k => k / 4 == l / 4) &&
    (List.range 4).all fun q => !(mget {} elems (l / 4 * 4 + q)).live
  let t := { t with elems := elems, helper := t.helper ||| w, restore := t.restore.map fun (x : Lanes × Lanes) => (x.1, x.2 ||| w) }
  t.finish (dead &&& t.mask)

/-- RKILL (R162, R400) -/
def execRkill (f : FV) (s : State) : Out :=
  issue (.rkill f) s fun e =>
    let w := e.t.actNH f.h
    if w = 0 then e.skip (.rkill f) else e.leave (.rkill f) (e.t.kill w) (e.nextPc (.rkill f))

/-! ### Rays (R166, R401 to R403) -/

/-- Whether a BVH descriptor is valid (R166, R401). -/
def bvhOk (d : List Byte) : Bool := fieldOf d 0x14 12 == 0

/-- Creates the rays of the guarded lanes, in one step; none while the ray store lacks room. -/
def Env.traceNow (e : Env) (f : FV) (desc : List Byte) : Option (State × Team) :=
  let ls := e.t.list (e.t.actNH f.h)
  let d := e.drawOf
  if 1024 < (d.rays.filter fun (r : Ray) => r.ret.isNone).length + ls.length then none
  else
    let fr := e.t.frame.getD 0
    let rays : List Ray := (ls.zipIdx).map fun (l, k) =>
      let el := e.elemOf l
      { id := d.next + k, team := e.t.tid, lane := l, frame := fr, dst := f.d.toNat,
        vals := (List.range 8).map fun j => e.t.getV (f.sb.toNat + j) l, up := if e.t.tier = 6 then el.up else el.own,
        desc := desc, hit := none, batch := none, ret := none, key := d.elemKey el }
    let d : Draw := { d with rays := d.rays ++ rays, next := d.next + ls.length }
    let s := (e.s.putBlock { e.b with draw := some d }).addJoin e.owner fr ls.length
    some (s, { e.t with rays := e.t.rays ++ rays.map fun r => (r.id, r.dst) })

/-- TRACE (R401) -/
def execTrace (f : FV) (s : State) : Out :=
  issue (.trace f) s fun e =>
    let i : Instr := .trace f
    if e.t.actNH f.h = 0 then e.skip i
    else
      e.readTable i (e.t.act f.h) (e.uval f.sa.toNat).toNat 32 32 bvhOk fun e desc =>
        e.withFrame (fun e _ =>
          let e := { e with s := e.source e.s }
          match e.traceNow f (desc.getD []) with
          | some (s, t) => ({ e with s := s }).done i t none
          | none => e.parkIn (.spawn (desc.getD [])))
          fun e => e.trapTeam i .frameExhausted

/-- The ray of a lane. -/
def Env.rayOf (e : Env) (l : Nat) : Option Ray :=
  (e.elemOf l).tri.bind fun i => e.drawOf.rays.find? fun (r : Ray) => r.id == i

/-- RRET (R402): where the lanes cannot leave yet, none of it happens. -/
def execRret (f : FV) (s : State) : Out :=
  issue (.rret f) s fun e =>
    let i : Instr := .rret f
    let w := e.t.actNH f.h
    let t := e.t.finish w
    if w = 0 then e.skip i
    else if e.mayLeave t (e.nextPc i) then
      (({ e with s := e.source e.s }).returnRays (e.raysOf w) fun l =>
        (List.range 4).map fun k => e.t.getV (f.sa.toNat + k) l).leave i t (e.nextPc i)
    else e.leave i t (e.nextPc i)

/-- A field of a ray's result; fields 1 to 5 read 0 without a hit (R403). -/
def RayHit.field (h : RayHit) (k : Nat) : Word :=
  if k = 0 then BitVec.ofNat 32 h.kind
  else if h.kind ≠ 1 then 0
  else match k with | 1 => h.t | 2 => h.u | 3 => h.v | 4 => h.prim | _ => h.user

/-- RHIT (R403) -/
def execRhit (f : FV) (s : State) : Out :=
  issue (.rhit f) s fun e =>
    e.vec (.rhit f) f.d.toNat (e.t.act f.h) fun l =>
      match (e.rayOf l).bind Ray.hit with
      | some h => h.field (bits f.fn.toNat 2 0)
      | none => e.openWord l

/-- A parked SPAWN tries again (R105): its records go in once all fit; a node that takes none any more is unknown to it (R102,
R391). -/
def Env.respawn (e : Env) (i : Instr) (f : FV) (joined : Bool) : Out :=
  match e.nodeNamed (e.uval f.sa.toNat), e.spawnNow f joined with
  | none, _ =>
    let s := match e.t.frame with | some fr => e.s.frameFlags e.owner fr 0 | none => e.s
    ({ e with t := { e.t with status := .ready, stall := 0 } }).teamTrap s i .nodeUnknown
  | some _, some s => .next (s.unpark e.t)
  | some _, none => .next e.s

/-- SPAWN_RETRY: a parked spawner whose records or rays now fit puts them in and leaves the park (R105, R392, R401). -/
def execSpawnRetry (core slot half : Nat) (s : State) : Out :=
  match s.teamAt core slot half with
  | none => .next s
  | some t =>
    match t.status with
    | .spawn desc =>
      let e := s.envOf t
      match e.fetch.2 with
      | .instr (.spawn f) => e.respawn (.spawn f) f true
      | .instr (.spawnd f) => e.respawn (.spawnd f) f false
      | .instr (.trace f) =>
        (match e.traceNow f desc with | some (s, t) => .next (s.unpark t) | none => .next s)
      | _ => .next s
    | _ => .next s

end Sys2Proof.Machine
end

