-- ==== Sys2Proof/Machine/System.lean ====
section
/-! DEFINITION. System instructions and collectives at issue: 0xE0 to 0xEA (R71 to R75, R181, R183, R214, R404 to R415, R426). -/

namespace Sys2Proof.Machine

/-- A system opcode acts when at least one active lane is not a helper (R404). -/
def Env.system (e : Env) (i : Instr) (k : Out) : Out := if e.t.mask &&& ~~~e.t.helper = 0 then e.skip i else k

/-- TRAP (R406) -/
def execTrap (f : FV) (s : State) : Out :=
  issue (.trap f) s fun e => e.system (.trap f) (e.trapTeam (.trap f) .trap)
/-- SYSCALL (R406) -/
def execSyscall (f : FV) (s : State) : Out :=
  issue (.syscall f) s fun e => e.system (.syscall f) (e.trapTeam (.syscall f) .syscall)
/-- BKPT (R406): with Cowslip attached the team is held out of issue. -/
def execBkpt (f : FV) (s : State) : Out :=
  issue (.bkpt f) s fun e => e.system (.bkpt f) <|
    if e.s.pkg.cowslip then e.park .cowslip 0x0E else e.trapTeam (.bkpt f) .bkpt

/-! ### Return from a trap (R214, R316, R407) -/

/-- What every mode of RTT restores: the spilled registers, the handler granules, s20 to s23, p6 and the latches. -/
def Env.leaveHandler (e : Env) (tr : TrapState) : Team :=
  let t := match tr.window with
    | .spill k => tr.words.zipIdx.foldl (fun (t : Team) (x : Nat × Nat) =>
        e.s.unspill t e.b k x.2 x.1) { e.t with trap := none }
    | .granules _ => { e.t with trap := none }
  let t := (tr.s20.zipIdx).foldl (fun (t : Team) (x : DWord × Nat) => t.putS (20 + x.2) x.1) t
  { t with preds := mset 0 t.preds 6 tr.p6, latches := [], region := none, packets := t.packets ++ tr.later }

/-- RTT in a mode: `k` gives the state after what every mode restores. -/
def Env.rtt (e : Env) (i : Instr) (k : TrapState → Team → Out) : Out :=
  e.system i <|
    match e.t.trap with
    | none => e.skip i
    | some tr => if e.t.stack.length ≠ tr.depth then e.trapTeam i .doubleTrap else k tr (e.leaveHandler tr)

/-- RTT.retry -/
def execRttRetry (f : FV) (s : State) : Out :=
  issue (.rttRetry f) s fun e => e.rtt (.rttRetry f) fun tr t =>
    .next (e.counted.putTeam
      (let t := { t with packets := tr.packets ++ t.packets }
       if tr.full then { t with pc := tr.resume, mask := tr.mask, helper := tr.helper, mid := tr.mid }
       else { t with pc := tr.resume, mask := tr.pending, helper := tr.helper &&& tr.pending,
                     restore := some (tr.mask, tr.helper), mid := tr.mid, cursor := tr.cursor, table := tr.table }))
/-- RTT.skip -/
def execRttSkip (f : FV) (s : State) : Out :=
  issue (.rttSkip f) s fun e => e.rtt (.rttSkip f) fun tr t =>
    .next (e.counted.putTeam
      { t with pc := tr.resume + BitVec.ofNat 48 tr.size, mask := tr.mask, helper := tr.helper, mid := none })
/-- RTT.kill -/
def execRttKill (f : FV) (s : State) : Out :=
  issue (.rttKill f) s fun e => e.rtt (.rttKill f) fun _ t => .next ((e.counted.putTeam t).abortBlock e.b)

/-! ### Control registers (R408 to R410, R426) -/

/-- PART_ID (R262): PRODUCT and STEPPING. -/
def partId : Word := Config.product ++ Config.stepping

/-- Defect-map signature (R12). -/
def dsig : Nat := beNat ((sha512 (leBytes 20 Config.enable.toNat)).take 8)

/-- Ring size of the sampling unit as its binary logarithm (R75). -/
def Ctx.ringLog (c : Ctx) : Nat := let n := c.smpSize.toNat; if 1 ≤ n ∧ n ≤ 20 then n else 1
/-- Period of the sampling unit in clk. -/
def Ctx.period (c : Ctx) : Nat := Nat.max 16 c.smpPeriod.toNat
/-- SMP_CTL as it reads. -/
def Ctx.smpCtl (c : Ctx) : DWord :=
  BitVec.ofNat 64 ((if c.smpEn then 2 ^ 31 else 0) + 2 ^ 16 * c.smpSize.toNat + c.smpPeriod.toNat)

/-- Value of a control register (R409). -/
def State.csr (s : State) (c : Ctx) (n : Nat) : DWord :=
  if n < 8 then mget 0 c.pmc n
  else if n < 0x10 then mget 0 c.pmcsel (n - 8)
  else match n with
    | 0x10 => c.smpCtl
    | 0x11 => c.smpBase
    | 0x12 => c.smpRd
    | 0x13 => c.smpWr
    | 0x14 => c.smpDropped.zeroExtend 64
    | 0x18 => BitVec.ofNat 64 c.id
    | 0x19 => BitVec.ofNat 64 c.part
    | 0x1A => BitVec.ofNat 64 s.timeNs
    | 0x1B => partId.zeroExtend 64
    | 0x1C => BitVec.ofNat 64 dsig
    | _ => 0

/-- Sets the count of the sampling period of a context on every core, and the period in force where `hold` gives one. -/
def State.eachPeriod (s : State) (ctx : Nat) (restart : Bool) (hold : Option Nat) : State :=
  { s with cores := s.cores.filterMap fun (n, c) =>
      let c := if restart then { c with smpLeft := mset 0 c.smpLeft ctx 0, smpPer := mset 0 c.smpPer ctx 0 } else c
      let c := match hold with
        | some p => if mget 0 c.smpPer ctx = 0 then { c with smpPer := mset 0 c.smpPer ctx p } else c
        | none => c
      if c = {} then none else some (n, c) }

/-- What a write of SMP_CTL does to the counts that saved blocks of a context keep (R73, R426). -/
def State.savedPeriods (s : State) (ctx : Nat) (f : SaveArea → SaveArea) : State :=
  { s with blocks := s.blocks.map fun b => if b.ctx == ctx then { b with saved := b.saved.map f } else b }

/-- A write of SMP_CTL (R75, R426) (log 79). -/
def State.writeSmpCtl (s : State) (c : Ctx) (v : Nat) : State :=
  let en := v.testBit 31
  let per := BitVec.ofNat 16 v
  if c.smpEn then (s.putCtx { c with smpEn := en, smpPeriod := per,
                                     smpSize := if en then c.smpSize else BitVec.ofNat 5 (bits v 20 16) }).eachPeriod
                    c.id false (if en then some c.period else none) |>.savedPeriods c.id fun v =>
                      if en ∧ v.smpPer = 0 then { v with smpPer := c.period } else v
  else
    let c := { c with smpEn := en, smpSize := BitVec.ofNat 5 (bits v 20 16), smpPeriod := per }
    if en then (s.putCtx { c with smpWr := c.smpRd, smpSlot := [], smpHalf := [] }).eachPeriod c.id true none |>.savedPeriods c.id fun v =>
      { v with smpRes := 0, smpPer := 0, smpSlot := 15, smpHalf := [] }
    else s.putCtx c

/-- A write of a control register with the handler's access (R408, R409, R426). -/
def State.writeCsr (s : State) (c : Ctx) (n : Nat) (x : DWord) : State :=
  if n < 8 then s.putCtx { c with pmc := mset 0 c.pmc n x }
  else if n < 0x10 then s.putCtx { c with pmcsel := mset 0 c.pmcsel (n - 8) (x &&& 0xFF) }
  else match n with
    | 0x10 => s.writeSmpCtl c x.toNat
    | 0x11 => if c.smpEn then s else s.putCtx { c with smpBase := x &&& ~~~0x1F }
    | 0x12 => s.putCtx { c with smpRd := BitVec.ofNat 64 (x.toNat % 2 ^ c.ringLog) }
    | _ => s

/-- A read of a control register with the handler's access: SMP_DROPPED clears (R409). -/
def State.readCsr (s : State) (c : Ctx) (n : Nat) : State × DWord :=
  (if n = 0x14 then s.putCtx { c with smpDropped := 0 } else s, s.csr c n)

/-- CSRR (R408) -/
def execCsrr (f : FV) (s : State) : Out :=
  issue (.csrr f) s fun e => e.system (.csrr f) <|
    let n := (e.uval f.sa.toNat).toNat
    let c := e.s.ctx e.b.ctx
    let (s, x) := if e.t.trap.isSome then e.s.readCsr c n else (e.s, e.s.csr c n)
    ({ e with s := s }).pair (.csrr f) f.d.toNat e.t.mask fun _ => x

/-- CSRW (R408) -/
def execCsrw (f : FV) (s : State) : Out :=
  issue (.csrw f) s fun e => e.system (.csrw f) <|
    let n := (e.uval f.sa.toNat).toNat
    let s := if e.t.trap.isSome then e.s.writeCsr (e.s.ctx e.b.ctx) n (e.uval f.sb.toNat) else e.s
    ({ e with s := s }).skip (.csrw f)

/-! ### Samples (R74, R75, R411) -/

/-- The 32 bytes of a sample record. -/
def State.sampleBytes (s : State) (b : Block) (t : Team) (pc : CodeOff) (reason : Nat) : List Byte :=
  leBytes 8 pc.toNat ++ leBytes 8 s.timeNs ++ leBytes 4 (s.clk - b.launch) ++
  leBytes 1 (t.slot + 16 * (t.slot % 4)) ++ leBytes 1 reason ++ leBytes 2 (t.wordsOf t.mask).length ++
  leBytes 4 b.index.toNat ++ leBytes 1 b.ctx ++ leBytes 1 t.tier ++
  leBytes 2 ((if t.stack.isEmpty then 0 else 1) + (if t.region.isSome then 2 else 0) +
    (if t.trap.isSome then 4 else 0) + (if t.half = 1 then 8 else 0))

/-- Writes a sample record of a team of a block to the ring of its context, or drops it (R75) (log 74). -/
def State.sample (s : State) (b : Block) (t : Team) (pc : CodeOff) (reason : Nat) : State :=
  let c := s.ctx b.ctx
  let drop (s : State) : State :=
    s.putCtx { c with smpDropped := if c.smpDropped = 0xFFFF_FFFF then c.smpDropped else c.smpDropped + 1 }
  let next := (c.smpWr.toNat + 1) % 2 ^ c.ringLog
  if next = c.smpRd.toNat then drop s
  else
    let w := ({ s := s, t := t, b := b } : Env).who
    let bs := s.sampleBytes b t pc reason
    match s.translateAll w .write (pieces ((c.smpBase.toNat + 32 * c.smpWr.toNat) % 2 ^ 48) 33 32) with
    | (s, .error _) => drop s
    | (s, .ok ps) =>
      if ps.any fun p => p.1.pbmt == 2 then drop s
      else
        let s := (ps.foldl (fun (s : State) (p : Phys × Nat) => s.evictRange w.core false p.1.pa p.2) s)
        (s.writeHomePieces b.ctx false bs ps).putCtx { c with smpWr := BitVec.ofNat 64 next }

/-- PMARK (R411) -/
def execPmark (f : FV) (s : State) : Out :=
  issue (.pmark f) s fun e => e.system (.pmark f) <|
    if (e.s.ctx e.b.ctx).smpEn then ({ e with s := e.s.sample e.b e.t e.t.pc 0 }).skip (.pmark f) else e.skip (.pmark f)

/-- CLOCK (R412) -/
def execClock (f : FV) (s : State) : Out :=
  issue (.clock f) s fun e => e.system (.clock f) <|
    e.pair (.clock f) f.d.toNat e.t.mask fun _ => BitVec.ofNat 64 (e.s.clk - e.b.launch)

/-- Field of the fault record in a lane (R183). -/
def FaultRec.field (r : FaultRec) (n l : Nat) : DWord :=
  match n with
  | 0 => r.cause
  | 1 => r.pc
  | 2 => r.insn
  | 3 => r.info
  | 4 => r.eaddr
  | 8 => mget 0 r.va l &&& 0xFFFF_FFFF
  | 9 => (mget 0 r.va l >>> 32) &&& 0xFFFF
  | 10 => mget 0 r.gpa l &&& 0xFFFF_FFFF
  | 11 => (mget 0 r.gpa l >>> 32) &&& 0x3FFFF
  | _ => 0

/-- FREC (R413) -/
def execFrec (f : FV) (s : State) : Out :=
  issue (.frec f) s fun e => e.system (.frec f) <|
    e.pair (.frec f) f.d.toNat e.t.mask fun l => e.t.fault.field (e.uval f.sa.toNat).toNat l

/-- TLBI (R414): the team waits until TLBI_COMPLETE. -/
def execTlbi (f : FV) (s : State) : Out :=
  issue (.tlbi f) s fun e => e.system (.tlbi f) <|
    e.park (.tlbi (if f.fn.getLsbD 0 then some ((e.uval f.sa.toNat).toNat % 2 ^ 48) else none)) 0x0E

/-! ### Collectives at issue (R415, R416) -/

/-- Element size of a collective's type code in bytes (R298). -/
def collBytes (ty : Nat) : Nat := match ty with | 0 | 6 | 7 => 8 | 2 | 3 => 2 | _ => 4

/-- Elements of the source of a collective. -/
def CollInst.sourceCount (c : CollInst) (ranks : Nat) : Nat := if c.kind = 1 then c.count.toNat * ranks else c.count.toNat

/-- The instance that a COLL issues. -/
def Env.collInst (e : Env) (f : FV) (w2 : DWord) : CollInst :=
  let g := e.uval f.sc.toNat
  { rank := bits g.toNat 43 32, tid := e.t.tid, blk := e.b.id, op := e.s.nextId, part := e.b.part, ctx := e.b.ctx,
    kind := BitVec.ofNat 2 (bits f.fn.toNat 1 0), opn := BitVec.ofNat 2 (bits f.fn.toNat 3 2),
    ty := BitVec.ofNat 4 (bits w2.toNat 55 52), count := BitVec.ofNat 32 w2.toNat, k := bits w2.toNat 51 50,
    dseg := e.b.seg (bits w2.toNat 63 60), sseg := e.b.seg (bits w2.toNat 59 56), doff := e.uval f.sa.toNat,
    soff := e.uval f.sb.toNat, dnum := bits w2.toNat 63 60, snum := bits w2.toNat 59 56, smode := e.t.trap.isSome }

/-- The live group of a COLL, or none for DESC_INVALID (R415). -/
def Env.collGroup (e : Env) (f : FV) (c : CollInst) : Option Group :=
  let h := e.uval f.sc.toNat
  let n := collBytes c.ty.toNat
  match e.s.groups.find? fun g => g.handle.toNat == bits h.toNat 31 0 && g.part == e.b.part with
  | none => none
  | some g =>
    let src : Span := { space := 0, seg := c.snum, val := c.soff, len := n * c.sourceCount g.ranks }
    let dst : Span := { space := 0, seg := c.dnum, val := c.doff, len := n * c.count.toNat }
    if 8 ≤ c.ty.toNat ∨ c.count = 0 ∨ c.doff.toNat % n ≠ 0 ∨ c.soff.toNat % n ≠ 0 ∨ bits h.toNat 63 44 ≠ 0 ∨
        g.ranks ≤ c.rank ∨
        (e.overlap src dst ∧ ¬(e.spanAt src = e.spanAt dst ∧ src.len = dst.len)) then none
    else some g

end Sys2Proof.Machine
end

