-- ==== Sys2Proof/Machine/Image.lean ====
section
/-! DEFINITION. The bytes of a load packet and of a block save area, as Sorrel holds them (R65, R119, R141, R217, R218, R224,
R305). -/

namespace Sys2Proof.Machine

/-- Rows of a block: data, trap save rows and rate store (R126). -/
def Block.allRows (b : Block) : Nat := b.rows + b.saveRows * b.nteam + b.rsRows

/-- Bytes whose places the manual does not give: part, entry and length (log 108). -/
def openBytes (part entry n : Nat) : List Byte := (List.range n).map fun k => Config.saveByte part entry k

/-- Zeroes up to the next 64-byte boundary. -/
def pad64 (bs : List Byte) : List Byte := bs ++ List.replicate ((64 - bs.length % 64) % 64) 0

/-- A load packet, 272 bytes (R218). Those of a forerunner team stand for %lane 0 to 15 (R227). -/
def Packet.image (p : Packet) : List Byte :=
  let lane (l : Nat) : Nat := 32 * p.word + l
  leBytes 8 p.pc.toNat ++ leBytes 2 p.dst ++ leBytes 1 p.word ++ leBytes 1 (p.size + 8 * p.space + 32 * p.pol) ++
  leBytes 4 ((List.range 32).map fun l => if p.lanes.getLsbD (lane l) then 2 ^ l else 0).sum ++
  (List.range 32).flatMap fun l => leBytes 8 (mget 0 p.addr (lane l))

/-- STATE of a team record (R224); a wait without a code of its own is executed again on resumption, as a ready team would. -/
def Team.stateCode (t : Team) : Nat :=
  match t.status with
  | .sorrel => 5
  | .await => 1
  | .awaitv .. => 2
  | .vgrow _ => 3
  | .barrier .. => 6
  | .engine .. => 7
  | _ => if t.trap.isSome then 4 else 0

/-- The resume point that a team record gives: of the lane code in a handler, of the trap for which Sorrel holds the team, else the
PC. -/
def Team.resumePc (t : Team) : CodeOff :=
  match t.hold, t.trap with
  | some h, _ => h.resume
  | none, some tr => if t.stateCode = 4 then tr.resume else t.pc
  | none, none => t.pc

/-- Trap states that a team holds: that of its handler, and that of its hold by Sorrel. -/
def Team.trapStates (t : Team) : List TrapState := t.hold.toList ++ t.trap.toList

/-- The load packets of a halted team, with those that its trap states keep. -/
def Team.allPackets (t : Team) : List Packet := t.packets ++ t.trapStates.flatMap fun tr => tr.packets ++ tr.later

/-- A team record, 256 bytes (R224). -/
def Team.recordImage (t : Team) : List Byte :=
  let (wa, wv) := match t.status with | .awaitv _ _ _ v .. => (t.waddr, v.toNat) | _ => (0, 0)
  let cursor := match t.hold with | some h => h.cursor | none => t.cursor
  leBytes 8 t.resumePc.toNat ++ leBytes 4 cursor ++ leBytes 1 t.gen.toNat ++ leBytes 1 t.stateCode ++ leBytes 1 t.chunks ++
  leBytes 1 t.stack.length ++ leBytes 2 t.num ++ leBytes 2 t.lanes ++ leBytes 4 t.pix ++ leBytes 8 wa ++ leBytes 8 wv ++
  leBytes 8 (if t.stateCode = 4 then t.pc.toNat else 0) ++ List.replicate 208 0

/-- UREG and MASKP (R119, R227). -/
def Team.uregImage (t : Team) : List Byte :=
  ((List.range 24).flatMap fun k => leBytes 8 (t.sreg k).toNat) ++
  (List.range t.words).flatMap fun j => wordBytes (t.restore.getD (t.mask, t.helper)).1 j ++
    (List.range 7).flatMap fun p => wordBytes (t.pred p) j

/-- Trap state and fault record: the uniform fields, then the per-lane fields of R183. -/
def Team.trapImage (t : Team) : List Byte :=
  openBytes 0 t.tid 128 ++ (List.range t.lanes).flatMap fun l =>
    [8, 9, 10, 11].flatMap fun n => leBytes 4 (t.fault.field n l).toNat

/-- The granules of a handler window, one for each trapping mask word: h0 to h7 are its first registers (R136) (log 108). -/
def Team.windowImage (t : Team) : List Byte :=
  t.trapStates.flatMap fun tr =>
    match tr.window with
    | .spill _ => []
    | .granules regs => if t.hold == some tr then [] else tr.words.flatMap fun j =>
        ((List.range 8).flatMap fun k => (List.range 32).flatMap fun l =>
          leBytes 4 (if !t.fore then mget 0 regs (1024 * k + 32 * j + l)
            else if l / 16 = t.half then mget 0 regs (1024 * k + l % 16) else 0).toNat) ++ openBytes 4 (64 * t.tid + j) 3072

/-- Registers of a team, 4 KiB for each granule: chunks ascending, then mask words ascending. The word of a forerunner pair
holds the lanes of both halves; `u` is the other half (R226). -/
def Team.regImage (t u : Team) : List Byte :=
  (List.range t.chunks).flatMap fun c => (List.range t.words).flatMap fun j =>
    (List.range 32).flatMap fun r => (List.range 32).flatMap fun l =>
      let k := 1024 * (32 * c + r)
      let x := if !t.fore then mget 0 t.vregs (k + 32 * j + l)
        else mget 0 (if l / 16 = t.half then t.vregs else u.vregs) (k + l % 16)
      leBytes 4 x.toNat

/-- The header of a save area, 256 bytes (R224). Counter increments are added to the context as they arise, so none is left
here. -/
def Block.headerImage (b : Block) (v : SaveArea) (ts : List Team) : List Byte :=
  let npkt := (ts.map fun t => t.allPackets.length).sum
  leBytes 8 b.index.toNat ++ leBytes 4 b.node ++ leBytes 1 b.ctx ++ leBytes 1 ts.length ++ leBytes 1 b.tiles.length ++
  leBytes 1 ((if b.gangN = 0 then 0 else 1) + (if b.ratep then 2 else 0) + (if ts.any Team.fore then 4 else 0)) ++
  leBytes 2 b.allRows ++ leBytes 2 npkt ++ leBytes 2 v.locks.length ++ leBytes 2 v.ops.length ++ leBytes 1 b.gang ++
  List.replicate 7 0 ++ leBytes 8 v.clk ++ leBytes 4 v.smpRes ++ List.replicate 212 0

/-- A tile of a save area: 18,432 bytes of cells, row-major, then its tags (R141, R224). -/
def SaveArea.tileImage (v : SaveArea) (m : Nat) : List Byte :=
  let tags (x : BitVec 128) : Nat := (List.range 8).foldl (fun a k => if tagAt x m k then a + 2 ^ k else a) 0
  leBytes 18432 (packBits 36 ((List.range 4096).map fun k => (mget 0 v.cells (4096 * m + k)).toNat)) ++
  leBytes 8 (tags v.tagV + 256 * tags v.tagC)

/-- A block save area: its parts in order, each on a 64-byte boundary (R224) (log 108). -/
def State.saveImage (s : State) (b : Block) (v : SaveArea) : List Byte :=
  let ts := s.teams.filter fun t => t.blk == b.id
  let mate (t : Team) : Team := (ts.find? fun u => u.slot == t.slot && u.half != t.half).getD t
  let lone (t : Team) : Bool := t.half == 0 || !ts.any fun u => u.slot == t.slot && u.half == 0
  [ b.headerImage v ts,
    ts.flatMap Team.recordImage,
    ts.flatMap Team.uregImage,
    ts.flatMap Team.stackBytes,
    ts.flatMap Team.trapImage,
    ts.flatMap fun t => (if lone t then t.regImage (mate t) else []) ++ t.windowImage,
    ts.flatMap fun t => t.allPackets.flatMap Packet.image,
    mgetList 0 v.spad 0 (384 * b.allRows),
    mgetList 0 v.bars 0 1024,
    (List.range b.tiles.length).flatMap v.tileImage,
    (List.range v.locks.length).flatMap fun k => openBytes 1 k 32,
    (List.range v.ops.length).flatMap fun k => openBytes 2 k 64,
    (List.range v.replay.length).flatMap fun k => openBytes 3 k 64 ].flatMap pad64

/-- The save area of a halted block is written in the save segment of its context (R224) (log 108). -/
def State.storeSave (s : State) (b : Block) (v : SaveArea) : State :=
  let a := Config.saveArea b.id % 2 ^ 31 * 64
  let bs := s.saveImage b v
  { s with mem := msetList memDefault s.mem a bs,
           poison := s.poison.filter fun k => decide (4 * k + 3 < a) || decide (a + bs.length ≤ 4 * k) }

end Sys2Proof.Machine
end

