-- ==== Sys2Proof/Machine/Texture.lean ====
section
/-! DEFINITION. Textures and render targets: 0x87 to 0x8B (R163, R164, R186 to R188, R346 to R352). -/

namespace Sys2Proof.Machine

/-- Size code of a byte count, for INFO. -/
def sizeCode (n : Nat) : Nat := match n with | 1 => 0 | 2 => 1 | 4 => 2 | 8 => 3 | _ => 4

/-! ### Colour formats (R187, R350) -/

/-- Bits of a UNORM channel; 0 for other formats. -/
def fmtUnorm (f : Nat) : Nat := if f = 1 ∨ f = 2 ∨ f = 3 then 8 else 0

/-- Bytes of one channel. -/
def fmtChanBytes (f : Nat) : Nat := fmtBytes f / fmtChannels f

/-- binary32 code of a stored channel. -/
def chanDec (f x : Nat) : Nat :=
  if fmtUnorm f ≠ 0 then f32.div .rn (.fin false x 0) (.fin false (2 ^ fmtUnorm f - 1) 0)
  else if f = 5 ∨ f = 6 ∨ f = 7 then f32.rne (f16.dec x)
  else if f = 0x0B then f32.rne (bf16.dec x)
  else if f = 0x0C then f32.rne (q8e4.dec x)
  else f32.rne (f32.dec x)

/-- Stored bits of a binary32 code in a channel (R350). -/
def chanEnc (f x : Nat) : Nat :=
  let v := f32.dec x
  if fmtUnorm f ≠ 0 then
    let top : Nat := 2 ^ fmtUnorm f - 1
    let c := if v = .nan then Fl.ofInt 0 else fmaxNum (.ofInt 0) (fminNum v (.ofInt 1))
    ((c.mul (.ofInt top)).toInt .rn).toNat
  else if f = 5 ∨ f = 6 ∨ f = 7 then f16.rne v
  else if f = 0x0B then bf16.rne v
  else f32.rne v

/-- Channels of a stored texel or sample as binary32 codes. -/
def texelChans (f : Nat) (bs : List Byte) : List Nat :=
  (List.range (fmtChannels f)).map fun k => chanDec f (fieldOf bs (k * fmtChanBytes f) (fmtChanBytes f))

/-- RGBA codes: an absent G or B reads 0, an absent A reads 1.0 (R347). -/
def rgba (f : Nat) (bs : List Byte) : List Nat :=
  let cs := texelChans f bs
  [cs.getD 0 0, cs.getD 1 0, cs.getD 2 0, cs.getD 3 0x3F80_0000]

/-! ### Texture descriptors (R186) -/

/-- Whether a format may stand in a texture. -/
def texFmtOk (f : Nat) : Bool := fmtBytes f != 0 && f != 0x10
/-- Whether a texture descriptor is valid. -/
def texOk (d : List Byte) : Bool :=
  let w := fieldOf d 8 2; let h := fieldOf d 0x0A 2; let pitch := fieldOf d 0x0C 4; let f := fieldOf d 0x10 1
  let lv := fieldOf d 0x11 1
  texFmtOk f && 1 ≤ w && w ≤ 16384 && 1 ≤ h && h ≤ 16384 && 1 ≤ lv && lv ≤ 15 && w * fmtBytes f ≤ pitch &&
    fieldOf d 0 8 % 256 == 0 && pitch % 256 == 0 && fieldOf d 0x12 1 < 16 && fieldOf d 0x13 1 < 4 &&
    fieldOf d 0x14 12 == 0
/-- Size of a level along one axis. -/
def levelDim (n m : Nat) : Nat := Nat.max 1 (n / 2 ^ m)
/-- Pitch of a level. -/
def texPitch (d : List Byte) (m : Nat) : Nat :=
  if m = 0 then fieldOf d 0x0C 4 else roundUp (levelDim (fieldOf d 8 2) m * fmtBytes (fieldOf d 0x10 1)) 256
/-- First byte of a level, from BASE. -/
def texStart (d : List Byte) (m : Nat) : Nat :=
  ((List.range m).map fun k => texPitch d k * levelDim (fieldOf d 0x0A 2) k).sum
/-- Wraps a texel coordinate (R347): none reads zero. -/
def texWrap (mode : Nat) (x : Int) (n : Nat) : Option Nat :=
  match mode with
  | 0 => some (x % n).toNat
  | 1 => some (Nat.min x.toNat (n - 1))
  | 2 => let y := (x % (2 * n : Nat)).toNat; some (if n ≤ y then 2 * n - 1 - y else y)
  | _ => if 0 ≤ x ∧ x < n then some x.toNat else none
/-- Address of texel (x, y) of a level; none reads zero. -/
def texAddr (d : List Byte) (m : Nat) (x y : Int) : Option Nat :=
  match texWrap (fieldOf d 0x12 1 % 4) x (levelDim (fieldOf d 8 2) m),
        texWrap (fieldOf d 0x12 1 / 4) y (levelDim (fieldOf d 0x0A 2) m) with
  | some x, some y =>
    some ((fieldOf d 0 8 + texStart d m + y * texPitch d m + x * fmtBytes (fieldOf d 0x10 1)) % 2 ^ 48)
  | _, _ => none

/-- A value rounded down to an integer. -/
def Fl.floor (x : Fl) : Int := x.toInt .rd
/-- q256 of a value (R347). -/
def q256 (x : Fl) : Fl := .fin false ((x.mul (.ofInt 256)).toInt .rn).toNat (-8)
/-- lerp on binary32 codes (R347). -/
def lerpCode (p q : Nat) (a : Fl) : Nat :=
  f32.rne (Fl.add .rn (f32.dec p) (r32 (a.mul (r32 ((f32.dec q).sub (f32.dec p))))))
/-- lerp of four channels. -/
def lerp4 (p q : List Nat) (a : Fl) : List Nat := List.zipWith (fun x y => lerpCode x y a) p q

/-- Linear coordinates of a level: the first texel and its fraction (R347). -/
def linCoord (u : Fl) (n : Nat) : Int × Fl :=
  let s := r32 ((r32 (u.mul (.ofInt n))).sub (.fin false 1 (-1)))
  (s.floor, q256 (s.sub (.ofInt s.floor)))

/-- Texels that a level's sample touches, in a fixed order: one, or the four of the linear filter. -/
def levelTexels (d : List Byte) (m : Nat) (u v : Fl) (linear : Bool) : List (Option Nat) :=
  let w := levelDim (fieldOf d 8 2) m
  let h := levelDim (fieldOf d 0x0A 2) m
  if linear then
    let (x, _) := linCoord u w
    let (y, _) := linCoord v h
    [texAddr d m x y, texAddr d m (x + 1) y, texAddr d m x (y + 1), texAddr d m (x + 1) (y + 1)]
  else [texAddr d m (r32 (u.mul (.ofInt w))).floor (r32 (v.mul (.ofInt h))).floor]

/-- The level's result from its texels (level(m) of R347). -/
def levelMix (d : List Byte) (m : Nat) (u v : Fl) (ts : List (List Nat)) : List Nat :=
  match ts with
  | [t00, t10, t01, t11] =>
    let (_, a) := linCoord u (levelDim (fieldOf d 8 2) m)
    let (_, b) := linCoord v (levelDim (fieldOf d 0x0A 2) m)
    lerp4 (lerp4 t00 t10 a) (lerp4 t01 t11 a) b
  | t :: _ => t
  | [] => [0, 0, 0, 0]

/-- A texture coordinate: NaN and infinities read as 0 (R347) (log 59). -/
def Env.texCoord (e : Env) (r l : Nat) : Fl :=
  match w32 (e.t.getV r l) with
  | .fin n m x => .fin n m x
  | _ => .ofInt 0

/-- The level of detail before its clamp (R347). -/
def Env.texLam (e : Env) (f : FV) (d : List Byte) (l : Nat) : Fl :=
  if f.fn.getLsbD 0 then e.fp f32 false f.sc.toNat l
  else if e.t.tier = 5 ∨ e.t.tier = 6 then
    let a := f.sa.toNat
    let q := quadBase l
    let w := Fl.ofInt (fieldOf d 8 2)
    let h := Fl.ofInt (fieldOf d 0x0A 2)
    let diff (r m : Nat) (n : Fl) : Fl := r32 ((r32 ((e.texCoord r (q + m)).sub (e.texCoord r q))).mul n)
    let len (x y : Fl) : Fl := f32.dec (f32.sqrt .rn (r32 (Fl.add .rn (r32 (x.mul x)) (r32 (y.mul y)))))
    let dx := len (diff a 1 w) (diff (a + 1) 1 h)
    let dy := len (diff a 2 w) (diff (a + 1) 2 h)
    f32.dec (Machine.flog2 f32 (fmaxNum dx dy))
  else .ofInt 0

/-- The levels that a lane's sample mixes, and the fraction between two (R347). -/
def texLevels (d : List Byte) (lam : Fl) : Nat × Option (Nat × Fl) :=
  let top := fieldOf d 0x11 1 - 1
  let lam := if lam = .nan then Fl.ofInt 0 else fminNum (fmaxNum lam (.ofInt 0)) (.ofInt top)
  if (fieldOf d 0x13 1).testBit 1 then
    let m := lam.floor
    (m.toNat, some (Nat.min (m.toNat + 1) top, q256 (lam.sub (.ofInt m))))
  else (Nat.min (Fl.add .rn lam (.fin false 1 (-1))).floor.toNat top, none)

/-- Reads a list of texels as DEF loads: the first failure is the lane's, and a helper's gives a zero texel (R349). -/
def State.readTexels (s : State) (w : Who) (f : Nat) (helper : Bool) :
    List (Option Nat) → State × Except MFault (List (List Nat))
  | [] => (s, .ok [])
  | none :: r =>
    match s.readTexels w f helper r with
    | (s, .ok ts) => (s, .ok ([0, 0, 0, 0] :: ts))
    | x => x
  | some a :: r =>
    match s.readVa w 0 a (fmtBytes f) with
    | (s, .error e) =>
      if helper then
        match s.readTexels w f helper r with
        | (s, .ok ts) => (s, .ok ([0, 0, 0, 0] :: ts))
        | x => x
      else (s, .error e)
    | (s, .ok bs) =>
      match s.readTexels w f helper r with
      | (s, .ok ts) => (s, .ok (rgba f bs :: ts))
      | x => x

/-- A lane's texels and how they are mixed: four words. -/
structure TexPlan where
  addrs : List (Option Nat)
  mix : List (List Nat) → List Nat

/-- Plan of TEX in a lane (R347). -/
def Env.texPlan (e : Env) (f : FV) (d : List Byte) (l : Nat) : TexPlan :=
  let u := e.texCoord f.sa.toNat l
  let v := e.texCoord (f.sa.toNat + 1) l
  let linear := (fieldOf d 0x13 1).testBit 0
  let n := if linear then 4 else 1
  match texLevels d (e.texLam f d l) with
  | (m, none) => { addrs := levelTexels d m u v linear, mix := levelMix d m u v }
  | (m, some (m', fr)) =>
    { addrs := levelTexels d m u v linear ++ levelTexels d m' u v linear,
      mix := fun ts => lerp4 (levelMix d m u v (ts.take n)) (levelMix d m' u v (ts.drop n)) fr }

/-- Plan of TEXG in a lane (R348). -/
def Env.texgPlan (e : Env) (f : FV) (d : List Byte) (l : Nat) : TexPlan :=
  let u := e.texCoord f.sa.toNat l
  let v := e.texCoord (f.sa.toNat + 1) l
  { addrs := levelTexels d 0 u v true, mix := fun ts => ts.map fun t => t.getD (f.fn.toNat % 4) 0 }

/-- Runs the plans of a list of lanes. -/
def Env.sampleLanes (e : Env) (fmt : Nat) (plan : Nat → TexPlan) :
    State → List Nat → State × List (Nat × List Nat) × List LaneFault
  | s, [] => (s, [], [])
  | s, l :: ls =>
    let p := plan l
    match s.readTexels e.who fmt (e.t.helper.getLsbD l) p.addrs with
    | (s, .ok ts) =>
      let (s, vs, fs) := e.sampleLanes fmt plan s ls
      (s, (l, p.mix ts) :: vs, fs)
    | (s, .error f) =>
      let (s, vs, fs) := e.sampleLanes fmt plan s ls
      (s, vs, { lane := l, f := f } :: fs)

/-- Words by register of results by lane. -/
def laneRuns (n : Nat) (vs : List (Nat × List Nat)) : List (Nat → Word) :=
  (List.range n).map fun k l => BitVec.ofNat 32 ((alookup [] vs l).getD k 0)
/-- The set of the lanes of a list. -/
def laneSet (ls : List Nat) : Lanes := ls.foldl (fun m l => m ||| (1#1024 <<< l)) 0

/-- A texture instruction (R346, R349). -/
def Env.texture (e : Env) (i : Instr) (f : FV) (plan : Env → List Byte → Nat → TexPlan) : Out :=
  let w := e.t.act i.hdr
  e.readTable i w (e.uval f.sb.toNat).toNat 32 1 texOk fun e d? =>
    match d? with
    | none => e.done i (e.t.putRun f.d.toNat w (laneRuns 4 [])) none
    | some d =>
      let fmt := fieldOf d 0x10 1
      let (s, vs, fs) := e.sampleLanes fmt (plan e d) e.s (e.t.list w)
      if fs.isEmpty then ({ e with s := s }).done i (e.t.putRun f.d.toNat w (laneRuns 4 vs)) none
      else if e.t.region.isSome then e.trapLanes i s e.t fs 0 0 (sizeCode (fmtBytes fmt)) 0
      else e.trapLanes i s (e.t.putRun f.d.toNat (laneSet (vs.map Prod.fst)) (laneRuns 4 vs)) fs 0 0
        (sizeCode (fmtBytes fmt)) 0

/-- TEX -/
def execTex (f : FV) (s : State) : Out :=
  issue (.tex f) s fun e => e.texture (.tex f) f fun e d l => e.texPlan f d l
/-- TEXG -/
def execTexg (f : FV) (s : State) : Out :=
  issue (.texg f) s fun e => e.texture (.texg f) f fun e d l => e.texgPlan f d l

/-! ### Render targets -/

/-- A sample position: pixel x, y and sample. -/
abbrev Spot := Nat × Nat × Nat

/-- Sample positions of an element (R163): its own sample, or each covered sample of its coarse pixel. -/
def LaneElem.spots (c : LaneElem) (tier : Nat) : List Spot :=
  if !c.live then []
  else
    let x := c.elem.toNat
    if tier = 6 then [(x % 2 ^ 15, x / 2 ^ 15 % 2 ^ 15, x / 2 ^ 30)]
    else if tier = 5 then (setBits 16 c.cov.toNat).map (cpixBit (x % 65536) (x / 65536))
    else []

/-- Whether an element of a triangle of a lower key than `key` may still act at a position. -/
def Draw.pendingBelow (d : Draw) (key : Nat × Nat × Nat) (p : Spot) (tier : Nat) (c : LaneElem) : Bool :=
  keyLt (d.elemKey c) key && (c.spots tier).contains p

/-- Whether an access at a position must wait for a lower key (R163, R352): one waits for samples or runs in another
batch. -/
def Draw.below (d : Draw) (own : Option Nat) (key : Nat × Nat × Nat) (p : Spot) : Bool :=
  d.cpixWait.any (fun q => q.any fun c => d.pendingBelow key p 5 c) ||
    d.sampWait.any (fun c => d.pendingBelow key p 5 c) ||
    d.batches.any fun b => some b.id != own && b.lanes.any fun e => d.pendingBelow key p b.tier e.2

/-- Whether an earlier draw of the node on the same TARGET has not retired (R164). -/
def Env.earlierDraw (e : Env) (d : Draw) : Bool :=
  e.s.blocks.any fun b =>
    b.node == e.b.node && b.id != e.b.id &&
      match b.draw, b.shared, e.b.shared with
      | some x, some m, some n => decide (m < n) && fieldOf x.root 0x10 8 == fieldOf d.root 0x10 8
      | _, _, _ => false

/-- Whether a render-target access of lanes `w` must wait at issue (R163, R164, R352). -/
def Env.targetWait (e : Env) (d : Draw) (w : Lanes) : Bool :=
  let ls := (e.t.list w).filter fun l => !((mget {} e.t.elems l).spots e.t.tier).isEmpty
  !ls.isEmpty && (e.earlierDraw d || ls.any fun l =>
    let c := mget {} e.t.elems l
    (c.spots e.t.tier).any fun p => d.below e.t.batch (d.elemKey c) p)

/-- Address of a sample of a surface (R188). -/
def spotAddr (base pitch bpp : Nat) (p : Spot) : Nat := (base + p.2.1 * pitch + (4 * p.1 + p.2.2) * bpp) % 2 ^ 48

/-- Checks the sample positions of a lane; the first failure is the lane's. -/
def State.checkSpots (s : State) (w : Who) (kind : AccKind) (addr : Spot → Nat) (n : Nat) :
    List Spot → State × Except MFault (List (Spot × Target))
  | [] => (s, .ok [])
  | p :: ps =>
    match s.checkVa w kind (addr p) n with
    | (s, .error f) => (s, .error f)
    | (s, .ok t) =>
      match s.checkSpots w kind addr n ps with
      | (s, .error f) => (s, .error f)
      | (s, .ok ts) => (s, .ok ((p, t) :: ts))

/-- Checks the sample positions of a list of lanes, none of them helpers. -/
def Env.spotLanes (e : Env) (kind : AccKind) (addr : Spot → Nat) (n : Nat) (pick : List Spot → List Spot) :
    State → List Nat → State × List (Nat × List (Spot × Target)) × List LaneFault
  | s, [] => (s, [], [])
  | s, l :: ls =>
    match s.checkSpots e.who kind addr n (pick ((mget {} e.t.elems l).spots e.t.tier)) with
    | (s, .ok ts) =>
      let (s, r, fs) := e.spotLanes kind addr n pick s ls
      (s, (l, ts) :: r, fs)
    | (s, .error f) =>
      let (s, r, fs) := e.spotLanes kind addr n pick s ls
      (s, r, { lane := l, f := f } :: fs)

/-- Writes one sample at its home (R198). -/
def Env.putSpot (e : Env) (s : State) (t : Target) (bs : List Byte) : State :=
  (s.toHome e.who t bs.length).homeStore e.b.ctx t bs
/-- Reads one sample at its home. -/
def Env.getSpot (e : Env) (s : State) (t : Target) (n : Nat) : State × List Byte :=
  let s := s.toHome e.who t n
  (s, s.homeLoad t n)

/-- RTW (R350): lanes of one batch cover no sample twice, so their order does not matter. -/
def execRtw (f : FV) (s : State) : Out :=
  issue (.rtw f) s fun e =>
    match e.b.draw with
    | none => e.skip (.rtw f)
    | some d =>
      let w := e.t.actNH f.h
      let fmt := fieldOf d.target 0x1C 1
      if e.targetWait d w then e.stallAt 5
      else if fieldOf d.target 0 8 = 0 then e.skip (.rtw f)
      else
        let addr := spotAddr (fieldOf d.target 0 8) (fieldOf d.target 0x10 4) (fmtBytes fmt)
        let (s, ls, fs) := e.spotLanes .write addr (fmtBytes fmt) id e.s (e.t.list w)
        let s := ls.foldl (fun (s : State) (x : Nat × List (Spot × Target)) =>
          let bs := (List.range (fmtChannels fmt)).flatMap fun k =>
            leBytes (fmtChanBytes fmt) (chanEnc fmt (e.t.getV (f.sa.toNat + k) x.1).toNat)
          x.2.foldl (fun (s : State) (p : Spot × Target) => e.putSpot s p.2 bs) s) s
        if fs.isEmpty then ({ e with s := s }).skip (.rtw f)
        else e.trapLanes (.rtw f) s e.t fs 0 0 (sizeCode (fmtBytes fmt)) 1

/-- ZFUNC (R188, R351). -/
def zTest (zf : Nat) (a b : Fl) : Bool :=
  if zf = 6 then true
  else if a = .nan ∨ b = .nan then false
  else
    let c := a.cmp b
    match zf with
    | 1 => decide (c < 0)
    | 2 => decide (c ≤ 0)
    | 3 => decide (0 < c)
    | 4 => decide (0 ≤ c)
    | 5 => c == 0
    | _ => false

/-- Bit of a position in a lane's result: 0 in the sample tier, its place in the coverage mask in the cpix tier. -/
def spotBit (tier : Nat) (p : Spot) : Nat := if tier = 5 then 4 * p.2.2 + 2 * (p.2.1 % 2) + p.1 % 2 else 0

/-- Tests and writes the depth at a lane's positions: the positions that passed. -/
def Env.zSpots (e : Env) (zf : Nat) (a : Word) : State → List (Spot × Target) → State × List Spot
  | s, [] => (s, [])
  | s, (p, t) :: ps =>
    let (s, bs) := e.getSpot s t 4
    let ok := zTest zf (w32 a) (f32.dec (leNat bs))
    let s := if ok then e.putSpot s t (leBytes 4 (f32.rne (w32 a))) else s
    let (s, r) := e.zSpots zf a s ps
    (s, if ok then p :: r else r)

/-- RTZ (R351) -/
def execRtz (f : FV) (s : State) : Out :=
  issue (.rtz f) s fun e =>
    let wAll := e.t.act f.h
    match e.b.draw with
    | none => e.vec (.rtz f) f.d.toNat wAll fun _ => 0
    | some d =>
      let w := e.t.actNH f.h
      let res (r : List (Nat × List Spot)) (l : Nat) : Word :=
        BitVec.ofNat 32 (((alookup [] r l).map fun p => 2 ^ spotBit e.t.tier p).sum)
      if e.targetWait d w then e.stallAt 5
      else if fieldOf d.target 8 8 = 0 then
        e.vec (.rtz f) f.d.toNat wAll (res ((e.t.list w).map fun l => (l, (mget {} e.t.elems l).spots e.t.tier)))
      else
        let addr := spotAddr (fieldOf d.target 8 8) (fieldOf d.target 0x14 4) 4
        let (s, ls, fs) := e.spotLanes .write addr 4 id e.s (e.t.list w)
        let (s, r) := ls.foldl (fun (a : State × List (Nat × List Spot)) (x : Nat × List (Spot × Target)) =>
          let (s, ps) := e.zSpots (fieldOf d.target 0x1E 1) (e.t.getV f.sa.toNat x.1) a.1 x.2
          (s, a.2 ++ [(x.1, ps)])) (s, [])
        if fs.isEmpty then ({ e with s := s }).vec (.rtz f) f.d.toNat wAll (res r)
        else
          let done := wAll &&& ~~~laneSet (fs.map LaneFault.lane)
          e.trapLanes (.rtz f) s (e.t.putV f.d.toNat done (res r)) fs 0 0 2 1

/-- The passes of an RTR on their way (R218): `ls` gives each lane's address and `vs` its channels. -/
def Env.rtrFlights (e : Env) (dst fmt : Nat) (ls : List (Nat × List (Spot × Target))) (vs : List (Nat × List Nat)) :
    List Flight :=
  let as := ls.filterMap fun x => match x.2 with
    | (_, .va a ps) :: _ => some { lane := x.1, addr := a, tgt := some (.va a ps) : LaneAcc }
    | _ => none
  (e.flights e.t.pc dst (sizeCode (fmtBytes fmt)) 0 1 false as []).map fun fl =>
    { fl with fmt := fmt, home := true,
              vals := (vs.filter fun v => v.1 / 32 == fl.word).flatMap fun v =>
                v.2.zipIdx.map fun (x, k) => (1024 * (dst + k) + v.1, BitVec.ofNat 32 x) }

/-- RTR (R352): its lane's sample, or the lowest covered sample of its coarse pixel; zeros without one. -/
def execRtr (f : FV) (s : State) : Out :=
  issue (.rtr f) s fun e =>
    let wAll := e.t.act f.h
    let n := e.b.rtRun
    match e.b.draw with
    | none => e.done (.rtr f) (e.t.putRun f.d.toNat wAll (laneRuns n [])) none
    | some d =>
      let w := e.t.actNH f.h
      let fmt := fieldOf d.target 0x1C 1
      if e.targetWait d w then e.stallAt 5
      else if fieldOf d.target 0 8 = 0 then e.done (.rtr f) (e.t.putRun f.d.toNat wAll (laneRuns n [])) none
      else
        let addr := spotAddr (fieldOf d.target 0 8) (fieldOf d.target 0x10 4) (fmtBytes fmt)
        let (s, ls, fs) := e.spotLanes .read addr (fmtBytes fmt) (List.take 1) e.s (e.t.list w)
        let (s, vs) := ls.foldl (fun (a : State × List (Nat × List Nat)) (x : Nat × List (Spot × Target)) =>
          match x.2 with
          | [] => a
          | p :: _ =>
            let (s, bs) := e.getSpot a.1 p.2 (fmtBytes fmt)
            (s, a.2 ++ [(x.1, texelChans fmt bs)])) (s, [])
        if fs.isEmpty then
          let t := e.t.putRun f.d.toNat (wAll &&& ~~~laneSet (vs.map Prod.fst)) (laneRuns n [])
          ({ e with s := s }).done (.rtr f) { t with flights := t.flights ++ e.rtrFlights f.d.toNat fmt ls vs } none
        else if e.t.region.isSome then e.trapLanes (.rtr f) s e.t fs 0 0 (sizeCode (fmtBytes fmt)) 0
        else
          let done := wAll &&& ~~~laneSet (fs.map LaneFault.lane)
          e.trapLanes (.rtr f) s (e.t.putRun f.d.toNat done (laneRuns n vs)) fs 0 0 (sizeCode (fmtBytes fmt)) 0

end Sys2Proof.Machine
end

