-- ==== Sys2Proof/Machine/Sampling.lean ====
section
/-! DEFINITION. What the sampling unit knows of teams: their last issue, the reasons that a team's state allows, and which teams
have left their slots in the present clk (R74, R142 to R145, R314, R425, R427). -/

namespace Sys2Proof.Machine

/-- Whether a team has trapped and not yet returned: its handler runs, or its entry waits for a window. -/
def Team.trapped (t : Team) : Bool := t.trap.isSome || match t.status with | .window .. => true | _ => false

/-- Whether the other half of a pair slot has trapped, which holds this one until its RTT; where both have, the lower half goes
first (R228). -/
def State.pairHeld (s : State) (t : Team) : Bool :=
  t.fore && !(t.trap.isSome && t.half == 0) &&
    s.teams.any fun u => u.resident && u.core == t.core && u.slot == t.slot && u.half != t.half && u.trapped

/-- The team at issue with the lanes that join it (R308), and its block. -/
def State.envAt (s : State) (t : Team) : Env :=
  let t := t.merge
  let s := s.putTeam t
  { s := s, t := t, b := s.blockOf t }

/-! ### Reasons -/

/-- The instruction that a team issues next, where it can be fetched. -/
def State.nextInstr (s : State) (t : Team) : Option Instr :=
  match (s.envAt t).fetch.2 with
  | .instr i => some i
  | _ => none

/-- Spaces of the loads in flight that a team's next instruction waits for (R144, R342). -/
def State.awaited (s : State) (t : Team) : List Space :=
  if t.flights.isEmpty then []
  else
    match s.nextInstr t with
    | some i => (t.flights.filter (t.merge.waitsFor (s.blockOf t).rtRun i)).map Flight.space
    | none => []

/-- Reason of a team that waits for an access: DEP_SCRATCH for SPACE 1 and 2, else DEP_MEM (R342, R355). -/
def depReason (space : Space) : Nat := if space = 1 ∨ space = 2 then 6 else 5

/-- Whether a team waits for fetch after a transfer of control or at the start of a batch (R425). -/
def State.fetching (s : State) (t : Team) : Bool :=
  match t.fetchWait with | .no => false | .upTo c => decide (s.clk < c) | .firstIssue => true

/-- Whether an instruction depends on a result that may still be due. -/
def Due.awaitedBy (d : Due) (t : Team) (rt : Nat) (i : Instr) : Bool :=
  (regsRead i rt ++ regsWritten i rt).any d.regs.contains || (latchesNamed i).any fun k => k + d.seq == t.issued

/-- Reasons of the results that a team's next instruction may wait for. -/
def State.dueReasons (s : State) (t : Team) : List Nat :=
  match s.nextInstr t with
  | some i => ((t.last.dues.filter fun d => d.awaitedBy t.merge (s.blockOf t).rtRun i).map Due.reason).dedup
  | none => []

/-- Teams of the pipe of a team that hold it in the present clk, other halves of its slot apart (R142). -/
def State.pipeMates (s : State) (t : Team) : List Team :=
  s.teams.filter fun u => u.resident && u.core == t.core && u.slot != t.slot && u.slot % 4 == t.slot % 4 &&
    decide (u.last.start ≤ s.clk) && decide (s.clk < u.last.stop)

/-- Whether hints count in a block (R144, R225, R254). -/
def Block.hints (b : Block) : Bool := !b.header.getLsbD 54 && !b.header.getLsbD 55

/-- Stores, which wait for room in the store queue. -/
def storeOps : List Nat := [0x81, 0x83, 0x85, 0x89, 0x8A]

/-- Reasons that a ready team which nothing else holds may be in: timing decides among them (log 30). -/
def State.timedReasons (s : State) (t : Team) : List Nat :=
  let mates := s.pipeMates t
  (if mates.any fun u => u.last.start == s.clk then [1] else []) ++
  (if mates.any fun u => u.last.start != s.clk then [2] else []) ++ [3, 4] ++ s.dueReasons t ++
  (if (s.nextInstr t).any fun i => storeOps.contains i.opcode then [11] else []) ++
  (if (s.blockOf t).hints && decide (s.clk < t.last.hint) then [13] else [])

/-- Reasons that a team's state allows (R74, R144, R228, R314, R425): it issues, it has been refused or is parked, its pair's other
half or the lack of a batch holds it, it waits for fetch, a YIELD keeps it from issue, it waits for a load, or timing alone
decides. -/
def State.reasonsOf (s : State) (t : Team) : List Nat :=
  if t.last.start ≤ s.clk ∧ s.clk < t.last.stop then [0]
  else if t.status != .ready || t.stall != 0 then [t.stall]
  else if s.pairHeld t || ((s.blockOf t).draw.isSome && t.batch.isNone) then [0x0E]
  else if s.fetching t then [3]
  else if t.yielded.any fun c => c + 1 == s.clk then [0x0E]
  else
    match s.awaited t with
    | [] => s.timedReasons t
    | xs => xs.map depReason

/-- A team as the sampling unit finds it. -/
def State.seen (s : State) (t : Team) : Seen :=
  { team := t, blk := s.blockOf t, reasons := s.reasonsOf t,
    pc := if t.last.start ≤ s.clk ∧ s.clk < t.last.stop then t.last.pc else t.pc }

/-- Reason of a sampled team (R74): where several are allowed, a free value picks one. -/
def State.reasonOf (s : State) (x : Seen) : Nat := x.reasons.getD (Config.sampleReason s.tick % x.reasons.length) 0

/-! ### What is kept of an issue -/

/-- Reason of a wait for what an instruction of a team writes, where no load in flight stands for it (R331, R355, R397, R408). -/
def Env.dueReason (e : Env) (i : Instr) : Option Nat :=
  match i with
  | .atom f w | .acas f w | .atoms f w | .awaitv f w => some (depReason (atomF f w).space)
  | .rget _ | .rbary _ | .rflat _ => some 6
  | .tex .. | .texg .. => some 5
  | .csrr _ => some 0x0E
  | _ =>
    match (tableCode i).map e.uval with
    | some x => if x = 0 then none else some 5
    | none => none

/-- clk in which an instruction of a team holds its pipe (R143, R145). -/
def Env.passClk (e : Env) : Nat :=
  (if wholeOp e.op then 1 else Nat.max 1 (occupancy e.op * e.t.filled)) + e.s.sel.held

/-- Results still due after an instruction: those that it does not overwrite, and its own. -/
def Env.dues (e : Env) (i : Instr) : List Due :=
  let ws := regsWritten i e.b.rtRun
  let old := (e.t.last.dues.map fun d => { d with regs := d.regs.filter fun r => !ws.contains r }).filter fun d =>
    !d.regs.isEmpty || decide (e.t.issued ≤ d.seq + 8)
  match e.dueReason i with
  | some r => { regs := ws, seq := e.t.issued, reason := r } :: old
  | none => old

/-- The state after an instruction, with what its issue leaves to the sampling unit: nothing where it met a cause of decode or was
refused. -/
def State.noteIssue (s : State) (i : Instr) (s0 : State) : State :=
  match s0.ready i with
  | none => s
  | some e =>
    match s.team? e.t.tid with
    | none => s
    | some v =>
      if v.issued == e.t.issued && v.status == .ready && v.stall != 0 then s
      else
        let stop := s.clk + ({ e with s := s }).passClk
        s.putTeam { v with last := { pc := e.t.pc, start := s.clk, stop := stop, hint := stop - 1 + i.hdr.stall.toNat,
                                     dues := e.dues i } }

/-- The outcome of an instruction in a state, noted. -/
def noted (i : Instr) (s0 : State) : Out → Out
  | .next s => .next (s.noteIssue i s0)
  | o => o

/-- What the sampling unit keeps of a step from `s0`: teams that have left their slots, with what they did in this clk, and the clk in
which others entered theirs (R427). The selected team leaves by the instruction that it issues. -/
def State.track (s s0 : State) : State :=
  let held (s : State) (t : Team) : Bool := s.teams.any fun u => u.tid == t.tid && u.resident
  let own (t : Team) : Bool := s0.inputs.isEmpty && s0.curTeam.any fun u => u.tid == t.tid
  let gone := (s0.teams.filter fun t => t.resident && !held s t).map fun t =>
    if own t then { s0.seen t with pc := t.pc, reasons := [0] } else s0.seen t
  if gone.isEmpty && s.teams.all fun t => !t.resident || held s0 t then s
  else { s with left := s.left ++ gone,
                teams := s.teams.map fun t => if t.resident && !held s0 t then { t with entered := s.clk } else t }

end Sys2Proof.Machine
end

