-- ==== Sys2Proof/Machine/Schedule.lean ====
section
/-! DEFINITION. What a step does around an instruction: the events to come, the team that issues, fetch, the passing of time
(R15, R71, R73, R142 to R144, R182, R207, R210, R228, R308). -/

namespace Sys2Proof.Machine

/-! ### Which team issues -/

/-- Whether Cowslip holds a team (R406, R428). -/
def Team.byCowslip (t : Team) : Bool := match t.status with | .cowslip => true | _ => false

/-- Whether a team may issue: it waits for nothing, in a draw it holds a batch (R151), and the clk after a YIELD is over
(R314). -/
def State.canIssue (s : State) (t : Team) : Bool :=
  t.resident && t.status == .ready && !s.pairHeld t && ((s.blockOf t).draw.isNone || t.batch.isSome) &&
    t.yielded.all fun c => decide (c + 1 < s.clk)

/-- The team that a free value names among the resident ones (log 21). -/
def State.pick (s : State) : Sel :=
  let ts := s.teams.filter Team.resident
  match ts[Config.pickTeam s.tick % ts.length]? with
  | some t => { core := t.core, slot := t.slot, half := t.half }
  | none => { s.sel with joint := false, held := 0 }

/-! ### Time -/

/-- Events of the shared units (R71), whose number in a step depends on timing alone. -/
def timingEvents : List Nat := [0x10, 0x11, 0x12, 0x13, 0x14, 0x15]

/-- Cores on which a team of a context is resident and not held by Cowslip (R71, R73). -/
def State.residentCores (s : State) (ctx : Nat) : List Nat :=
  ((s.teams.filter fun t => t.resident && !t.byCowslip && (s.blockOf t).ctx == ctx).map Team.core).dedup

/-- Counts what `n` clk bring to a context's counters and sampling units: the clk, the clk in which the rate sequencer held work
back while a team was resident, and the events of shared units. -/
def State.passCtx (s : State) (n : Nat) (c : Ctx) : State :=
  let cores := s.residentCores c.id
  let s := s.count c.id 1 (n * cores.length)
  let s := if cores.isEmpty then s else s.count c.id 9 (Config.eventCount s.tick 9)
  let s := timingEvents.foldl (fun (s : State) ev => s.count c.id ev (Config.eventCount s.tick ev)) s
  if c.smpEn then
    cores.foldl (fun (s : State) k =>
      let a := s.coreSt k
      s.putCore k { a with smpLeft := mset 0 a.smpLeft c.id (mget 0 a.smpLeft c.id + n) }) s
  else s

/-- Nanoseconds of residency in the throttle state of each die (R20). -/
def Pkg.resided (p : Pkg) (ns : Nat) : Map Nat :=
  [0, 1].foldl (fun (m : Map Nat) d =>
    let k := 4 * d + mget 0 p.th d
    mset 0 m k (mget 0 m k + ns)) p.residency

/-- Time passes with a step, remote writes of gangs reach their peers, and the next team to issue is chosen (log 3, log 21,
log 29). -/
def State.pass (s : State) : State :=
  let s := s.landRemote (Config.remoteLanded s.tick)
  let n := Config.elapsedClk s.tick
  let s := s.ctxs.foldl (fun (s : State) c => s.passCtx n c) s
  let ns := Config.elapsedNs s.tick
  let s := { s with tick := s.tick + 1, clk := s.clk + n, timeNs := s.timeNs + ns, left := if n = 0 then s.left else [],
                    pkg := { s.pkg with residency := s.pkg.resided ns } }
  { s with sel := s.pick }

/-- Time passes with the state that a step answers; the sampling unit keeps which teams of `s0`, the state before, have left their
slots. -/
def passed (s0 : State) : Out → Out
  | .next s => .next (s.track s0).pass
  | .fault f => .fault f
  | .refused r => .refused r

/-! ### Load packets (R218, R219) -/

/-- Reads at the home the places of a list of lanes, as RTR does. -/
def State.homeLanes (s : State) (w : Who) (n : Nat) : List LaneAcc → State × List (Nat × List Byte)
  | [] => (s, [])
  | a :: as =>
    match a.tgt with
    | none => s.homeLanes w n as
    | some t =>
      let s := s.toHome w t n
      let (s', r) := s.homeLanes w n as
      (s', (a.lane, s.homeLoad t n) :: r)

/-- Reissues a load packet: its lanes are translated and checked afresh, and read. Lanes that meet a cause trap with the
packet's PC; the resume point stays, and a retry reissues them (log 28). -/
def State.reissue (s : State) (t : Team) (p : Packet) : State :=
  let e := s.envOf t
  let n := sizeBytes p.size
  let addr (l : Nat) : Nat := mget 0 p.addr l
  let chk (s : State) (l : Nat) : State × Except MFault Target :=
    if p.space = 0 then s.checkVa e.who .read (addr l) n else e.check s .read p.space 0 (addr l) 0 n
  let g14 := e.b.seg 14
  let priv := p.space == 0 && (t.list p.lanes).any fun l => decide (segBase g14 ≤ addr l) && decide (addr l < segBase g14 + segLimit g14)
  let (s, as, fs) := e.checkLanes chk addr s (t.list p.lanes)
  let (s, vals) := if p.fmt = 0 then (let (s, vs) := s.loadLanes e.who p.pol priv n as; (s, loadVals p.dst p.size vs))
    else (let (s, vs) := s.homeLanes e.who n as
          (s, vs.flatMap fun v => (texelChans p.fmt v.2).zipIdx.map fun (x, k) =>
            (1024 * (p.dst + k) + v.1, BitVec.ofNat 32 x)))
  let fl : Flight :=
    { gen := t.gen, seq := t.issued, pc := p.pc, dst := p.dst, word := p.word, size := p.size, space := p.space, pol := p.pol,
      lanes := as.foldl (fun m a => m ||| (1#1024 <<< a.lane)) 0, addr := p.addr,
      vals := vals, latchOnly := false, inRegion := false, fmt := p.fmt,
      home := p.fmt != 0 || as.any fun a => a.tgt.any (Target.atHome p.pol) }
  let s := if p.fmt = 0 then s.queueLoads e.who p.pol n as else s
  let t := { t with flights := t.flights ++ (if as.isEmpty then [] else [fl]), issued := t.issued + 1 }
  match topFault fs with
  | none => s.putTeam t
  | some top =>
    let s := if top.f.cause == .rangeLocked then s.count e.b.ctx 8 1 else s
    let trapping := fs.filter fun x => x.f.cause == top.f.cause
    let set (xs : List LaneFault) : Lanes := xs.foldl (fun a x => a ||| (1#1024 <<< x.lane)) 0
    s.takeTrap t
      { cause := top.f.cause, lanes := set trapping, pending := t.mask, full := t.restore.isNone, pc := p.pc,
        insn := (e.codeAt p.pc).1, resume := t.pc, size := (e.codeAt t.pc).2,
        va := trapping.foldl (fun m x => mset 0 m x.lane (BitVec.ofNat 64 x.f.va)) [],
        gpa := trapping.foldl (fun m x => mset 0 m x.lane (BitVec.ofNat 64 x.f.gpa)) [],
        info := infoOf (e.segAt p.pc) p.space p.size 0 top.f,
        packets := [{ p with lanes := set fs }] }

/-- A packet whose lanes would reach a migrating gang member waits (R94). -/
def State.packetWaits (s : State) (t : Team) (p : Packet) : Bool :=
  (s.envOf t).mustWait p.space p.lanes fun l => ((mget 0 p.addr l : Nat) : Int)

/-! ### The issue of the selected team -/

/-- The state in which the selected team has fetched, and what it fetched. -/
def State.fetched (s : State) (t : Team) : State × Fetched := (s.envAt t).fetch

/-- A trap of fetch or of undecodable words, at the team that was selected (log 68). -/
def State.fetchStop (s : State) (t : Team) (f : Fetched) : Out :=
  let e := s.envOf t
  match f with
  | .instr _ => .next s
  | .bad w n => ({ e with t := { t with region := none } }).fetchTrap .illegalOpcode w n 0 0 0
  | .fault w f => e.fetchTrap f.cause w (if isTwoWord w then 16 else 8) (infoOf 15 0 3 3 f) (BitVec.ofNat 64 f.va) f.gpa

/-- Whether a team's next instruction may issue now: nothing is to be done before it, and no load in flight holds it back
(R144). -/
def State.readyFor (s : State) (t : Team) (i : Instr) : Bool :=
  s.canIssue t && t.packets.isEmpty && (t.async.isEmpty || t.trap.isSome || t.cursor != 0) &&
    (t.blocker (s.blockOf t).rtRun i).isNone

/-- The upper half of a pair that joins the pass of its lower half: it stands at the same PC and is ready too (R228). -/
def State.joins (s : State) (t : Team) (i : Instr) : Option Team :=
  if t.fore && t.half == 0 then
    (s.teamAt t.core t.slot 1).filter fun u => u.pc == t.pc && s.readyFor u i
  else none

/-- After the lower half of a pair has issued, the upper half that joins its pass issues too, unless the lower half's trap holds
it (R228). -/
def State.jointly (s : State) (t : Team) (i : Instr) (ex : Instr → State → Out) : Out → Out
  | .next s' =>
    match s.joins t i with
    | none => .next s'
    | some u =>
      if (s'.team? t.tid).any (fun t' => t'.issued == t.issued) || !((s'.team? u.tid).any s'.canIssue) then .next s'
      else
        let s2 := { s' with sel := { core := t.core, slot := t.slot, half := 1, joint := true } }
        noted i s2 (ex i s2)
  | o => o

/-- The selected team issues: a trap entry that waits for its handler window tries again, then the load packets of a resumed
team are reissued, then an async cause is delivered, then the instruction at PC is fetched; a load in flight that it depends on
returns first, and `ex` gives its meaning (R136, R144, R207, R210, R219) (log 55). -/
def State.issueTeam (s : State) (t : Team) (ex : Instr → State → Out) : Out :=
  match t.status with
  | .window r _ => .next (s.takeTrap t r)
  | _ =>
    if !s.canIssue t then .next s
    else
      match t.packets with
      | p :: ps => .next (if s.packetWaits t p then s.putTeam { t with stall := 0x0C } else s.reissue { t with packets := ps, stall := 0 } p)
      | [] =>
        if !t.async.isEmpty && t.trap.isNone && t.cursor == 0 then .next (s.takeAsync t ((s.envAt t).codeAt t.pc).2)
        else
          match s.fetched t with
          | (s, .instr i) =>
            let t := (s.envAt t).t
            match t.blocker (s.blockOf t).rtRun i with
            | some n => let (s, t) := s.landFlight t n; .next (s.putTeam t)
            | none => s.jointly t i ex (noted i s (ex i s))
          | (s, f) => s.fetchStop (s.envAt t).t f

/-- The outcome of the lower half of a pair whose upper half is selected: where the lower half is ready too, it issues first (R228). -/
def State.lowerFirst (s : State) (t : Team) (ex : Instr → State → Out) : Option Out :=
  if t.fore && t.half == 1 then
    match s.teamAt t.core t.slot 0 with
    | none => none
    | some u =>
      match s.fetched u with
      | (s', .instr i) =>
        if !s'.readyFor ((s'.envAt u).t) i then none
        else
          match ({ s with sel := { s.sel with half := 0 } } : State).issueTeam u ex with
          | .next s2 => if (s2.team? u.tid).any fun v => v.issued == u.issued && v.status == .ready && v.stall != 0 then none
              else some (.next s2)
          | o => some o
      | _ => none
  else none

/-! ### An instruction that an event meets between its passes (R217, R339) -/

/-- Opcodes whose passes act each on its own mask word. -/
def passOp (op : Nat) : Bool :=
  (decide (0x10 ≤ op) && decide (op < 0x2C)) || (decide (0x40 ≤ op) && decide (op < 0x75)) ||
    (decide (0x78 ≤ op) && decide (op < 0x7F) && op != 0x7C) || (decide (0x80 ≤ op) && decide (op < 0x8C)) ||
    [0xA0, 0xA1, 0xA2, 0xD8, 0xD9, 0xDA, 0xDB, 0xDF].contains op

/-- The team with `k` mask words of its instruction still to be done from word `j` on. -/
def Team.narrow (t : Team) (j k : Nat) : Team :=
  let w : Lanes := t.lanesOf fun l => decide (32 * j ≤ l) && decide (l < 32 * (j + k))
  { t with mask := t.mask &&& w, helper := t.helper &&& w }

/-- The first `k` passes of the selected team's instruction have been done when an event comes: their results are written, and
CURSOR holds the next mask word. Nothing where the instruction has no such passes, would trap in them, or has lanes in one part
alone (log 107). -/
def State.begin (s : State) (k : Nat) (ex : Instr → State → Out) : Option State :=
  match s.curTeam with
  | none => none
  | some t0 =>
    match s.fetched t0 with
    | (s, .instr i) =>
      let t := (s.envAt t0).t
      let tab := ({ s := s, t := t, b := s.blockOf t, op := i.opcode : Env }).tableRead i
      let lo := t.narrow 0 k
      let hi := t.narrow k (t.words - k)
      if k = 0 || !passOp i.opcode || i.hdr.ws == 1 || t.region.isSome || !(latchesNamed i).isEmpty || t.restore.isSome ||
          t.cursor != 0 || tab.isNone || lo.actNH i.hdr == 0 || hi.actNH i.hdr == 0 || !t.async.isEmpty || !s.readyFor t i then none
      else
        let (s, table) := tab.getD (s, none)
        let s1 := ({ s := s, t := t, b := s.blockOf t, op := i.opcode : Env }).counted
        match ex i (s1.putTeam { lo with cursor := k, table := table }) with
        | .next s2 =>
          match s2.team? t.tid with
          | some u =>
            if u.pc = t.pc + BitVec.ofNat 48 i.size ∧ u.status = .ready ∧ u.trap.isSome = t.trap.isSome ∧ u.stack = t.stack ∧
                u.resident then
              some (s2.putTeam { u with pc := t.pc, mask := hi.mask, helper := hi.helper, restore := some (t.mask, t.helper),
                                        cursor := k, table := table, latches := t.latches, issued := t.issued })
            else none
          | none => none
        | _ => none
    | _ => none

/-- The state that an event finds: a free value gives the passes of the selected team's instruction that are done (log 107). -/
def State.midway (s : State) (ex : Instr → State → Out) : State :=
  if !s.pkg.powered then s
  else
    match s.curTeam with
    | none => s
    | some t => (s.begin (Config.passesBegun s.tick % t.words) ex).getD s

/-- Whether an event is the one that a part without power takes. -/
def powersOn : Instr → Bool
  | .packagePowerOn _ => true
  | _ => false

/-- One step: the oldest event to come, else the issue of the selected team. Nothing runs without power (R18). -/
def State.advanceWith (s : State) (ex : Instr → State → Out) : Out :=
  match s.inputs with
  | i :: is =>
    if !i.isEvent then .refused .badInput
    else if !s.pkg.powered && !powersOn i then .fault .powerRemoved
    else ex i { s.midway ex with inputs := is }
  | [] =>
    if !s.pkg.powered then .fault .powerRemoved
    else match s.curTeam with
      | none => .next s
      | some t => (s.lowerFirst t ex).getD (s.issueTeam t ex)

/-! ### A word placed where the next step fetches (log 23) -/

/-- Address of the placed words. -/
def placeAt : Nat := 0x1000

/-- The block of the placed team: the whole of core 0 for partition 0 and context 1, its segments over the placed memory. -/
def placedBlock (s : State) : Block :=
  { Block.absent with
    id := s.nextId, ctx := 1,
    segs := (List.range 15).map (fun _ => BitVec.ofNat 128 (2 ^ 64 * 2 ^ 32)) ++
      [BitVec.ofNat 128 (placeAt + 2 ^ 64 * 0x1000)],
    rows := 64, tiles := [0, 1], launch := s.clk, mem0 := s.mem, host0 := s.host }

/-- The placed team: one team of 32 lanes in slot 0 of core 0 with all its registers. -/
def placedTeam (s : State) : Team :=
  { tid := s.nextId, blk := s.nextId, core := 0, slot := 0, lanes := 32, mask := 0xFFFF_FFFF, chunks := 8, base := 8,
    age := s.clk }

/-- A translation that covers the placed words. -/
def placedTlb : Tlb :=
  { cluster := 0, ctx := 1, part := 0, va := 0, len := 2 ^ 38, pa := 0, gpa := 0, gflags := 0xDF, hflags := 0xDF, pbmt := 0 }

/-- The partition of the placed block. -/
def placedPart : Part :=
  { id := 0, live := true, groups := 0xFFFF_FFFF,
    quotas := [(0, { slots := 16, granules := 192, rows := 982, bars := 2048 })] }

/-- Places the 16 bytes of a number, little-endian, and a team that fetches them next. -/
def State.placeCode (s : State) (w : Nat) : State :=
  let s := s.homeWrite false placeAt (leBytes 16 w)
  { s with
    inputs := [], sel := {}, teams := [placedTeam s], blocks := [placedBlock s], tlb := [placedTlb],
    ctxs := [{ id := 1, part := 0 }],
    parts := [placedPart],
    pkg := { s.pkg with powered := true }, nextId := s.nextId + 1 }

end Sys2Proof.Machine
end

