-- ==== Sys2Proof/Machine/Power.lean ====
section
/-! DEFINITION. The management island: power, throttle states, ageing and health (R16 to R20, R63, R64, R76, R77). -/

namespace Sys2Proof.Machine

/-! ### Health -/

/-- Health events as Sorrel receives them: a code and what it names. 1: port locked out (R25); 2: leaf given up (R64);
3: SCHED_FAILED (R64); 4: ISLAND_FAULT (R64); 5: node LOST (R67); 6: QUORUM_RESET (R70); 7: AGED die (R77); 8: page
retired (R99). -/
def State.healthEvent (s : State) (code arg : Nat) : State :=
  { s with pkg := { s.pkg with events := s.pkg.events ++ [(code, arg)] } }

/-- Sets a bit of health register 0x20 (R77): 0 THERMTRIP, 1 and 2 AGED_CAP, 3 QUORUM_RESET, 4 ISLAND_FAULT,
5 SCHED_FAILED. -/
def State.healthBit (s : State) (k : Nat) : State :=
  { s with pkg := { s.pkg with health := s.pkg.health ||| (1#6 <<< k) } }

/-- Whether the island runs: not while it restarts (R63). -/
def Pkg.islandUp (p : Pkg) : Bool := !(p.core 22).restarting
/-- Whether the island controls the throttle states (R63, R64). -/
def Pkg.controls (p : Pkg) : Bool := p.islandUp && !p.fallback

/-! ### Throttle states (R17 to R20) -/

/-- Lowest state that a die may descend to: FLOOR, the cap of R77 and the fallback of R64. -/
def Pkg.floorOf (p : Pkg) (die : Nat) : Nat :=
  Nat.max p.floor.toNat (Nat.max (if p.agedCap.contains die then 1 else 0) (if p.fallback then 2 else 0))

/-- State that a die is in or has been told to enter. -/
def Pkg.target (p : Pkg) (die : Nat) : Nat :=
  match mget 0 p.pend die with
  | 0 => mget 0 p.th die
  | n + 1 => n

/-- The island decides a die's state; FREQUENCY_CHANGE puts it into force (R19). -/
def Pkg.decideState (p : Pkg) (die st : Nat) : Pkg :=
  if st = p.target die then p else { p with pend := mset 0 p.pend die (st + 1) }

/-- One state up: slower. -/
def Pkg.up (p : Pkg) (die : Nat) : Pkg := p.decideState die (Nat.min 3 (p.target die + 1))
/-- One state down for a die above its floor that the 105 °C rule does not hold. -/
def Pkg.down (p : Pkg) (die : Nat) : Pkg :=
  if p.floorOf die < p.target die && !p.hot.contains die then p.decideState die (p.target die - 1) else p
/-- A die below its floor goes to it. -/
def Pkg.lift (p : Pkg) (die : Nat) : Pkg :=
  if p.target die < p.floorOf die then p.decideState die (p.floorOf die) else p

/-- The judgement of R18 on the average package power. DESIGN CHOICE (log 123): while the island waits its 1 ms it judges
nothing, a cap that has been lowered meanwhile (R20) included; that is judged when the wait has ended. -/
def Pkg.judge (p : Pkg) (now : Nat) : Pkg :=
  if now < p.capWait then p
  else if p.capW.toNat < p.pkgW.toNat then
    let acts := [0, 1].any fun d => decide (p.target d < 3)
    { (p.up 0).up 1 with capped := p.capped || acts, capWait := now + 1000000, lowSince := none }
  else if 100 * p.pkgW.toNat < 94 * p.capW.toNat then
    match p.lowSince with
    | none => { p with lowSince := some now }
    | some t => if t + 10000000 ≤ now then { (p.down 0).down 1 with lowSince := some now } else p
  else { p with lowSince := none }

/-- POWER_SAMPLE (R18): the average power in W and the hottest junction of each die. -/
def execPowerSample (pkgW : Nat) (temp : List Nat) (s : State) : Out :=
  if !s.pkg.islandUp then .next s
  else
    let p := { s.pkg with pkgW := BitVec.ofNat 16 (Nat.min pkgW 0xFFFF),
                          tempMax := BitVec.ofNat 8 (Nat.min 255 (temp.foldl Nat.max 0)) }
    .next { s with pkg := if p.controls then p.judge s.timeNs else p }

/-- Dies that a rail's fast-trip affects (R18). DESIGN CHOICE (log 114): VDD_AON affects none. -/
def railDies : Rail → List Nat
  | .cmp0 => [0]
  | .cmp1 => [1]
  | .mem | .iod => [0, 1]
  | .aon => []

/-- The one move up that a fast-trip asks of the island: it waits for an island that restarts (R63), and one that does not
control the throttle makes none (R64) (log 24). -/
def Pkg.tripUp (p : Pkg) (die : Nat) : Pkg :=
  if p.controls then p.up die
  else if p.fallback then p
  else { p with fastWait := mset 0 p.fastWait die (Nat.min 3 (mget 0 p.fastWait die + 1)) }

/-- RAIL_FAST_TRIP (R18): the comparators act even while the island restarts; the move of the state is the island's. -/
def execRailFastTrip (r : Rail) (s : State) : Out :=
  let p := (railDies r).foldl (fun (p : Pkg) d =>
    ({ p with pause := mset 0 p.pause d (s.timeNs + 2000) }).tripUp d) { s.pkg with fasttrip := true }
  .next { s with pkg := p }

/-- The 105 °C rule acts: the die is in TH3 (R18). -/
def Pkg.enter3 (p : Pkg) (die : Nat) : Pkg :=
  { p with th := mset 0 p.th die 3, pend := mset 0 p.pend die 0, thermal := true }

/-- JUNCTION_105C (R18): the die enters TH3 at once; while the island does not control the throttle it holds its state, and
the move waits (R63, R64). -/
def execJunction105 (die : Nat) (s : State) : Out :=
  let p := { s.pkg with hot := if s.pkg.hot.contains die then s.pkg.hot else die :: s.pkg.hot }
  .next { s with pkg := if p.controls then p.enter3 die else p }

/-- `n` moves up. -/
def Pkg.ups (die : Nat) : Nat → Pkg → Pkg
  | 0, p => p
  | n + 1, p => Pkg.ups die n (p.up die)

/-- The island takes up the moves that have waited for it: of the 105 °C rule, else of fast-trips and up to the floor (R18, R20,
R63). -/
def Pkg.recover (p : Pkg) : Pkg :=
  let q := [0, 1].foldl (fun (p : Pkg) d =>
    if p.hot.contains d then (if mget 0 p.th d = 3 ∧ mget 0 p.pend d = 0 then p else p.enter3 d)
    else (Pkg.ups d (mget 0 p.fastWait d) p).lift d) p
  { q with fastWait := [] }

/-- JUNCTION_BELOW_95C (R18): a die held in TH3 leaves it, one state down (log 24). -/
def execJunctionBelow95 (die : Nat) (s : State) : Out :=
  let p := s.pkg
  if !p.hot.contains die then .next s
  else
    let p := { p with hot := p.hot.filter (· != die) }
    .next { s with pkg := if p.controls then p.down die else p }

/-- THERMTRIP (R18): the island removes package power and records it. -/
def execThermtrip (die : Nat) (s : State) : Out :=
  let s := if die < 2 then s.healthBit 0 else s
  .next { s with pkg := { s.pkg with powered := if die < 2 then false else s.pkg.powered } }

/-- FREQUENCY_CHANGE (R19): a decided state comes into force; no access is lost, repeated or reordered. Of two dies that must
move die 0 is the first (R18), and while the island restarts neither moves (R63). -/
def execFrequencyChange (die : Nat) (s : State) : Out :=
  let p := s.pkg
  match mget 0 p.pend die with
  | 0 => .next s
  | n + 1 =>
    if !p.islandUp || (die == 1 && mget 0 p.pend 0 != 0) then .next s
    else .next { s with pkg := { p with th := mset 0 p.th die n, pend := mset 0 p.pend die 0 } }

/-- CAP_W as it is stored (R19). -/
def clampCap (v : Nat) : Nat := Nat.max 1200 (Nat.min 2600 v)

/-- A write of the power cap register (R19, R20). -/
def State.writeCap (s : State) (v : Nat) : State :=
  let p := { s.pkg with capW := BitVec.ofNat 16 (clampCap (bits v 15 0)), floor := BitVec.ofNat 2 (bits v 17 16) }
  { s with pkg := if p.controls then (p.lift 0).lift 1 else p }
/-- POWER_CAP_WRITE -/
def execPowerCapWrite (v : BitVec 32) (s : State) : Out := .next (s.writeCap v.toNat)

/-- THROTTLE_CONTROL_RESUME (R64): after 10 s without a trip the island controls the throttle again, from TH2; a higher FLOOR
and a die that is still hot keep what R18 and R20 give them. -/
def execThrottleControlResume (s : State) : Out :=
  let p := s.pkg
  if !p.fallback || !p.islandUp || s.timeNs < (p.core 22).upSince + 10000000000 then .next s
  else
    let p := { p with fallback := false, fastWait := [] }
    let from2 (p : Pkg) (d : Nat) : Pkg := if p.hot.contains d then p else p.decideState d (Nat.max 2 (p.floorOf d))
    .next { s with pkg := (from2 (from2 p 0) 1).recover }

/-! ### Ageing (R76, R77) -/

/-- Ageing of a cluster. -/
def Pkg.age (p : Pkg) (c : Nat) : Ageing := mget {} p.ageing c

/-- One GUARD_BAND_STEP: at most 5 mV toward the new value. -/
def guardStep (now new : Nat) : Nat := if now < new then Nat.min new (now + 5) else Nat.max new (now - 5)

/-- The steps of a guard band to its new value; each changes neither the clock nor the work. -/
def guardSteps (new : Nat) : Nat → Nat → Nat
  | 0, now => now
  | n + 1, now => guardSteps new n (guardStep now new)

/-- Takes the readings of one cluster. -/
def Pkg.measure (p : Pkg) (r : AgeReading) : Pkg :=
  let a : Ageing := { slow := r.slow, life := r.life,
                      guard_ := BitVec.ofNat 8 (guardSteps r.guard.toNat 52 (p.age r.cluster).guard_.toNat) }
  { p with ageing := mset {} p.ageing r.cluster a }

/-- Whether a die's largest guard band exceeds 60 mV. -/
def Pkg.aged (p : Pkg) (die : Nat) : Bool :=
  (List.range 10).any fun i => decide (60 < (p.age (10 * die + i)).guard_.toNat)

/-- AGED_CAP of a die, with its health event (R77). -/
def State.capAged (s : State) (die : Nat) : State :=
  if s.pkg.aged die && !s.pkg.agedCap.contains die then
    let s := (s.healthBit (1 + die)).healthEvent 7 die
    let p := { s.pkg with agedCap := s.pkg.agedCap ++ [die] }
    { s with pkg := if p.controls then p.lift die else p }
  else s

/-- AGEING_MEASURE (R76) -/
def execAgeingMeasure (rs : List AgeReading) (s : State) : Out :=
  if !s.pkg.islandUp then .next s
  else
    let p := (rs.filter fun r => decide (r.cluster < 20)).foldl Pkg.measure s.pkg
    .next ((({ s with pkg := p }).capAged 0).capAged 1)

/-! ### Health registers (R77) -/

/-- Time that a die has spent in a state, with the present one. -/
def Pkg.spent (p : Pkg) (die st : Nat) : Nat := mget 0 p.residency (4 * die + st)

/-- Percent of the time since boot in a state; how it is rounded is free (log 14). -/
def State.percent (s : State) (die st : Nat) : Nat :=
  let t := ((List.range 4).map (s.pkg.spent die)).sum
  if t = 0 then 0 else (100 * s.pkg.spent die st + (Config.healthReading (4 * die + st)).toNat % t) / t

/-- A health register (R77); an offset that the table does not list reads 0. -/
def State.healthReg (s : State) (off : Nat) : Nat :=
  let p := s.pkg
  if off = 0 then p.hours + s.timeNs / 3600000000000
  else if off = 0x10 ∨ off = 0x14 then
    let d := (off - 0x10) / 4
    ((List.range 4).map fun k => Nat.min 255 (s.percent d k) * 2 ^ (8 * k)).sum
  else if off = 0x20 then p.health.toNat
  else if 0x100 ≤ off ∧ off < 0x100 + 4 * 23 ∧ off % 4 = 0 then (p.core ((off - 0x100) / 4)).trips.toNat
  else if 0x200 ≤ off ∧ off < 0x200 + 4 * 24 ∧ off % 4 = 0 then (alookup {} p.ports ((off - 0x200) / 4)).lockouts.toNat
  else if off = 0x300 then p.leafFailed.foldl (fun a c => a ||| 2 ^ c) 0
  else if 0x400 ≤ off ∧ off < 0x400 + 4 * 20 ∧ off % 4 = 0 then
    let a := p.age ((off - 0x400) / 4)
    a.slow.toNat * 2 ^ 24 + a.guard_.toNat * 2 ^ 16 + a.life.toNat
  else 0

end Sys2Proof.Machine
end

