-- ==== Sys2Proof/Machine/Collective.lean ====
section
/-! DEFINITION. The collective engines: completion, agreement and failure (R27 to R31, R55, R416). -/

namespace Sys2Proof.Machine

/-- PKG_ID of this package (R68): the first 8 bytes of the digest of its identity public key, as R3 reads them. -/
def ownId : BitVec 64 := BitVec.ofNat 64 (leNat ((sha512 (edPublic Config.identitySeed)).take 8))

/-! ### The canonical tree (R28, R29) -/

/-- The floating format of a collective's type, if it has one. -/
def collFmt (ty : Nat) : Option Fmt :=
  match ty with | 0 => some f64 | 1 => some f32 | 2 => some f16 | 3 => some bf16 | _ => none

/-- Format in which a floating type is combined: binary32 for the 16-bit types. -/
def collWork (f : Fmt) : Fmt := if f.eb = 11 then f64 else f32

/-- One combination of two codes in the working format; the left operand is that of the lower rank. -/
def collOp (ty opn a b : Nat) : Nat :=
  match collFmt ty with
  | some f =>
    let w := collWork f
    let x := w.dec a; let y := w.dec b
    match opn with
    | 0 => w.rne (Fl.add .rn x y)
    | 1 => w.rne (fminNum x y)
    | _ => w.rne (fmaxNum x y)
  | none =>
    let n := 8 * collBytes ty
    let v (c : Nat) : Int := if ty = 5 ∨ ty = 7 then (c : Int) else sextInt n c
    match opn with
    | 0 => (a + b) % 2 ^ n
    | 1 => if v a ≤ v b then a else b
    | _ => if v a ≤ v b then b else a

/-- One level of the tree: neighbours combine, and a last value alone passes up. -/
def collLevel (op : Nat → Nat → Nat) : List Nat → List Nat
  | a :: b :: r => op a b :: collLevel op r
  | l => l

/-- The levels of the tree: as many as halve the list to one value. -/
def collTree (op : Nat → Nat → Nat) : Nat → List Nat → Nat
  | 0, l => l.headD 0
  | n + 1, l => match l with
    | [] => 0
    | [a] => a
    | l => collTree op n (collLevel op l)

/-- The reduction of one element's contributions in rank order (R28): a 16-bit type is combined in binary32 and rounded once
at the root. -/
def collReduce (ty opn : Nat) (xs : List Nat) : Nat :=
  match collFmt ty with
  | some f =>
    if f.eb + f.fb = 15 then
      f.rne ((collWork f).dec (collTree (collOp ty opn) xs.length (xs.map fun c => (collWork f).rne (f.dec c))))
    else collTree (collOp ty opn) xs.length xs
  | none => collTree (collOp ty opn) xs.length xs

/-! ### Instances -/

/-- Elements of a little-endian array. -/
def elemsOf (n : Nat) : Nat → List Byte → List Nat
  | 0, _ => []
  | k + 1, bs => leNat (bs.take n) :: elemsOf n k (bs.drop n)

/-- A local instance as it stands to the home: none when its team is gone. -/
def State.collEnv (s : State) (c : CollInst) : Option Env :=
  match s.team? c.tid, s.block? c.blk with
  | some t, some b => some { s := s, t := t, b := b }
  | _, _ => none

/-- What a check of a local range answers: its translated pieces, with the address. -/
def State.collRange (s : State) (c : CollInst) (write : Bool) (n : Nat) :
    State × Except (Option MFault) (Nat × List (Phys × Nat)) :=
  match s.collEnv c with
  | none => (s, .error none)
  | some e =>
    let (g, k, off) := if write then (c.dseg, c.dnum, c.doff) else (c.sseg, c.snum, c.soff)
    match segAddr g k off.toInt 0 n write false with
    | none => (s, .error (some { cause := .segLimit }))
    | some va =>
      match s.translateAll { e.who with user := !c.smode } (if write then .engWrite else .engRead) (pieces va (n + 1) n) with
      | (s, .error f) => (s, .error (some f))
      | (s, .ok ps) => (s, .ok (va, ps))

/-- A local rank with its instance, its source bytes and its destination, or the failure that it met. -/
structure CollLocal where
  c : CollInst
  src : List Nat
  dst : Nat
  ps : List (Phys × Nat)
  bad : Option (Option MFault)
  /-- the failure is that of the destination -/
  atDst : Bool
  deriving DecidableEq, Repr

/-- Checks and reads a local instance. -/
def State.collRead (s : State) (ranks : Nat) (c : CollInst) : State × CollLocal :=
  let n := collBytes c.ty.toNat
  let reads := c.kind != 2 || c.rank == 0
  let (s, src) := if reads then s.collRange c false (n * c.sourceCount ranks) else (s, .ok (0, []))
  match src with
  | .error f => (s, { c := c, src := [], dst := 0, ps := [], bad := some f, atDst := false })
  | .ok (_, ps) =>
    let xs := elemsOf n (if reads then c.sourceCount ranks else 0) (ps.flatMap fun (p, k) => s.homeRead false p.pa k)
    match s.collRange c true (n * c.count.toNat) with
    | (s, .error f) => (s, { c := c, src := xs, dst := 0, ps := [], bad := some f, atDst := true })
    | (s, .ok (va, ps)) => (s, { c := c, src := xs, dst := va, ps := ps, bad := none, atDst := false })

/-- Checks and reads every local instance. -/
def State.collReads (s : State) (ranks : Nat) : List CollInst → State × List CollLocal
  | [] => (s, [])
  | c :: r =>
    let (s, x) := s.collRead ranks c
    let (s, xs) := s.collReads ranks r
    (s, x :: xs)

/-- Element `j` of the result that a rank receives (R416). -/
def collResult (kind opn ty count : Nat) (srcs : List (List Nat)) (rank j : Nat) : Nat :=
  match kind with
  | 2 => (srcs.headD []).getD j 0
  | 1 => collReduce ty opn (srcs.map fun l => l.getD (rank * count + j) 0)
  | _ => collReduce ty opn (srcs.map fun l => l.getD j 0)

/-- Bytes that a rank receives. -/
def collBytesFor (c : CollInst) (srcs : List (List Nat)) : List Byte :=
  (List.range c.count.toNat).flatMap fun j =>
    leBytes (collBytes c.ty.toNat)
      (collResult c.kind.toNat c.opn.toNat c.ty.toNat c.count.toNat srcs c.rank j)

/-- Writes a destination in its aligned 4 KiB chunks (R31); `f` gives what each chunk, from its final bytes, takes. -/
def State.collWrite (s : State) (ctx : Nat) (va : Nat) (f : Nat → List Byte → Option (List Byte)) :
    Nat → List Byte → List (Phys × Nat) → State
  | 0, _, _ => s
  | n + 1, bs, ps =>
    if bs.isEmpty then s
    else
      let k := Nat.min bs.length (4096 - va % 4096)
      let (here, rest) := splitPieces k ps
      let s := match f (va / 4096) (bs.take k) with
        | some x => s.writeHomePieces ctx false (x.take k) here
        | none => s
      s.collWrite ctx (va + k) f n (bs.drop k) rest
where
  /-- The pieces of the first `k` bytes, and the rest; a chunk ends at a piece's end. -/
  splitPieces : Nat → List (Phys × Nat) → List (Phys × Nat) × List (Phys × Nat)
  | _, [] => ([], [])
  | k, (p, m) :: r => if k = 0 then ([], (p, m) :: r) else
      let (a, b) := splitPieces (k - m) r
      ((p, m) :: a, b)

/-- Ends an instance: its batch, failed with a fault or not. -/
def State.collEnd (s : State) (c : CollInst) (bad : Option (DWord × DWord)) : State :=
  let s := match bad with | some (f, a) => s.failOp c.tid c.k c.op f a | none => s
  s.endOp c.tid c.k c.op

/-- Removes instances from their group. -/
def State.collDrop (s : State) (handle : BitVec 32) (ops : List Nat) : State :=
  { s with groups := s.groups.map fun (g : Group) =>
      if g.handle == handle then { g with insts := g.insts.filter fun (c : CollInst) => !ops.contains c.op } else g }

/-- Ranks of a group on this package. -/
def Group.localRanks (g : Group) : List Nat := (g.members.filter fun m => m.2.1 == ownId).map Prod.fst

/-- The oldest instance of each local rank; none while one is missing. -/
def Group.heads (g : Group) : Option (List CollInst) :=
  g.localRanks.mapM fun r => g.insts.find? fun (c : CollInst) => c.rank == r

/-- KIND, OPN, TYPE and COUNT of an instance. -/
def CollInst.shape (c : CollInst) : BitVec 2 × BitVec 2 × BitVec 4 × BitVec 32 := (c.kind, c.opn, c.ty, c.count)

/-- INFO and EADDR that the wait of a failed instance reads: those of its own fault, 0 otherwise (R416). -/
def CollLocal.failure (l : CollLocal) : DWord × DWord :=
  match l.bad with
  | some (some f) => (infoOf (if l.atDst then l.c.dnum else l.c.snum) 0 (Config.infoField 0 % 8)
                        (if l.atDst then 5 else 4) f, BitVec.ofNat 64 f.va)
  | _ => (0, 0)

/-- COLL_COMPLETE (R416): the k-th instance of every rank combine. `remote` is what the ranks of other packages bring. DESIGN CHOICE
(log 26): where a source fails, be it that of a rank here or on another package, no chunk is written. -/
def execCollComplete (handle : BitVec 32) (remote : List CollRemote) (s : State) : Out :=
  match s.groups.find? fun (g : Group) => g.handle == handle with
  | none => .next s
  | some g =>
    let far := (g.members.filter fun m => m.2.1 != ownId).map Prod.fst
    match g.heads, far.mapM fun r => remote.find? fun (c : CollRemote) => c.rank == r with
    | some hs, some fs =>
      if !g.complete || hs.isEmpty then .next s
      else
        let ops := hs.map CollInst.op
        let shapes := hs.map CollInst.shape ++ fs.map fun c => (c.kind, c.opn, c.ty, c.count)
        let drop (s : State) := s.collDrop handle ops
        if shapes.any fun x => shapes.any fun y => x != y then
          .next (drop (hs.foldl (fun (s : State) c => s.collEnd c (some unstatedFault)) s))
        else
          let (s, ls) := s.collReads g.ranks hs
          let held (l : CollLocal) : Bool := match l.bad with
            | some (some f) => f.cause == .guestPageFault
            | _ => false
          if ls.any held then .next (s.notify g.part .guestPageFault)
          else
            let own (r : Nat) : List Nat := match ls.find? fun (l : CollLocal) => l.c.rank == r with
              | some l => l.src
              | none => ((fs.find? fun (c : CollRemote) => c.rank == r).map CollRemote.elems).getD []
            let srcs := (List.range g.ranks).map own
            let fails := ls.any (fun l => l.bad.isSome) || fs.any CollRemote.fails
            let unread := ls.any (fun l => l.bad.isSome && !l.atDst) || fs.any CollRemote.fails
            let one (s : State) (l : CollLocal) : State :=
              let bs := collBytesFor l.c srcs
              let land (k : Nat) (x : List Byte) : Option (List Byte) :=
                if !fails then some x
                else if unread then none
                else if Config.collChunk s.tick l.c.rank k then some x else none
              let s := if l.bad.isNone then s.collWrite l.c.ctx l.dst land (bs.length + 1) bs l.ps else s
              s.collEnd l.c (if fails then some l.failure else none)
            .next (drop (ls.foldl one s))
    | _, _ => .next s

/-- Source elements of a rank as a collective that ends early knows them: those of a local rank, and free ones of a rank on
another package (log 26). -/
def State.knownSource (s : State) (g : Group) (ls : List CollLocal) (c : CollInst) (r : Nat) : List Nat :=
  match ls.find? fun (l : CollLocal) => l.c.rank == r with
  | some l => l.src
  | none => (List.range (c.sourceCount g.ranks)).map fun j =>
      (Config.collElem s.tick r j).toNat % 2 ^ (8 * collBytes c.ty.toNat)

/-- The destination chunks of the instances that a lost link has caught: each is unchanged or holds its final value (R31). -/
def State.collPartial (s : State) (g : Group) (hs : List CollInst) : State :=
  let (s', ls) := s.collReads g.ranks hs
  if !g.complete || ls.any (fun l => l.bad.isSome) || hs.any (fun x => hs.any fun y => x.shape != y.shape) then s
  else ls.foldl (fun (s : State) (l : CollLocal) =>
    let bs := collBytesFor l.c ((List.range g.ranks).map (s.knownSource g ls l.c))
    s.collWrite l.c.ctx l.dst (fun k x => if Config.collChunk s.tick l.c.rank k then some x else none) (bs.length + 1) bs l.ps) s'

/-- Numbers of COLLs that some local rank has issued on a group: all lower ones. -/
def Group.begun (g : Group) : Nat := (g.issued.map Prod.snd).foldl Nat.max g.lostTo

/-- Every instance of a group on this package ends with LINK_LOST, and no chunk has been written (R27, R55); so will the COLLs of
slower ranks that would combine with them (R31). -/
def State.collFail (s : State) (g : Group) : State :=
  let s := (g.insts.foldl (fun (s : State) c => s.collEnd c (some unstatedFault)) s).collDrop g.handle (g.insts.map CollInst.op)
  { s with groups := s.groups.map fun (x : Group) => if x.handle == g.handle then { x with lostTo := x.begun } else x }

/-- Every instance of a group on this package ends with LINK_LOST while it runs (R27, R31): of the instances that every local
rank has issued, chunks may have been written. -/
def State.collLost (s : State) (g : Group) : State :=
  (match g.heads with | some hs => s.collPartial g hs | none => s).collFail g

/-- COLL_GROUP_TIMEOUT (R55): a group not complete 1 s after its first COLL fails every batch here. DESIGN CHOICE (log 97): a
COLL issued after that begins another 1 s. -/
def execCollGroupTimeout (handle : BitVec 32) (s : State) : Out :=
  match s.groups.find? fun (g : Group) => g.handle == handle with
  | none => .next s
  | some g => if g.complete || g.insts.isEmpty || s.timeNs < g.since + 1000000000 then .next s else .next (s.collFail g)

/-- COLL_GROUP_COMPLETE (R55) -/
def execCollGroupComplete (handle : BitVec 32) (s : State) : Out :=
  .next { s with groups := s.groups.map fun (g : Group) => if g.handle == handle then { g with complete := true } else g }

/-- Ends the instances of a group with LINK_LOST in the state that an instruction answers. -/
def lost (handle : BitVec 32) (o : Out) : Out :=
  match o with
  | .next s => .next (match s.groups.find? fun (g : Group) => g.handle == handle with
      | some g => s.collFail g
      | none => s)
  | o => o

/-- Ends one instance with LINK_LOST in the state that an instruction answers: those of the other ranks have ended so (R31). -/
def ends (handle : BitVec 32) (c : CollInst) (o : Out) : Out :=
  match o with
  | .next s => .next ((s.collEnd c (some unstatedFault)).collDrop handle [c.op])
  | o => o

/-- Whether a port to a package carries traffic (R24, R26). -/
def Pkg.reaches (p : Pkg) (nb : BitVec 64) : Bool :=
  p.ports.any fun (q : Nat × Port) => (q.2.state == 3 || q.2.state == 5) && q.2.neighbour == some nb

/-- Whether a rank of a group lies on a package that no port reaches (R27). -/
def State.cutOff (s : State) (g : Group) : Bool := g.members.any fun m => m.2.1 != ownId && !s.pkg.reaches m.2.1

/-- COLL (R415): a request to a package that no port reaches completes with LINK_LOST at once (R27) (log 75). -/
def execColl (f : FV) (w2 : BitVec 64) (s : State) : Out :=
  issue (.coll f w2) s fun e => e.system (.coll f w2) <|
    match e.collGroup f (e.collInst f w2) with
    | none => e.trapTeam (.coll f w2) .descInvalid
    | some g =>
      let c := { e.collInst f w2 with n := mget 0 g.issued (e.collInst f w2).rank }
      let s := e.target (e.source e.s)
      let up (x : Group) : Group := if x.handle = g.handle then
          { x with insts := x.insts ++ [c], issued := mset 0 x.issued c.rank (c.n + 1),
                   since := if x.insts.isEmpty && !x.complete then s.timeNs else x.since } else x
      let s := { s with groups := s.groups.map up, nextId := s.nextId + 1 }
      let k := e.t.counters.getD c.k {}
      let out := ({ e with s := s }).done (.coll f w2)
        { e.t with counters := e.t.counters.set c.k { k with opened := k.opened ++ [c.op] } } none
      if s.cutOff g then lost g.handle out else if c.n < g.lostTo then ends g.handle c out else out

end Sys2Proof.Machine
end

