-- ==== Sys2Proof/Machine/Links.lean ====
section
/-! DEFINITION. Swevis ports, bundles and the heartbeat quorum (R22 to R27, R68 to R70). -/

namespace Sys2Proof.Machine

/-! ### Flits (R22, R23) -/

/-- A flit from its fields. -/
def mkFlit (kind vc : BitVec 4) (seq ack : BitVec 8) (payload : BitVec 208) : BitVec 256 :=
  let f : BitVec 256 := kind ++ vc ++ seq ++ ack ++ payload ++ 0#24
  f ||| BitVec.ofNat 256 (flitCrc f)

/-- KIND -/
def flitKind (f : BitVec 256) : BitVec 4 := f.extractLsb' 252 4
/-- VC -/
def flitVc (f : BitVec 256) : BitVec 4 := f.extractLsb' 248 4
/-- SEQ -/
def flitSeq (f : BitVec 256) : BitVec 8 := f.extractLsb' 240 8
/-- ACK -/
def flitAck (f : BitVec 256) : BitVec 8 := f.extractLsb' 232 8
/-- PAYLOAD -/
def flitPayload (f : BitVec 256) : BitVec 208 := f.extractLsb' 24 208
/-- A flit that a receiver takes: its CRC holds and its KIND and VC are not reserved. -/
def flitOk (f : BitVec 256) : Bool :=
  (f.extractLsb' 0 24).toNat == flitCrc f && decide ((flitKind f).toNat < 8) && decide ((flitVc f).toNat < 4)

/-- A port by number. -/
def Pkg.port (p : Pkg) (k : Nat) : Port := alookup {} p.ports k
/-- Replaces a port. -/
def Pkg.putPort (p : Pkg) (k : Nat) (q : Port) : Pkg := { p with ports := aput p.ports k q }
/-- Whether a port carries traffic (R24). -/
def Port.carries (q : Port) : Bool := q.state == 3 || q.state == 5

/-- One waiting flit goes out, where its channel has a credit and fewer than 128 flits are unacknowledged. -/
def Port.sendOne (q : Port) (credit : Nat → Bool) : Port :=
  match q.waiting.find? fun w => credit w.2.1.toNat with
  | some w =>
    if q.carries && q.unacked.length < 128 then
      { q with waiting := q.waiting.erase w, txSeq := q.txSeq + 1,
               unacked := q.unacked ++ [mkFlit w.1 w.2.1 q.txSeq q.rxSeq w.2.2] }
    else q
  | none => q

/-- Waiting flits go out as far as they can. -/
def Port.pump (q : Port) (credit : Nat → Bool) : Nat → Port
  | 0 => q
  | n + 1 => (q.sendOne credit).pump credit n

/-- Replaces a port after sending what it can. -/
def State.putPort (s : State) (k : Nat) (q : Port) : State :=
  { s with pkg := s.pkg.putPort k (q.pump (Config.hasCredit s.tick k) q.waiting.length) }

/-- Flits delivered that the other end may not know acknowledged, once it has taken a flit that acknowledges `seq`. -/
def Port.known (q : Port) (seq : BitVec 8) : Port :=
  if q.fresh.any fun x => x.1 == seq then { q with fresh := (q.fresh.dropWhile fun x => x.1 != seq).drop 1 } else q

/-- An acknowledgement removes the flits up to it; the other end has then taken what the last of them acknowledges. -/
def Port.acked (q : Port) (ack : BitVec 8) : Port :=
  match q.unacked.find? fun f => flitSeq f == ack with
  | some f => ({ q with unacked := (q.unacked.dropWhile fun f => flitSeq f != ack).drop 1, replays := 0 } : Port).known (flitAck f)
  | none => q

/-- Content of a flit: KIND, VC and payload. -/
def flitBody (f : BitVec 256) : BitVec 4 × BitVec 4 × BitVec 208 := (flitKind f, flitVc f, flitPayload f)

/-- Whether a flit is the replay of one that another port of the bundle had delivered when it left traffic: it is then not
delivered again (R26) (log 110). -/
def State.replayOf (s : State) (q : Port) (f : BitVec 256) : Bool :=
  (q.neighbour.elim false fun nb => s.pkg.replayed.contains (nb, flitBody f)) && Config.isReplay s.tick

/-- FLIT_RECEIVE (R23): a bad flit is discarded and counted; a flit out of turn is a replay and is dropped; any other is
delivered once, in SEQ order. -/
def execFlitReceive (port : Nat) (flit : BitVec 256) (s : State) : Out :=
  let q := s.pkg.port port
  if 24 ≤ port || !q.carries then .next s
  else if !flitOk flit then
    .next { s with pkg := s.pkg.putPort port { q with crcErr := if q.crcErr = 255 then 255 else q.crcErr + 1 } }
  else
    let q := q.acked (flitAck flit)
    if flitSeq flit ≠ q.rxSeq + 1 then .next (s.putPort port q)
    else
      let again := s.replayOf q flit
      let q : Port := { q with rxSeq := flitSeq flit, fresh := q.fresh ++ [(flitSeq flit, flitBody flit)],
                               delivered := if flitKind flit = 0 || again then q.delivered else q.delivered ++ [flitBody flit] }
      let nb := q.neighbour.getD 0
      let s := if again then { s with pkg := { s.pkg with replayed := s.pkg.replayed.erase (nb, flitBody flit) } } else s
      .next (s.putPort port q)

/-! ### Port states (R24 to R27) -/

/-- Fails what still waits for a package that no port reaches any more (R27). -/
def State.linkLost (s : State) (nb : BitVec 64) : State :=
  if s.pkg.reaches nb then s
  else (s.groups.filter fun (g : Group) => g.members.any fun m => m.2.1 == nb).foldl State.collLost s

/-- Ports of the bundle to a package that carry traffic: all ports that join the same two packages are one bundle (log 27). -/
def Pkg.bundle (p : Pkg) (nb : BitVec 64) : List (Nat × Port) :=
  p.ports.filter fun (r : Nat × Port) => r.2.carries && r.2.neighbour == some nb

/-- The port of a bundle that takes a message: traffic is spread over those that carry it (R26) (log 109). -/
def State.bundlePort (s : State) (nb : BitVec 64) : Option (Nat × Port) :=
  let ps := s.pkg.bundle nb
  ps[Config.bundlePort s.tick % ps.length]?

/-- A port that carries no traffic gives its flits to another port of its bundle, and what it has delivered may come again there
(R26). Both ends do so, and its numbers start again (log 109). -/
def State.moveTraffic (s : State) (port k : Nat) (nb : BitVec 64) : State :=
  let q := s.pkg.port port
  let p := s.pkg.putPort port { q with unacked := [], waiting := [], fresh := [], txSeq := 0, rxSeq := 0xFF, replays := 0 }
  let s := { s with pkg := { p with replayed := p.replayed ++ q.fresh.map fun (x : BitVec 8 × BitVec 4 × BitVec 4 × BitVec 208) => (nb, x.2) } }
  let r := s.pkg.port k
  s.putPort k { r with waiting := r.waiting ++ q.unacked.map flitBody ++ q.waiting }

/-- A port stops carrying traffic: its flits go to another port of the bundle (R26), or nothing reaches the neighbour (R27) and
they wait until a port of the bundle carries traffic again. -/
def State.leaveTraffic (s : State) (port : Nat) : State :=
  match (s.pkg.port port).neighbour with
  | none => s
  | some nb =>
    match s.bundlePort nb with
    | some (k, _) => s.moveTraffic port k nb
    | none => s.linkLost nb

/-- A port begins to carry traffic: what waits at ports of its bundle that carry none goes to it (R26). -/
def State.enterTraffic (s : State) (port : Nat) : State :=
  match (s.pkg.port port).neighbour with
  | none => s
  | some nb =>
    let idle := s.pkg.ports.filter fun (r : Nat × Port) => r.1 != port && !r.2.carries && r.2.neighbour == some nb &&
      !(r.2.unacked.isEmpty && r.2.waiting.isEmpty && r.2.fresh.isEmpty)
    (idle.map Prod.fst).foldl (fun (s : State) k => s.moveTraffic k port nb) s

/-- Counts an entry to DOWN; the third within one second locks the port out (R25). -/
def State.noteDown (s : State) (port : Nat) : State :=
  let q := s.pkg.port port
  let ds := (q.downs.filter fun t => decide (s.timeNs < t + 1000000000)) ++ [s.timeNs]
  if 3 ≤ ds.length then
    let n := if q.lockouts = 0xFFFF_FFFF then q.lockouts else q.lockouts + 1
    let q : Port := { q with downs := [], locked := true, lockouts := n }
    ({ s with pkg := s.pkg.putPort port q }).healthEvent 1 port
  else { s with pkg := s.pkg.putPort port { q with downs := ds } }

/-- Moves a port to a state with lanes in use. -/
def State.portTo (s : State) (port : Nat) (st lanes : BitVec 4) : State :=
  let q := s.pkg.port port
  let left := q.carries && !(st == 3 || st == 5)
  let q' : Port := { q with state := st, lanes := lanes, carried := if left then some s.timeNs else q.carried,
                            retrains := if st = 4 then (if q.retrains = 255 then 255 else q.retrains + 1) else q.retrains,
                            replays := 0 }
  let s := s.putPort port q'
  let s := if left then s.leaveTraffic port else if !q.carries && q'.carries then s.enterTraffic port else s
  if st = 1 then s.noteDown port else s

/-- The two lowest lanes of a set. -/
def twoLowest (lanes : BitVec 4) : BitVec 4 :=
  (((List.range 4).filter fun k => lanes.getLsbD k).take 2).foldl (fun a k => a ||| (1#4 <<< k)) 0

/-- A port after training with the lanes that trained (R24). -/
def State.trained (s : State) (port : Nat) (lanes : BitVec 4) : State :=
  let n := ((List.range 4).filter fun k => lanes.getLsbD k).length
  if n = 4 then s.portTo port 3 lanes else if 2 ≤ n then s.portTo port 5 (twoLowest lanes) else s.portTo port 1 0

/-- FLIT_REPLAY (R23, R24): the unacknowledged flits go out again; RETRY_LIMIT replays of one flit enter RETRAIN. -/
def execFlitReplay (port : Nat) (s : State) : Out :=
  let q := s.pkg.port port
  if 24 ≤ port || !q.carries || q.unacked.isEmpty then .next s
  else if Nat.max 1 q.retryLimit.toNat ≤ q.replays + 1 then .next (s.portTo port 4 0)
  else .next { s with pkg := s.pkg.putPort port { q with replays := q.replays + 1 } }

/-- PORT_PARTNER_DETECT (R24): a locked-out port stays DOWN (R25). SEQ and ACK go on where the partner is the one before, and
start again with another (log 109). -/
def execPortPartnerDetect (port : Nat) (nb : BitVec 64) (s : State) : Out :=
  let q := s.pkg.port port
  if 24 ≤ port || q.state != 1 || q.locked then .next s
  else
    let q : Port := if q.neighbour = some nb then q
      else { q with neighbour := some nb, unacked := [], waiting := [], fresh := [], txSeq := 0, rxSeq := 0xFF, replays := 0 }
    .next (({ s with pkg := s.pkg.putPort port q }).portTo port 2 0)

/-- PORT_TRAIN_RESULT (R24) -/
def execPortTrainResult (port : Nat) (lanes : BitVec 4) (s : State) : Out :=
  if (s.pkg.port port).state != 2 then .next s else .next (s.trained port lanes)
/-- PORT_RETRAIN_RESULT (R24) -/
def execPortRetrainResult (port : Nat) (lanes : BitVec 4) (s : State) : Out :=
  if (s.pkg.port port).state != 4 then .next s else .next (s.trained port lanes)

/-- PORT_LANE_LOSS (R24) -/
def execPortLaneLoss (port lane : Nat) (s : State) : Out :=
  let q := s.pkg.port port
  if !q.carries || !q.lanes.getLsbD lane then .next s
  else if q.state = 3 then .next (s.portTo port 5 (twoLowest (q.lanes &&& ~~~(1#4 <<< lane))))
  else .next (s.portTo port 1 0)

/-- A write of ENABLE (R24, R25) (log 83). -/
def State.writeEnable (s : State) (port : Nat) (v : Bool) : State :=
  let q := s.pkg.port port
  let s := { s with pkg := s.pkg.putPort port { q with enable := v, locked := false } }
  if !v then s.portTo port 0 0 else if q.state = 0 then s.portTo port 1 0 else s
/-- PORT_ENABLE_WRITE -/
def execPortEnableWrite (port : Nat) (v : Bool) (s : State) : Out :=
  if 24 ≤ port then .next s else .next (s.writeEnable port v)

/-- A write of RETRAIN (R24). -/
def State.writeRetrain (s : State) (port : Nat) (v : Bool) : State :=
  if v && (s.pkg.port port).carries then s.portTo port 4 0 else s
/-- PORT_RETRAIN_WRITE -/
def execPortRetrainWrite (port : Nat) (v : Bool) (s : State) : Out :=
  if 24 ≤ port then .next s else .next (s.writeRetrain port v)

/-- Port status word (R25). -/
def Port.status (q : Port) : Nat :=
  q.state.toNat * 2 ^ 24 + q.lanes.toNat * 2 ^ 20 + q.retrains.toNat * 2 ^ 8 + q.crcErr.toNat
/-- PORT_STATUS_READ (R25): RETRAINS and CRC_ERR clear. -/
def execPortStatusRead (port : Nat) (s : State) : Out :=
  if 24 ≤ port then .next s
  else
    let q := s.pkg.port port
    let p := s.pkg.putPort port { q with retrains := 0, crcErr := 0 }
    .next { s with pkg := { p with readVal := BitVec.ofNat 64 q.status } }

/-! ### The heartbeat quorum (R68 to R70) -/

/-- The scheduler core in charge: 0, or the standby once it has taken over (R64). -/
def Pkg.schedCore (p : Pkg) : Nat := if p.standbyActive then 1 else 0
/-- Whether shares are given: the scheduler core runs (R63, R64). -/
def Pkg.schedUp (p : Pkg) : Bool := !p.schedOff && !(p.core p.schedCore).restarting && !(p.core p.schedCore).off

/-- Packages that ports carrying traffic reach now, each once. -/
def Pkg.reached (p : Pkg) : List (BitVec 64) :=
  ((p.ports.filter fun (q : Nat × Port) => q.2.carries).filterMap fun q => q.2.neighbour).dedup

/-- Neighbours (R69): packages with a port that has carried traffic within the last second. -/
def Pkg.neighbourIds (p : Pkg) (now : Nat) : List (BitVec 64) :=
  ((p.ports.filter fun (q : Nat × Port) => q.2.carries || (match q.2.carried with
    | some t => decide (now < t + 1000000000)
    | none => false)).filterMap fun q => q.2.neighbour).dedup

/-- Sends a message in flits of 26 bytes, padded with zeros, on a port of the bundle to a package (R26). -/
def State.sendTo (s : State) (nb : BitVec 64) (kind vc : BitVec 4) (bs : List Byte) : State :=
  match s.bundlePort nb with
  | none => s
  | some (k, q) =>
    let parts := (List.range (ceilDiv bs.length 26)).map fun i =>
      (kind, vc, BitVec.ofNat 208 (leNat ((bs.drop (26 * i)).take 26)))
    s.putPort k { q with waiting := q.waiting ++ parts }

/-- Heartbeat payload (R68). -/
def Pkg.beatBytes (p : Pkg) : List Byte :=
  leBytes 8 ownId.toNat ++ leBytes 8 p.hbEpoch.toNat ++ leBytes 4 p.hbBeat.toNat ++ leBytes 6 0

/-- HEARTBEAT_SEND (R68): a new HB_PERIOD takes effect at the beat. -/
def execHeartbeatSend (s : State) : Out :=
  if !s.pkg.hbEnable || !s.pkg.schedUp then .next s
  else
    let s' := s.pkg.reached.foldl (fun (s : State) nb => s.sendTo nb 5 3 s.pkg.beatBytes) s
    .next { s' with pkg := { s'.pkg with hbBeat := s'.pkg.hbBeat + 1, hbForce := s'.pkg.hbPeriod } }

/-- Replaces the entry of a neighbour, or adds it. -/
def Pkg.putNeighbour (p : Pkg) (n : Neighbour) : Pkg :=
  { p with neighbours := if p.neighbours.any (fun (m : Neighbour) => m.pkg == n.pkg)
      then p.neighbours.map fun (m : Neighbour) => if m.pkg == n.pkg then n else m else p.neighbours ++ [n] }
/-- Entry of a neighbour. -/
def Pkg.neighbour (p : Pkg) (id : BitVec 64) : Neighbour :=
  (p.neighbours.find? fun (m : Neighbour) => m.pkg == id).getD { pkg := id }

/-- HEARTBEAT_RECEIVE (R68) -/
def execHeartbeatReceive (payload : List Byte) (s : State) : Out :=
  if !s.pkg.hbEnable || payload.length != 26 then .next s
  else
    let id := BitVec.ofNat 64 (fieldOf payload 0 8)
    .next { s with pkg := s.pkg.putNeighbour { s.pkg.neighbour id with
      epoch := BitVec.ofNat 64 (fieldOf payload 8 8), beat := BitVec.ofNat 32 (fieldOf payload 16 4), missed := 0,
      beatAt := s.timeNs } }

/-- Reset request without its signature (R69). -/
def Pkg.requestBytes (p : Pkg) (n : Neighbour) : List Byte :=
  leBytes 2 1 ++ leBytes 2 108 ++ leBytes 8 ownId.toNat ++ leBytes 8 n.pkg.toNat ++ leBytes 8 n.epoch.toNat ++
  leBytes 8 p.nonceCtr.toNat ++ leBytes 8 n.beat.toNat

/-- Beat period in ns: the HB_PERIOD in force, between 1 ms and 1,000 ms (R68). -/
def Pkg.beatPeriod (p : Pkg) : Nat := 1000000 * Nat.max 1 (Nat.min 1000 p.hbForce.toNat)

/-- Whether no beat of a package has come within 1.5 HB_PERIOD of the previous one, a missed one counting from when it was due
(R69) (log 115). -/
def Pkg.beatLate (p : Pkg) (n : Neighbour) (now : Nat) : Bool :=
  n.beatAt != 0 && decide (2 * n.beatAt + 3 * p.beatPeriod ≤ 2 * now)

/-- BEAT_MISSED (R69): the third in a row sends one signed reset request, by an island that runs (R63). -/
def execBeatMissed (pkg : BitVec 64) (s : State) : Out :=
  let n := s.pkg.neighbour pkg
  if !s.pkg.hbEnable || !s.pkg.islandUp || !(s.pkg.neighbourIds s.timeNs).contains pkg || !s.pkg.beatLate n s.timeNs then .next s
  else
    let n := { n with missed := n.missed + 1, beatAt := n.beatAt + s.pkg.beatPeriod }
    let p := s.pkg.putNeighbour n
    if n.missed ≠ 3 then .next { s with pkg := p }
    else
      let p := { p with nonceCtr := p.nonceCtr + 1 }
      let m := p.requestBytes n
      .next (({ s with pkg := p }).sendTo pkg 7 3 (m ++ edSign Config.identitySeed m))

/-- Whether X's island accepts a reset request (R70). -/
def Pkg.accepts (p : Pkg) (m : List Byte) : Bool :=
  let n := p.neighbour (BitVec.ofNat 64 (fieldOf m 4 8))
  m.length == 108 && fieldOf m 0 2 == 1 && fieldOf m 2 2 == 108 && fieldOf m 12 8 == ownId.toNat &&
    fieldOf m 20 8 == p.hbEpoch.toNat && decide (n.ctr.toNat < fieldOf m 28 8) &&
    edVerify n.key (m.take 44) (m.drop 44)

/-- Accepted requests of the last 100 ms from more than half of the neighbours. -/
def Pkg.quorum (p : Pkg) (now : Nat) : Bool :=
  let ns := p.neighbourIds now
  let votes := ns.filter fun id => match (p.neighbour id).reset with
    | some t => decide (now ≤ t + 100000000)
    | none => false
  decide (ns.length < 2 * votes.length)

end Sys2Proof.Machine
end

