-- ==== Sys2Proof/Machine/Halt.lean ====
section
/-! DEFINITION. Halting and resuming blocks and gangs, time slices, and the waits that end by pre-emption (R73, R87, R93, R94,
R126, R129, R130, R136, R172, R201, R216 to R224, R374). -/

namespace Sys2Proof.Machine

/-! ### Room on a core (R91, R126) -/

/-- The part of a range that another keeps. -/
def meetRange (a n b m : Nat) : Nat × Nat := (Nat.max a b, Nat.min (a + n) (b + m) - Nat.max a b)

/-- The quota inside which leaves place: while a resize runs, what the target keeps of the present one (R91). -/
def Part.placeQuota (p : Part) (core : Nat) : Quota :=
  let q := p.quota core
  if p.state = .idle then q
  else
    let t : Quota := alookup {} p.tQuotas core
    let sl := meetRange q.slot0 q.slots t.slot0 t.slots
    let rw := meetRange q.row0 q.rows t.row0 t.rows
    let br := meetRange q.bar0 q.bars t.bar0 t.bars
    { slot0 := sl.1, slots := sl.2, granules := Nat.min q.granules t.granules, row0 := rw.1, rows := rw.2,
      bar0 := br.1, bars := br.2 }

/-- Blocks on a core. -/
def State.onCore (s : State) (core : Nat) : List Block := s.blocks.filter fun b => b.core == core && b.saved.isNone

/-- Lowest-addressed free run of `n` rows inside a range. -/
def lowestRun (used : List (Nat × Nat)) (lo hi n : Nat) : Option Nat :=
  let ok (r : Nat) : Bool := decide (lo ≤ r) && decide (r + n ≤ hi) &&
    used.all fun u => u.2 == 0 || decide (r + n ≤ u.1) || decide (u.1 + u.2 ≤ r)
  ((lo :: used.map fun u => u.1 + u.2).filter ok).foldl (fun (best : Option Nat) r => match best with
    | some b => some (Nat.min b r)
    | none => some r) none

/-- What a block needs on a core. -/
structure Need where
  slots : Nat
  granules : Nat
  rows : Nat
  tiles : Nat
  deriving DecidableEq, Repr

/-- What the dispatcher carves for a block: the lowest of each kind (R126). -/
structure Carve where
  slots : List Nat
  row0 : Nat
  bar0 : Nat
  tiles : List Nat
  deriving DecidableEq, Repr

/-- Carves what a block needs from a partition's quota on a core; none where it does not fit. The VGROW reserve is never
placed into (R126, R130). -/
def State.carve (s : State) (part core : Nat) (n : Need) : Option Carve :=
  let q := (s.part part).placeQuota core
  let bs := s.onCore core
  let used := (s.teams.filter fun t => t.resident && t.core == core).map Team.slot
  let slots := ((List.range q.slots).map (q.slot0 + ·)).filter fun k => !used.contains k
  let wins := ((List.range (q.bars / 128)).map fun k => q.bar0 + 128 * k).filter fun w => !bs.any fun b =>
    decide (b.bar0 < w + 128) && decide (w < b.bar0 + 128)
  let held := bs.flatMap Block.tiles
  let tiles := (List.range 16).filter fun k => !held.contains k
  match lowestRun (bs.map fun b => (b.row0, b.allRows)) q.row0 (q.row0 + q.rows) n.rows, wins with
  | some r, w :: _ =>
    if Config.enable.getLsbD core && decide (core < 160) && decide (1 ≤ q.slots) && decide (n.slots ≤ slots.length) &&
        decide (n.tiles ≤ tiles.length) &&
        decide (s.granulesUsed core part + s.reserve core part + n.granules ≤ q.granules) then
      some { slots := slots.take n.slots, row0 := r, bar0 := w, tiles := tiles.take n.tiles }
    else none
  | _, _ => none

/-- The `n` lowest private indices that are free in a partition (R172). -/
def State.freePix (s : State) (part n : Nat) : List Nat :=
  let used := (s.teams.filter fun t => (s.blockOf t).part == part).map Team.pix
  (((List.range (used.length + n)).filter fun k => !used.contains k).take n).filter fun k => decide (k < 65536)

/-- Zeroes the rows and tiles that another context held last, and notes their new holder (R87). -/
def State.handOver (s : State) (core ctx : Nat) (row0 rows : Nat) (tiles : List Nat) : State :=
  let other := (List.range rows).filter fun k => mget 0 (s.coreSt core).rowCtx (row0 + k) != ctx
  let s := other.foldl (fun (s : State) k => s.cleanSpad core (384 * (row0 + k)) 384) s
  let c := s.coreSt core
  let c := other.foldl (fun (c : CoreSt) k =>
    let r := row0 + k
    { c with spad := mclear c.spad (384 * r) 384, rowCtx := mset 0 c.rowCtx r ctx }) c
  let c := tiles.foldl (fun (c : CoreSt) p =>
    if mget 0 c.tileCtx p = ctx then c
    else { c with cells := mclear c.cells (4096 * p) 4096, tileCtx := mset 0 c.tileCtx p ctx }) c
  s.putCore core c

/-! ### Halting (R217, R218, R220, R224) -/

/-- A load in flight as a load packet. -/
def Flight.packet (f : Flight) : Packet :=
  { pc := f.pc, dst := f.dst, word := f.word, size := f.size, space := f.space, pol := f.pol, lanes := f.lanes, addr := f.addr,
    fmt := f.fmt }

/-- A trap entry that waits for its window is abandoned: the pending lanes meet the instruction again at resumption
(log 45). -/
def Team.abandon (t : Team) (r : Raise) : Team :=
  if r.cause.isAsync then
    { t with status := .ready, async := { cause := r.cause, pc := r.pc, insn := r.insn, lanes := r.lanes, va := r.va,
                                          info := r.info, eaddr := r.eaddr, k := r.k } :: t.async }
  else
    let (m, h) := t.restore.getD (t.mask, t.helper)
    let t := { t with status := .ready, pc := r.resume, packets := r.packets ++ t.packets,
                      cursor := if r.packets.isEmpty then 0 else t.cursor,
                      table := if r.packets.isEmpty then none else t.table }
    if r.full then { t with mask := m, helper := h, restore := none }
    else { t with mask := r.pending, helper := h &&& r.pending, restore := some (m, h) }

/-- A team halts: a region resumes at its start, GEN counts, and the loads still due become packets. -/
def Team.halt (t : Team) : Team :=
  let open_ := t
  let t := match t.status with | .window r _ => t.abandon r | _ => t
  let t := match t.region with | some g => { t with pc := g.start, mid := none } | none => t
  { t with region := none, latches := [], gen := t.gen + 1, resident := false, flights := [],
           packets := (t.flights.filter fun f => f.gen == t.gen && !open_.inOpen f).map Flight.packet ++ t.packets }

/-- Locks that move with a block: those on its own bytes, and those of its operations outside a scratchpad. -/
def Block.locksOf (b : Block) (l : Lock) : Bool :=
  if l.space = 1 then l.owner == b.id else l.blk == b.id

/-- Cells and tags of a block by its own tile numbers. -/
def CoreSt.tileImage (c : CoreSt) (tiles : List Nat) : Map (BitVec 36) × BitVec 128 × BitVec 128 :=
  let cells := tiles.zipIdx.flatMap fun (x : Nat × Nat) =>
    (mslice c.cells (4096 * x.1) 4096).map fun e => (e.1 + 4096 * x.2, e.2)
  let tags (v : BitVec 128) : BitVec 128 := tiles.zipIdx.foldl (fun (a : BitVec 128) (x : Nat × Nat) =>
    (List.range 8).foldl (fun a k => putTag a x.2 k (tagAt v x.1 k)) a) 0
  (cells, tags c.tagV, tags c.tagC)

/-- Places an image of cells and tags into physical tiles. -/
def CoreSt.putTiles (c : CoreSt) (tiles : List Nat) (v : SaveArea) : CoreSt :=
  tiles.zipIdx.foldl (fun (c : CoreSt) (x : Nat × Nat) =>
    let c := { c with cells := mput c.cells (4096 * x.1) 4096 (mslice v.cells (4096 * x.2) 4096) }
    (List.range 8).foldl (fun (c : CoreSt) k => c.tag x.1 k (tagAt v.tagV x.2 k) (tagAt v.tagC x.2 k)) c) c

/-- The last block of its context to leave a core takes the count and the slots of sampling with it; the blocks saved there before
it, which have the same counter, keep them too (R73, R74). -/
def State.shareCount (s : State) (b : Block) (v : SaveArea) : State :=
  { s with blocks := s.blocks.map fun x =>
      if x.core == b.core && x.ctx == b.ctx then
        { x with saved := x.saved.map fun (y : SaveArea) =>
            { y with smpRes := v.smpRes, smpPer := v.smpPer, smpSlot := v.smpSlot, smpHalf := v.smpHalf } }
      else x }

/-- Halts a block on its core and saves it (R217, R224). -/
def State.haltBlock (s : State) (b : Block) (migrating : Bool) (replay : List Remote) : State :=
  let ts := s.teams.filter fun t => t.blk == b.id && t.resident
  let s := ts.foldl (fun (s : State) (t : Team) => s.sourceOf t.tid t.core t.slot b.ctx true) s
  let s := ts.foldl (fun (s : State) (t : Team) => let (s, t) := s.landFixed t; s.putTeam t) s
  let s := s.dropLoads fun n => ts.any fun t => t.tid == n
  let c := s.coreSt b.core
  let (cells, tagV, tagC) := c.tileImage b.tiles
  let inWin (n : Nat) : Bool := decide (b.bar0 ≤ n) && decide (n < b.bar0 + 128)
  let stays := s.teams.any fun t => t.resident && t.core == b.core && t.blk != b.id && (s.blockOf t).ctx == b.ctx
  let v : SaveArea :=
    { spad := mslice c.spad (384 * b.row0) (384 * b.allRows), bars := mslice c.spad (barAddr b.bar0) 1024, cells := cells,
      tagV := tagV, tagC := tagC, locks := c.locks.filter b.locksOf, ops := c.ops.filter fun o => o.blk == b.id,
      remote := (c.remote.filter inWin).map fun n => n - b.bar0, replay := replay,
      smpRes := mget 0 c.smpLeft b.ctx, smpPer := mget 0 c.smpPer b.ctx,
      smpSlot := mget 15 (s.ctx b.ctx).smpSlot b.core,
      smpHalf := mslice (s.ctx b.ctx).smpHalf (16 * b.core) 16, clk := s.clk - b.launch, halted := s.clk,
      migrating := migrating }
  let c := { c with locks := c.locks.filter fun l => !b.locksOf l, ops := c.ops.filter fun o => o.blk != b.id,
                    remote := c.remote.filter fun n => !inWin n,
                    gens := (ts.map Team.slot).dedup.foldl (fun (m : Map Nat) k => mset 0 m k ((mget 0 m k + 1) % 16)) c.gens }
  let c := if stays then c else { c with smpLeft := mset 0 c.smpLeft b.ctx 0, smpPer := mset 0 c.smpPer b.ctx 0 }
  let s := (s.putCore b.core c).putBlock { b with saved := some v }
  let s := if stays then s else s.shareCount b v
  ({ s with teams := s.teams.map fun t => if t.blk == b.id && t.resident then t.halt else t } : State).storeSave b v

/-- Members of a gang in ascending %gang. -/
def State.gangBlocks (s : State) (gid : Nat) : List Block :=
  (List.range 8).filterMap fun j => s.blocks.find? fun b => b.gangN != 0 && b.gangId == gid && b.gang == j

/-- Halts a gang as a unit: its remote writes on their way are applied first, or captured by their senders (R220). -/
def State.haltGang (s : State) (gid : Nat) (applied migrating : Bool) : State :=
  let ms := s.gangBlocks gid
  let ids := ms.map Block.id
  let s := if applied then s.flushRemote fun r => ids.contains r.src else s
  let q := s.remoteQ
  let s := { s with remoteQ := q.filter fun r => !ids.contains r.src }
  ms.foldl (fun (s : State) (b : Block) =>
    if b.saved.isSome then s else s.haltBlock b migrating (q.filter fun r => r.src == b.id)) s

/-- Pre-empts a block: a gang goes as a unit. -/
def State.preempt (s : State) (b : Block) : State :=
  if b.gangN = 0 then s.haltBlock b false [] else s.haltGang b.gangId true false

/-- GANG_HALT (R220) -/
def execGangHalt (gang : Nat) (applied : Bool) (s : State) : Out := .next (s.haltGang gang applied false)

/-! ### Resuming (R201, R219, R222, R223, R374) -/

/-- What a saved block needs: the slots and granules of its teams, its rows and its tiles. -/
def State.needOf (s : State) (b : Block) : Need :=
  let ts := s.teams.filter fun t => t.blk == b.id
  { slots := (ts.map Team.slot).dedup.length, granules := teamGranules ts, rows := b.allRows,
    tiles := b.tiles.length }

/-- Reads an operation's format block and tables again, for a block with `nt` tiles; contents that fail R377 fail its batch (R374).
A read that fails leaves what was captured and fails the batch too (log 17). -/
def State.rereadFmt (s : State) (w : Who) (nt : Nat) (o : EngOp) : EngOp :=
  if o.fmt.isEmpty then o
  else
    let rd (va n : Nat) : Option (List Byte) :=
      match (s.readHomeVa { w with user := !o.smode } .read (va % 2 ^ 48) n).2 with | .ok bs => some bs | .error _ => none
    match rd o.c.toNat 32 with
    | none => { o with badFmt := true }
    | some bs =>
      let o := { o with fmt := bs }
      let tab (second : Bool) : Option (List Byte) :=
        if o.tabAt second = 0 then some [] else rd (o.tabAt second) 256
      let bad := (o.pair && decide (nt ≤ o.tile + 1)) || if o.isMma then o.mmaBad else o.mdrainBad
      match tab false, tab true with
      | some ta, some tb =>
        { o with tabA := ta, tabB := tb,
                 badFmt := o.badFmt || bad || (!ta.isEmpty && !tableOk ta) || (!tb.isEmpty && !tableOk tb) }
      | _, _ => { o with badFmt := true }

/-- The wake of a team parked in AWAITV: its destination takes the word (R357). -/
def State.awaitvDone (s : State) (t : Team) (x dst width : Nat) (lanes : Lanes) (obt : Bool) : State :=
  let s := if obt then s.targetEnd t.core (s.blockOf t).ctx false else s
  s.putTeam ((t.putRun dst lanes (atomRuns (width == 8) fun _ => x)).wake 16)

/-- Ends an AWAITV park whose word differs from the value it waits on. -/
def State.awaitvTry (s : State) (t : Team) : State :=
  match t.status with
  | .awaitv space a n v dst lanes obt =>
    let x := s.watched space a n
    if x = v.toNat then s else s.awaitvDone t x dst n lanes obt
  | _ => s

/-- LAST_SLOT and the HALF bits go on where a block alone in its context resumes (R74). -/
def State.resumeSampling (s : State) (ctx core : Nat) (v : SaveArea) : State :=
  let c := s.ctx ctx
  s.putCtx { c with smpSlot := mset 15 c.smpSlot core v.smpSlot, smpHalf := mput c.smpHalf (16 * core) 16 v.smpHalf }

/-- Restores a saved block into what has been carved on a core (R201, R219, R223). -/
def State.restoreInto (s : State) (b : Block) (v : SaveArea) (core : Nat) (cv : Carve) : State :=
  let ts := s.teams.filter fun t => t.blk == b.id
  let old := sortNat (ts.map Team.slot).dedup
  let slotOf (k : Nat) : Nat := ((old.zip cv.slots).find? fun x => x.1 == k).elim 0 Prod.snd
  let alone := !s.teams.any fun t => t.resident && t.core == core && (s.blockOf t).ctx == b.ctx
  let b' := { b with core := core, row0 := cv.row0, bar0 := cv.bar0, tiles := cv.tiles, saved := none }
  let s := s.handOver core b.ctx cv.row0 b.allRows cv.tiles
  let w : Who := { tid := 0, core := core, slot := 0, ctx := b.ctx, part := b.part, user := true }
  let c := s.coreSt core
  let c := { c with spad := mput (mput c.spad (384 * cv.row0) (384 * b.allRows) v.spad) (barAddr cv.bar0) 1024 v.bars,
                    locks := c.locks ++ v.locks, ops := c.ops ++ v.ops.map (s.rereadFmt w b.tiles.length),
                    remote := v.remote.map (cv.bar0 + ·) ++ c.remote.filter fun n =>
                      !(decide (cv.bar0 ≤ n) && decide (n < cv.bar0 + 128)) }
  let c := c.putTiles cv.tiles v
  let c := if alone then { c with smpLeft := mset 0 c.smpLeft b.ctx v.smpRes, smpPer := mset 0 c.smpPer b.ctx v.smpPer } else c
  let s := ((((s.putCore core c).cleanSpad core (384 * cv.row0) (384 * b.allRows)).cleanSpad core (barAddr cv.bar0) 1024).putBlock b')
  let s := if alone then s.resumeSampling b.ctx core v else s
  let up (t : Team) : Team :=
    if t.blk == b.id then { t with core := core, slot := slotOf t.slot, resident := true, age := s.clk,
                                   gen := s.slotGen core (slotOf t.slot) } else t
  let s := { s with teams := s.teams.map up }
  let s := if core = b.core then s else s.targetEnd core b.ctx true
  (s.teams.filter fun t => t.blk == b.id).foldl State.awaitvTry s

/-- Whether a context has work on a core: a block there, a block saved from its cluster, a continuation, or a record that
waits (R221). -/
def State.hasWork (s : State) (part core ctx : Nat) : Bool :=
  s.blocks.any (fun b => b.part == part && b.ctx == ctx &&
    (if b.saved.isSome then b.core / 8 == core / 8 else b.core == core)) ||
  s.conts.any (fun c => c.part == part && c.ctx == ctx) ||
  s.nodes.any fun n => n.num / 2 ^ 20 == part && n.status == .valid && pktCtx n.pkt == ctx &&
    n.queue.any fun (q : QEntry) => q.block.isNone

/-- Whether a context may be placed on a core now: its slice runs, or the context whose slice runs has no work there. -/
def State.sliceOpen (s : State) (part core ctx : Nat) : Bool :=
  let sc := mget 0 (s.coreSt core).sliceCtx part
  sc == 0 || sc == ctx || !s.hasWork part core sc

/-- The slice of a core is a context's from now on. -/
def State.takeSlice (s : State) (part core ctx : Nat) : State :=
  let c := s.coreSt core
  s.putCore core { c with sliceCtx := mset 0 c.sliceCtx part ctx }

/-- Carves room for a block of a context on the first core of a list that has it. -/
def State.firstRoom (s : State) (part ctx : Nat) (n : Need) : List Nat → Option (Nat × Carve)
  | [] => none
  | core :: r =>
    match if s.sliceOpen part core ctx then s.carve part core n else none with
    | some cv => some (core, cv)
    | none => s.firstRoom part ctx n r

/-- Cores of a cluster. -/
def clusterCores (c : Nat) : List Nat := (List.range 8).map (8 * c + ·)

/-- Resumes a saved block on the first core of a list with room. -/
def State.resumeOn (s : State) (b : Block) (cores : List Nat) : Option State :=
  match b.saved with
  | none => none
  | some v => (s.firstRoom b.part b.ctx (s.needOf b) cores).map fun (core, cv) =>
      (s.restoreInto b v core cv).takeSlice b.part core b.ctx

/-- Restores members of a gang on distinct cores of a list; none where one finds no room. -/
def State.resumeMembers (s : State) : List Block → List Nat → Option State
  | [], _ => some s
  | b :: bs, cores =>
    match b.saved, s.firstRoom b.part b.ctx (s.needOf b) cores with
    | some v, some (core, cv) =>
      ((s.restoreInto b v core cv).takeSlice b.part core b.ctx).resumeMembers bs (cores.filter (· != core))
    | _, _ => none

/-- Resumes the saved members of a gang together, then applies the replay packets: senders in ascending %gang, each in send
order, before any member issues (R94, R220). -/
def State.resumeGang (s : State) (gid : Nat) (cores : List Nat) : Option State :=
  let ms := (s.gangBlocks gid).filter fun b => b.saved.isSome
  let busy := (s.gangBlocks gid).filterMap fun b => if b.saved.isSome then none else some b.core
  let rp := ms.flatMap fun b => match b.saved with | some v => v.replay | none => []
  (s.resumeMembers ms (cores.filter fun c => !busy.contains c)).map fun s => rp.foldl State.applyRemote s

/-! ### Time slices (R221) -/

/-- Contexts of a partition. -/
def State.ctxsOf (s : State) (part : Nat) : List Nat :=
  sortNat ((s.ctxs.filter fun (c : Ctx) => c.part == part).map Ctx.id)

/-- The next context in round-robin after one, among those with work on a core. -/
def State.roundRobin (s : State) (part core out : Nat) : Option Nat :=
  let cs := (s.ctxsOf part).filter fun c => c != out && s.hasWork part core c
  match cs.find? fun c => decide (out < c) with
  | some c => some c
  | none => cs.head?

/-- The context that last wrote a watched word of 4 or 8 bytes (R221). -/
def State.writerOf (s : State) (space a n : Nat) : Option Nat :=
  (s.writers.find? fun (w : Writer) => w.chip == (space == 3) && decide (a / 4 * 4 ≤ w.pa) && decide (w.pa < a + n)).map
    Writer.ctx

/-- The context whose slice comes next on a core (R221). The last writer of a word in a scratchpad is the block's own context: no
other reaches it (log 130). -/
def State.nextSlice (s : State) (part core out : Nat) : Option Nat :=
  let ts := s.teams.filter fun t => t.resident && t.core == core && (s.blockOf t).ctx == out
  let parked := !ts.isEmpty && ts.all fun t => match t.status with | .await | .awaitv .. => true | _ => false
  let writer := if parked then
      (ts.filterMap fun t => match t.status with
        | .awaitv space a n _ _ _ _ => if space = 1 then some out else s.writerOf space a n
        | _ => none).find? fun c => (s.ctx c).part == part && s.hasWork part core c
    else none
  match writer with
  | some c => some c
  | none => s.roundRobin part core out

/-- The context whose slice runs on a core of a partition. -/
def State.sliceNow (s : State) (part core : Nat) : Nat :=
  match mget 0 (s.coreSt core).sliceCtx part with
  | 0 => ((s.onCore core).find? fun b => b.part == part).elim 0 Block.ctx
  | n => n

/-- TIME_SLICE_END (R221): the outgoing context's blocks on the core are halted and saved, and the next context takes the
core; with no other context at work there the slice goes on. A last writer may be the outgoing context itself. -/
def execTimeSliceEnd (core part : Nat) (s : State) : Out :=
  let out := s.sliceNow part core
  match s.nextSlice part core out with
  | none => .next s
  | some c =>
    let bs := (s.onCore core).filter fun b => b.part == part && b.ctx == out
    .next ((bs.foldl (fun (s : State) (b : Block) =>
      match s.block? b.id with
      | some b => if b.saved.isSome then s else s.preempt b
      | none => s) s).takeSlice part core c)

/-! ### Waits that end by pre-emption (R129, R130, R136) -/

/-- The most recently started block of a partition on a core that `sel` selects. -/
def State.latestBlock (s : State) (part core : Nat) (sel : Block → Bool) : Option Block :=
  ((s.onCore core).filter fun b => b.part == part && sel b).foldl (fun (best : Option Block) b => match best with
    | some x => if x.launch ≤ b.launch then some b else some x
    | none => some b) none

/-- HANDLER_WINDOW_TIMEOUT (R136): after 10 µs of waiting, the most recently started other block of the partition on the
core is pre-empted; the lowest unfinished block of a grid never for another block of its grid (R112). -/
def execHandlerWindowTimeout (core slot half : Nat) (s : State) : Out :=
  match s.teamAt core slot half with
  | none => .next s
  | some t =>
    match t.status with
    | .window _ since =>
      if s.timeNs < since + 10000 then .next s
      else
        let own := s.blockOf t
        match s.latestBlock own.part core fun b => b.id != t.blk && !(s.protected b && b.node == own.node) with
        | some b => .next (s.preempt b)
        | none => .next s
    | _ => .next s

/-- Pre-empts unprotected blocks, the most recently started first, until as many granules are free, beyond those kept for other
protected blocks, as the widest team of a protected block has mask words (R130). -/
def State.makeRoom (s : State) (t : Team) (part : Nat) : Nat → State
  | 0 => s
  | n + 1 =>
    let b := s.blockOf t
    if s.widestOf b + (s.reserve t.core part - s.reserveOf b) ≤ s.granulesFree t.core part then s
    else
      match s.latestBlock part t.core fun b => !s.protected b with
      | some b => (s.preempt b).makeRoom t part n
      | none => s

/-- Teams of a partition on a core that are parked in VGROW, in the order in which they are served: those of a protected
block first, then from the earliest clk, ties to the lower slot (R129). -/
def State.vgrowQueue (s : State) (core part : Nat) : List Team :=
  let ts := s.teams.filter fun t => t.resident && t.core == core && (s.blockOf t).part == part &&
    match t.status with | .vgrow _ => true | _ => false
  let since (t : Team) : Nat := match t.status with | .vgrow n => n | _ => 0
  let rank (t : Team) : Nat := if s.protected (s.blockOf t) then 0 else 1
  sortBy (fun a b => decide (rank a < rank b ∨
    (rank a = rank b ∧ (since a < since b ∨ (since a = since b ∧ a.slot ≤ b.slot))))) ts

/-- VGROW_GRANT (R129, R130): the first parked VGROW takes its granules when they are free. -/
def execVgrowGrant (core part : Nat) (s : State) : Out :=
  match s.vgrowQueue core part with
  | [] => .next s
  | t :: _ =>
    let s := if s.protected (s.blockOf t) && !s.canGrow t then s.makeRoom t part 16 else s
    if s.canGrow t then .next (s.putTeam (t.grow.wake 8)) else .next s

end Sys2Proof.Machine
end

