-- ==== Sys2Proof/Machine/MemoryEvents.lean ====
section
/-! DEFINITION. Events of memory, sampling and of teams that wait: returns, stores on their way, evictions, translation
invalidation, the heap window, samples, wakes (R73 to R75, R176, R181, R195, R198, R210, R216, R218, R357, R360, R406, R426). -/

namespace Sys2Proof.Machine

/-- Runs `k` on the team in a slot half; an empty one changes nothing. -/
def State.onTeam (s : State) (core slot half : Nat) (k : Team → State) : Out :=
  match s.teamAt core slot half with
  | some t => .next (k t)
  | none => .next s

/-! ### Returns (R210, R218) -/

/-- LOAD_RETURN (R218): the `n`th load in flight of a team returns. -/
def execLoadReturn (core slot half n : Nat) (s : State) : Out :=
  s.onTeam core slot half fun t =>
    if t.flights.length ≤ n then s else let (s, t) := s.landFlight t n; s.putTeam t

/-- INFO of a LINK_LOST (R183). -/
def Flight.info (f : Flight) (e : Env) : DWord := infoOf (e.segAt f.pc) f.space f.size 0 { cause := .linkLost }

/-- A load that completes with LINK_LOST: its lanes receive 0, and the cause waits for the next issue (R210)
(log 89). -/
def State.loseLoad (s : State) (t : Team) (f : Flight) : State :=
  if f.gen != t.gen then s.putTeam t
  else
    let c : AsyncCause :=
      { cause := .linkLost, pc := f.pc, insn := ((s.envOf t).codeAt f.pc).1, lanes := f.lanes &&& ~~~t.helper,
        va := (t.list f.lanes).foldl (fun (m : Map DWord) l =>
          if f.space = 0 ∧ !t.helper.getLsbD l then mset 0 m l (BitVec.ofNat 64 (mget 0 f.addr l)) else m) [],
        info := f.info (s.envOf t) }
    let t := t.land { f with vals := [] }
    s.putTeam { t with async := t.async ++ [c] }

/-- The second word and the team with 0 in the destinations of an atomic, for lanes `w` (R210); none for any other
instruction. -/
def Env.zeroAtomic (e : Env) (w : Lanes) : Instr → Option (FV × DWord × Team)
  | .atom f w2 | .acas f w2 | .awaitv f w2 =>
    some (f, w2, e.t.putRun f.d.toNat w (atomRuns (atomF f w2).wide fun _ => 0))
  | .atoms f w2 => some (f, w2, e.t.putS f.d.toNat 0)
  | .red f w2 => some (f, w2, e.t)
  | _ => none

/-- An atomic at a team's PC that completes with LINK_LOST (R27, R210): its request was for a neighbour, so nothing changes
here; its destinations receive 0 and the cause waits for the next issue (log 89). -/
def State.loseAtomic (s : State) (t : Team) : State :=
  let e := s.envOf t
  match e.fetch.2 with
  | .instr i =>
    let e : Env := { e with s := s.putTeam t.merge, t := t.merge, op := i.opcode }
    let w := e.t.actNH i.hdr
    match e.zeroAtomic (e.t.act i.hdr) i with
    | none => s
    | some (f, w2, u) =>
      let a := atomF f w2
      let u := u.closeRegion i
      let base (l : Nat) : Int := e.addrVal f.sa.toNat l
      let (_, as, fs) := e.checkLanes (fun s l => e.check s .atomic a.space a.seg (base l) a.off a.bytes)
        (fun l => (base l + a.off).toNat) e.s (e.t.list w)
      if w = 0 || a.space != 0 || t.status != .ready || (e.decodeCause i).isSome || !fs.isEmpty then s
      else
        let c : AsyncCause :=
          { cause := .linkLost, pc := e.t.pc, insn := i.word, lanes := w,
            va := as.foldl (fun (m : Map DWord) x => mset 0 m x.lane (BitVec.ofNat 64 x.addr)) [],
            info := infoOf a.seg 0 (if a.wide then 3 else 2) 2 { cause := .linkLost } }
        let u := { (u.shift none).unretry with pc := e.nextPc i, async := u.async ++ [c] }
        e.counted.putTeam u
  | _ => s

/-- LINK_LOST_RETURN (R27, R210): of the `n`th load in flight; past them, of the atomic that the team is about to issue; past it, of
an engine operation of the team. -/
def execLinkLostReturn (core slot half n : Nat) (s : State) : Out :=
  s.onTeam core slot half fun t =>
    match t.flights[n]? with
    | some f => { s with loadQ := s.loadQ.filter fun e => !e.ofFlight t f }.loseLoad (t.dropFlight n) f
    | none =>
      if n = t.flights.length then s.loseAtomic t
      else match ((s.coreSt core).ops.filter fun o => o.tid == t.tid)[n - t.flights.length - 1]? with
        | some o => s.loseOp core o
        | none => s

/-! ### Stores and lines (R193 to R195, R197, R198) -/

/-- Context of the team that issued a store. -/
def State.ctxOfTid (s : State) (tid : Nat) : Nat :=
  match s.team? tid with | some t => (s.blockOf t).ctx | none => 0

/-- Performs the stores on their way of every team that has one which `sel` selects: a team's keep their order (R197). -/
def State.flushWhere (s : State) (sel : StoreEnt → Bool) : State :=
  let go (e : StoreEnt) : Bool := s.storeQ.any fun x => x.tid == e.tid && sel x
  (s.storeQ.filter go).foldl (fun (s' : State) e => s'.perform e (s.ctxOfTid e.tid))
    { s with storeQ := s.storeQ.filter fun e => !go e }

/-- Performs the loads on their way of every team that has one which `sel` selects. -/
def State.readWhere (s : State) (sel : LoadEnt → Bool) : State :=
  s.readLoads fun e => s.loadQ.any fun x => x.tid == e.tid && sel x

/-- STORE_PERFORMED_AT_HOME (R195): the `n`th store on its way is performed at its home, unless it stays behind an earlier
one of its team (R179, R197). -/
def execStorePerformedAtHome (n : Nat) (s : State) : Out :=
  match s.storeQ[n]? with
  | some e =>
    if (s.storeQ.take n).any fun x => s.storeAfter x e then .next s
    else .next ({ s with storeQ := s.storeQ.eraseIdx n }.perform e (s.ctxOfTid e.tid))
  | none => .next s

/-- L1_EVICTION (R198): the dirty bytes of a core's `n`th line go home and the line is dropped. -/
def execL1Eviction (core n : Nat) (s : State) : Out :=
  match (s.coreSt core).l1[n]? with
  | some l =>
    let s := s.writeBack l
    let c := s.coreSt core
    .next (s.putCore core { c with l1 := c.l1.eraseIdx n })
  | none => .next s

/-! ### Invalidation of translations (R181, R414) -/

/-- Starts the invalidation of SCOPE; SCOPE 2 and 3 and a busy unit do nothing. -/
def Ctx.tlbiGo (c : Ctx) : Ctx :=
  if c.tlbiBusy || decide (2 ≤ c.tlbiScope.toNat) then c
  else { c with tlbiBusy := true, tlbiPend := some (c.tlbiScope == 1, c.tlbiVa.toNat % 2 ^ 48) }

/-- TLBI_CTL_GO (R181) -/
def execTlbiCtlGo (ctx : Nat) (s : State) : Out := .next (s.putCtx (s.ctx ctx).tlbiGo)

/-- The 4 KiB page that an invalidation names, or none for every translation. -/
def Tlb.inPage (e : Tlb) (page : Option Nat) : Bool :=
  match page with
  | none => true
  | some va => decide (e.va < va / 4096 * 4096 + 4096) && decide (va / 4096 * 4096 < e.va + e.len)

/-- The invalidations of a context in progress: that of TLBI_CTL, and those of its parked teams. -/
def State.tlbis (s : State) (ctx : Nat) : List (Option Nat) :=
  (match (s.ctx ctx).tlbiPend with | some (page, va) => [if page then some va else none] | none => []) ++
  s.teams.filterMap fun t => if (s.blockOf t).ctx == ctx then
      match t.status with | .tlbi va => some va | _ => none
    else none

/-- A cached translation without the non-leaf entries that an invalidation names. -/
def Tlb.strip (e : Tlb) (page : Option Nat) : Tlb :=
  match page with
  | none => e
  | some va => { e with path := e.path.filter fun x => e.va / 2 ^ (21 + 9 * x.1) != va / 2 ^ (21 + 9 * x.1) }

/-- Removes the translations of a context that one of a list of invalidations names, and the non-leaf entries that lead to
its page. -/
def State.dropTlb (s : State) (ctx : Nat) (ps : List (Option Nat)) : State :=
  { s with tlb := (s.tlb.filter fun e => !(e.ctx == ctx && ps.any fun p => e.inPage p)).map fun e =>
      if e.ctx == ctx then ps.foldl Tlb.strip e else e }

/-- Wakes the teams of a context that wait in TLBI. -/
def State.wakeTlbi (s : State) (ctx : Nat) : State :=
  { s with teams := s.teams.map fun t => if (s.blockOf t).ctx == ctx then
      match t.status with | .tlbi _ => t.wake 8 | _ => t
    else t }

/-- TLBI_COMPLETE (R181): every invalidation of a context completes once the accesses that used a removed entry are
performed. Where neither TLBI_CTL nor a team has started one, it is Sorrel's, of every translation (log 92). -/
def execTlbiComplete (ctx : Nat) (s : State) : Out :=
  let ps := match s.tlbis ctx with | [] => [none] | ps => ps
  let s := (s.readLoads fun e => s.ctxOfTid e.tid == ctx).flushWhere fun e => s.ctxOfTid e.tid == ctx
  let s := (s.dropTlb ctx ps).wakeTlbi ctx
  .next (s.putCtx { s.ctx ctx with tlbiBusy := false, tlbiPend := none })

/-! ### The heap window (R176) -/

/-- Whether a context has a team in a slot, in a saved block, or saved as a continuation. -/
def State.ctxAtWork (s : State) (ctx : Nat) : Bool :=
  s.teams.any (fun t => (s.blockOf t).ctx == ctx) || s.conts.any fun c => c.ctx == ctx

/-- Whether a byte range lies wholly in groups of a partition (R84). -/
def Part.ownsRange (p : Part) (a n : Nat) : Bool :=
  decide (a + n ≤ 2 ^ 39) &&
    (List.range ((a + n - 1) / 2 ^ 34 + 1 - a / 2 ^ 34)).all fun k => p.groups.getLsbD (a / 2 ^ 34 + k)

/-- Cause for which a write of HEAPCTL is refused: 0 none, 1 BUSY, 2 ALIGN, 3 RANGE, 4 GROUP. -/
def State.heapRefusal (s : State) (c : Ctx) (en : Bool) : Nat :=
  let hb := c.hb.toNat; let hl := c.hl.toNat
  if s.ctxAtWork c.id then 1
  else if !en then 0
  else if hb % 2 ^ 21 ≠ 0 ∨ hl % 2 ^ 21 ≠ 0 ∨ c.ho.toNat % 2 ^ 21 ≠ 0 then 2
  else if hl = 0 ∨ 2 ^ 48 < hb + hl then 3
  else if !(s.part c.part).ownsRange ((hb + c.ho.toNat) % 2 ^ 64) hl then 4
  else 0

/-- A write of HEAPCTL (R176). ERR keeps the cause of the last refused write (R175). -/
def State.writeHeapCtl (s : State) (c : Ctx) (v : Nat) : State :=
  match s.heapRefusal c (v.testBit 31) with
  | 0 => s.putCtx { c with heapEn := v.testBit 31 }
  | r => s.putCtx { c with heapErr := BitVec.ofNat 4 r }

/-- HEAPCTL_WRITE -/
def execHeapctlWrite (ctx : Nat) (v : BitVec 32) (s : State) : Out := .next (s.writeHeapCtl (s.ctx ctx) v.toNat)

/-! ### Stall sampling (R73 to R75, R409, R426) -/

/-- The half of a slot that is sampled, and the slot's HALF bit afterwards (R74). DESIGN CHOICE (log 121): the bit stays where an
ended half is passed over. -/
def Ctx.sampledHalf (c : Ctx) (key : Nat) (ts : List Seen) : Option Seen × Nat :=
  let h := mget 0 c.smpHalf key
  match ts.find? fun x => x.team.half == h with
  | some x => (some x, if x.team.fore then 1 - h else h)
  | none => (ts.head?, h)

/-- The teams of a context that held a slot of a core at the start of the present clk (R427). -/
def State.occupants (s : State) (core ctx : Nat) : List Seen :=
  (s.left.filter fun x => x.team.core == core && x.blk.ctx == ctx && x.team.entered != s.clk) ++
    ((s.teams.filter fun t => t.resident && t.core == core && (s.blockOf t).ctx == ctx && t.entered != s.clk).map s.seen)

/-- SAMPLE_TAKE (R73, R74, R427): once the counter has reached the period, the next occupied slot of the context is sampled. -/
def execSampleTake (core ctx : Nat) (s : State) : Out :=
  let c := s.ctx ctx
  let a := s.coreSt core
  let per := match mget 0 a.smpPer ctx with | 0 => c.period | n => n
  let left := mget 0 a.smpLeft ctx
  let ts := s.occupants core ctx
  let last := mget 15 c.smpSlot core
  let slots := sortNat (ts.map fun x => x.team.slot).dedup
  match (slots.find? fun k => decide (last < k)).orElse fun _ => slots.head? with
  | none => .next s
  | some k =>
    if !c.smpEn || left < per then .next s
    else
      let (x?, h) := c.sampledHalf (16 * core + k) (ts.filter fun x => x.team.slot == k)
      let a := { a with smpLeft := mset 0 a.smpLeft ctx (left - per), smpPer := mset 0 a.smpPer ctx 0 }
      let s := (s.putCore core a).putCtx
        { c with smpSlot := mset 15 c.smpSlot core k, smpHalf := mset 0 c.smpHalf (16 * core + k) h }
      match x? with
      | some x => .next (s.sample x.blk x.team x.pc (s.reasonOf x))
      | none => .next s

/-- SMP_CTL_WRITE (R426) -/
def execSmpCtlWrite (ctx : Nat) (v : BitVec 32) (s : State) : Out := .next (s.writeSmpCtl (s.ctx ctx) v.toNat)

/-- SMP_DROPPED_READ (R409): a read with the handler's access. -/
def execSmpDroppedRead (ctx : Nat) (s : State) : Out :=
  let (s, x) := s.readCsr (s.ctx ctx) 0x14
  .next { s with pkg := { s.pkg with readVal := x } }

/-! ### Wakes (R216, R357, R360, R406) -/

/-- AWAITV_WAKE (R357): the word is read again, and a new value ends the park. -/
def execAwaitvWake (core slot half : Nat) (s : State) : Out :=
  s.onTeam core slot half fun t => s.awaitvTry t

/-- BARW_WAKE (R360): a team whose phase has passed goes on, after the target end. -/
def execBarwWake (core slot half : Nat) (s : State) : Out :=
  s.onTeam core slot half fun t =>
    match t.status with
    | .barrier k p =>
      let b := s.blockOf t
      if (s.bar core (b.bar0 + k)).phase != p then (s.barTarget core b.ctx (b.bar0 + k)).putTeam (t.wake 8) else s
    | _ => s

/-- COWSLIP_CONTINUE (R406): a team that Cowslip holds goes on at the next instruction. -/
def execCowslipContinue (core slot half : Nat) (s : State) : Out :=
  s.onTeam core slot half fun t => if t.byCowslip then s.putTeam (t.wake 8) else s

/-- A team that Sorrel releases as a retry (R214, R216). -/
def Team.release (t : Team) (tr : TrapState) : Team :=
  let t := { t with status := .ready, hold := none, stall := 0, pc := tr.resume, mid := tr.mid,
                    packets := tr.packets ++ tr.later ++ t.packets }
  if tr.full then { t with mask := tr.mask, helper := tr.helper }
  else { t with mask := tr.pending, helper := tr.helper &&& tr.pending, restore := some (tr.mask, tr.helper),
                cursor := tr.cursor, table := tr.table }

/-- GUEST_FAULT_RESUME (R216) (log 78) -/
def execGuestFaultResume (core slot half : Nat) (retry : Bool) (s : State) : Out :=
  s.onTeam core slot half fun t =>
    match t.hold with
    | some tr => if retry then s.putTeam (t.release tr) else s.abortBlock (s.blockOf t)
    | none => s

end Sys2Proof.Machine
end

