-- ==== Sys2Proof/Machine/Resize.lean ====
section
/-! DEFINITION. The resize state machine of a partition (R87 to R99, R184). -/

namespace Sys2Proof.Machine

/-! ### What a partition holds -/

/-- Slices that a partition holds: those of before REHASH leave it at RELEASE (R91). -/
def Part.heldSlices (p : Part) : BitVec 128 := p.slices ||| p.oldSlices
/-- Slices that a partition holds, or that the target of its running resize gives it: no other may take them (R81). -/
def Part.claimedSlices (p : Part) : BitVec 128 := p.heldSlices ||| (if p.state = .idle then 0 else p.tSlices)
/-- Channel groups that a partition holds, or that the target of its running resize gives it. -/
def Part.claimedGroups (p : Part) : BitVec 32 := p.groups ||| (if p.state = .idle then 0 else p.tGroups)
/-- Channel groups that the resize takes away. -/
def Part.departing (p : Part) : BitVec 32 := p.groups &&& ~~~p.tGroups
/-- Staged quota on a core. -/
def Part.tQuota (p : Part) (core : Nat) : Quota := alookup {} p.tQuotas core
/-- Cores of a list of quotas with at least one slot (R81). -/
def coreSet (qs : List (Nat × Quota)) : List Nat := (qs.filter fun q => decide (1 ≤ q.2.slots)).map Prod.fst
/-- STATE of PSTAT (R87). -/
def ResizeState.code : ResizeState → Nat
  | .idle => 0 | .prepare => 1 | .migrate => 2 | .rehash => 3 | .drain => 4 | .release => 5 | .scrub => 6

/-- Whether two ranges overlap. -/
def rangesMeet (a n b m : Nat) : Bool := decide (0 < n) && decide (0 < m) && decide (a < b + m) && decide (b < a + n)
/-- Whether one of two ranges lies within the other. -/
def nested (a n b m : Nat) : Bool :=
  n == 0 || m == 0 || (decide (a ≤ b) && decide (b + m ≤ a + n)) || (decide (b ≤ a) && decide (a + n ≤ b + m))
/-- Whether some range of one quota overlaps that of another. -/
def Quota.meets (a b : Quota) : Bool :=
  rangesMeet a.slot0 a.slots b.slot0 b.slots || rangesMeet a.row0 a.rows b.row0 b.rows || rangesMeet a.bar0 a.bars b.bar0 b.bars
/-- Whether every range of one quota is nested with that of another. -/
def Quota.nests (a b : Quota) : Bool :=
  nested a.slot0 a.slots b.slot0 b.slots && nested a.row0 a.rows b.row0 b.rows && nested a.bar0 a.bars b.bar0 b.bars
/-- A quota out of range (cause 3). -/
def Quota.outOfRange (q : Quota) : Bool :=
  decide (16 < q.slot0 + q.slots) || decide (982 < q.row0 + q.rows) || decide (2048 < q.bar0 + q.bars) ||
    decide (192 < q.granules)

/-- Union of two nested ranges. -/
def joinRange (a n b m : Nat) : Nat × Nat :=
  if n = 0 then (b, m) else if m = 0 then (a, n) else (Nat.min a b, Nat.max (a + n) (b + m) - Nat.min a b)
/-- Quota with what the target adds to it (R91 MIGRATE). -/
def Quota.join (a b : Quota) : Quota :=
  let sl := joinRange a.slot0 a.slots b.slot0 b.slots
  let rw := joinRange a.row0 a.rows b.row0 b.rows
  let br := joinRange a.bar0 a.bars b.bar0 b.bars
  { slot0 := sl.1, slots := sl.2, granules := Nat.max a.granules b.granules, row0 := rw.1, rows := rw.2, bar0 := br.1,
    bars := br.2 }

/-! ### The checks of START (R89) -/

/-- Heap windows of a partition that lie partly in a departing group (cause 7). -/
def State.heapStranded (s : State) (p : Part) : Bool :=
  s.ctxs.any fun (c : Ctx) => c.part == p.id && c.heapEn && (
    let a := (c.hb.toNat + c.ho.toNat) % 2 ^ 64
    (List.range 32).any fun g => p.departing.getLsbD g && rangesMeet a c.hl.toNat (2 ^ 34 * g) (2 ^ 34))

/-- Largest MIN_RS of a partition's draw nodes (cause 8). -/
def State.minRsOf (s : State) (part : Nat) : Nat :=
  ((s.nodes.filter fun n => n.num / 2 ^ 20 == part && n.kind == 3 && (n.status == .valid || n.status == .retiring)).map fun n =>
    fieldOf n.descBytes 0x14 4).foldl Nat.max 0

/-- Granules of a core that the target and the other partitions could hold together. DESIGN CHOICE (log 126): the larger of another
partition's current and staged count. -/
def granuleSum (t : Quota) (others : List (Quota × Quota)) : Nat :=
  t.granules + (others.map fun x => Nat.max x.1.granules x.2.granules).sum

/-- Cause for which START refuses a target; the lowest number counts (log 80). DESIGN CHOICE (log 126): a unit that is the target of
another running resize overlaps. -/
def State.startCause (s : State) (p : Part) : Nat :=
  let others := s.parts.filter fun q => q.id != p.id
  let at_ (f : Part → List (Nat × Quota)) (n : Nat) : List Quota := others.map fun q => alookup {} (f q) n
  let cores := List.range 160
  if p.state ≠ .idle then 1
  else if (coreSet p.tQuotas).isEmpty || p.tSlices == 0 || p.tGroups == 0 then 2
  else if p.tQuotas.any fun q => q.2.outOfRange then 3
  else if others.any (fun q => (p.tSlices &&& q.claimedSlices) != 0 || (p.tGroups &&& q.claimedGroups) != 0) ||
      cores.any (fun n =>
        let t := p.tQuota n
        (at_ Part.quotas n ++ at_ Part.tQuotas n).any t.meets ||
          (t != {} && decide (192 < granuleSum t ((at_ Part.quotas n).zip (at_ Part.tQuotas n))))) then 4
  else if cores.any fun n => !(p.tQuota n).nests (p.quota n) then 5
  else if others.any (fun q => q.freed.any fun u => match u with
        | .slice n => p.tSlices.getLsbD n
        | .group n => p.tGroups.getLsbD n
        | .core n => (p.tQuota n).meets (alookup {} q.oldQuotas n)) ||
      cores.any (fun n => (p.quota n).granules < (p.tQuota n).granules &&
        decide (192 < granuleSum (p.tQuota n) ((at_ Part.quotas n).zip (at_ Part.oldQuotas n)))) then 6
  else if s.heapStranded p then 7
  else if ((coreSet p.tQuotas).map fun n => (p.tQuota n).rows).any fun r => decide (r < s.minRsOf p.id) then 8
  else 0

/-! ### The first-touch pool (R91 PREPARE, R184) -/

/-- Writes guest memory for Sorrel; none where an address does not translate, or is a page of the package block, which a guest has
read-only (R34). -/
def State.gpaWrite (s : State) (part a : Nat) (bs : List Byte) : Option State :=
  ((List.range bs.length).mapM fun i => (s.gpa? part (a + i)).filter fun pa => decide (pa < 0xFFF0_0000_0000)).map fun pas =>
    (pas.zip bs).foldl (fun (s : State) (x : Nat × Byte) => (s.setHomeByte false x.1 x.2).noteWriter false x.1 0) s

/-- Bytes of a frame of a size code. -/
def frameBytes (code : Nat) : Nat := 2 ^ (12 + 9 * code)
/-- Whether a frame lies in a departing group of a partition, in whole or in part. -/
def State.frameDeparts (s : State) (p : Part) (code entry : Nat) : Bool :=
  (List.range (frameBytes code / 4096)).any fun k =>
    match s.gpa? p.id (4096 * (bits entry 43 0 + k)) with
    | some pa => decide (pa < 2 ^ 39) && p.departing.getLsbD (pa / 2 ^ 34)
    | none => false

/-- Writes a field of the pool area. -/
def State.putPool (s : State) (p : Part) (off n x : Nat) : State := (s.gpaWrite p.id (p.pool + off) (leBytes n x)).getD s
/-- Offset of entry `i` of the ring of a size code. -/
def poolEntryAt (code i : Nat) : Nat := 0x1000 + 0x4000 * code + 8 * (i % 2048)

/-- Drops the pool's entries of one size code whose frames lie in departing groups. -/
def State.dropFrames (s : State) (p : Part) (code : Nat) : State :=
  let take := s.poolField p (64 * code) 8
  let fill := s.poolField p (64 * code + 8) 8
  (List.range (Nat.min 2048 (fill - take))).foldl (fun (s : State) k =>
    let at_ := poolEntryAt code (take + k)
    let e := s.poolField p at_ 8
    if e.testBit 63 && s.frameDeparts p code e then
      let s := s.putPool p at_ 8 (e - 2 ^ 63)
      s.putPool p (64 * code + 0x1C) 4 (s.poolField p (64 * code + 0x1C) 4 + 1)
    else s) s

/-! ### Departing blocks (R91, R93) -/

/-- Whether a range lies within another; an empty one always does. -/
def within (a n b m : Nat) : Bool := n == 0 || (decide (b ≤ a) && decide (a + n ≤ b + m))

/-- Whether all that a block holds lies in a quota. -/
def State.blockFits (s : State) (b : Block) (q : Quota) : Bool :=
  within b.row0 b.allRows q.row0 q.rows && within b.bar0 128 q.bar0 q.bars &&
    s.teams.all fun t => t.blk != b.id || within t.slot 1 q.slot0 q.slots

/-- Register granules of a block. -/
def State.blockGranules (s : State) (b : Block) : Nat := teamGranules (s.teams.filter fun t => t.blk == b.id)

/-- Of the blocks of a core in the order in which they started, the most recent ones that go until the granules fit. -/
def overGranules (s : State) (limit : Nat) : Nat → List Block → List Nat
  | _, [] => []
  | used, b :: bs =>
    let used := used + s.blockGranules b
    if used ≤ limit then overGranules s limit used bs else b.id :: overGranules s limit used bs

/-- Blocks of a partition that hold a departing resource. -/
def State.departers (s : State) (p : Part) : List Nat :=
  (List.range 160).flatMap fun core =>
    let bs := (s.onCore core).filter fun b => b.part == p.id
    if bs.isEmpty then []
    else
      let q := p.placeQuota core
      let out := (bs.filter fun b => !s.blockFits b q).map Block.id
      let stay := sortBy (fun (a b : Block) => decide (a.launch ≤ b.launch)) (bs.filter fun b => s.blockFits b q)
      out ++ overGranules s q.granules 0 stay

/-- Whether a block may be the next to migrate: of those that only a core's granule count moves, the most recently started
goes first (R93). -/
def State.mayMigrate (s : State) (p : Part) (b : Block) : Bool :=
  let q := p.placeQuota b.core
  b.saved.isSome || !s.blockFits b q ||
    !((s.onCore b.core).any fun c => c.part == p.id && s.blockFits c q && (s.departers p).contains c.id &&
        (decide (b.launch < c.launch) || (b.launch == c.launch && decide (b.id < c.id))))

/-- Blocks still to migrate: those that hold a departing resource, and those halted for it that wait for a place. -/
def State.toMigrate (s : State) (p : Part) : List Nat :=
  s.departers p ++ (s.blocks.filter fun b => b.part == p.id && b.saved.elim false SaveArea.migrating).map Block.id

/-! ### The states (R91) -/

/-- Clusters with a core of the current or the target core set whose leaf has not been given up. -/
def State.affectedLeaves (s : State) (p : Part) : List Nat :=
  let cores := coreSet p.quotas ++ coreSet p.tQuotas
  (List.range 20).filter fun c => cores.any (fun k => k / 8 == c) && !s.pkg.leafFailed.contains c

/-- The return to STABLE: DONE is set and Sorrel's partition interrupt is raised (R87, R53). -/
def State.endResize (s : State) (p : Part) (err : Nat) : State :=
  let p := { p with state := .idle, done := true, err := BitVec.ofNat 4 err, acks := [], sweep := [], units := [],
                    oldQuotas := [], freed := [],
                    rdone := if p.rrun = 0 then p.rdone else p.rrun,
                    rresult := if p.rrun = 0 then p.rresult else BitVec.ofNat 64 err, rrun := 0 }
  let s := s.putPart p
  { s with pkg := { s.pkg with irqs := s.pkg.irqs ++ [(p.id, 0x200)] } }

/-- Units that SCRUB zeroes: cores with a released quota, slices and groups. -/
def Part.scrubUnits (old new : Part) : List ScrubUnit :=
  let lost (n : Nat) : Bool :=
    let a := old.quota n
    let b := new.quota n
    !(within a.slot0 a.slots b.slot0 b.slots && within a.row0 a.rows b.row0 b.rows && within a.bar0 a.bars b.bar0 b.bars &&
      decide (a.granules ≤ b.granules))
  ((List.range 160).filter lost).map ScrubUnit.core ++
    (setBits 128 (old.heldSlices &&& ~~~new.slices).toNat).map ScrubUnit.slice ++
    (setBits 32 (old.groups &&& ~~~new.groups).toNat).map ScrubUnit.group

/-- Kind of a scrub unit. -/
def unitKind : ScrubUnit → Nat
  | .core _ => 0 | .slice _ => 1 | .group _ => 2

/-- SCRUB is entered. -/
def State.enterScrub (s : State) (p : Part) : State :=
  let p := { p with state := .scrub, phaseAt := s.timeNs, acks := [] }
  if p.units.isEmpty then s.endResize p p.err.toNat else s.putPart p

/-- RELEASE is entered: departing resources leave the partition, and the lines of its contexts leave the L1 of cores that
go. Each kind of departing unit acknowledges (log 31). -/
def State.enterRelease (s : State) (p : Part) : State :=
  let new := { p with quotas := p.tQuotas, groups := p.tGroups, oldSlices := 0 }
  let units := p.scrubUnits new
  let gone := (coreSet p.quotas).filter fun n => !(coreSet new.quotas).contains n
  let s := gone.foldl (fun (s : State) n =>
    let mine (l : Line) : Bool := (s.ctx l.ctx).part == p.id
    s.sweepL1 n mine mine id) s
  let new := { new with state := .release, phaseAt := s.timeNs, units := units, freed := units, oldQuotas := p.quotas,
                        acks := (units.map unitKind).dedup }
  if new.acks.isEmpty then s.enterScrub new else s.putPart new

/-- DRAIN is entered. -/
def State.enterDrain (s : State) (p : Part) : State :=
  let p := { p with state := .drain, phaseAt := s.timeNs, sweep := [] }
  if p.departing = 0 then s.enterRelease p else s.putPart p

/-- Whether an old slice, at place `i` of the old list, has lines or chip bytes that move (R83, R95). -/
def movesFrom (old new : List Nat) (i : Nat) : Bool :=
  (List.range (16384 / old.length + 1)).any fun k =>
    let h := i + old.length * k
    decide (h < 16384) && (new.getD (h % new.length) 0 != old.getD i 0)

/-- Where a chip-scratchpad byte of a partition goes under a new slice list: its new place, or its offset where the byte is
discarded (R95). -/
def rehome (old new : List Nat) (a : Nat) : Nat ⊕ Nat :=
  match old.findIdx? (· == a / 524288) with
  | some i => if i < new.length then .inl (524288 * new.getD i 0 + a % 524288) else .inr (524288 * i + a % 524288)
  | none => .inl a

/-- Chip-scratchpad bytes move to their new homes, or are discarded (R95, R96): each access finds one home, so the move is seen by
none. -/
def State.moveChip (s : State) (p : Part) (old new : List Nat) : State :=
  let s := (s.readLoads fun e => e.part == p.id).flushWhere fun e => e.part == p.id
  let s := (s.ctxsOf p.id).foldl (fun (s : State) c =>
    (List.range 160).foldl (fun (s : State) n =>
      let sel (l : Line) : Bool := l.chip && l.ctx == c
      if (s.coreSt n).l1.any sel then s.sweepL1 n sel sel id else s) s) s
  let chip := s.chip.foldl (fun (m : List Host.Cell) (x : Nat × Byte) =>
    match rehome old new x.1 with | .inl a => mset memDefault m a x.2 | .inr _ => m) []
  let up (t : Team) : Team := if (s.blockOf t).part == p.id then
      match t.status with
      | .awaitv 3 a n v d l o => match rehome old new a with
        | .inl a => { t with status := .awaitv 3 a n v d l o }
        | .inr a => { t with status := .awaitv 4 a n v d l o }
      | _ => t
    else t
  { s with chip := chip, teams := s.teams.map up,
           writers := s.writers.filterMap fun (w : Writer) =>
             if w.chip then (match rehome old new w.pa with | .inl a => some { w with pa := a } | .inr _ => none) else some w }

/-- REHASH is entered: added slices join, and lines move to their new homes (log 87). -/
def State.enterRehash (s : State) (p : Part) : State :=
  let old := p.sliceList
  let p' := { p with state := .rehash, phaseAt := s.timeNs, oldSlices := p.slices, slices := p.tSlices }
  let new := p'.sliceList
  let idx := (List.range old.length).filter (movesFrom old new)
  let p' := { p' with sweep := idx.map fun i => old.getD i 0 }
  let s := s.moveChip p old new
  if p'.sweep.isEmpty then s.enterDrain p' else s.putPart p'

/-- MIGRATE ends when no block is left to migrate (log 88). -/
def State.settleMigrate (s : State) (part : Nat) : State :=
  let p := s.part part
  if p.state = .migrate ∧ (s.toMigrate p).isEmpty then s.enterRehash p else s

/-- MIGRATE is entered: added cores, quotas and channel groups join. -/
def State.enterMigrate (s : State) (p : Part) : State :=
  let nums := ((p.quotas ++ p.tQuotas).map Prod.fst).dedup
  let p := { p with state := .migrate, phaseAt := s.timeNs, acks := [], groups := p.groups ||| p.tGroups,
                    quotas := nums.map fun n => (n, (p.quota n).join (p.tQuota n)) }
  (s.putPart p).settleMigrate p.id

/-- START (R89, R91). DESIGN CHOICE (log 122): the pool is swept for departing frames here, and not again for one donated later. -/
def State.resizeStart (s : State) (part : Nat) : State :=
  let p := s.part part
  match s.startCause p with
  | 0 =>
    let p := { p with state := .prepare, err := 0, phaseAt := s.timeNs, acks := s.affectedLeaves p, rrun :=
                        if p.rreq = p.rdone then 0 else p.rreq }
    let s := (List.range 3).foldl (fun (s : State) k => s.dropFrames p k) (s.putPart p)
    if p.acks.isEmpty then s.enterMigrate p else s
  | n => s.putPart { p with err := BitVec.ofNat 4 n }

/-- RESIZE_START -/
def execResizeStart (part : Nat) (s : State) : Out :=
  if 16 ≤ part then .next s else .next (s.resizeStart part)

/-- ABORT (R91, R92): from PREPARE or MIGRATE the resize ends in STABLE. -/
def State.resizeAbort (s : State) (part err : Nat) : State :=
  let p := s.part part
  match p.state with
  | .idle => s
  | .prepare | .migrate => s.endResize p err
  | _ => s.putPart { p with err := 11 }

/-- RESIZE_ABORT -/
def execResizeAbort (part : Nat) (s : State) : Out := .next (s.resizeAbort part 12)

/-- ADVANCE (R91, R98): only DRAIN heeds it. -/
def State.resizeAdvance (s : State) (part : Nat) : State :=
  let p := s.part part
  if p.state = .drain then s.enterRelease p else s
/-- RESIZE_ADVANCE -/
def execResizeAdvance (part : Nat) (s : State) : Out := .next (s.resizeAdvance part)

/-- A leaf's acknowledgement of PREPARE, or the end of the wait for one that is given up. -/
def State.prepared (s : State) (part leaf : Nat) : State :=
  let p := s.part part
  if p.state = .prepare ∧ leaf ∈ p.acks then
    let p := { p with acks := p.acks.filter (· != leaf) }
    if p.acks.isEmpty then s.enterMigrate p else s.putPart p
  else s

/-- PREPARE_ACK (R91) -/
def execPrepareAck (part leaf : Nat) (s : State) : Out :=
  if s.pkg.leafUp leaf then .next (s.prepared part leaf) else .next s

/-- MIGRATE_TIMEOUT (R92) -/
def execMigrateTimeout (part : Nat) (s : State) : Out :=
  let p := s.part part
  if p.state = .migrate ∧ p.phaseAt + 1000000 * 2 ^ p.migTmo.toNat ≤ s.timeNs then .next (s.resizeAbort part 9) else .next s

/-- REHASH_LINE_MOVE (R95): an old slice has moved the last of its lines. -/
def execRehashLineMove (part slice : Nat) (s : State) : Out :=
  let p := s.part part
  if p.state ≠ .rehash then .next s
  else
    let p := { p with sweep := p.sweep.filter (· != slice) }
    if p.sweep.isEmpty then .next (s.enterDrain p) else .next (s.putPart p)

/-! ### The drain copier (R97) -/

/-- Whether the copier refuses a page. -/
def Part.drainFault (p : Part) : Bool :=
  let src := p.drnSrc.toNat; let dst := p.drnDst.toNat
  !(decide (src < 2 ^ 39) && p.departing.getLsbD (src / 2 ^ 34)) ||
    !(decide (dst < 2 ^ 39) && p.tGroups.getLsbD (dst / 2 ^ 34) && p.groups.getLsbD (dst / 2 ^ 34))

/-- Copies a page through its homes. -/
def State.copyPage (s : State) (src dst : Nat) : State :=
  s.homeWrite false dst (s.homeRead false src 4096)

/-- Addresses of the listed 8-byte entries of a table; an unlisted one reads 0, which is not valid. -/
def State.pteCells (s : State) (table n : Nat) : List Nat :=
  ((s.mem.filter fun x => decide (table ≤ x.1) && decide (x.1 < table + n)).map fun x => x.1 / 8 * 8).dedup

/-- Drops the cached translations that meet a range of physical memory (R97). -/
def State.dropTlbPa (s : State) (a n : Nat) : State := { s with tlb := s.tlb.filter fun e => !rangesMeet e.pa e.len a n }

/-- Leaves of a G-stage table at a level, with the addresses of their entries (R178). -/
def State.gLeaves (s : State) : Nat → Nat → List (Nat × Leaf)
  | 0, t => (s.pteCells t 4096).filterMap fun a => match readPte (s.pteAt a) 0 with
    | .leaf l => some (a, l)
    | _ => none
  | k + 1, t => (s.pteCells t (if k = 2 then 16384 else 4096)).flatMap fun a => match readPte (s.pteAt a) (k + 1) with
    | .leaf l => [(a, l)]
    | .table t' => s.gLeaves k t'
    | .fault => []

/-- Steps 1 and 2 of R97: W of the G-stage entries that map a page is cleared, and no cached translation is left. -/
def State.protectPage (s : State) (p : Part) (src : Nat) : State :=
  let ls := (s.gLeaves 3 p.groot).filter fun x => decide (x.2.base ≤ src) && decide (src < x.2.base + x.2.len)
  let keep := (ls.filter fun x => x.2.flags.getLsbD 2).map fun x => (x.1, x.2.len, BitVec.ofNat 64 (s.pteAt x.1))
  let s := keep.foldl (fun (s : State) x => s.homeWrite false x.1 (leBytes 8 (s.pteAt x.1 - 4))) s
  let s := ls.foldl (fun (s : State) x => s.dropTlbPa x.2.base x.2.len) (s.dropTlbPa src 4096)
  s.putPart { p with drnPtes := p.drnPtes.filter (fun x => !keep.any fun y => y.1 == x.1) ++ keep }

/-- Page to which the entry of a larger page points once each of its 4 KiB parts has been copied to its place there. -/
def movedPage (parts : List (Nat × Nat)) (l : Leaf) : Option Nat :=
  let b := l.base / 4096
  (parts.find? fun x => x.1 == b).bind fun x =>
    if (List.range (l.len / 4096)).all fun k => parts.any fun y => y == (b + k, x.2 + k) then some x.2 else none

/-- Steps 6 and 7 of R97: the entries point at the destination and W is back, for a larger page once all of its 4 KiB parts have been
copied (log 32). -/
def State.repoint (s : State) (p : Part) (src dst : Nat) : State :=
  let parts := (p.drnParts.filter fun x => x.1 != src / 4096) ++ [(src / 4096, dst / 4096)]
  let all := (s.gLeaves 3 p.groot).filter fun x => decide (x.2.base ≤ src) && decide (src < x.2.base + x.2.len)
  let ls := all.filterMap fun x => (movedPage parts x.2).map fun k => (x.1, x.2, k)
  let s := ls.foldl (fun (s : State) x =>
    let pte := (p.drnPtes.find? fun y => y.1 == x.1).elim (s.pteAt x.1) fun y => y.2.2.toNat
    (s.homeWrite false x.1 (leBytes 8 (pte % 1024 + 1024 * x.2.2 + 2 ^ 54 * (pte / 2 ^ 54)))).dropTlbPa x.2.1.base x.2.1.len)
    (s.dropTlbPa src 4096)
  let left := all.any fun x => !ls.any fun y => y.1 == x.1
  let done (n : Nat) : Bool := ls.any fun x => decide (x.2.1.base / 4096 ≤ n) && decide (n < (x.2.1.base + x.2.1.len) / 4096)
  s.putPart { p with drnBusy := false, drnPtes := p.drnPtes.filter fun y => !ls.any fun x => x.1 == y.1,
                     drnParts := parts.filter fun x => (left && x.1 == src / 4096) || (x.1 != src / 4096 && !done x.1),
                     own := p.own.map fun x => if x.2 = src / 4096 then (x.1, dst / 4096) else x }

/-- Steps 1 to 3 of R97: the page is write-protected, and its dirty L1 lines and queued stores go home (log 81). -/
def State.drainPage (s : State) (p : Part) (src : Nat) : State :=
  let s := (s.readWhere fun e => e.pieces.any fun (x : HomeRange) => !x.1 && rangesMeet x.2.1 x.2.2 src 4096).flushWhere
    fun e => !e.chip && e.pa / 4096 == src / 4096
  let s := (List.range 160).foldl (fun (s : State) n =>
    if (s.coreSt n).l1.isEmpty then s else s.evictRange n false src 4096) s
  s.protectPage p src

/-- Steps 4 to 7 of R97: the page is copied, cached copies of it go, and the G-stage entries point at its new place. Waits on
words of the page follow it (log 32). -/
def State.drainEnd (s : State) (p : Part) (src dst : Nat) : State :=
  let s := s.readWhere fun e => e.pieces.any fun (x : HomeRange) => !x.1 && rangesMeet x.2.1 x.2.2 src 4096
  let s := (List.range 160).foldl (fun (s : State) n =>
    if (s.coreSt n).l1.isEmpty then s else s.evictRange n false src 4096) (s.copyPage src dst)
  let move (a : Nat) : Nat := if a / 4096 = src / 4096 then dst + a % 4096 else a
  let up (t : Team) : Team := if (s.blockOf t).part == p.id then
      match t.status with
      | .awaitv 0 a n v d l o => { t with status := .awaitv 0 (move a) n v d l o }
      | _ => t
    else t
  ({ s with teams := s.teams.map up,
            writers := s.writers.map fun (w : Writer) => if w.chip then w else { w with pa := move w.pa } }).repoint p src dst

/-- GO of DRN_CTL (R97). DESIGN CHOICE (log 127): the copy ignores the low 12 bits of its addresses, which a write keeps. -/
def State.drainGo (s : State) (part : Nat) : State :=
  let p := s.part part
  if p.drnBusy ∨ p.state ≠ .drain then s
  else if p.drainFault then s.putPart { p with drnFault := true }
  else s.drainPage { p with drnBusy := true } (p.drnSrc.toNat / 4096 * 4096)
/-- DRN_COPY_GO -/
def execDrnCopyGo (part : Nat) (s : State) : Out := .next (s.drainGo part)
/-- DRN_COPY_DONE (R97). DESIGN CHOICE (log 127): the addresses are those that DRN_SRC and DRN_DST hold now. -/
def execDrnCopyDone (part : Nat) (s : State) : Out :=
  let p := s.part part
  if p.drnBusy then .next (s.drainEnd p (p.drnSrc.toNat / 4096 * 4096) (p.drnDst.toNat / 4096 * 4096)) else .next s

/-! ### Release and scrub (R91, R99) -/

/-- RELEASE_ACK (R91) -/
def execReleaseAck (part : Nat) (s : State) : Out :=
  let p := s.part part
  if p.state ≠ .release then .next s
  else match p.acks with
    | _ :: a :: as => .next (s.putPart { p with acks := a :: as })
    | _ => .next (s.enterScrub p)

/-- The part of a range that another does not keep, as bytes cleared by `clear`. -/
def clearLost (a n b m : Nat) (clear : Map Byte → Nat → Map Byte) (sp : Map Byte) : Map Byte :=
  ((List.range n).filter fun k => !(decide (b ≤ a + k) && decide (a + k < b + m))).foldl (fun sp k => clear sp (a + k)) sp

/-- Zeroes what a core's released quota held: rows and barrier words, and with the core its tiles and lines. -/
def State.scrubCore (s : State) (p : Part) (n : Nat) : State :=
  let old : Quota := alookup {} p.oldQuotas n
  let new := p.quota n
  let c := s.coreSt n
  let sp := clearLost old.row0 old.rows new.row0 new.rows (fun sp r => mclear sp (384 * r) 384) c.spad
  let sp := clearLost old.bar0 old.bars new.bar0 new.bars (fun sp k => mclear sp (barAddr k) 8) sp
  let c := { c with spad := sp }
  let mine (ctx : Nat) : Bool := ctx != 0 && (s.ctx ctx).part == p.id
  let c := if 1 ≤ new.slots then c else
    let c := { c with l1 := c.l1.filter fun l => !mine l.ctx }
    (List.range 16).foldl (fun (c : CoreSt) k =>
      if mine (mget 0 c.tileCtx k) then
        { c with cells := mclear c.cells (4096 * k) 4096, tileCtx := mset 0 c.tileCtx k 0 }
      else c) c
  let lost (a m b k : Nat) : List Nat := (List.range m).filterMap fun i =>
    if b ≤ a + i ∧ a + i < b + k then none else some (a + i)
  let s := (lost old.row0 old.rows new.row0 new.rows).foldl (fun (s : State) r => s.cleanSpad n (384 * r) 384) (s.putCore n c)
  (lost old.bar0 old.bars new.bar0 new.bars).foldl (fun (s : State) k => s.cleanSpad n (barAddr k) 8) s

/-- Pages of a group whose zeroing meets an uncorrectable error are retired from the free pool, with a health event each
(R99). -/
def State.retirePages (s : State) (g : Nat) : State :=
  let inside (k : Nat) : Bool := k / 2 ^ 32 == g
  let pages := ((s.poison.filter inside).map (· / 1024)).dedup
  let s := pages.foldl (fun (s : State) a => s.healthEvent 8 a) s
  { s with poison := s.poison.filter fun k => !inside k, pkg := { s.pkg with retired := s.pkg.retired ++ pages } }

/-- Zeroes a released unit. -/
def State.scrub (s : State) (p : Part) : ScrubUnit → State
  | .core n => s.scrubCore p n
  | .slice n => { s with chip := mclear s.chip (524288 * n) 524288, chipPoison := s.chipPoison.filter fun k => k / 131072 != n }
  | .group n => ({ s with mem := mclear s.mem (2 ^ 34 * n) (2 ^ 34) }).retirePages n

/-- SCRUB_UNIT (R99) -/
def execScrubUnit (part : Nat) (u : ScrubUnit) (s : State) : Out :=
  let p := s.part part
  if p.state ≠ .scrub ∨ u ∉ p.units then .next s
  else
    let s := s.scrub p u
    let p := { p with units := p.units.filter fun x => x != u }
    if p.units.isEmpty then .next (s.endResize p p.err.toNat) else .next (s.putPart p)

/-! ### The registers (R87) -/

/-- LEFT of PSTAT (R91). -/
def State.resizeLeft (s : State) (p : Part) : Nat :=
  match p.state with
  | .prepare | .release => p.acks.length
  | .migrate => (s.toMigrate p).length
  | .rehash => p.sweep.length
  | .scrub => p.units.length
  | .idle | .drain => 0

/-- PSTAT as it reads. -/
def State.pstat (s : State) (p : Part) : Nat :=
  2 ^ 16 * Nat.min 0xFFFF (s.resizeLeft p) + 256 * p.err.toNat + (if p.done then 128 else 0) + p.state.code

end Sys2Proof.Machine
end

