-- ==== Sys2Proof/Machine/Placement.lean ====
section
/-! DEFINITION. Registration, shares, block starts, gangs, continuations and placement rounds (R101 to R120, R126, R127, R148,
R149, R158, R160, R188, R225, R226, R259, R422 to R424, R430). -/

namespace Sys2Proof.Machine

/-! ### Shapes (R106, R108, R158, R430) -/

/-- The teams of one role: how many, their lanes and chunks, and where they begin. -/
structure Shape where
  teams : Nat
  lanes : Nat
  chunks : Nat
  entry : CodeOff
  /-- the entry is 2^48 or more, outside every code segment (R108, R173) -/
  far : Bool
  deriving DecidableEq, Repr

/-- A role shape word of a packet (R106); a forerunner team has 16 lanes (R226). -/
def shapeOf (p : List Byte) (off entry : Nat) : Shape :=
  let x := fieldOf p off 4
  { teams := bits x 4 0, lanes := if (pktHeader p).getLsbD 55 then 16 else 32 * bits x 10 5, chunks := bits x 14 11,
    entry := BitVec.ofNat 48 (fieldOf p entry 8), far := decide (2 ^ 48 ≤ fieldOf p entry 8) }

/-- The roles of a packet, the producer first. -/
def pktShapes (p : List Byte) : List Shape :=
  if pktRoles p then [shapeOf p 0x4C 8, shapeOf p 0x50 0x10] else [shapeOf p 0x50 0x10]

/-- Teams of a block. -/
def pktTeams (p : List Byte) : Nat := ((pktShapes p).map Shape.teams).sum
/-- Team slots of a block: a forerunner slot holds a pair. -/
def pktSlots (p : List Byte) : Nat := if (pktHeader p).getLsbD 55 then ceilDiv (pktTeams p) 2 else pktTeams p
/-- Register granules of a block. -/
def pktGranules (p : List Byte) : Nat :=
  if (pktHeader p).getLsbD 55 then pktSlots p * (shapeOf p 0x50 0x10).chunks
  else ((pktShapes p).map fun x => x.teams * ceilDiv x.lanes 32 * x.chunks).sum
/-- What a block of a packet needs, with its rate-store rows. -/
def pktNeed (p : List Byte) (rs : Nat) : Need :=
  { slots := pktSlots p, granules := pktGranules p,
    rows := hdrRows (pktHeader p) + hdrSave (pktHeader p) * pktTeams p + rs, tiles := fieldOf p 0x54 1 }

/-- MIN_RS of a node. -/
def Node.minRs (n : Node) : Nat := fieldOf n.descBytes 0x14 4
/-- RS_PREF of a packet. -/
def pktRsPref (p : List Byte) : Nat := fieldOf p 0x56 2

/-- Record size of a tier from its tier-table entry; 0 for an absent section (R157). -/
def entryBytes (x : DWord) : Nat :=
  if x = 0xFFFF_FFFF_FFFF_FFFF then 0 else 16 + 16 * ceilDiv (bits x.toNat 55 48) 4
/-- L × (s_meshlet + s_vertex + s_cpix). -/
def chainBytes (tiers : List DWord) (lanes : Nat) : Nat :=
  lanes * (entryBytes (tiers.getD 2 0) + entryBytes (tiers.getD 3 0) + entryBytes (tiers.getD 4 0))

/-- Who reads tables for a context at a core. -/
def unitWho (part ctx core : Nat) : Who := { tid := 0, core := core, slot := 0, ctx := ctx, part := part, user := true }

/-- The tier table of a packet; all absent where it cannot be read (log 17). -/
def State.tierTable (s : State) (part core : Nat) (p : List Byte) : List DWord :=
  match (s.readHomeVa (unitWho part (pktCtx p) core) .read (fieldOf p 0x58 8 % 2 ^ 48) 56).2 with
  | .ok bs => (List.range 7).map fun k => BitVec.ofNat 64 (fieldOf bs (8 * k) 8)
  | .error _ => List.replicate 7 0xFFFF_FFFF_FFFF_FFFF

/-! ### Registration (R102, R103, R107, R116, R148, R225, R430) -/

/-- Whether every byte of a range is 0. -/
def zeros (bs : List Byte) (off n : Nat) : Bool := ((bs.drop off).take n).all (· == 0)

/-- BAD_DESC of a descriptor (R103). -/
def descBad (d : List Byte) : Bool :=
  !zeros d 2 2 || !zeros d 0x28 24 || decide (4 ≤ fieldOf d 0 1) ||
    !((List.range 15).map fun k => 2 ^ (6 + k)).contains (fieldOf d 4 4)

/-- BAD_DESC of a packet (R107). -/
def pktBad (num : Nat) (p : List Byte) : Bool :=
  let rate := (pktHeader p).getLsbD 53
  !zeros p 0x55 1 || !zeros p 0x60 32 || decide (4 ≤ fieldOf p 0x26 2) || bits (fieldOf p 0x4C 4) 31 15 != 0 ||
    bits (fieldOf p 0x50 4) 31 15 != 0 || fieldOf p 0x20 4 != num ||
    (if rate then fieldOf p 0x58 8 == 0 || fieldOf p 0x58 8 % 8 != 0 else fieldOf p 0x58 8 != 0 || pktRsPref p != 0)

/-- Ranges of the header word (R254, R225). -/
def headerBad (h : DWord) : Bool :=
  let gen := bits h.toNat 63 56
  let fore := h.getLsbD 55
  let l := bits h.toNat 15 0
  !(gen == 2 || gen == 3) || fore != (gen == 2) || (gen == 2 && h.getLsbD 53) || decide (hdrBase h < 2) ||
    decide (8 < hdrBase h) || decide (32 * hdrBase h < bits h.toNat 47 40) || decide (982 < hdrRows h) ||
    (if fore then l != 1 else l % 2 != 0 || decide (l < 2) || decide (64 < l))

/-- Range of a role shape. -/
def shapeBad (x : Nat) : Bool :=
  decide (16 < bits x 4 0) || decide (bits x 10 5 < 1) || decide (32 < bits x 10 5) || decide (bits x 14 11 < 2) ||
    decide (8 < bits x 14 11)

/-- Whether some core's quota of a partition could hold what a block needs. -/
def Part.couldHold (p : Part) (n : Need) : Bool :=
  p.quotas.any fun q => decide (n.slots ≤ q.2.slots) && decide (n.granules ≤ q.2.granules) && decide (n.rows ≤ q.2.rows)

/-- BAD_SHAPE of a node (R107, R148, R225, R430). `rays`: the program has a ray section. -/
def shapeRefused (pt : Part) (kind : Nat) (p : List Byte) (rays : Bool) : Bool :=
  let h := pktHeader p
  let c := fieldOf p 0x50 4
  let pr := fieldOf p 0x4C 4
  let roles := pktRoles p
  let rate := h.getLsbD 53
  headerBad h || shapeBad c || decide (8 < fieldOf p 0x25 1) || decide (16 < fieldOf p 0x54 1) ||
    decide (16 < pktTeams p) || !pt.couldHold (pktNeed p 0) ||
    (if roles then
      shapeBad pr || bits pr 4 0 == 0 || bits c 4 0 == 0 || fieldOf p 8 8 == fieldOf p 0x10 8 || h.getLsbD 55
    else
      pr != 0 || bits c 4 0 == 0 ||
        (if h.getLsbD 55 then bits c 10 5 != 1 || bits c 14 11 != hdrBase h
         else 32 * bits c 10 5 != hdrLanes h || bits c 14 11 != hdrBase h)) ||
    (if kind = 3 then !rate || roles || decide (bits c 10 5 < 2) || (rays && decide (bits c 4 0 < 2)) else rate)

/-- Smallest row quota of a partition's core set. -/
def Part.minRows (p : Part) : Nat :=
  match p.quotas.filter fun q => decide (1 ≤ q.2.slots) with
  | [] => 0
  | q :: qs => qs.foldl (fun m x => Nat.min m x.2.rows) q.2.rows

/-- Enabled cores of a partition's core set. -/
def Part.cores (p : Part) : List Nat :=
  (List.range 160).filter fun k => Config.enable.getLsbD k && decide (1 ≤ (p.quota k).slots)

/-- The most enabled cores that a partition has in one cluster. -/
def Part.widest (p : Part) : Nat :=
  ((List.range 20).map fun c => (p.cores.filter fun k => k / 8 == c).length).foldl Nat.max 0

/-- Validation of a descriptor and its packet: the STATE that registration sets (log 49). -/
def State.validate (s : State) (num : Nat) (d p : List Byte) : NodeStatus :=
  let pt := s.part (num / 2 ^ 20)
  let kind := fieldOf d 0 1
  let minRs := fieldOf d 0x14 4
  let tiers := if (pktHeader p).getLsbD 53 then s.tierTable pt.id 0 p else []
  let rays := tiers.getD 6 0xFFFF_FFFF_FFFF_FFFF != 0xFFFF_FFFF_FFFF_FFFF
  if descBad d || pktBad num p then .badDesc
  else if shapeRefused pt kind p rays then .badShape
  else if kind = 2 ∧ pt.widest < fieldOf p 0x25 1 then .badGang
  else if kind = 3 ∧ (pt.minRows < minRs ∨ minRs * 384 <
      entryBytes (tiers.getD 0 0) + entryBytes (tiers.getD 1 0) + chainBytes tiers (hdrLanes (pktHeader p))) then .rateStore
  else .valid

/-- Registration of a node whose VALID_REQ is set (R102): its descriptor and packet are read at their physical addresses
(log 43, log 53). -/
def State.register (s : State) (n : Node) : State :=
  let d := s.homeRead false (n.desc.toNat / 64 * 64) 64
  let p := s.homeRead false (fieldOf d 8 8 / 128 * 128) 128
  let n := { n with status := s.validate n.num d p, descBytes := d, pkt := p }
  if n.status = .valid then
    s.writeNode { n with queue := [], count := 0, refused := 0, held := false, lost := false, share := 0, quota := [],
                         nextBlock := 0, blkNext := 0, blkOldest := 0, blkRoot := 0, age := [], ageFor := 0, failed := [],
                         failedFor := 0, skew := [], lastSeq := 0, leafSeq := [], placed := [], coalesced := none, due := [], told := [] }
  else s.putNode n

/-- A node with VALID_REQ clear leaves the table once its queue is empty and its last block has retired (R102). A VALID_REQ that
has been set to 1 again meanwhile asks for a new registration. -/
def State.leaveTable (s : State) (n : Node) : State :=
  if n.queue.isEmpty && !(s.blocks.any fun b => b.node == n.num) && !(s.conts.any fun c => c.node == n.num) then
    s.putNode { num := n.num, desc := n.desc, refused := n.refused, validReq := n.validReq }
  else s

/-! ### Shares (R113, R115) -/

/-- The scheduler writes the blocks whose HELD has changed (R65, R115). -/
def State.recordHeld (s : State) (part : Nat) : State :=
  (s.nodes.filter fun n => n.part == part && n.live && n.held != n.blkHeld).foldl State.writeNode s

/-- Occupancy: the waiting and reserved records (R113). -/
def Node.occupancy (n : Node) : Nat := (n.queue.filter fun (q : QEntry) => !q.taken || q.block.isNone).length
/-- Share weight (R103). -/
def Node.weight (n : Node) : Nat := Nat.max 1 (fieldOf n.descBytes 1 1)

/-- Team slots of a partition in a cluster whose leaf has not been given up (R64). -/
def State.clusterSlots (s : State) (p : Part) (c : Nat) : Nat :=
  if s.pkg.leafFailed.contains c then 0 else ((clusterCores c).map fun k => (p.quota k).slots).sum

/-- The target share of R113. -/
def targetShare (total wq sum q slots : Nat) : Nat :=
  let t := if sum = 0 then 0 else total * wq / sum
  if 0 < q ∧ t < slots then slots else t

/-- Splits a share over clusters in proportion to their slots; the remainder goes to the lowest-numbered clusters (R113). -/
def splitQuota (share : Nat) (slots : List Nat) : Map Nat :=
  let total := slots.sum
  if total = 0 then []
  else
    let base := slots.map fun x => share * x / total
    let rest := share - base.sum
    let take := ((List.range slots.length).filter fun c => decide (0 < slots.getD c 0)).take rest
    mrow 0 slots.length fun c => base.getD c 0 + if take.contains c then 1 else 0

/-- One share round's decision for a node. -/
def State.giveShare (s : State) (p : Part) (total sum : Nat) (n : Node) : State :=
  let t := targetShare total (n.weight * n.occupancy) sum n.occupancy (pktSlots n.pkt)
  let diff := if t ≤ n.share then n.share - t else t - n.share
  if (t = 0 ∨ n.share = 0 ∨ (16 ≤ diff ∧ n.share ≤ 4 * diff)) ∧ t ≠ n.share then
    s.writeNode { n with share := t, quota := splitQuota t ((List.range 20).map (s.clusterSlots p)) }
  else s

/-- SHARE_ROUND (R113): registrations and retirements first, then HELD, then the shares of the eligible nodes. -/
def execShareRound (part : Nat) (s : State) : Out :=
  if !s.pkg.booted || !s.pkg.schedUp then .next s
  else
    let mine (s : State) : List Node := s.nodes.filter fun n => n.part == part
    let s := (mine s).foldl (fun (s : State) (n : Node) =>
      if n.validReq && n.status == .empty then s.register n
      else if n.status == .retiring then s.leaveTable n else s) s
    let s := (s.updateHeld part).recordHeld part
    let p := s.part part
    let el := (mine s).filter fun n => n.status == .valid && !n.held && !n.lost &&
      (!n.queue.isEmpty || s.blocks.any fun b => b.node == n.num)
    let total := ((List.range 20).map (s.clusterSlots p)).sum
    let sum := (el.map fun n => n.weight * n.occupancy).sum
    .next (el.foldl (fun (s : State) (n : Node) => s.giveShare p total sum n) s)

/-! ### The start of a block (R106, R108, R126, R127, R259) -/

/-- What a launch fixes for a block beside its node's packet. -/
structure Launch where
  index : DWord
  gang : Nat := 0
  gangN : Nat := 0
  gangId : Nat := 0
  rank : Nat := 0
  nrank : Nat := 1
  /-- records that the block reserves -/
  reserved : List Nat := []
  /-- record that its teams share, and its bytes -/
  shared : Option Nat := none
  record : List Byte := []
  /-- a draw's target, tiers and rate-store rows -/
  draw : Option (List Byte × List DWord × Nat) := none
  deriving DecidableEq, Repr

/-- The segment table of a packet; entries that cannot be read are empty (log 17). -/
def State.segTable (s : State) (part core : Nat) (p : List Byte) : List (BitVec 128) :=
  match (s.readHomeVa (unitWho part (pktCtx p) core) .read (fieldOf p 0x18 8 % 2 ^ 48) 256).2 with
  | .ok bs => (List.range 16).map fun k => BitVec.ofNat 128 (fieldOf bs (16 * k) 16)
  | .error _ => List.replicate 16 0

/-- Prepares the barrier window and tiles of a new block: every word zero, every band V clear and C set (R127). -/
def State.freshArrays (s : State) (core : Nat) (cv : Carve) : State :=
  let c := s.coreSt core
  let c := { c with spad := mclear c.spad (barAddr cv.bar0) 1024,
                    remote := c.remote.filter fun n => !(decide (cv.bar0 ≤ n) && decide (n < cv.bar0 + 128)) }
  let c := cv.tiles.foldl (fun (c : CoreSt) p =>
    (List.range 8).foldl (fun (c : CoreSt) b => c.tag p b false true) c) c
  (s.putCore core c).cleanSpad core (barAddr cv.bar0) 1024

/-- The teams of a block: each team's number with its role's shape. -/
def teamShapes (p : List Byte) : List (Nat × Shape) :=
  ((pktShapes p).flatMap fun x => List.replicate x.teams x).zipIdx.map fun (x, i) => (i, x)

/-- Releases a block of a node on a core (R126, R127); for a draw, with the target end of its root record's sp edge (R191,
R200). -/
def State.startBlock (s : State) (n : Node) (l : Launch) (core : Nat) (cv : Carve) : State :=
  let h := pktHeader n.pkt
  let fore := h.getLsbD 55
  let ctx := pktCtx n.pkt
  let rs := match l.draw with | some (_, _, rs) => rs | none => 0
  let id := s.nextId
  let b : Block :=
    { id := id, node := n.num, part := n.part, ctx := ctx, core := core, index := l.index, header := h,
      segs := s.segTable n.part core n.pkt, row0 := cv.row0, rows := hdrRows h, saveRows := hdrSave h, rsRows := rs,
      bar0 := cv.bar0, tiles := cv.tiles, gang := l.gang, gangN := l.gangN, gangId := l.gangId, rank := l.rank,
      nrank := l.nrank, ncore := (s.part n.part).cores.length, launch := s.clk, reserved := l.reserved, shared := l.shared,
      record := l.record, nteam := pktTeams n.pkt, roles := pktRoles n.pkt, cont := false, draw := none, saved := none,
      mem0 := s.mem, host0 := s.host }
  let b := match l.draw with
    | some (target, tiers, rs) => { b with draw := some (s.startDraw b l.record target tiers rs) }
    | none => b
  let pix := s.freePix n.part (pktTeams n.pkt)
  let mk (x : Nat × Shape) : Team :=
    let i := x.1
    let t : Team :=
      { tid := id + 1 + i, blk := id, core := core, slot := cv.slots.getD (if fore then i / 2 else i) 0,
        half := if fore then i % 2 else 0, fore := fore, num := i, lanes := x.2.lanes, pc := x.2.entry,
        farEntry := x.2.far, chunks := x.2.chunks, base := x.2.chunks, age := s.clk, pix := pix.getD i 0,
        gen := s.slotGen core (cv.slots.getD (if fore then i / 2 else i) 0) }
    { t with mask := if b.draw.isSome then 0 else t.all }
  let ts := (teamShapes n.pkt).map mk
  let s := (s.handOver core ctx cv.row0 b.allRows cv.tiles).freshArrays core cv
  let s := { s with blocks := s.blocks ++ [b], teams := s.teams ++ ts, nextId := id + 1 + ts.length }
  let up (q : QEntry) : QEntry :=
    if l.reserved.contains q.seq then { q with block := some id }
    else if l.shared == some q.seq then { q with taken := true, live := q.live + ts.length }
    else q
  let s := match s.node? n.num with
    | some n => s.putNode { n with queue := n.queue.map up, coalesced := none }
    | none => s
  let s := match b.draw with
    | some d => (s.putDraw b d).targetEnd core ctx false
    | none => s
  s.takeSlice n.part core ctx

/-- Room for a block of a node on the first core of a list, its private indices included (R172). -/
def State.roomFor (s : State) (n : Node) (rs : Nat) (cores : List Nat) : Option (Nat × Carve) :=
  if (s.freePix n.part (pktTeams n.pkt)).length < pktTeams n.pkt then none
  else s.firstRoom n.part (pktCtx n.pkt) (pktNeed n.pkt rs) cores

/-! ### What a node may start (R109 to R111, R149, R160, R188) -/

/-- Records that no block has reserved. -/
def Node.waiting (n : Node) : List QEntry := n.queue.filter fun (q : QEntry) => q.block.isNone && !q.taken

/-- T of a node in ns. -/
def Node.coalT (n : Node) : Nat := 1000 * fieldOf n.descBytes 0x12 2

/-- Whether R110 starts a block now. -/
def Node.triggered (n : Node) (now : Nat) : Bool :=
  match n.waiting with
  | [] => false
  | q :: qs => decide (n.coalC ≤ qs.length + 1) || n.coalesced == some q.seq || decide (q.arrived + n.coalT ≤ now)

/-- COALESCE_TIMEOUT (R110): the oldest unreserved record has waited T µs, and a block starts for it. -/
def execCoalesceTimeout (node : Nat) (s : State) : Out :=
  match s.node? node with
  | none => .next s
  | some n =>
    match n.waiting with
    | q :: _ => if q.arrived + n.coalT ≤ s.timeNs then .next (s.putNode { n with coalesced := some q.seq }) else .next s
    | [] => .next s

/-- A draw root record that is retired unlaunched (R149). -/
def rootBad (r : List Byte) : Bool :=
  !zeros r 0x24 4 || decide (16 ≤ fieldOf r 0x20 4) || fieldOf r 0x18 4 == 0 ||
    !(decide (1 ≤ fieldOf r 0x1C 2) && decide (fieldOf r 0x1C 2 ≤ 16384)) ||
    !(decide (1 ≤ fieldOf r 0x1E 2) && decide (fieldOf r 0x1E 2 ≤ 16384))

/-- A render-target descriptor that retires its draw (R188). -/
def surfaceBad (d r : List Byte) : Bool :=
  let color := fieldOf d 0 8; let depth := fieldOf d 8 8
  let cp := fieldOf d 0x10 4; let dp := fieldOf d 0x14 4
  let w := fieldOf d 0x18 2; let h := fieldOf d 0x1A 2
  let cf := fieldOf d 0x1C 1; let df := fieldOf d 0x1D 1
  !zeros d 0x1F 33 || (cf != 0 && (fmtBytes cf == 0 || cf == 0x0C || cf == 0x10)) || (color != 0) != (cf != 0) ||
    (depth != 0 && df == 0) || (depth == 0 && df == 0x10) || !(df == 0 || df == 0x10) || decide (7 ≤ fieldOf d 0x1E 1) ||
    decide (w < fieldOf r 0x1C 2) || decide (h < fieldOf r 0x1E 2) || decide (cp < 4 * w * fmtBytes cf) ||
    (df != 0 && decide (dp < 16 * w)) || color % 256 != 0 || depth % 256 != 0 || cp % 256 != 0 || dp % 256 != 0

/-- The surface of a root record, read before the draw's block is placed; none retires it. -/
def State.surface (s : State) (n : Node) (core : Nat) (root : List Byte) : Option (List Byte) :=
  match (s.readHomeVa (unitWho n.part (pktCtx n.pkt) core) .read (fieldOf root 0x10 8 % 2 ^ 48) 64).2 with
  | .ok d => if rootBad root || surfaceBad d root then none else some d
  | .error _ => none

/-- Cores of a multicast mask. -/
def pktCores (p : List Byte) : List Nat := setBits 160 (pktCmask p)

/-- Puts into a node's queue, for its entry `seq`, what `f` makes of it. -/
def State.onEntry (s : State) (num seq : Nat) (f : QEntry → QEntry) : State :=
  match s.node? num with
  | some n => s.putNode { n with queue := n.queue.map fun (q : QEntry) => if q.seq == seq then f q else q }
  | none => s

/-- A draw that fits its rate store: the target, the tier table and RS; none retires the record (R149, R160, R188). -/
def State.drawLaunch (s : State) (n : Node) (root : List Byte) (core rs : Nat) : Option (List Byte × List DWord × Nat) :=
  let tiers := s.tierTable n.part core n.pkt
  let need := entryBytes (tiers.getD 0 0) + fieldOf root 0x18 4 * entryBytes (tiers.getD 1 0) +
    chainBytes tiers (hdrLanes (pktHeader n.pkt))
  (s.surface n core root).bind fun d => if rs * 384 < need then none else some (d, tiers, rs)

/-- Room for a draw's block: with RS_PREF rows where that many are free, else with MIN_RS (R158). -/
def State.drawRoom (s : State) (n : Node) (cores : List Nat) : Option ((Nat × Carve) × Nat) :=
  let pref := pktRsPref n.pkt
  match if n.minRs ≤ pref then (s.roomFor n pref cores).map fun x => (x, pref) else none with
  | some x => some x
  | none => (s.roomFor n n.minRs cores).map fun x => (x, n.minRs)

/-- Whether a gang launch record is retired unlaunched (R116). -/
def gangBad (p : Part) (r : List Byte) : Bool :=
  let m := fieldOf r 0 1
  let c := fieldOf r 1 1
  m == 0 || decide (8 < m) || !zeros r 2 6 || (decide (20 ≤ c) && c != 0xFF) || decide (p.widest < m)

/-- Whether a record breaks the rule of its node's kind, so that it is retired unlaunched (R107, R111, R116, R149, R188). -/
def State.recordBad (s : State) (n : Node) (core : Nat) (r : List Byte) : Bool :=
  match n.kind with
  | 1 => n.nblock r == 0
  | 2 => gangBad (s.part n.part) r
  | 3 => (s.surface n core r).isNone
  | _ => false

/-- One copy of a multicast launch starts on its own core (R109) (log 112). -/
def State.startCopy (s : State) (n : Node) (q : QEntry) (core : Nat) (cv : Carve)
    (draw : Option (List Byte × List DWord × Nat)) : State :=
  let all := pktCores n.pkt
  let left := (if q.taken then q.cores else all).filter (· != core)
  let s := s.onEntry n.num q.seq fun q => { q with block := some 0, cores := left }
  s.startBlock n { index := BitVec.ofNat 64 q.seq, rank := (all.filter fun k => decide (k < core)).length,
                   nrank := all.length, shared := some q.seq, record := q.bytes, draw := draw } core cv

/-- The record that a multicast launch may begin: a RECORD or DRAW node's once R110 triggers, a grid's while a scheduler core
runs (R63). -/
def State.mcastFresh (s : State) (n : Node) : List QEntry :=
  let go := match n.kind with
    | 1 => s.pkg.schedUp
    | 2 => true
    | _ => n.triggered s.timeNs
  if go then n.waiting.take 1 else []

/-- Starts a multicast copy, or retires a record whose mask names a core that the partition does not have or that breaks the
rule of its kind (R109). DESIGN CHOICE (log 112): a record whose CMASK is 0, or of which a core leaves the partition once copies have
started, never retires. -/
def State.startMcast (s : State) (n : Node) (cores : List Nat) (max : Nat) : Option State :=
  let open_ := n.queue.filter fun (q : QEntry) => q.taken && !q.cores.isEmpty && !s.cancelled q.clients
  let fresh := s.mcastFresh n
  let w := unitWho n.part (pktCtx n.pkt) 0
  let outside := !(pktCores n.pkt).all fun k => (s.part n.part).cores.contains k
  match fresh.find? fun q => outside || s.recordBad n (cores.headD 0) q.bytes, open_ ++ fresh with
  | some q, _ => some (s.refuse w n.num q.seq)
  | none, qs =>
    if max < pktSlots n.pkt then none
    else qs.findSome? fun q =>
      let cs := cores.filter fun k => (if q.taken then q.cores else pktCores n.pkt).contains k
      if n.kind = 3 then
        (s.drawRoom n cs).map fun ((core, cv), rs) =>
          match s.drawLaunch n q.bytes core rs with
          | some d => s.startCopy n q core cv (some d)
          | none => if q.taken then s else s.refuse w n.num q.seq
      else (s.roomFor n 0 cs).map fun (core, cv) => s.startCopy n q core cv none

/-- Starts a block of a RECORD node (R110). -/
def State.startRecord (s : State) (n : Node) (cores : List Nat) (max : Nat) : Option State :=
  if !n.triggered s.timeNs || decide (max < pktSlots n.pkt) then none
  else
    let qs := n.waiting.take n.coalC
    (s.roomFor n 0 cores).map fun (core, cv) =>
      s.startBlock n { index := BitVec.ofNat 64 ((qs.head?.map QEntry.seq).getD 0), reserved := qs.map QEntry.seq } core cv

/-- Starts the next block of a grid, which the leaf reports (R65, R111); a new grid waits while no scheduler core runs (R63, R64). -/
def State.startGrid (s : State) (n : Node) (cores : List Nat) (max : Nat) : Option State :=
  match n.queue with
  | [] => none
  | q :: _ =>
    if n.nblock q.bytes = 0 then some (s.refuse (unitWho n.part (pktCtx n.pkt) 0) n.num q.seq)
    else if (!q.taken && !s.pkg.schedUp) || s.cancelled q.clients || decide (max < pktSlots n.pkt) then none
    else
      let i := if q.taken then n.nextBlock.toNat else 0
      if n.nblock q.bytes ≤ i then none
      else (s.roomFor n 0 cores).map fun (core, cv) =>
        let n' : Node := { n with nextBlock := BitVec.ofNat 64 (i + 1) }
        ((s.putNode n').startBlock n' { index := BitVec.ofNat 64 i, shared := some q.seq, record := q.bytes } core cv).sendUp
          (core / 8) n.num (.started q.seq (i + 1))

/-- Starts a draw (R148, R149, R158, R160, R188). -/
def State.startDrawBlock (s : State) (n : Node) (cores : List Nat) (max : Nat) : Option State :=
  if !n.triggered s.timeNs then none
  else
    match n.waiting with
    | [] => none
    | q :: _ =>
      let w := unitWho n.part (pktCtx n.pkt) (cores.headD 0)
      match s.surface n (cores.headD 0) q.bytes with
      | none => some (s.refuse w n.num q.seq)
      | some _ =>
        if max < pktSlots n.pkt then none
        else (s.drawRoom n cores).map fun ((core, cv), rs) =>
          match s.drawLaunch n q.bytes core rs with
          | none => s.refuse w n.num q.seq
          | some d => (s.onEntry n.num q.seq fun q => { q with block := some 0 }).startBlock n
              { index := BitVec.ofNat 64 q.seq, shared := some q.seq, record := q.bytes, draw := some d } core cv

/-- A record of cancelled client work that nothing runs: not handed out, or a shared one whose blocks have all ended (R37,
R45). -/
def State.staleEntry (s : State) (n : Node) : Option QEntry :=
  let used (q : QEntry) : Bool := (s.blocks.any fun b => b.node == n.num && b.shared == some q.seq) ||
    s.conts.any fun c => c.node == n.num && c.shared == some q.seq
  n.queue.find? fun q => s.cancelled q.clients &&
    (if n.shares && (q.taken || q.block == some 0) then !used q else !q.taken)

/-- A record of cancelled work leaves its queue without having run (log 90). -/
def State.dropEntry (s : State) (n : Node) (q : QEntry) : State :=
  s.retire (unitWho n.part (pktCtx n.pkt) 0) n.num q.seq true

/-- One start, or one record retired unlaunched, of a node on a list of cores within `max` team slots; none when there is
nothing to do. -/
def State.startNext (s : State) (n : Node) (cores : List Nat) (max : Nat) : Option State :=
  if !n.live || n.held || n.lost then none
  else match s.staleEntry n with
    | some q => some (s.dropEntry n q)
    | none =>
      if pktMcast n.pkt then s.startMcast n cores max
      else match n.kind with
        | 0 => s.startRecord n cores max
        | 1 => s.startGrid n cores max
        | 3 => s.startDrawBlock n cores max
        | _ => none

/-! ### Gangs (R116 to R118) -/

/-- Distinct cores of a cluster with room for one member each, in ascending order. -/
def State.gangRoom (s : State) (n : Node) : Nat → List Nat → Option (List (Nat × Carve))
  | 0, _ => some []
  | _ + 1, [] => none
  | m + 1, c :: cs =>
    match s.roomFor n 0 [c] with
    | some x => (s.gangRoom n m cs).map fun r => x :: r
    | none => s.gangRoom n (m + 1) cs

/-- Releases every member of a gang in one clk (R117); the placing leaf reports it, and no leaf reports a count of it any more
(R118) (log 48). -/
def State.startGang (s : State) (n : Node) (q : QEntry) (places : List (Nat × Carve)) : State :=
  let m := places.length
  let gid := s.nextId
  let s := { s with nextId := gid + 1 }
  let s := s.onEntry n.num q.seq fun q => { q with block := some 0 }
  let s := match s.node? n.num, places with
    | some m, x :: _ =>
      let old (y : Nat × LinkBody) : Bool := match y.2 with | .age _ _ => true | _ => false
      s.putNode ({ m with due := m.due.filter fun y => !old y }.report (x.1 / 8) .gangPlaced)
    | _, _ => s
  places.zipIdx.foldl (fun (s : State) (x : (Nat × Carve) × Nat) =>
    s.startBlock n { index := BitVec.ofNat 64 (fieldOf q.bytes 8 8 + x.2), gang := x.2, gangN := m, gangId := gid,
                     shared := some q.seq, record := q.bytes } x.1.1 x.1.2) s

/-- Counts one more failed round of the head gang in a cluster, and reports the count (R118). -/
def Node.failRound (n : Node) (c seq : Nat) : Node :=
  let f := if n.failedFor = seq + 1 then n.failed else []
  let k := Nat.min 255 (mget 0 f c + 1)
  ({ n with failedFor := seq + 1, failed := mset 0 f c k }).report c (.age seq k)

/-- Failed rounds of the head gang in a cluster. -/
def Node.failedIn (n : Node) (c : Nat) : Nat :=
  match n.waiting with
  | q :: _ => if n.failedFor = q.seq + 1 then mget 0 n.failed c else 0
  | [] => 0

/-- Whether a leaf tries a node's head gang in its rounds (R115 to R117). -/
def State.tries (s : State) (n : Node) (c : Nat) : Bool :=
  match n.waiting with
  | q :: _ => n.kind == 2 && !pktMcast n.pkt && !n.held && !n.lost && n.live && !s.cancelled q.clients &&
      (fieldOf q.bytes 1 1 == 0xFF || fieldOf q.bytes 1 1 == c) && (s.part n.part).cores.any fun k => k / 8 == c
  | [] => false

/-- Offers a node's head gangs in a cluster until one cannot be placed (R117): the gang behind a waiting head is not tried. -/
def State.offerGangs (s : State) (num c : Nat) : Nat → State
  | 0 => s
  | fuel + 1 =>
    match s.node? num with
    | none => s
    | some n =>
      match n.waiting with
      | [] => s
      | q :: _ =>
        let p := s.part n.part
        let want := fieldOf q.bytes 1 1
        if n.kind ≠ 2 ∨ pktMcast n.pkt ∨ n.held ∨ n.lost ∨ !n.live then s
        else if s.cancelled q.clients then (s.dropEntry n q).offerGangs num c fuel
        else if gangBad p q.bytes then
          (s.refuse (unitWho n.part (pktCtx n.pkt) 0) n.num q.seq).offerGangs num c fuel
        else if (want ≠ 0xFF ∧ want ≠ c) ∨ !(p.cores.any fun k => k / 8 == c) then s
        else if (s.freePix n.part (fieldOf q.bytes 0 1 * pktTeams n.pkt)).length < fieldOf q.bytes 0 1 * pktTeams n.pkt then
          s.putNode (n.failRound c q.seq)
        else
          match s.gangRoom n (fieldOf q.bytes 0 1) (clusterCores c) with
          | some places => (s.startGang n q places).offerGangs num c fuel
          | none => s.putNode (n.failRound c q.seq)

/-! ### Continuations (R105, R120, R422) -/

/-- The team of a continuation as its frame gives it, to run alone in a block `blk`. -/
def State.contTeam (s : State) (c : Cont) (core slot blk pix : Nat) : Team :=
  let w := unitWho c.part c.ctx core
  let rd (off n : Nat) : Nat := s.getField w (c.frame + off) n
  let words := ceilDiv c.lanes 32
  let lanesAt (k : Nat) : Lanes := BitVec.ofNat 1024
    (((List.range words).map fun j => rd (0x140 + 32 * j + 4 * k) 4 * 2 ^ (32 * j)).sum)
  let stackAt := 0x140 + 32 * words
  let entry (i : Nat) : Rejoin :=
    let x := rd (stackAt + 16 * i) 8
    { pc := BitVec.ofNat 48 x, kind := match bits x 49 48 with | 0 => .region | 1 => .pending | _ => .call }
  let live := bits c.header.toNat 47 40
  { tid := blk + 1, blk := blk, core := core, slot := slot, fore := c.header.getLsbD 55, num := rd 0x28 2, lanes := c.lanes,
    pc := BitVec.ofNat 48 (rd 0 8), mask := lanesAt 0, preds := mrow 0 7 fun p => lanesAt (p + 1),
    sregs := mrow 0 24 fun k => BitVec.ofNat 64 (rd (0x80 + 8 * k) 8),
    vregs := (List.range live).flatMap fun r =>
      (mrow 0 c.lanes fun l => BitVec.ofNat 32 (rd (stackAt + 512 + 4 * (c.lanes * r + l)) 4)).map fun x =>
        (1024 * r + x.1, x.2),
    chunks := hdrBase c.header, base := hdrBase c.header, stack := (List.range (rd 0x0E 1)).map entry, age := s.clk,
    pix := pix, frame := some c.frame, run := c.run, counters := c.counters, done := c.done, gen := s.slotGen core slot }

/-- Whether a continuation is ready: JOIN is 0, or the records of a spawner fit (R105, R120), or its node takes none any more, which
the instruction meets when it runs again (R102, R392). -/
def State.contReady (s : State) (c : Cont) : Bool :=
  match c.spawnWait with
  | none => s.join (unitWho c.part c.ctx 0) c.frame == 0
  | some (node, k) => (s.node? node).elim true fun n => n.status != .valid || decide (k ≤ n.free)

/-- What the one-team block of a continuation needs. -/
def Cont.need (c : Cont) : Need :=
  { slots := 1, granules := ceilDiv c.lanes 32 * hdrBase c.header, rows := hdrRows c.header + hdrSave c.header,
    tiles := fieldOf c.pkt 0x54 1 }

/-- Resumes a continuation as the only team of a new block (R120, R201). -/
def State.startCont (s : State) (c : Cont) (core : Nat) (cv : Carve) : State :=
  let id := s.nextId
  let b : Block :=
    { id := id, node := c.node, part := c.part, ctx := c.ctx, core := core, index := c.index, header := c.header,
      segs := c.segs, row0 := cv.row0, rows := hdrRows c.header, saveRows := hdrSave c.header, rsRows := 0, bar0 := cv.bar0,
      tiles := cv.tiles, gang := 0, gangN := 0, gangId := 0, rank := c.rank, nrank := c.nrank,
      ncore := (s.part c.part).cores.length, launch := s.clk, reserved := [], shared := c.shared, record := c.record,
      nteam := 1, roles := false, cont := true, draw := none, saved := none, mem0 := s.mem, host0 := s.host }
  let t := s.contTeam c core (cv.slots.headD 0) id ((s.freePix c.part 1).headD 0)
  let s := (s.handOver core c.ctx cv.row0 b.allRows cv.tiles).freshArrays core cv
  let s := { s with blocks := s.blocks ++ [b], teams := s.teams ++ [t], nextId := id + 2,
                    conts := s.conts.filter fun x => !(x.frame == c.frame && x.ctx == c.ctx) }
  (s.targetEnd core c.ctx true).takeSlice c.part core c.ctx

/-- Team slots that the blocks of a node hold in a cluster. -/
def State.slotsHeld (s : State) (num c : Nat) : Nat :=
  (((s.teams.filter fun t => t.resident && t.core / 8 == c && (s.blockOf t).node == num).map fun t =>
    16 * t.core + t.slot).dedup).length

/-- Quota of a node in a cluster as its leaf knows it; none for a node that the leaf does not know (R60). -/
def Node.quotaIn (n : Node) (c : Nat) : Option Nat :=
  match mget 0 n.leafQuota c with | 0 => none | k + 1 => some k

/-- Records of a multicast node of which copies have started and others have not (R109). -/
def Node.openCopies (n : Node) : List QEntry := n.queue.filter fun (q : QEntry) => q.taken && !q.cores.isEmpty

/-- Cores of a cluster on which the next block of a node may start: those of its mask that still await a copy for a multicast
launch (R109). -/
def Node.coresIn (n : Node) (c : Nat) : List Nat :=
  if pktMcast n.pkt then
    (clusterCores c).filter fun k => n.openCopies.any (fun q => q.cores.contains k) ||
      (!n.waiting.isEmpty && (pktCores n.pkt).contains k)
  else clusterCores c

/-- Whether no place of a node's quota has room for a block of it: in each cluster the quota is used up, or no core on which one
may start has what a block needs (R105). -/
def State.noPlace (s : State) (n : Node) : Bool :=
  (List.range 20).all fun c => match n.quotaIn c with
    | none => true
    | some k => decide (k - s.slotsHeld n.num c < pktSlots n.pkt) ||
        (s.roomFor n (if n.kind = 3 then n.minRs else 0) (n.coresIn c)).isNone

/-- A parked spawner that the leaf saves as a continuation, as AWAIT.steal would be: its target node has records waiting and
no place for a block (R105). -/
def State.saveSpawner (s : State) (t : Team) : State :=
  let e := s.envOf t
  match t.status, e.fetch.2 with
  | .spawn [], .instr i =>
    match i.body with
    | .v f =>
      match e.nodeNamed (e.uval f.sa.toNat) with
      | none => s
      | some n =>
        if (n.waiting.isEmpty && n.openCopies.isEmpty) || !s.noPlace n || e.plainAwait || e.engBusy then s
        else
          let k := (t.list (t.actNH f.h)).length
          match t.frame with
          | some fr => e.saveCont fr t.pc (some (n.num, k))
          | none =>
            match s.takeFrame e.owner (e.b.seg 13) e.b.node with
            | (s, some fr) => ({ e with s := s, t := { t with frame := some fr } }).saveCont fr t.pc (some (n.num, k))
            | (_, none) => s
    | _ => s
  | _, _ => s

/-! ### Placement rounds (R114, R424) -/

/-- Saved work of a cluster. -/
inductive Saved where
  | block (id : Nat)
  | gang (gid : Nat)
  | cont (frame ctx : Nat)
  deriving DecidableEq, Repr

/-- Saved work with its partition, its age and whether it is the lowest unfinished block of its grid. -/
structure SavedItem where
  what : Saved
  part : Nat
  age : Nat
  first : Bool
  deriving DecidableEq, Repr

/-- The saved work that a leaf resumes: the blocks that left its cluster, and the continuations that are ready. -/
def State.savedIn (s : State) (c : Nat) : List SavedItem :=
  let bs := s.blocks.filterMap fun b =>
    match b.saved with
    | some v =>
      if b.core / 8 ≠ c then none
      else if b.gangN = 0 then some { what := .block b.id, part := b.part, age := v.halted, first := s.protected b }
      else if ((s.gangBlocks b.gangId).find? fun m => m.saved.isSome).elim false (fun m => m.id == b.id) then
        some { what := .gang b.gangId, part := b.part, age := v.halted, first := false }
      else none
    | none => none
  let cs := (s.conts.filter s.contReady).map fun x =>
    ({ what := .cont x.frame x.ctx, part := x.part, age := x.since, first := false } : SavedItem)
  sortBy (fun a b => decide (a.age ≤ b.age)) (bs ++ cs)

/-- Oldest first, but the lowest unfinished block of a grid before any other of its partition (R112). -/
def firstOfGrid (all : List SavedItem) : List Nat → List SavedItem → List SavedItem
  | _, [] => []
  | seen, x :: xs =>
    if seen.contains x.part then (if x.first then firstOfGrid all seen xs else x :: firstOfGrid all seen xs)
    else (all.filter fun y => y.first && y.part == x.part) ++
      (if x.first then [] else [x]) ++ firstOfGrid all (x.part :: seen) xs

/-- Cores on which a halted block may be placed: those of its cluster, and for one that migrates, or whose cluster has no core of
the partition left, those of any other whose leaf runs (R63, R93, R94, R424). -/
def State.resumeCores (s : State) (b : Block) (c : Nat) : List (List Nat) :=
  match b.saved with
  | some v =>
    let stays := (clusterCores c).any fun k => Config.enable.getLsbD k && decide (1 ≤ ((s.part b.part).placeQuota k).slots)
    clusterCores c :: if v.migrating || !stays then
      ((List.range 20).filter fun k => k != c && s.pkg.leafUp k).map clusterCores else []
  | none => []

/-- A migrating member that finds no core of its cluster takes the whole gang with it (R94). -/
def State.gangFollows (s : State) (gid : Nat) : State :=
  let ms := s.gangBlocks gid
  let out := ms.filter fun b => b.saved.isSome
  if out.any (fun b => b.saved.elim false SaveArea.migrating) && out.length < ms.length then s.haltGang gid true true else s

/-- The first of a list of tries that succeeds. -/
def firstSome {α β : Type} (f : α → Option β) : List α → Option β
  | [] => none
  | x :: xs => match f x with | some y => some y | none => firstSome f xs

/-- The state after an attempt, and whether it has succeeded. -/
def orStay (s : State) : Option State → State × Bool
  | some s' => (s', true)
  | none => (s, false)

/-- Resumes one item of saved work, where there is room: the state, and whether it has resumed. -/
def State.resumeItem (s : State) (c : Nat) (x : SavedItem) : State × Bool :=
  match x.what with
  | .block id =>
    match s.block? id with
    | some b => orStay s (firstSome (s.resumeOn b) (s.resumeCores b c))
    | none => (s, false)
  | .gang gid =>
    match (s.gangBlocks gid).find? fun m => m.saved.isSome with
    | none => (s, false)
    | some b =>
      match s.resumeGang gid (clusterCores c) with
      | some s' => (s', true)
      | none =>
        let s := s.gangFollows gid
        let whole := (s.gangBlocks gid).all fun m => m.saved.isSome
        orStay s (firstSome (s.resumeGang gid) (if whole then s.resumeCores b c else []))
  | .cont fr ctx =>
    match s.conts.find? fun y => y.frame == fr && y.ctx == ctx with
    | none => (s, false)
    | some y =>
      match s.firstRoom y.part y.ctx y.need (clusterCores c) with
      | some (core, cv) => if (s.freePix y.part 1).isEmpty then (s, false) else (s.startCont y core cv, true)
      | none => (s, false)

/-- Step 1 of a round: the items in their order. Where the lowest unfinished block of a grid finds no room, no other item of its
partition resumes before it (R112); `shut` holds such partitions. -/
def State.resumeAll (c : Nat) : List Nat → List SavedItem → State → State
  | _, [], s => s
  | shut, x :: xs, s =>
    if shut.contains x.part && !x.first then State.resumeAll c shut xs s
    else
      let (s, ok) := s.resumeItem c x
      State.resumeAll c (if ok || !x.first then shut else x.part :: shut) xs s

/-- The item that a round would resume first, with the state that has it resumed. -/
def State.resumeFirst (s : State) (c : Nat) : List Nat → List SavedItem → Option (SavedItem × State)
  | _, [] => none
  | shut, x :: xs =>
    if shut.contains x.part && !x.first then s.resumeFirst c shut xs
    else
      let (s', ok) := s.resumeItem c x
      if ok then some (x, s') else s.resumeFirst c (if x.first then x.part :: shut else shut) xs

/-- The saved work of a cluster in the order in which a round takes it. -/
def State.resumeList (s : State) (c : Nat) : List SavedItem := firstOfGrid (s.savedIn c) [] (s.savedIn c)

/-- BLOCK_RESUME (R219): a saved block, or its gang, resumes on the named core, where its cluster's next round would resume it first
and there (R114, R424), while the leaf runs (R63). In a cluster that is FW_FAILED no round runs, and the blocks already there go on
to completion (R64) (log 50). -/
def execBlockResume (blk core : Nat) (s : State) : Out :=
  match s.block? blk with
  | none => .next s
  | some b =>
    let c := b.core / 8
    let failed := s.pkg.leafFailed.contains c
    let there (x : SavedItem) : Bool := match x.what with
      | .block id => !failed || (s.block? id).elim false fun b => b.saved.elim false fun v => !v.migrating
      | .gang _ => true
      | .cont _ _ => !failed
    if !s.pkg.leafUp c && !failed then .next s
    else match s.resumeFirst c [] ((s.resumeList c).filter there) with
      | some (x, s') =>
        let it := match x.what with
          | .block id => id == blk
          | .gang gid => b.gangN != 0 && b.gangId == gid
          | .cont _ _ => false
        if it && (s'.block? blk).elim false fun x => x.core == core then .next s' else .next s
      | none => .next s

/-- Step 3 for one node: blocks within its quota in the cluster. -/
def State.startWithin (s : State) (num c : Nat) : Nat → State
  | 0 => s
  | fuel + 1 =>
    match s.node? num with
    | none => s
    | some n =>
      match n.quotaIn c with
      | none => s
      | some k =>
        match s.startNext n (clusterCores c) (k - s.slotsHeld num c) with
        | some s => s.startWithin num c fuel
        | none => s

/-- Step 4 for one node: back-fill on what the quotas of others leave idle. Where back-fill is withheld, the lowest
unfinished block of a grid is still placed (R112, R118) (log 47). -/
def State.backfill (s : State) (num c : Nat) (withheld : Bool) : Nat → State
  | 0 => s
  | fuel + 1 =>
    match s.node? num with
    | none => s
    | some n =>
      let lowest := n.kind == 1 && s.gridOldest n == (if n.queue.head?.elim false QEntry.taken then n.nextBlock.toNat else 0)
      if (n.quotaIn c).isNone || (withheld && !lowest) then s
      else match s.startNext n (clusterCores c) 16 with
        | some s => s.backfill num c withheld fuel
        | none => s

/-- Nodes of the work graph in ascending number. -/
def State.nodeNums (s : State) : List Nat := sortNat (s.nodes.map Node.num)

/-- Moves one block's worth of quota to node `j` from a node whose occupancy `j` has exceeded twice for four rounds, and
reports it (R114). -/
def State.skewRound (s : State) (c j k : Nat) : State :=
  match s.node? j, s.node? k with
  | some a, some b =>
    match a.quotaIn c, b.quotaIn c with
    | some qa, some qb =>
      if a.part ≠ b.part ∨ j = k then s
      else
        let key := 4096 * c + k % 4096
        let m := if 2 * b.occupancy < a.occupancy then mget 0 a.skew key + 1 else 0
        let w := pktSlots a.pkt
        if 4 ≤ m ∧ w ≤ qb then
          let a := { a with skew := mset 0 a.skew key 0, leafQuota := mset 0 a.leafQuota c (qa + w + 1) }
          let b := { b with leafQuota := mset 0 b.leafQuota c (qb - w + 1) }
          (s.putNode (a.report c (.quotaMove w))).putNode (b.report c (.quotaMove (-w)))
        else s.putNode { a with skew := mset 0 a.skew key m }
    | _, _ => s
  | _, _ => s

/-- The rounds' comparison of every two nodes of a cluster. -/
def State.skewAll (s : State) (c : Nat) : State :=
  let ns := s.nodeNums
  ns.foldl (fun (s : State) j => ns.foldl (fun (s : State) k => s.skewRound c j k) s) s

/-- A leaf's report of one core for one node: whether a block of it holds a slot there (R65 PLACED). -/
def State.reportCore (s : State) (num core : Nat) : State :=
  match s.node? num with
  | none => s
  | some n =>
    let held := s.blocks.any fun b => b.node == num && b.core == core && b.saved.isNone
    if held = (mget 0 n.told core != 0) then s
    else s.putNode (({ n with told := mset 0 n.told core (if held then 1 else 0) }).report (core / 8) (.placed core held))

/-- A leaf reports what has changed on its cores since it last did. -/
def State.reportPlaced (s : State) (c : Nat) : State :=
  s.nodeNums.foldl (fun (s : State) n => (clusterCores c).foldl (fun (s : State) k => s.reportCore n k) s) s

/-- The round's offers of gangs go through the leaves in ascending order (R117): a leaf that has had its round begins the next one,
and one whose turn has not come waits (log 113). -/
def Pkg.takeTurn (p : Pkg) (leaf : Nat) : Pkg × Bool :=
  let done := if p.roundDone.contains leaf then [] else p.roundDone
  let turn := (List.range leaf).all fun c => !p.leafUp c || done.contains c
  ({ p with roundDone := if turn then leaf :: done else done }, turn)

/-- PLACEMENT_ROUND (R114): saved work, head gangs, blocks within quota, back-fill (none after a head gang has been tried and its
count is 8 or more, R118), then parked spawners (R105) and the comparison of occupancies; a MIGRATE with no block left to move ends
(R91). A leaf whose turn has not come does nothing yet (log 113). -/
def execPlacementRound (leaf : Nat) (s : State) : Out :=
  let (p, turn) := s.pkg.takeTurn leaf
  if 20 ≤ leaf || !s.pkg.booted || !s.pkg.leafUp leaf || !turn then .next s
  else
    let s := State.resumeAll leaf [] (s.resumeList leaf) { s with pkg := p }
    let ns := s.nodeNums
    let fuel := 129 + (s.nodes.map fun n => n.queue.length).sum
    let s := ns.foldl (fun (s : State) n => s.offerGangs n leaf fuel) s
    let s := ns.foldl (fun (s : State) n => s.startWithin n leaf fuel) s
    let withheld := s.nodes.any fun (n : Node) => s.tries n leaf && decide (8 ≤ n.failedIn leaf)
    let s := ns.foldl (fun (s : State) n => s.backfill n leaf withheld fuel) s
    let sp := s.teams.filter fun t => t.resident && t.core / 8 == leaf && t.status == .spawn []
    let s := sp.foldl (fun (s : State) (t : Team) => s.saveSpawner t) s
    .next ((List.range 16).foldl State.settleMigrate ((s.skewAll leaf).reportPlaced leaf))

end Sys2Proof.Machine
end

