-- ==== Sys2Proof/Machine/Migrate.lean ====
section
/-! DEFINITION. Migration of a block during a resize (R93, R94). -/

namespace Sys2Proof.Machine

/-- Halts a block that holds a departing resource: a gang member alone, its remote writes applied (R94). -/
def State.haltMigrating (s : State) (b : Block) : State :=
  (s.flushRemote fun r => r.src == b.id || r.dst == b.id).haltBlock b true []

/-- BLOCK_MIGRATE (R93, R94): the block is halted and saved; a placement round places it among the saved work of its cluster
(R424). -/
def execBlockMigrate (blk : Nat) (s : State) : Out :=
  match s.block? blk with
  | none => .next s
  | some b =>
    let p := s.part b.part
    if p.state ≠ .migrate ∨ !s.pkg.leafUp (b.core / 8) ∨ b.saved.isSome ∨ blk ∉ s.toMigrate p ∨ !s.mayMigrate p b then .next s
    else .next (s.haltMigrating b)

end Sys2Proof.Machine
end

