-- ==== Sys2Proof/Machine/Firmware.lean ====
section
/-! DEFINITION. The firmware tree: queue state blocks, command links, watchdogs and restarts (R57 to R67). -/

namespace Sys2Proof.Machine

/-! ### Command links (R58 to R60) -/

/-- POP removes the head entry and returns its permit. -/
def Link.pop (x : Link) : Link :=
  match x.inbox with
  | [] => x
  | _ :: r => { x with inbox := r, permits := Nat.min 16 (x.permits + 1) }

/-- A leaf numbers its messages about a node from LEAF_SEQ + 1 on (R60). -/
def Node.renumber (c : Nat) (n : Node) : Node := { n with leafSent := mset 0 n.leafSent c (mget 0 n.leafSeq c) }

/-- A restarted leaf sends again once its permits are all back, when every message that it sent before has been handled (R60). -/
def State.unmute (s : State) (c : Nat) : State :=
  let x := s.pkg.core (2 + c)
  if x.mute && (s.pkg.link (.up c)).permits == 16 then
    { s with nodes := s.nodes.map (Node.renumber c), pkg := s.pkg.putCore (2 + c) { x with mute := false } }
  else s

/-- A POP on a link. -/
def State.popLink (s : State) (l : LinkId) : State :=
  let s := { s with pkg := s.pkg.putLink l (s.pkg.link l).pop }
  match l with
  | .up c => s.unmute c
  | _ => s

/-- Quotas of a node by cluster. -/
def Node.quotaList (n : Node) : List Nat := (List.range 20).map fun c => mget 0 n.quota c

/-- A down message: the block as it stands, under the low half of its GEN. -/
def Node.downMsg (n : Node) (restore : Bool) : LinkMsg :=
  { node := n.num, seq := n.gen.truncate 32,
    body := if restore then .restore n.desc n.share n.quotaList else .setShare n.share n.quotaList }

/-- Whether a body announces a restore. -/
def isRestore : LinkBody → Bool
  | .announceRestore | .restore _ _ _ => true
  | _ => false

/-- LINK_MESSAGE_SEND (R58, R60): the sender numbers the message; a core that does not run sends nothing, and a leaf sends what
it has to report, the oldest first (R111, R114, R118). -/
def execLinkMessageSend (l : LinkId) (m : LinkMsg) (s : State) : Out :=
  match l, s.node? m.node with
  | _, none => .next s
  | .sorrel, some n =>
    let n := { n with sorrelSent := n.sorrelSent + 1 }
    .next ((s.putNode n).sendLink l { m with seq := n.sorrelSent })
  | .up c, some n =>
    if 20 ≤ c || !s.pkg.leafUp c || (s.pkg.core (2 + c)).mute || n.due.find? (·.1 == c) != some (c, m.body) then .next s
    else
      let k := mget 0 n.leafSent c + 1
      .next ((s.putNode { n with leafSent := mset 0 n.leafSent c k, due := n.due.erase (c, m.body) }).sendLink l
        { m with seq := k })
  | .down c, some n =>
    if 20 ≤ c || !s.pkg.schedUp then .next s else .next (s.sendLink l (n.downMsg (isRestore m.body)))

/-- Whether the receiver of a link runs. -/
def Pkg.receiverUp (p : Pkg) : LinkId → Bool
  | .down c => p.leafUp c
  | _ => p.schedUp

/-- INBOX_POP (R58) -/
def execInboxPop (l : LinkId) (s : State) : Out := if s.pkg.receiverUp l then .next (s.popLink l) else .next s

/-- Whether a record stands at the head of a node's queue, which the queue hardware tells (R66). -/
def Node.headIs (n : Node) (seq : Nat) : Bool := n.queue.head?.map QEntry.seq == some seq
/-- NEXT_BLOCK and OLDEST of the block begin anew with another root record (R111). -/
def Node.ofRoot (n : Node) (root : Nat) : Node :=
  if n.blkRoot = root + 1 then n else { n with blkRoot := root + 1, blkNext := 0, blkOldest := 0 }

/-- What a message from leaf `c` changes in a block (R65, R111, R114, R118): a count of a gang that no longer heads the queue, and
a number of a grid whose root record has retired, change nothing; numbers of a grid only rise, in whatever order links bring them. -/
def Node.applyUp (n : Node) (c : Nat) : LinkBody → Node
  | .age g r =>
    if n.headIs g then { n with age := mset 0 (if n.ageFor = g + 1 then n.age else []) c (Nat.min 255 r), ageFor := g + 1 } else n
  | .gangPlaced => { n with age := [], ageFor := 0 }
  | .started root k => if n.headIs root then
      let n := n.ofRoot root
      { n with blkNext := BitVec.ofNat 64 (Nat.max n.blkNext.toNat k) } else n
  | .oldest root k => if n.headIs root then
      let n := n.ofRoot root
      { n with blkOldest := BitVec.ofNat 64 (Nat.max n.blkOldest.toNat k) } else n
  | .quotaMove d => { n with quota := mset 0 n.quota c (((mget 0 n.quota c : Nat) : Int) + d).toNat }
  | .placed core held => { n with placed := mset 0 n.placed core (if held then 1 else 0) }
  | _ => n

/-- UP_MESSAGE_APPLY (R60): a number above LEAF_SEQ is applied and recorded; then the message is popped. -/
def execUpMessageApply (leaf : Nat) (s : State) : Out :=
  match (s.pkg.link (.up leaf)).inbox with
  | [] => .next s
  | m :: _ =>
    if 20 ≤ leaf || !s.pkg.schedUp then .next s
    else
      let s' := match s.node? m.node with
        | some n =>
          if (mget 0 n.leafSeq leaf).toNat < m.seq.toNat then
            let n := n.applyUp leaf m.body
            s.writeNode { n with leafSeq := mset 0 n.leafSeq leaf m.seq }
          else s
        | none => s
      .next (s'.popLink (.up leaf))

/-- Quotas of a message as the block holds them. -/
def quotaMap (q : List Nat) : Map Nat := mrow 0 20 fun c => q.getD c 0

/-- Whether a GEN is newer than another in serial order modulo 2^32. -/
def newer (a b : BitVec 32) : Bool := a != b && decide ((a - b).toNat < 2 ^ 31)

/-- What a leaf takes from a down message (R60, R67) (log 44). -/
def Node.applyDown (n : Node) (leaf : Nat) (seq : BitVec 32) (restore : Bool) (q : List Nat) : Node :=
  let last := if restore then 0 else mget 0 n.leafGen leaf
  if newer seq last then
    { n with leafGen := mset 0 n.leafGen leaf seq, leafQuota := mset 0 n.leafQuota leaf (q.getD leaf 0 + 1) }
  else n

/-- DOWN_MESSAGE_APPLY (R60): then the message is popped. -/
def execDownMessageApply (leaf : Nat) (s : State) : Out :=
  match (s.pkg.link (.down leaf)).inbox with
  | [] => .next s
  | m :: _ =>
    if 20 ≤ leaf || !s.pkg.leafUp leaf then .next s
    else
      let s' := match s.node? m.node, m.body with
        | some n, .setShare _ q => s.putNode (n.applyDown leaf m.seq false q)
        | some n, .restore _ _ q => s.putNode (n.applyDown leaf m.seq true q)
        | _, _ => s
      .next (s'.popLink (.down leaf))

/-- A LOST node's block is built again from a restore message, with GEN 1 (R67). DESIGN CHOICE (log 116): the fields that the
message does not carry keep their values. -/
def State.restoreNode (s : State) (n : Node) (seq : BitVec 32) (desc : BitVec 64) (share : Nat) (q : List Nat) : State :=
  let d := s.homeRead false (desc.toNat / 64 * 64) 64
  s.storeNode { n with desc := desc, descBytes := d, pkt := s.homeRead false (fieldOf d 8 8 / 128 * 128) 128, share := share,
                       quota := quotaMap q, lost := false, damaged := false, gen := 1, lastSeq := seq }

/-- The restored block is announced to every leaf (R67). -/
def State.announce (s : State) (num : Nat) : State :=
  (List.range 20).foldl (fun (s : State) c => match s.node? num with
    | some n => s.sendLink (.down c) (n.downMsg true)
    | none => s) s

/-- What a message from Sorrel does to a node (R60, R67): the body's fields and LAST_SEQ are written into its block, LAST_SEQ
last; a body that carries nothing for the block records its number alone. -/
def State.applySorrel (s : State) (n : Node) (m : LinkMsg) : State :=
  match m.body with
  | .setShare share q => s.writeNode { n with share := share, quota := quotaMap q, lastSeq := m.seq }
  | .restore desc share q => (s.restoreNode n m.seq desc share q).announce m.node
  | _ => s.writeNode { n with lastSeq := m.seq }

/-- The scheduler takes the message at the head of Sorrel's link (R60): applied only where its number is greater than LAST_SEQ,
popped in any case. -/
def State.takeSorrel (s : State) (m : LinkMsg) : State :=
  (match s.node? m.node with
    | some n => if n.lastSeq.toNat < m.seq.toNat then s.applySorrel n m else s
    | none => s).popLink .sorrel

/-- SORREL_MESSAGE_APPLY (R60) -/
def execSorrelMessageApply (s : State) : Out :=
  match (s.pkg.link .sorrel).inbox with
  | [] => .next s
  | m :: _ => if s.pkg.schedUp then .next (s.takeSorrel m) else .next s

/-- RESTORE_MESSAGE (R67): the message at the head of Sorrel's link restores a node; it is applied as every other (R60). -/
def execRestoreMessage (s : State) : Out :=
  match (s.pkg.link .sorrel).inbox with
  | [] => .next s
  | m :: _ => if s.pkg.schedUp && isRestore m.body then .next (s.takeSorrel m) else .next s

/-! ### Watchdogs (R61 to R64) -/

/-- End of the window that is in force. -/
def FwCore.close (c : FwCore) : Nat := Nat.max c.closeUs.toNat (c.openUs.toNat + 1)
/-- Whether a firmware core runs. -/
def FwCore.up (c : FwCore) : Bool := !c.restarting && !c.off

/-- A trip as the core's own registers take it: the core restarts. -/
def FwCore.trip (c : FwCore) (cause : BitVec 2) (now : Nat) : FwCore :=
  { c with trips := if c.trips = 255 then 255 else c.trips + 1, cause := cause, restarting := true,
           tripTimes := (c.tripTimes.filter fun t => decide (now < t + 1000000000)) ++ [now] }

/-- A leaf is given up: its cluster is FW_FAILED (R64); a migration of one of its blocks, halted or not, is aborted (R92). -/
def State.failLeaf (s : State) (c : Nat) : State :=
  let p := s.pkg.putCore (2 + c) { s.pkg.core (2 + c) with off := true, restarting := false }
  let s := ({ s with pkg := { p with leafFailed := c :: p.leafFailed } }).healthEvent 2 c
  (s.parts.map Part.id).foldl (fun (s : State) k =>
    let p := s.part k
    if p.state = .migrate ∧ (s.toMigrate p).any fun id => (s.block? id).elim false fun b => b.core / 8 == c then
      s.resizeAbort k 10
    else s.prepared k c) s

/-- The hardware fallback holds both dies at TH2 or above (R64). -/
def Pkg.fallBack (p : Pkg) : Pkg :=
  let p := { p with fallback := true, fastWait := [] }
  [0, 1].foldl (fun (p : Pkg) d =>
    { p with th := mset 0 p.th d (Nat.max 2 (p.target d)), pend := mset 0 p.pend d 0 }) p

/-- What three trips within one second bring (R64). -/
def State.thirdTrip (s : State) (k : Nat) : State :=
  let off (c : FwCore) : FwCore := { c with off := true, restarting := false }
  if k = 0 then
    let p := s.pkg.putCore 0 (off (s.pkg.core 0))
    { s with pkg := { p.putCore 1 { p.core 1 with off := false, restarting := true } with standbyActive := true } }
  else if k = 1 then
    let s := (s.healthBit 5).healthEvent 3 1
    { s with pkg := { s.pkg.putCore 1 (off (s.pkg.core 1)) with schedOff := true } }
  else if k = 22 then
    let s := (s.healthBit 4).healthEvent 4 22
    { s with pkg := s.pkg.fallBack }
  else s.failLeaf (k - 2)

/-- A watchdog trips (R61, R63, R64). An island that restarts has seen no 10 ms of low power yet (R18). -/
def State.trip (s : State) (k : Nat) (cause : BitVec 2) : State :=
  let c := (s.pkg.core k).trip cause s.timeNs
  let p := s.pkg.putCore k c
  let s := { s with pkg := if k = 22 then { p with lowSince := none } else p }
  if 3 ≤ c.tripTimes.length then s.thirdTrip k else s

/-- WD_KICK (R61) -/
def State.kick (s : State) (k : Nat) (key : BitVec 16) : State :=
  let c := s.pkg.core k
  let t := s.timeNs - c.kicked
  if 23 ≤ k || !c.up then s
  else if key ≠ 0x5AA5 then s.trip k 3
  else if t < 1000 * c.openUs.toNat then s.trip k 1
  else if 1000 * c.close ≤ t then s.trip k 2
  else
    { s with pkg := s.pkg.putCore k { c with kicked := s.timeNs, openUs := c.nextOpen.getD c.openUs,
                                             closeUs := c.nextClose.getD c.closeUs, nextOpen := none, nextClose := none } }
/-- WD_KICK -/
def execWdKick (core : Nat) (key : BitVec 16) (s : State) : Out := .next (s.kick core key)

/-- WD_LATE_TRIP (R61): no kick has arrived by CLOSE_US. -/
def execWdLateTrip (core : Nat) (s : State) : Out :=
  let c := s.pkg.core core
  if 23 ≤ core || !c.up || s.timeNs - c.kicked < 1000 * c.close then .next s else .next (s.trip core 2)

/-- Nodes whose blocks fail CHECK at a rebuild are LOST (R67). -/
def State.markLost (s : State) : State :=
  (s.nodes.filter fun (n : Node) => n.status != .empty && !n.lost && !n.checkOk).foldl (fun (s : State) (n : Node) =>
    (s.putNode { n with lost := true }).healthEvent 5 n.num) s

/-- A leaf rebuilds from the queue state blocks (R60, R66): what lay in neither them nor the hardware is gone. -/
def Node.rebuildLeaf (c : Nat) (n : Node) : Node :=
  { n.renumber c with skew := n.skew.filter fun x => x.1 / 4096 != c, due := n.due.filter fun x => x.1 != c,
                      told := (clusterCores c).foldl (fun m k => mset 0 m k (mget 0 n.placed k)) n.told,
                      leafGen := mset 0 n.leafGen c (n.gen.truncate 32),
                      leafQuota := mset 0 n.leafQuota c (if n.status == .valid || n.status == .retiring then mget 0 n.quota c + 1 else 0),
                      failed := mset 0 n.failed c (if n.ageFor = n.failedFor then mget 0 n.age c else 0) }

/-- NEXT_BLOCK of the present grid as a restarting leaf `c` finds it (R66): from the block, from reports that its scheduler has still
to take or other leaves to send, and from the blocks that the cores' slots hold. -/
def State.nextKnown (s : State) (c : Nat) (n : Node) (root : Nat) : Nat :=
  let told : LinkBody → Nat
    | .started r k => if r = root then k else 0
    | _ => 0
  let sent := (List.range 20).flatMap fun k =>
    ((s.pkg.link (.up k)).inbox.filter fun (m : LinkMsg) => m.node == n.num).map fun (m : LinkMsg) => told m.body
  let due := (n.due.filter fun x => x.1 != c).map fun x => told x.2
  let held := (s.blocks.filter fun b => b.node == n.num && b.shared == some root).map fun b => b.index.toNat + 1
  let saved := (s.conts.filter fun x => x.node == n.num && x.shared == some root).map fun x => x.index.toNat + 1
  (sent ++ due ++ held ++ saved).foldl Nat.max (if n.blkRoot = root + 1 then n.blkNext.toNat else 0)

/-- A leaf's rebuild of a node: beside the block, the present grid, of which it reports again what the block does not show. -/
def State.rebuildNode (s : State) (c : Nat) (n : Node) : Node :=
  let m := n.rebuildLeaf c
  match n.queue with
  | q :: _ =>
    if n.kind == 1 && !pktMcast n.pkt && q.taken then
      let m := { m with nextBlock := BitVec.ofNat 64 (s.nextKnown c n q.seq) }
      let b := m.ofRoot q.seq
      let m := if b.blkNext = m.nextBlock then m else m.report c (.started q.seq m.nextBlock.toNat)
      if b.blkOldest.toNat = s.gridOldest m then m else m.report c (.oldest q.seq (s.gridOldest m))
    else m
  | [] => m

/-- What a restarted core rebuilds; the scheduler takes HELD from the blocks and the fill of the queues from their hardware. -/
def State.rebuild (s : State) (k : Nat) : State :=
  if k = 22 then s
  else
    let s := s.markLost
    if k ≤ 1 then
      (List.range 16).foldl State.updateHeld { s with nodes := s.nodes.map fun (n : Node) => { n with held := n.blkHeld } }
    else
      let c := k - 2
      let x := s.pkg.core k
      { s with nodes := s.nodes.map (s.rebuildNode c),
               pkg := s.pkg.putCore k { x with mute := (s.pkg.link (.up c)).permits != 16 } }

/-- Whether a restart of the island may end: under the fallback at most once per second (R64). -/
def Pkg.restartDue (p : Pkg) (k now : Nat) : Bool :=
  k != 22 || !p.fallback || decide ((p.core 22).upSince + 1000000000 ≤ now)

/-- FIRMWARE_RESTART_DONE (R62, R63, R66): the window is the default again, and the core goes on at the head of its inbox. An
island that controls the throttle takes up the moves that have waited. -/
def execFirmwareRestartDone (core : Nat) (s : State) : Out :=
  let c := s.pkg.core core
  if 23 ≤ core || !c.restarting || !s.pkg.restartDue core s.timeNs then .next s
  else
    let c := { c with restarting := false, kicked := s.timeNs, upSince := s.timeNs, openUs := (fwWindow core).1,
                      closeUs := (fwWindow core).2, nextOpen := none, nextClose := none }
    let p := s.pkg.putCore core c
    .next (({ s with pkg := if core = 22 ∧ !p.fallback then p.recover else p }).rebuild core)

end Sys2Proof.Machine
end

