-- ==== Sys2Proof/Machine/Boot.lean ====
section
/-! DEFINITION. Package power-on and the quorum reset (R69, R70, R78, R79). -/

namespace Sys2Proof.Machine

/-- Whether an image verifies under a public key. -/
def imageOk (key : List Byte) (i : Image) : Bool := edVerify key i.bytes i.sig
/-- Whether every image of a slot verifies. -/
def slotOk (key : List Byte) (b : BootSlot) : Bool :=
  imageOk key b.island && imageOk key b.sched && imageOk key b.leaf && imageOk key b.sorrel
/-- The slot that the boot chain takes: the first, else the second (R78) (log 77). -/
def bootFrom (b : BootArgs) : Option BootSlot :=
  if sha512 b.key != Config.romKeyDigest then none
  else if slotOk b.key b.slot0 then some b.slot0
  else if slotOk b.key b.slot1 then some b.slot1
  else none

/-- A measurement register at package reset. -/
def measZero : List Byte := List.replicate 64 0
/-- Extends a measurement register with an image (R79). -/
def extend (m image : List Byte) : List Byte := sha512 (m ++ sha512 image)

/-- Properties that every device tree carries: the node /uzonus,sorrel (R56). -/
def sorrelTree : List DtProp :=
  [{ node := "/uzonus,sorrel", prop := "version", value := Config.sorrelVersion.zeroExtend 32 },
   { node := "/uzonus,sorrel", prop := "call-extension", value := 0x09555A01 }]

/-! ### The flattened device tree (R56) -/

/-- A big-endian cell of the tree. -/
def dtCell (x : Nat) : List Byte := (leBytes 4 x).reverse
/-- Bytes of an ASCII text. -/
def asciiBytes (t : String) : List Byte := t.toList.map fun c => BitVec.ofNat 8 c.toNat
/-- Zeros up to the next cell. -/
def dtPad (bs : List Byte) : List Byte := bs ++ List.replicate (roundUp bs.length 4 - bs.length) 0
/-- A node with its contents: BEGIN_NODE, the name, the contents, END_NODE. -/
def dtNode (name : String) (inner : List Byte) : List Byte :=
  dtCell 1 ++ dtPad (asciiBytes name ++ [0]) ++ inner ++ dtCell 2
/-- A property of one cell, with the place of its name in the strings block. -/
def dtProp (nameAt : Nat) (v : Word) : List Byte := dtCell 3 ++ dtCell 4 ++ dtCell nameAt ++ dtCell v.toNat

/-- The strings block: the names of sorrelTree, then those of the rest of the description. -/
def dtStrings (part : Nat) : List Byte :=
  asciiBytes "version" ++ [0] ++ asciiBytes "call-extension" ++ [0] ++ Config.treeStrings part
/-- The structure block: the root holds the description of the partition, whose tokens are free in whole cells, and the node
/uzonus,sorrel. -/
def dtStruct (part : Nat) : List Byte :=
  let rest := Config.treeTokens part
  dtNode "" (rest.flatMap dtCell ++
    dtNode "uzonus,sorrel" (dtProp 0 (Config.sorrelVersion.zeroExtend 32) ++ dtProp 8 0x09555A01)) ++ dtCell 9

/-- The tree that a1 names. PRESUMED (log 34) from the Devicetree Specification, version 17 of the format: header, an empty list
of reserved memory, the structure block and the strings block. -/
def flatTree (part : Nat) (hart : DWord) : List Byte :=
  let st := dtStruct part
  let tx := dtStrings part
  [0xD00DFEED, 56 + st.length + tx.length, 56, 56 + st.length, 40, 17, 16, hart.toNat % 2 ^ 32, tx.length, st.length].flatMap dtCell ++
    List.replicate 16 0 ++ st ++ tx

/-- An address that Sorrel chose for a partition (log 34). -/
def sorrelPlace (part k : Nat) : Nat := (Config.sorrelAddr (16 * part + k)).toNat

/-- First supervisor physical address of the package register block (R34). -/
def pkgBase : Nat := 0xFFF0_0000_0000

/-- The harts of a guest system at its start: the boot hart runs from the entry point with the tree in a1, and the others are
stopped. -/
def Part.startHarts (p : Part) : Map Hart :=
  mset {} [] p.hart.toNat { stopped := false, startAt := p.entry, arg := p.treeAt }

/-- The partition of a guest system as Sorrel starts it in VS-mode: its resources are those that a resize gives it, and Sorrel
backs its context page table, its pool area and its device tree with frames, and where it maps the package register block, the 16
pages of that (R34, R53, R56, R184) (log 34). -/
def bootPart (k : Nat) (image : List Byte) : Part :=
  let a := sorrelPlace k
  let pool := a 1 / 65536 * 65536
  let ctxPage := a 2 / 4096 * 4096
  let tree := a 7 / 8 * 8
  let hart := BitVec.ofNat 64 (a 6)
  let pkgReg := if Config.mapsPkgReg k then a 4 / 4096 * 4096 else 0
  let treePages := (List.range ((tree % 4096 + (flatTree k hart).length + 4095) / 4096)).map (tree / 4096 + ·)
  let pages := (ctxPage / 4096) :: (List.range 16).map (pool / 4096 + ·) ++ treePages
  let p : Part :=
    { id := k, live := true, meas := extend measZero image, groot := a 0 / 16384 * 16384, pool := pool, ctxPage := ctxPage,
      nodeTab := a 3 / 65536 * 65536, pkgReg := pkgReg,
      own := (if pkgReg = 0 then [] else (List.range 16).map fun i => (pkgReg / 4096 + i, pkgBase / 4096 + i)) ++
        pages.map fun g => (g, Config.sorrelFrame k g % 2 ^ 27),
      entry := BitVec.ofNat 64 (a 5), hart := hart, treeAt := BitVec.ofNat 64 tree, tree := sorrelTree }
  { p with harts := p.startHarts }

/-- Sorrel's pages of a partition at boot: CAP and SIZE of the pool descriptors hold their values (R184), and the device tree
stands at its address (R56). -/
def State.bootPool (s : State) (part : Nat) : State :=
  let p := s.part part
  let t := (List.range 3).foldl (fun (s : State) code =>
    (s.putPool p (64 * code + 0x10) 4 2048).putPool p (64 * code + 0x14) 1 code) s
  let t := (t.gpaWrite part p.treeAt.toNat (flatTree part p.hart)).getD t
  { s with mem := t.mem, host := t.host, writers := t.writers, poison := t.poison }

/-- The package as power-on leaves it. Always-on memory keeps the request counter, the powered hours, the W1C health bits and
which dies have aged: such a die is never in TH0 (R77) (log 35). -/
def Pkg.cold (p : Pkg) (now : Nat) : Pkg :=
  { nonceCtr := p.nonceCtr, hours := p.hours + now / 3600000000000, health := p.health &&& 0x1F, cowslip := p.cowslip,
    agedCap := p.agedCap, th := p.agedCap.foldl (fun m d => mset 0 m d 1) [] }

/-- The part at power-on: nothing runs, and memory that power does not keep reads as its default. -/
def State.cold (s : State) : State :=
  { State.reset with inputs := s.inputs, tick := s.tick, sel := s.sel, host := s.host, pkg := s.pkg.cold s.timeNs }

/-- PACKAGE_POWER_ON (R78, R79): the images are verified and measured, then Sorrel starts the guest systems; with no good
slot the island stays in recovery. -/
def execPackagePowerOn (b : BootArgs) (s : State) : Out :=
  let c := s.cold
  match bootFrom b with
  | none => .next { c with pkg := { c.pkg with recovery := true } }
  | some x =>
    let m := [x.island, x.sched, x.leaf, x.sorrel].map fun i => extend measZero i.bytes
    let guests := b.guests.filter fun g => decide (g.1 < 16)
    let parts := guests.foldl (fun (ps : List Part) g =>
      if ps.any fun p => p.id == g.1 then ps else ps ++ [bootPart g.1 g.2]) []
    let c : State := { c with parts := parts, pkg := { c.pkg with booted := true, meas := m.zipIdx.map fun y => (y.2, y.1) } }
    .next ((parts.map Part.id).foldl State.bootPool c)

/-! ### The quorum reset (R70) -/

/-- A partition as its guest system boots again: its resources stay, and a resize goes on (log 36). -/
def Part.reboot (p : Part) : Part := { p with intake := 0 }

/-- A firmware core after a reset at `now` that is not a package power-on: TRIPS and CAUSE go on (R61). -/
def FwCore.reset (c : FwCore) (k now : Nat) : FwCore :=
  { freshCore k with trips := c.trips, cause := c.cause, kicked := now, upSince := now }

/-- Every core, engine and firmware core but the island is reset, EPOCH counts and the event is recorded. -/
def State.quorumReset (s : State) : State :=
  let p := s.pkg
  let fw := ((List.range 22).map fun k => (k, (p.core k).reset k s.timeNs)) ++ p.fw.filter fun c => c.1 == 22
  let s := { s with cores := [], teams := [], blocks := [], conts := [], nodes := [], ctxs := [], groups := [], storeQ := [],
                    loadQ := [], remoteQ := [], tlb := [], writers := [], spadPoison := [], left := [], parts := s.parts.map Part.reboot,
                    pkg := { p with fw := fw, roundDone := [], links := [], leafFailed := [], standbyActive := false,
                                    schedOff := false, health := p.health &&& 0x1F, hbEpoch := p.hbEpoch + 1, funcs := [],
                                    irqs := [], neighbours := p.neighbours.map fun (n : Neighbour) =>
                                      { n with reset := none } } }
  (s.healthBit 3).healthEvent 6 0

/-- RESET_REQUEST_RECEIVE (R70) -/
def execResetRequestReceive (msg : List Byte) (s : State) : Out :=
  if !s.pkg.hbEnable || !s.pkg.islandUp || !s.pkg.accepts msg then .next s
  else
    let n := s.pkg.neighbour (BitVec.ofNat 64 (fieldOf msg 4 8))
    let p := s.pkg.putNeighbour { n with ctr := BitVec.ofNat 64 (fieldOf msg 28 8), reset := some s.timeNs }
    let s := { s with pkg := p }
    if p.quorum s.timeNs then .next s.quorumReset else .next s

end Sys2Proof.Machine
end

