-- ==== Sys2Proof/Machine/Endpoint.lean ====
section
/-! DEFINITION. The PCIe endpoint: queue pairs, commands of clients and function resets (R32 to R46). -/

namespace Sys2Proof.Machine

/-! ### Pairs (R36 to R39) -/

/-- Entries of the SQ. -/
def Pair.sqSize (p : Pair) : Nat := 2 ^ bits p.cfg.toNat 3 0
/-- Entries of the CQ. -/
def Pair.cqSize (p : Pair) : Nat := 2 ^ bits p.cfg.toNat 11 8

/-- A queue pair of a function. -/
def State.pairAt (s : State) (fn q : Nat) : Pair := (s.pkg.func fn).pair q
/-- Replaces a queue pair. -/
def State.putPairAt (s : State) (fn q : Nat) (p : Pair) : State :=
  { s with pkg := s.pkg.putFunc fn ((s.pkg.func fn).putPair q p) }

/-- Whether a function answers: a VF does while VF Enable is 1 (R32, R46). DESIGN CHOICE (log 120): VF Enable enables all 63. -/
def State.fnUp (s : State) (fn : Nat) : Bool := decide (fn < 64) && (fn == 0 || s.pkg.vfEnable)
/-- A pair that the function has, while its writes count (R34, R45). -/
def State.pairReady (s : State) (fn q : Nat) : Bool := s.fnUp fn && decide (q < 16) && (s.pkg.func fn).ready

/-- A pair enters ERROR (R37). -/
def Pair.toError (p : Pair) (cause : BitVec 4) : Pair :=
  { p with state := 2, err := cause, ahead := 0, fetched := [], flight := [], due := [] }

/-- Records of cancelled work that nothing runs leave a node's queue, `n` of them at most. -/
def State.purgeNode (s : State) (num : Nat) : Nat → State
  | 0 => s
  | n + 1 => match (s.node? num).bind fun x => (s.staleEntry x).map fun e => (x, e) with
    | some (x, e) => (s.dropEntry x e).purgeNode num n
    | none => s
/-- Records of cancelled work that nothing runs leave every queue (R37, R45, log 90). -/
def State.purge (s : State) : State := s.nodes.foldl (fun (s : State) (n : Node) => s.purgeNode n.num n.queue.length) s

/-- Commands of a pair are cancelled: none of their records starts any more (R37, R45). -/
def State.cancel (s : State) (fn q : Nat) (idxs : List Nat) : State :=
  let f := s.pkg.func fn
  ({ s with pkg := s.pkg.putFunc fn { f with cancelled := f.cancelled ++ idxs.map fun k => (q, k) } }).purge

/-- Whether work of a cancelled command of the pairs that `sel` selects still runs. -/
def State.cancelledRuns (s : State) (fn : Nat) (sel : Nat → Bool) : Bool :=
  s.nodes.any fun (n : Node) => n.queue.any fun (e : QEntry) => e.clients.any fun c =>
    c.fn == fn && sel c.q && (s.pkg.func fn).cancelled.contains (c.q, c.idx)

/-- A pair enters ERROR, and every command of it that is running is cancelled (R37). -/
def State.errorPair (s : State) (fn q : Nat) (p : Pair) (cause : BitVec 4) : State :=
  (s.putPairAt fn q (p.toError cause)).cancel fn q (p.flight.map Cmd.idx)

/-- An enable of a pair in IDLE or ERROR (R36). DESIGN CHOICE (log 119): of several causes the first in the rule's order is
recorded. -/
def Pair.enable (p : Pair) (bound : Bool) : Pair :=
  let sq := bits p.cfg.toNat 3 0
  let cq := bits p.cfg.toNat 11 8
  let p := { p with enabled := true }
  if sq < 2 ∨ 12 < sq ∨ cq < 2 ∨ 12 < cq ∨ cq < sq then p.toError 1
  else if p.sqBase.toNat % 4096 ≠ 0 ∨ p.cqBase.toNat % 4096 ≠ 0 then p.toError 2
  else if !bound then p.toError 3
  else { p with state := 1, sqHead := 0, sqTail := 0, ahead := 0, cqHead := 0, cqWrite := 0, phase := true, fetched := [],
                flight := [], due := [] }

/-- A command's fields (R40): opcode, FLAGS, CID, NODE, PTR0 and NREC. -/
def Cmd.opc (c : Cmd) : Nat := fieldOf c.entry 0 1
/-- FLAGS -/
def Cmd.flags (c : Cmd) : Nat := fieldOf c.entry 1 1
/-- CID; an entry that could not be fetched has 0xFFFF (R45). -/
def Cmd.cid (c : Cmd) : BitVec 16 := if c.entry.isEmpty then 0xFFFF else BitVec.ofNat 16 (fieldOf c.entry 2 2)
/-- NODE -/
def Cmd.node (c : Cmd) : Nat := fieldOf c.entry 4 3
/-- PTR0 -/
def Cmd.ptr (c : Cmd) : Nat := fieldOf c.entry 8 8
/-- NREC -/
def Cmd.nrec (c : Cmd) : Nat := fieldOf c.entry 16 4
/-- A nonzero reserved field or FLAGS bit (R40). -/
def Cmd.fieldBad (c : Cmd) : Bool := c.flags / 4 != 0 || fieldOf c.entry 7 1 != 0 || fieldOf c.entry 20 4 != 0
/-- A reserved opcode (R41). -/
def Cmd.reservedOp (c : Cmd) : Bool := decide (5 ≤ c.opc) && decide (c.opc < 0x80)

/-- Status codes (R42). -/
def stSuccess : BitVec 15 := 0
/-- INVALID_OPCODE -/
def stOpcode : BitVec 15 := 1
/-- INVALID_FIELD -/
def stField : BitVec 15 := 2
/-- NODE_UNKNOWN -/
def stNode : BitVec 15 := 3
/-- DMA_FAULT -/
def stDma : BitVec 15 := 4
/-- RESET -/
def stReset : BitVec 15 := 5
/-- ABORTED -/
def stAborted : BitVec 15 := 6
/-- WORK_FAULT -/
def stWork : BitVec 15 := 7

/-- A command completes; QUIET writes no completion for a SUCCESS (R40). -/
def Pair.complete (p : Pair) (c : Cmd) (st : BitVec 15) (result : Nat) : Pair :=
  let p := { p with flight := p.flight.filter fun (x : Cmd) => x.idx != c.idx,
                    fetched := p.fetched.filter fun (x : Cmd) => x.idx != c.idx }
  if c.flags.testBit 1 && st == stSuccess then p
  else { p with due := p.due ++ [{ idx := c.idx, cid := c.cid, status := st, result := BitVec.ofNat 32 result }] }

/-- Whether a fetched command may start (R40): with ORDER, once every earlier one has completed (log 91). -/
def Pair.mayStart (p : Pair) (c : Cmd) : Bool := p.state == 1 && (!c.flags.testBit 0 || p.flight.isEmpty)

/-- Commands that break R40, or whose opcode is reserved, complete in their turn. -/
def Pair.sift (p : Pair) : Nat → Pair
  | 0 => p
  | n + 1 =>
    match p.fetched with
    | [] => p
    | c :: _ =>
      if !p.mayStart c then p
      else if c.fieldBad then (p.complete c stField 0).sift n
      else if c.reservedOp then (p.complete c stOpcode 0).sift n
      else p

/-- A pair after a change: what waits only for its turn is sifted. -/
def Pair.settle (p : Pair) : Pair := p.sift p.fetched.length

/-- A disable of an ACTIVE pair: commands not yet started complete with ABORTED (R37). -/
def Pair.drain (p : Pair) : Pair :=
  p.fetched.foldl (fun (p : Pair) (c : Cmd) => p.complete c stAborted 0) { p with state := 3, enabled := false }

/-- A write of QCFG (R36, R37). -/
def Pair.writeCfg (p : Pair) (bound : Bool) (v : Nat) : Pair :=
  let keep := p.state == 1 || p.state == 3
  let vec := 2 ^ 16 * bits v 23 16
  let logs := if keep then 256 * bits p.cfg.toNat 11 8 + bits p.cfg.toNat 3 0 else 256 * bits v 11 8 + bits v 3 0
  let p := { p with cfg := BitVec.ofNat 32 (vec + logs) }
  if v.testBit 31 then (if keep then p else p.enable bound)
  else if p.state = 1 then p.drain
  else if p.state = 2 then { p with enabled := false }
  else p

/-- Whether a function is bound (R34, R35). -/
def Func.bound (f : Func) : Bool := decide (f.part.toNat < 16)

/-- A write of QCFG of a function's pair. -/
def State.writeQcfg (s : State) (fn q v : Nat) : State :=
  if s.pairReady fn q then s.putPairAt fn q ((s.pairAt fn q).writeCfg (s.pkg.func fn).bound v) else s

/-- QP_ENABLE (R36) -/
def execQpEnable (fn q : Nat) (cfg : BitVec 32) (s : State) : Out :=
  .next (s.writeQcfg fn q (2 ^ 31 + cfg.toNat % 2 ^ 31))
/-- QP_DISABLE (R37): the other fields of QCFG are written as they stand. -/
def execQpDisable (fn q : Nat) (s : State) : Out := .next (s.writeQcfg fn q ((s.pairAt fn q).cfg.toNat % 2 ^ 31))

/-- QP_DRAIN_DONE (R37): no command remains. -/
def execQpDrainDone (fn q : Nat) (s : State) : Out :=
  let p := s.pairAt fn q
  if p.state = 3 ∧ p.ahead = 0 ∧ p.fetched = [] ∧ p.flight = [] ∧ p.due = [] then
    .next (s.putPairAt fn q { p with state := 0 })
  else .next s

/-- Client commands whose records a block holds. -/
def State.blockClients (s : State) (b : Block) : List Client :=
  (s.teams.filter fun t => t.blk == b.id).flatMap s.clientsOf ++
    match s.node? b.node with
    | some n => (n.queue.filter fun (q : QEntry) => q.block == some b.id).flatMap QEntry.clients
    | none => []

/-- The blocks that run records of the cancelled commands of the pairs that `sel` selects are aborted, and the records leave
their queues. -/
def State.stopCancelled (s : State) (fn : Nat) (sel : Nat → Bool) : State :=
  let hit (b : Block) : Bool := (s.blockClients b).any fun c =>
    c.fn == fn && sel c.q && (s.pkg.func fn).cancelled.contains (c.q, c.idx)
  ((s.blocks.filter hit).foldl (fun (s : State) (b : Block) => match s.block? b.id with
    | some b => s.abortBlock b
    | none => s) s).purge

/-- A pair in ERROR with ENABLE = 0 enters IDLE once none of its cancelled commands runs (R37). -/
def State.errorIdle (s : State) (fn q : Nat) : State :=
  let p := s.pairAt fn q
  if p.enabled || s.cancelledRuns fn (· == q) then s
  else
    let f := s.pkg.func fn
    let f : Func := { f with cancelled := f.cancelled.filter fun x => x.1 != q }
    { s with pkg := s.pkg.putFunc fn (f.putPair q { p with state := 0 }) }

/-- QP_ERROR_STOPPED (R37): the cancelled commands of a pair in ERROR stop, within 50 ms: what still runs of them is aborted
(log 90). -/
def execQpErrorStopped (fn q : Nat) (s : State) : Out :=
  if (s.pairAt fn q).state = 2 then .next ((s.stopCancelled fn (· == q)).errorIdle fn q) else .next s

/-- SQN_WRITE (R38). DEDUCED (log 118): each write announces the entries from the old tail up to the new one, modulo the SQ
size, so what a client announces beyond the SQ's size is fetched from the slots again. -/
def State.writeTail (s : State) (fn q v : Nat) : State :=
  let p := s.pairAt fn q
  let tail := bits v 15 0
  if !s.pairReady fn q || p.state != 1 then s
  else if p.sqSize ≤ tail then s.errorPair fn q p 4
  else s.putPairAt fn q { p with sqTail := tail, ahead := p.ahead + (tail + p.sqSize - p.sqTail) % p.sqSize }
/-- SQN_WRITE -/
def execSqnWrite (fn q : Nat) (v : BitVec 32) (s : State) : Out := .next (s.writeTail fn q v.toNat)

/-- A write of CQH (R38). -/
def State.writeHead (s : State) (fn q v : Nat) : State :=
  let p := s.pairAt fn q
  if !s.pairReady fn q || p.state != 1 then s
  else if p.cqSize ≤ bits v 15 0 then s.errorPair fn q p 4
  else s.putPairAt fn q { p with cqHead := bits v 15 0 }
/-- CQH_WRITE -/
def execCqhWrite (fn q : Nat) (v : BitVec 32) (s : State) : Out := .next (s.writeHead fn q v.toNat)

/-! ### Host memory -/

/-- Bytes of host memory at a bus address. -/
def State.hostRead (s : State) (a n : Nat) : List Byte := s.homeRead false (hostBase + a) n
/-- Writes host memory. -/
def State.hostWrite (s : State) (a : Nat) (bs : List Byte) : State := s.homeWrite false (hostBase + a) bs

/-! ### Fetch and completion (R39, R43) -/

/-- Room in the intake ring of the guest that serves a function (R43, R51). -/
def State.intakeRoom (s : State) (f : Func) : Bool :=
  let used := ((s.pkg.funcs.filter fun (x : Nat × Func) => x.2.part == f.part).map fun x =>
    (x.2.pairs.map fun y => y.2.fetched.length).sum).sum
  decide (used < (match (s.part f.part.toNat).intake with | 0 => 256 | n => n))

/-- Host address of the entry at SQ_HEAD. -/
def Pair.entryAt (p : Pair) : Nat := p.sqBase.toNat + 64 * p.sqHead

/-- The next announced entry is fetched, with its bytes. -/
def Pair.fetchEntry (p : Pair) (entry : List Byte) : Pair :=
  let c : Cmd := { idx := p.count, entry := entry }
  let p := { p with count := p.count + 1, sqHead := (p.sqHead + 1) % p.sqSize, ahead := p.ahead - 1 }
  if p.state = 3 then p.complete c stAborted 0 else { p with fetched := p.fetched ++ [c] }

/-- SQ_ENTRY_FETCH (R43, R37) -/
def execSqEntryFetch (fn q : Nat) (faults : Bool) (s : State) : Out :=
  let p := s.pairAt fn q
  if !s.pairReady fn q || !(p.state == 1 || p.state == 3) || p.ahead == 0 then .next s
  else if faults then .next (s.errorPair fn q p 5)
  else if p.state == 1 && !s.intakeRoom (s.pkg.func fn) then .next s
  else .next (s.putPairAt fn q (p.fetchEntry (s.hostRead p.entryAt 64)).settle)

/-- Whether the CQ has a free slot (R39). -/
def Pair.slotFree (p : Pair) : Bool := (p.cqWrite + 1) % p.cqSize != p.cqHead

/-- The 16 bytes of a completion. -/
def Pair.entryOf (p : Pair) (q : Nat) (c : Compl) : List Byte :=
  leBytes 4 c.result.toNat ++ leBytes 4 0 ++ leBytes 2 p.sqHead ++ leBytes 2 q ++ leBytes 2 c.cid.toNat ++
    leBytes 2 (2 * c.status.toNat + if p.phase then 1 else 0)

/-- Writes a completion at the CQ write index, which advances. -/
def State.writeCompl (s : State) (fn q : Nat) (c : Compl) : State :=
  let p := s.pairAt fn q
  let w := (p.cqWrite + 1) % p.cqSize
  let s := s.hostWrite (p.cqBase.toNat + 16 * p.cqWrite) (p.entryOf q c)
  s.putPairAt fn q { p with cqWrite := w, phase := if w = 0 then !p.phase else p.phase,
                            due := p.due.filter fun (x : Compl) => x.idx != c.idx }

/-- Reset value of a byte of the MSI-X table: the Mask bit of each entry is 1. PRESUMED (log 120): PCIe. -/
def msixReset (off : Nat) : Byte := if off % 16 = 12 then 1 else 0
/-- A byte of a function's MSI-X table; Func.msixTab holds what differs from its reset value. -/
def Func.msixByte (f : Func) (off : Nat) : Byte := mget 0 f.msixTab off ^^^ msixReset off
/-- Whether a vector is masked. -/
def Func.masked (f : Func) (vec : Nat) : Bool := (f.msixByte (16 * vec + 12)).getLsbD 0

/-- A function sends the message of a vector, or marks it pending while the vector is masked (R32, R33, log 120). -/
def Func.raise (f : Func) (vec : Nat) : Func :=
  if 16 < vec then f
  else if f.masked vec then { f with msixPend := f.msixPend ||| BitVec.ofNat 17 (2 ^ vec) }
  else { f with msix := f.msix ++ [vec] }
/-- Raises a vector of a function. -/
def State.raise (s : State) (fn vec : Nat) : State := { s with pkg := s.pkg.putFunc fn ((s.pkg.func fn).raise vec) }

/-- Whether a store goes to host memory. -/
def StoreEnt.toHost (e : StoreEnt) : Bool := !e.chip && decide (hostBase ≤ e.pa)

/-- COMPLETION_WRITE (R39, R44): earlier data writes to the host are visible first. -/
def execCompletionWrite (fn q : Nat) (cid : BitVec 16) (faults : Bool) (s : State) : Out :=
  let p := s.pairAt fn q
  if !s.pairReady fn q || !(p.state == 1 || p.state == 3) || !p.slotFree then .next s
  else
    match p.due.find? fun (x : Compl) => x.cid == cid with
    | none => .next s
    | some c =>
      if faults then .next (s.errorPair fn q p 6)
      else .next (((s.flushWhere StoreEnt.toHost).writeCompl fn q c).raise fn (bits p.cfg.toNat 23 16))

/-! ### Commands (R40 to R44) -/

/-- The command that starts next, where it may start and has an opcode that `sel` selects. -/
def Pair.nextCmd (p : Pair) (sel : Nat → Bool) : Option Cmd :=
  match p.fetched with
  | [] => none
  | c :: _ => if p.mayStart c && sel c.opc then some c else none

/-- Runs the next command of an opcode. -/
def State.startCmd (s : State) (fn q : Nat) (sel : Nat → Bool) (k : Pair → Cmd → State) : Out :=
  if !s.pairReady fn q then .next s
  else
    let p := s.pairAt fn q
    match p.nextCmd sel with
    | some c => .next (k p c)
    | none => .next s

/-- The command completes at once. -/
def State.finishCmd (s : State) (fn q : Nat) (p : Pair) (c : Cmd) (st : BitVec 15) (result : Nat) : State :=
  s.putPairAt fn q (p.complete c st result).settle

/-- A registered node. -/
def State.validNode (s : State) (num : Nat) : Option Node :=
  (s.node? num).bind fun n => if n.status == .valid then some n else none
/-- The node that a command names in the exported set as it starts (R54); none is NODE_UNKNOWN. -/
def State.clientNode (s : State) (fn : Nat) (c : Cmd) : Option Node :=
  ((s.pkg.func fn).exported[c.node]?).bind s.validNode

/-- SQE_NOP -/
def execSqeNop (fn q : Nat) (s : State) : Out :=
  s.startCmd fn q (· == 0) fun p c =>
    s.finishCmd fn q p c (if c.nrec ≠ 0 ∨ c.ptr ≠ 0 then stField else stSuccess) 0

/-- QUERY -/
def execQuery (fn q : Nat) (s : State) : Out :=
  s.startCmd fn q (· == 4) fun p c =>
    if c.nrec ≠ 0 ∨ c.ptr ≠ 0 then s.finishCmd fn q p c stField 0
    else match s.clientNode fn c with
      | none => s.finishCmd fn q p c stNode 0
      | some n => s.finishCmd fn q p c stSuccess n.free

/-- GUEST_DEFINED_COMMAND: STATUS and RESULT are the guest's. Values that R42 never writes, and those that it gives to resets, to
disabled pairs and to ENQUEUE_WAIT alone, do nothing. -/
def execGuestDefinedCommand (fn q : Nat) (status : BitVec 15) (result : BitVec 32) (s : State) : Out :=
  if 5 ≤ status.toNat ∧ status.toNat < 0x4000 then .next s
  else s.startCmd fn q (decide <| 0x80 ≤ ·) fun p c => s.finishCmd fn q p c status result.toNat

/-- Records of an ENQUEUE in host memory. -/
def State.clientRecords (s : State) (c : Cmd) (n : Nat) : List (List Byte) :=
  (List.range n).map fun i => s.hostRead (c.ptr + 64 * i) 64

/-- Whether a command has nothing left to enqueue, and it completes then: an ENQUEUE_WAIT awaits what it has enqueued. -/
def Cmd.over (c : Cmd) : Bool := c.recs.isEmpty && (c.opc != 2 || c.sent == 0)

/-- A started command goes on: it puts in the records that its node's queue has room for, in array order. The command of a node
that has retired ends (R43, R54). -/
def State.enqueueMore (s : State) (fn q : Nat) (p : Pair) (c : Cmd) : State :=
  let (s, c) := match s.validNode (c.target.getD 0) with
    | none => (s, { c with recs := [], stop := some (if c.recs.isEmpty then c.stop.getD stNode else stNode) })
    | some n =>
      let k := Nat.min n.free c.recs.length
      ((s.putNode (n.enterAll s.timeNs 0 (pktCtx n.pkt) [{ fn := fn, q := q, idx := c.idx }] (c.recs.take k))).updateHeld n.part,
       { c with recs := c.recs.drop k, sent := c.sent + k, live := c.live + k })
  if c.over then s.finishCmd fn q p c (c.stop.getD stSuccess) c.sent
  else s.putPairAt fn q { p with flight := p.flight.map fun (x : Cmd) => if x.idx == c.idx then c else x }

/-- The first command of an opcode that can go on now: its node has room or has retired, and no earlier command of the SQ has
records left for that node (R43). -/
def State.goesOn (s : State) (opc : Nat) : List Nat → List Cmd → Option Cmd
  | _, [] => none
  | busy, c :: cs =>
    let t := c.target.getD 0
    let room := match s.validNode t with | some n => decide (0 < n.free) | none => true
    if c.recs.isEmpty then s.goesOn opc busy cs
    else if c.opc == opc && room && !busy.contains t then some c
    else s.goesOn opc (t :: busy) cs

/-- A command starts: its node is the one that the exported set names now, and its records are read now (R43, R54). It goes on at
once where it can. -/
def State.startEnqueue (s : State) (fn q : Nat) (p : Pair) (c : Cmd) (n : Node) (recs : List (List Byte))
    (stop : Option (BitVec 15)) : State :=
  let c := { c with target := some n.num, recs := recs, stop := stop }
  let p := { p with fetched := p.fetched.filter fun (x : Cmd) => x.idx != c.idx, flight := p.flight ++ [c] }
  let s := s.putPairAt fn q p.settle
  let p := s.pairAt fn q
  if recs.isEmpty then s.finishCmd fn q p c (stop.getD stSuccess) 0
  else match s.goesOn c.opc [] p.flight with
    | some x => if x.idx = c.idx then s.enqueueMore fn q p c else s
    | none => s

/-- ENQUEUE, ENQUEUE_WAIT and ENQUEUE_INLINE (R41, R43): a started command goes on, else the next one starts as `k` says. -/
def State.enqueue (s : State) (fn q opc : Nat) (k : Pair → Cmd → State) : Out :=
  let p := s.pairAt fn q
  if !s.pairReady fn q || !(p.state == 1 || p.state == 3) then .next s
  else
    match s.goesOn opc [] p.flight with
    | some c => .next (s.enqueueMore fn q p c)
    | none => s.startCmd fn q (· == opc) k

/-- The start of an ENQUEUE or ENQUEUE_WAIT: the read of record `faultAt` of its array faults. -/
def State.startArray (s : State) (fn q : Nat) (faultAt : Option Nat) (p : Pair) (c : Cmd) : State :=
  if c.nrec = 0 ∨ 4096 < c.nrec ∨ c.ptr % 64 ≠ 0 then s.finishCmd fn q p c stField 0
  else match s.clientNode fn c with
    | none => s.finishCmd fn q p c stNode 0
    | some n =>
      let j := Nat.min (faultAt.getD c.nrec) c.nrec
      s.startEnqueue fn q p c n (s.clientRecords c j) (if j < c.nrec then some stDma else none)

/-- ENQUEUE -/
def execEnqueue (fn q : Nat) (dmaFaultAt : Option Nat) (s : State) : Out := s.enqueue fn q 1 (s.startArray fn q dmaFaultAt)
/-- ENQUEUE_WAIT -/
def execEnqueueWait (fn q : Nat) (dmaFaultAt : Option Nat) (s : State) : Out :=
  s.enqueue fn q 2 (s.startArray fn q dmaFaultAt)
/-- ENQUEUE_INLINE: it waits for room (R43). -/
def execEnqueueInline (fn q : Nat) (s : State) : Out :=
  s.enqueue fn q 3 fun p c =>
    if c.nrec ≠ 0 ∨ c.ptr ≠ 0 then s.finishCmd fn q p c stField 0
    else match s.clientNode fn c with
      | none => s.finishCmd fn q p c stNode 0
      | some n => s.startEnqueue fn q p c n [(c.entry.drop 24).take 40 ++ List.replicate 24 0] none

/-- ENQUEUE_WAIT_DONE (R44): every record and every joined descendant has retired. DESIGN CHOICE (log 124): a command that an
earlier failure has stopped reports that one, whatever became of the records enqueued before it. -/
def execEnqueueWaitDone (fn q : Nat) (cid : BitVec 16) (s : State) : Out :=
  let p := s.pairAt fn q
  if !s.pairReady fn q then .next s
  else
    match p.flight.find? fun (x : Cmd) => x.opc == 2 && x.cid == cid && x.recs.isEmpty && x.live == 0 with
    | some c => .next (s.finishCmd fn q p c (c.stop.getD (if c.bad then stWork else stSuccess)) c.sent)
    | none => .next s

/-! ### Resets (R45, R46) -/

/-- Every announced entry is fetched (step 2); one that cannot be fetched has no bytes. -/
def State.fetchAll (s : State) : Nat → Pair → Pair
  | 0, p => p
  | n + 1, p =>
    s.fetchAll n (p.fetchEntry (if Config.fetchFails s.tick p.entryAt then [] else s.hostRead p.entryAt 64))

/-- Commands of a pair that have no completion write issued, in SQ order: place in the order of fetch and CID. -/
def Pair.unfinished (p : Pair) : List (Nat × BitVec 16) :=
  sortBy (fun a b => decide (a.1 ≤ b.1))
    (p.due.map (fun c => (c.idx, c.cid)) ++ (p.flight ++ p.fetched).map fun c => (c.idx, c.cid))

/-- Steps 2 to 4 for one pair: its commands are cancelled, and after what the function's work has written to the host RESET
completions go into the free slots (R44). -/
def State.resetPair (s : State) (fn q : Nat) : State :=
  let p := s.pairAt fn q
  let p := if p.state = 1 ∨ p.state = 3 then s.fetchAll p.ahead p else p
  let cs := p.unfinished
  let s := (s.putPairAt fn q { p with ahead := 0, fetched := [], flight := [], due := [] }).cancel fn q (cs.map Prod.fst)
  cs.foldl (fun (s : State) c =>
    if (s.pairAt fn q).slotFree then s.writeCompl fn q { idx := c.1, cid := c.2, status := stReset, result := 0 }
    else
      let f := s.pkg.func fn
      { s with pkg := s.pkg.putFunc fn { f with dropped := f.dropped + 1 } }) (s.flushWhere StoreEnt.toHost)

/-- A function reaches its reset point (R45). -/
def State.flr (s : State) (fn : Nat) : State :=
  let f := s.pkg.func fn
  if 64 ≤ fn || f.resetting then s
  else
    let f := { f with resetting := true, ready := false, resetAt := s.timeNs, dropped := 0 }
    let s := { s with pkg := s.pkg.putFunc fn f }
    (sortNat (f.pairs.map Prod.fst)).foldl (fun (s : State) q => s.resetPair fn q) s

/-- VF Enable becomes 0: every enabled VF is reset, and none answers any more (R46). -/
def State.clearVfEnable (s : State) : State :=
  let s := if s.pkg.vfEnable then ((List.range 63).map (· + 1)).foldl (fun (s : State) fn => s.flr fn) s else s
  { s with pkg := { s.pkg with vfEnable := false } }
/-- A reset of the PF: of every enabled VF and then of the PF, at one point (R46). -/
def State.resetAll (s : State) : State := s.clearVfEnable.flr 0
/-- FLR_INITIATE (R45, R46): a configuration write reaches a function that answers; that of the PF clears VF Enable. -/
def execFlrInitiate (fn : Nat) (s : State) : Out :=
  .next (if fn = 0 then s.resetAll else if s.fnUp fn then s.flr fn else s)
/-- PF_FLR (R46) -/
def execPfFlr (s : State) : Out := .next s.resetAll
/-- HOT_RESET (R46) -/
def execHotReset (s : State) : Out := .next s.resetAll

/-- FLR_ABORT_TIMEOUT (R45 step 3): after 50 ms Sorrel aborts the blocks of the cancelled commands. -/
def execFlrAbortTimeout (fn : Nat) (s : State) : Out :=
  let f := s.pkg.func fn
  if !f.resetting || s.timeNs < f.resetAt + 50000000 then .next s else .next (s.stopCancelled fn fun _ => true)

/-- FLR_COMPLETE (R45 step 5): no work of the function runs any more; every register of it takes its reset value (log 90). -/
def execFlrComplete (fn : Nat) (s : State) : Out :=
  let f := s.pkg.func fn
  if f.resetting && !s.cancelledRuns fn (fun _ => true) then
    let ps := f.pairs.map fun (x : Nat × Pair) => (x.1, { count := x.2.count : Pair })
    .next { s with pkg := s.pkg.putFunc fn { pairs := ps } }
  else .next s

end Sys2Proof.Machine
end

