-- ==== Sys2Proof/Machine/Readout.lean ====
section
/-! DEFINITION. What registers read as (R5, R6): the package register block, BAR0 of a function, context register pages, private
pages of firmware cores, health registers, node tables and VF Enable. Reserved bits, write-only fields and offsets that hold no
register read 0. The reads that clear what they show (RC) are PORT_STATUS_READ and SMP_DROPPED_READ. -/

namespace Sys2Proof.Machine

/-- Bits of a number from flags, bit 0 first. -/
def flagBits : List Bool → Nat
  | [] => 0
  | b :: bs => (if b then 1 else 0) + 2 * flagBits bs
/-- The 32-bit word `k` of a value. -/
def wordOf (x k : Nat) : Nat := x / 2 ^ (32 * k) % 2 ^ 32
/-- A set of small numbers as bits. -/
def setOf (l : List Nat) : Nat := l.foldl (fun a k => a ||| 2 ^ k) 0

/-! ### The package register block (R34) -/

/-- Power status (R19). -/
def Pkg.powerStatus (p : Pkg) : Nat :=
  2 ^ 16 * p.pkgW.toNat + 2 ^ 8 * p.tempMax.toNat + 2 ^ 6 * (mget 0 p.th 1 % 4) + 2 ^ 4 * (mget 0 p.th 0 % 4) +
    flagBits [p.capped, p.fasttrip, p.thermal]
/-- Power cap (R19). -/
def Pkg.powerCap (p : Pkg) : Nat := 2 ^ 16 * p.floor.toNat + p.capW.toNat
/-- HB_CTL (R68). -/
def Pkg.hbCtl (p : Pkg) : Nat := (if p.hbEnable then 2 ^ 31 else 0) + p.hbPeriod.toNat
/-- Port control (R25): RETRAIN is write-only. -/
def Port.control (q : Port) : Nat := 2 ^ 4 * q.retryLimit.toNat + flagBits [q.enable]

/-- DRN_CTL (R88): GO is write-only. -/
def Part.drnCtl (p : Part) : Nat := flagBits [false, p.drnBusy, p.drnFault]

/-- A register of a partition's block (R87): CMD of PCTL is write-only. -/
def State.readPartReg (s : State) (part off : Nat) : Nat :=
  let p := s.part part
  match off with
  | 0x00 => 2 ^ 4 * p.migTmo.toNat
  | 0x04 => s.pstat p
  | 0x08 | 0x0C | 0x10 | 0x14 | 0x18 => wordOf (setOf (coreSet p.quotas)) ((off - 0x08) / 4)
  | 0x20 | 0x24 | 0x28 | 0x2C => wordOf p.heldSlices.toNat ((off - 0x20) / 4)
  | 0x30 => p.groups.toNat
  | 0x60 | 0x64 | 0x68 | 0x6C => wordOf p.tSlices.toNat ((off - 0x60) / 4)
  | 0x70 => p.tGroups.toNat
  | 0x80 | 0x84 => wordOf p.drnSrc.toNat ((off - 0x80) / 4)
  | 0x88 | 0x8C => wordOf p.drnDst.toNat ((off - 0x88) / 4)
  | 0x90 => p.drnCtl
  | _ => 0

/-- A data register of the quota window: 0 QSLOT, 1 QROWS, 2 QBAR (R88). -/
def Quota.read (q : Quota) (reg : Nat) : Nat :=
  match reg with
  | 0 => 2 ^ 16 * q.granules + 2 ^ 8 * q.slots + q.slot0
  | 1 => 2 ^ 16 * q.rows + q.row0
  | _ => 2 ^ 16 * q.bars + q.bar0

/-- The quota that QSEL selects, current or staged by STAGED; cores from 160 on show 0 (R88). -/
def State.readQuota (s : State) (reg : Nat) : Nat :=
  let sel := s.pkg.qsel.toNat
  let core := bits sel 7 0
  let p := s.part (bits sel 27 24)
  if 160 ≤ core then 0 else (if sel.testBit 31 then p.tQuota core else p.quota core).read reg

/-- A register of the package block: DMAP0 to DMAP4 and DSIG (R12), PART_ID (R262), power (R19), HB_CTL (R68), ports (R25), partitions (R87) and the
quota window (R88). -/
def State.readPkgReg (s : State) (off : Nat) : Nat :=
  if off % 4 ≠ 0 then 0
  else if off ≤ 0x10 then wordOf Config.enable.toNat (off / 4)
  else if off = 0x14 then wordOf dsig 0
  else if off = 0x18 then wordOf dsig 1
  else if off = 0x1C then partId.toNat
  else if off = 0x100 then s.pkg.powerStatus
  else if off = 0x104 then s.pkg.powerCap
  else if off = 0x200 then s.pkg.hbCtl
  else if 0x1000 ≤ off ∧ off < 0x1600 then
    let q := s.pkg.port ((off - 0x1000) / 0x40)
    if off % 0x40 = 0 then q.status else if off % 0x40 = 4 then q.control else 0
  else if 0x2000 ≤ off ∧ off < 0x3000 then s.readPartReg ((off - 0x2000) / 0x100) (off % 0x100)
  else if off = 0x3000 then s.pkg.qsel.toNat
  else if off = 0x3004 ∨ off = 0x3008 ∨ off = 0x300C then s.readQuota ((off - 0x3004) / 4)
  else 0

/-- A byte of memory as a guest system sees it: pages of the package block that Sorrel maps show its registers (R34). -/
def State.guestByte (s : State) (pa : Nat) : Byte :=
  if pkgBase ≤ pa then BitVec.ofNat 8 (s.readPkgReg ((pa - pkgBase) / 4 * 4) / 2 ^ (8 * (pa % 4))) else s.homeByte false pa
/-- Bytes of a guest system at guest physical addresses; none where an address does not translate. -/
def State.guestRead (s : State) (part a n : Nat) : Option (List Byte) :=
  (List.range n).mapM fun i => (s.gpa? part (a + i)).map s.guestByte

/-! ### BAR0 of a function (R33) -/

/-- FSTAT (R34). -/
def Func.fstat (f : Func) : Nat := 2 ^ 24 * f.part.toNat + 2 ^ 8 * 0x10 + flagBits [f.ready, f.resetting]
/-- QCFG (R35). -/
def Pair.qcfg (p : Pair) : Nat := (if p.enabled then 2 ^ 31 else 0) + p.cfg.toNat
/-- QSTAT. -/
def Pair.qstat (p : Pair) : Nat := 2 ^ 16 * p.sqHead + 2 ^ 8 * p.err.toNat + p.state.toNat

/-- A register of a queue pair. -/
def Pair.read (p : Pair) (off : Nat) : Nat :=
  match off with
  | 0x00 | 0x04 => wordOf p.sqBase.toNat (off / 4)
  | 0x08 | 0x0C => wordOf p.cqBase.toNat ((off - 8) / 4)
  | 0x10 => p.qcfg
  | 0x14 => p.qstat
  | _ => 0

/-- A register of BAR0: SQN and CQH are write-only. A function that does not answer reads as all ones. PRESUMED (log 120): PCIe. -/
def State.readBar0 (s : State) (fn off : Nat) : Nat :=
  let f := s.pkg.func fn
  if !s.fnUp fn then 2 ^ 32 - 1
  else if off % 4 ≠ 0 then 0
  else if off = 0 then f.fstat
  else if 0x1000 ≤ off ∧ off < 0x1400 then (f.pair ((off - 0x1000) / 0x40)).read (off % 0x40)
  else if 0xC000 ≤ off ∧ off < 0xC110 then leNat ((List.range 4).map fun k => f.msixByte (off - 0xC000 + k))
  else if off = 0xD000 then f.msixPend.toNat
  else if fn = 0 ∧ 0x10_0000 ≤ off ∧ off < 0x11_0000 then s.readPkgReg (off - 0x10_0000)
  else 0

/-! ### Context register pages, firmware cores and node tables (R61, R102, R175, R211) -/

/-- A double word of a context's register page: GO of TLBI_CTL is write-only. -/
def State.readCtxReg (s : State) (c : Ctx) (off : Nat) : Nat :=
  match off with
  | 0x00 => c.id
  | 0x08 => c.vroot.toNat
  | 0x10 => c.hb.toNat
  | 0x18 => c.hl.toNat
  | 0x20 => c.ho.toNat
  | 0x28 => (if c.heapEn then 2 ^ 31 else 0) + 2 ^ 4 * c.heapErr.toNat
  | 0x30 => c.hvec.toNat
  | 0x40 => 2 ^ 8 * flagBits [c.tlbiBusy] + c.tlbiScope.toNat
  | 0x48 => c.tlbiVa.toNat
  | _ => if 0x100 ≤ off ∧ off < 0x900 ∧ off % 8 = 0 then (s.csr c ((off - 0x100) / 8)).toNat else 0

/-- WD_WIN or WD_KICK of a firmware core: WD_WIN shows the window last written, and KEY is write-only. -/
def FwCore.read (f : FwCore) (off : Nat) : Nat :=
  match off with
  | 0x200 => 2 ^ 16 * (f.nextClose.getD f.closeUs).toNat + (f.nextOpen.getD f.openUs).toNat
  | 0x204 => 2 ^ 24 * f.trips.toNat + 2 ^ 16 * f.cause.toNat
  | _ => 0

/-- STATE of a node table entry (R102). -/
def NodeStatus.code : NodeStatus → Nat
  | .empty => 0 | .valid => 1 | .retiring => 2 | .badDesc => 3 | .badShape => 4 | .badGang => 5 | .rateStore => 6

/-- A double word of a node table. -/
def State.readNodeTab (s : State) (part off : Nat) : Nat :=
  if 16 ≤ part ∨ 65536 ≤ off then 0
  else match s.node? (2 ^ 20 * part + off / 16) with
    | none => 0
    | some n =>
      if off % 16 = 0 then 2 ^ 32 * n.refused.toNat + 2 ^ 8 * n.status.code + flagBits [n.validReq]
      else if off % 16 = 8 then n.desc.toNat
      else 0

/-- What a register reads as. -/
def State.readReg (s : State) (r : RegSpace) (off : Nat) : Nat :=
  match r with
  | .pkg => s.readPkgReg off
  | .bar0 fn => s.readBar0 fn off
  | .ctxPage k => (s.ctxs.find? fun (c : Ctx) => c.id == k).elim 0 fun c => s.readCtxReg c off
  | .fw k => (s.pkg.core k).read off
  | .health => s.healthReg off
  | .nodeTable part => s.readNodeTab part off
  | .vfEnable => flagBits [s.pkg.vfEnable]

end Sys2Proof.Machine
end

