-- ==== Sys2Proof/Machine/Calls.lean ====
section
/-! DEFINITION. Calls of guest systems to Sorrel (R47 to R56, R79, R80, R85, R184). -/

namespace Sys2Proof.Machine

/-! ### Answers (R47 to R49) -/

/-- Status of a Sorrel call in a0 (R48). -/
inductive CallStatus where
  | failed | notSupported | invalidParam | denied | invalidAddress | busy
  deriving DecidableEq, Repr

/-- Value of a status in a0. -/
def CallStatus.code : CallStatus → Int
  | .failed => -1 | .notSupported => -2 | .invalidParam => -3 | .denied => -4 | .invalidAddress => -5 | .busy => -6

/-- A call returns: a0 and a1. -/
def State.answer (s : State) (err : Int) (val : DWord) : State :=
  { s with pkg := { s.pkg with callErr := err, callVals := [val] } }
/-- OK with a value. -/
def State.ok (s : State) (v : Nat) : State := s.answer 0 (BitVec.ofNat 64 v)
/-- An error; a1 is then free (log 11, log 93). -/
def State.fail (s : State) (e : CallStatus) : State := s.answer e.code (Config.sbiResult s.tick)

/-- The published calls with their current versions, major in [15:8] and minor in [7:0] (R50). -/
def callVersions : List (Nat × Nat) :=
  [(0x0001, 0x100), (0x0002, 0x100), (0x0010, 0x200), (0x0011, 0x100), (0x0020, 0x101), (0x0021, 0x100), (0x0030, 0x200),
   (0x0031, 0x200), (0x0040, 0x100), (0x0041, 0x100), (0x0050, 0x100), (0x0060, 0x100), (0x0070, 0x100)]
/-- Current version of a call, if it is published. -/
def callVersion (n : Nat) : Option Nat := (callVersions.find? fun x => x.1 == n).map Prod.snd

/-- Whether a6 asks for a version above the current one (R49) (log 95). -/
def tooNew (cur a6 : Nat) : Bool :=
  decide (cur / 256 < bits a6 15 8) || (bits a6 15 8 == cur / 256 && decide (cur % 256 < bits a6 7 0))

/-- Serves call `n` (R48, R49) by `k`, which takes the major and the minor version. A word with bits [63:32] set, an unknown
number or a version that is too new is NOT_SUPPORTED; the number of another published call is that call's, and an ECALL with
another a7 is none of Sorrel's calls. -/
def State.serve (s : State) (n : Nat) (r : CallRegs) (k : Nat → Nat → State) : Out :=
  let a6 := r.a6.toNat
  if r.a7 ≠ 0x0955_5A01 then .next s
  else if bits a6 63 32 ≠ 0 then .next (s.fail .notSupported)
  else
    match callVersion (bits a6 31 16) with
    | none => .next (s.fail .notSupported)
    | some v =>
      if bits a6 31 16 ≠ n then .next s
      else if tooNew v a6 then .next (s.fail .notSupported)
      else .next (k (bits a6 15 8) (bits a6 7 0))

/-- SBI extensions that Sorrel answers (R47): Base, Timer, IPI, RFENCE, HSM, System Reset and Debug Console. -/
def sbiServed : List Nat := [0x10, 0x54494D45, 0x735049, 0x52464E43, 0x48534D, 0x53525354, 0x4442434E]

/-- Functions of a served extension of SBI v2.0 (log 11): IPI, RFENCE, HSM, Debug Console; one of the others, seven of Base. -/
def sbiFunctions (ext : Nat) : Nat :=
  match ext with
  | 0x10 | 0x52464E43 => 7
  | 0x48534D => 4
  | 0x4442434E => 3
  | _ => 1

/-- IDs of the harts of a guest system. -/
def Part.hartIds (p : Part) : List Nat := p.hart.toNat :: (Config.guestHarts p.id).map BitVec.toNat
/-- A hart of a guest system. -/
def Part.hartOf (p : Part) (h : Nat) : Hart := mget {} p.harts h
/-- Replaces a hart of a guest system. -/
def State.putHart (s : State) (part h : Nat) (x : Hart) : State :=
  let p := s.part part
  s.putPart { p with harts := mset {} p.harts h x }

/-- The harts that a mask and its base select: all with a base of −1; none where one of them is no hart of the guest. -/
def Part.maskHarts (p : Part) (mask base : DWord) : Option (List Nat) :=
  if base = BitVec.allOnes 64 then some p.hartIds
  else
    let hs := ((List.range 64).filter fun i => mask.getLsbD i).map (base.toNat + ·)
    if hs.all p.hartIds.contains then some hs else none

/-- Base: the version 2.0 of SBI, the extensions that are there, and implementation values, which are free. -/
def State.sbiBase (s : State) (fid : Nat) (r : CallRegs) : State :=
  match fid with
  | 0 => s.ok 0x0200_0000
  | 3 => s.ok (if sbiServed.contains r.a0.toNat || r.a0 == 0x0955_5A01 then 1 else 0)
  | _ => s.answer 0 (Config.sbiResult (2 * s.tick + 1))

/-- send_ipi: a supervisor software interrupt becomes pending on each selected hart. -/
def State.sbiIpi (s : State) (part : Nat) (r : CallRegs) : State :=
  match (s.part part).maskHarts r.a0 r.a1 with
  | none => s.fail .invalidParam
  | some hs => (hs.foldl (fun (s : State) h => s.putHart part h { (s.part part).hartOf h with soft := true }) s).ok 0

/-- The remote fences: they order what the selected harts themselves see, which is no state of this machine. -/
def State.sbiRfence (s : State) (part fid : Nat) (r : CallRegs) : State :=
  if 3 ≤ fid ∧ !Config.guestHfence part then s.fail .notSupported
  else if ((s.part part).maskHarts r.a0 r.a1).isNone then s.fail .invalidParam
  else s.ok 0

/-- hart_start, hart_stop (which returns only where it fails), hart_get_status and hart_suspend, from which a hart resumes at
once: a retentive one returns, another goes on at the given address. -/
def State.sbiHsm (s : State) (part fid : Nat) (r : CallRegs) : State :=
  let p := s.part part
  let hart := r.hart
  let h := r.a0.toNat
  match fid with
  | 0 =>
    if !p.hartIds.contains h then s.fail .invalidParam
    else if (s.gpa? part r.a1.toNat).isNone then s.fail .invalidAddress
    else if !(p.hartOf h).stopped then s.answer (-6) (Config.sbiResult s.tick)
    else (s.putHart part h { p.hartOf h with stopped := false, startAt := r.a1, arg := r.a2 }).ok 0
  | 1 => s.putHart part hart { p.hartOf hart with stopped := true }
  | 2 => if p.hartIds.contains h then s.ok (if (p.hartOf h).stopped then 1 else 0) else s.fail .invalidParam
  | _ =>
    let ty := r.a0.truncate 32
    if ty = (0 : Word) then s.ok 0
    else if ty = (0x8000_0000 : Word) then
      if (s.gpa? part r.a1.toNat).isNone then s.fail .invalidAddress
      else s.putHart part hart { p.hartOf hart with startAt := r.a1, arg := r.a2 }
    else if bits ty.toNat 30 0 < 0x1000_0000 then s.fail .invalidParam
    else s.fail .notSupported

/-- system_reset: shutdown stops every hart, a reboot starts the guest system again; an accepted one does not return. -/
def State.sbiReset (s : State) (part : Nat) (r : CallRegs) : State :=
  let p := s.part part
  let ty : Word := r.a0.truncate 32
  let why : Word := r.a1.truncate 32
  if (2 < ty.toNat ∧ ty.toNat < 0xF000_0000) ∨ (1 < why.toNat ∧ why.toNat < 0xE000_0000) then s.fail .invalidParam
  else if 2 < ty.toNat then s.fail .notSupported
  else s.putPart { p with sysReset := some (ty, why), harts := if ty = 0 then [] else p.startHarts }

/-- The debug console: how many bytes a write takes, and what a read brings, is free. -/
def State.sbiConsole (s : State) (part fid : Nat) (r : CallRegs) : State :=
  let put (s : State) (bs : List Byte) : State :=
    s.putPart { s.part part with console := (s.part part).console ++ bs }
  if fid = 2 then (put s [r.a0.truncate 8]).ok 0
  else if r.a2 ≠ 0 then s.fail .invalidParam
  else match s.guestRead part r.a1.toNat r.a0.toNat with
    | none => s.fail .invalidParam
    | some bs =>
      if fid = 0 then
        let out := bs.take (Config.sbiResult s.tick).toNat
        (put s out).ok out.length
      else
        let x := (Config.consoleIn s.tick).take bs.length
        match s.gpaWrite part r.a1.toNat x with
        | some s => s.ok x.length
        | none => s.fail .invalidParam

/-- SBI_STANDARD_CALL. PRESUMED from SBI v2.0, which R47 adopts (log 11): function numbers, results and effects; what SBI leaves to
the implementation is free. -/
def execSbiStandardCall (part : Nat) (r : CallRegs) (s : State) : Out :=
  let fid := r.a6.toNat
  let ext := r.a7.toNat
  if r.a7 = 0x0955_5A01 then .next s
  else if !sbiServed.contains ext || decide (sbiFunctions ext ≤ fid) then .next (s.fail .notSupported)
  else .next (match ext with
    | 0x10 => s.sbiBase fid r
    | 0x54494D45 => (s.putHart part r.hart { (s.part part).hartOf r.hart with timer := r.a0 }).ok 0
    | 0x735049 => s.sbiIpi part r
    | 0x52464E43 => s.sbiRfence part fid r
    | 0x48534D => s.sbiHsm part fid r
    | 0x53525354 => s.sbiReset part r
    | _ => s.sbiConsole part fid r)

/-- VERSION -/
def execVersion (_part : Nat) (r : CallRegs) (s : State) : Out :=
  s.serve 0x0001 r fun _ _ => s.ok Config.sorrelVersion.toNat

/-- CALL_QUERY -/
def execCallQuery (_part : Nat) (r : CallRegs) (s : State) : Out :=
  s.serve 0x0002 r fun _ _ => match callVersion r.a0.toNat with
    | some v => s.ok v
    | none => s.fail .notSupported

/-! ### Partitions (R50, R53) -/

/-- The 256-byte result of PART_INFO. -/
def State.partInfoBytes (s : State) (part major : Nat) : List Byte :=
  let p := s.part part
  leBytes 1 part ++ leBytes 1 0 ++ leBytes 2 (s.ctxsOf part).length ++ leBytes 4 p.cores.length ++ leBytes 8 p.nodeTab ++
  leBytes 8 p.pool ++ leBytes 8 p.ctxPage ++ leBytes 20 (setOf (coreSet p.quotas)) ++ leBytes 16 p.heldSlices.toNat ++
  leBytes 4 p.groups.toNat ++ leBytes 4 (s.pstat p) ++ leBytes 4 p.rreq.toNat ++ leBytes 4 p.rdone.toNat ++
  (if 2 ≤ major then leBytes 4 p.rresult.toNat ++ leBytes 8 p.pkgReg else leBytes 12 0) ++ leBytes 160 0

/-- PART_INFO -/
def execPartInfo (part : Nat) (r : CallRegs) (s : State) : Out :=
  s.serve 0x0010 r fun major _ =>
    -- DESIGN CHOICE (log 93): a misaligned address is INVALID_ADDRESS
    if r.a0.toNat % 8 ≠ 0 then s.fail .invalidAddress
    else match s.gpaWrite part r.a0.toNat (s.partInfoBytes part major) with
      | some s => s.ok 0
      | none => s.fail .invalidAddress

/-- PART_RESIZE_REQ: Sorrel accepts the request under the next number, and keeps what it asks for (log 94). -/
def execPartResizeReq (part : Nat) (r : CallRegs) (s : State) : Out :=
  s.serve 0x0011 r fun _ _ =>
    let p := s.part part
    let p := { p with rreq := p.rreq + 1, rask := (r.a0, r.a1) }
    (s.putPart p).ok p.rreq.toNat

/-! ### Functions (R45, R51, R54) -/

/-- The exported node set at an address, or why the call fails. -/
def State.exportSet (s : State) (part a n : Nat) : Except CallStatus (List Nat) :=
  if n < 1 ∨ 4096 < n then .error .invalidParam
  else match s.guestRead part a (4 * n) with
    | none => .error .invalidAddress
    | some bs =>
      let xs := (List.range n).map fun i => fieldOf bs (4 * i) 4
      if xs.all fun x => decide (x < 2 ^ 24) && x / 2 ^ 20 == part &&
          (match s.node? x with | some m => m.status == .valid | none => false) then .ok xs
      else .error .invalidParam

/-- VF_BIND. DESIGN CHOICE (log 117): the depth of the intake ring is that of the partition's last VF_BIND. -/
def execVfBind (part : Nat) (r : CallRegs) (s : State) : Out :=
  s.serve 0x0020 r fun _ minor =>
    let fn := r.a0.toNat
    let f := s.pkg.func fn
    if 64 ≤ fn then s.fail .invalidParam
    else if f.bound && f.part.toNat != part then s.fail .denied
    else match s.exportSet part r.a1.toNat r.a2.toNat with
      | .error e => s.fail e
      | .ok xs =>
        let s := { s with pkg := s.pkg.putFunc fn { f with part := BitVec.ofNat 8 part, exported := xs } }
        (s.putPart { s.part part with intake := if 1 ≤ minor then r.a3.toNat else 0 }).ok 0

/-- VF_RESET: the value is the number of RESET completions that found no slot. -/
def execVfReset (part : Nat) (r : CallRegs) (s : State) : Out :=
  s.serve 0x0021 r fun _ _ =>
    let fn := r.a0.toNat
    if fn < 1 ∨ 64 ≤ fn then s.fail .invalidParam
    else if (s.pkg.func fn).part.toNat ≠ part then s.fail .denied
    else
      let s := s.flr fn
      s.ok (s.pkg.func fn).dropped

/-! ### The first-touch pool (R52, R184, R185) -/

/-- Writes donated frames: entries, then CAP and SIZE, then FILL (R185). -/
def State.donate (s : State) (p : Part) (code base fill n : Nat) : State :=
  let s := (List.range n).foldl (fun (s : State) i =>
    s.putPool p (poolEntryAt code (fill + i)) 8 (2 ^ 63 + (base + frameBytes code * i) / 4096)) s
  ((s.putPool p (64 * code + 0x10) 4 2048).putPool p (64 * code + 0x14) 1 code).putPool p (64 * code + 8) 8 (fill + n)

/-- POOL_DONATE: frames are accepted while FILL − TAKE is below 2,048. -/
def execPoolDonate (part : Nat) (r : CallRegs) (s : State) : Out :=
  s.serve 0x0030 r fun major _ =>
    let p := s.part part
    let code := if 2 ≤ major then r.a2.toNat else 0
    let base := r.a0.toNat
    if 2 < code then s.fail .invalidParam
    else if base % frameBytes code ≠ 0 then s.fail .invalidParam
    else if 2 ^ 50 < base + frameBytes code * r.a1.toNat then s.fail .invalidAddress
    else
      let fill := s.poolField p (64 * code + 8) 8
      let n := Nat.min r.a1.toNat (2048 - (fill - s.poolField p (64 * code) 8))
      (s.donate p code base fill n).ok n

/-- Valid entries among the `n` before FILL. -/
def State.validBefore (s : State) (p : Part) (code fill n : Nat) : Nat :=
  ((List.range n).filter fun i => (s.poolField p (poolEntryAt code (fill - 1 - i)) 8).testBit 63).length

/-- POOL_RECLAIM: the entries donated last leave the ring; an entry dropped before yields no frame (log 96). -/
def execPoolReclaim (part : Nat) (r : CallRegs) (s : State) : Out :=
  s.serve 0x0031 r fun major _ =>
    let p := s.part part
    let code := if 2 ≤ major then r.a2.toNat else 0
    if 2 < code then s.fail .invalidParam
    else
      let fill := s.poolField p (64 * code + 8) 8
      let n := Nat.min r.a0.toNat (fill - s.poolField p (64 * code) 8)
      ((s.putPool p (64 * code + 8) 8 (fill - n)).watchPools s part).ok (s.validBefore p code fill n)

/-! ### Contexts (R53, R85) -/

/-- Guest physical address of a context's register page. -/
def ctxRegPage (ctx : Nat) : Nat := (Config.sorrelAddr (256 + ctx)).toNat / 4096 * 4096

/-- Writes the entry of a context in the context page table. -/
def State.putCtxTab (s : State) (part ctx x : Nat) : State :=
  (s.gpaWrite part ((s.part part).ctxPage + 8 * ctx) (leBytes 8 x)).getD s

/-- CTX_CREATE: the lowest free identifier. -/
def execCtxCreate (part : Nat) (r : CallRegs) (s : State) : Out :=
  s.serve 0x0040 r fun _ _ =>
    if r.a0.toNat % 4096 ≠ 0 then s.fail .invalidAddress
    else match (List.range 256).find? fun k => k != 0 && !s.ctxs.any fun (c : Ctx) => c.id == k with
      | none => s.fail .failed
      | some k =>
        let s := { s with ctxs := s.ctxs ++ [({ id := k, part := part, vroot := r.a0 } : Ctx)] }
        (s.putCtxTab part k (ctxRegPage k)).ok k

/-- A core without what it keeps for a context. -/
def CoreSt.forget (c : CoreSt) (ctx : Nat) : CoreSt :=
  let out (m : Map Nat) : Map Nat := m.filter fun x => x.2 != ctx
  { c with l1 := c.l1.filter fun (l : Line) => l.ctx != ctx, smpLeft := mset 0 c.smpLeft ctx 0, smpPer := mset 0 c.smpPer ctx 0,
           sliceCtx := out c.sliceCtx, rowCtx := out c.rowCtx, tileCtx := out c.tileCtx }

/-- A context ends (R85): its lines are written back and dropped, and what the part keeps under its identifier goes. Rows and
tiles that it held last are zeroed before the next context reads them (R87). -/
def State.dropCtx (s : State) (ctx : Nat) : State :=
  let s := s.flushWhere fun e => s.ctxOfTid e.tid == ctx
  let s := (s.cores.map Prod.fst).foldl (fun (s : State) n => s.sweepL1 n (fun l => l.ctx == ctx) (fun l => l.ctx == ctx) id) s
  { s with cores := s.cores.filterMap fun x =>
             let c := x.2.forget ctx
             if c = {} then none else some (x.1, c),
           tlb := s.tlb.filter fun (e : Tlb) => e.ctx != ctx, ctxs := s.ctxs.filter fun (c : Ctx) => c.id != ctx }

/-- CTX_DESTROY: a context with a team in a slot or saved is BUSY. -/
def execCtxDestroy (part : Nat) (r : CallRegs) (s : State) : Out :=
  s.serve 0x0041 r fun _ _ =>
    match s.ctxs.find? fun (c : Ctx) => c.id == r.a0.toNat with
    | none => if r.a0 = 0 then s.fail .denied else s.fail .invalidParam
    | some c =>
      if c.part ≠ part then s.fail .denied
      else if s.ctxAtWork c.id then s.fail .busy
      else ((s.dropCtx c.id).putCtxTab part c.id 0).ok 0

/-! ### Collective groups (R55) -/

/-- A rank list: package and partition of each rank, with its reserved bytes. -/
def rankList (bs : List Byte) (n : Nat) : List (BitVec 64 × Nat × Nat) :=
  (List.range n).map fun i =>
    (BitVec.ofNat 64 (fieldOf bs (16 * i) 8), fieldOf bs (16 * i + 8) 1, fieldOf bs (16 * i + 9) 7)

/-- Engine with the fewer groups; I/O die 0 on a tie (log 97). -/
def State.collEngine (s : State) : Nat :=
  let n1 := (s.groups.filter fun (g : Group) => g.handle.getLsbD 31).length
  if n1 < s.groups.length - n1 then 1 else 0

/-- COLL_GROUP: a group whose ranks are all here is complete at once. DESIGN CHOICE (log 97): a list that is both DENIED and
INVALID_PARAM is DENIED. -/
def execCollGroup (part : Nat) (r : CallRegs) (s : State) : Out :=
  s.serve 0x0050 r fun _ _ =>
    let n := r.a1.toNat
    if n < 1 ∨ 4096 < n then s.fail .invalidParam
    else match s.guestRead part r.a0.toNat (16 * n) with
      | none => s.fail .invalidAddress
      | some bs =>
        let rs := rankList bs n
        if rs.any fun x => x.1 == ownId && x.2.1 != part then s.fail .denied
        else if rs.any fun x => x.2.2 != 0 || !(x.1 == ownId || s.pkg.reaches x.1) then s.fail .invalidParam
        else
          let h := 2 ^ 31 * s.collEngine + s.pkg.nextHandle % 2 ^ 31
          let g : Group := { handle := BitVec.ofNat 32 h, part := part, ranks := n,
                             members := rs.zipIdx.map fun x => (x.2, x.1.1, x.1.2.1),
                             complete := rs.all fun x => x.1 == ownId, since := 0, insts := [] }
          ({ s with groups := s.groups ++ [g], pkg := { s.pkg with nextHandle := s.pkg.nextHandle + 1 } }).ok h

/-! ### Attestation and health (R50, R79, R80) -/

/-- Bytes 0x000 to 0x23F of a report. -/
def State.reportBody (s : State) (part : Nat) (nonce : List Byte) : List Byte :=
  leBytes 4 0x5241_5A55 ++ leBytes 2 1 ++ leBytes 2 0x280 ++ leBytes 1 part ++ leBytes 1 0 ++
  leBytes 2 Config.sorrelVersion.toNat ++ leBytes 4 0 ++ leBytes 8 dsig ++ leBytes 8 s.timeNs ++ nonce ++
  (List.range 8).flatMap fun k => if k = 4 then (if (s.part part).meas.isEmpty then measZero else (s.part part).meas)
    else mget measZero s.pkg.meas k

/-- ATTEST_REPORT -/
def execAttestReport (part : Nat) (r : CallRegs) (s : State) : Out :=
  s.serve 0x0060 r fun _ _ =>
    match s.guestRead part r.a0.toNat 32 with
    | none => s.fail .invalidAddress
    | some nonce =>
      let m := s.reportBody part nonce
      match s.gpaWrite part r.a1.toNat (m ++ edSign Config.identitySeed m) with
      | some s => s.ok 640
      | none => s.fail .invalidAddress

/-- HEALTH_READ -/
def execHealthRead (_part : Nat) (r : CallRegs) (s : State) : Out :=
  s.serve 0x0070 r fun _ _ => s.ok (s.readReg .health r.a0.toNat)

end Sys2Proof.Machine
end

