-- ==== Sys2Proof/Machine/DrawEvents.lean ====
section
/-! DEFINITION. Events of a draw: the dispatch of a batch, setup, the end of a draw, and ray traversal (R150 to R153, R159,
R164, R166 to R169). -/

namespace Sys2Proof.Machine

/-- BATCH_DISPATCH (R152): a free team of a draw is given its next batch, or ends. -/
def execBatchDispatch (core slot half : Nat) (s : State) : Out :=
  match s.teamAt core slot half with
  | some t => if t.batch.isNone && t.status == .ready then .next (s.dispatchBatch t) else .next s
  | none => .next s

/-- TRIANGLE_SETUP (R153): setup of the next triangle of a draw. -/
def execTriangleSetup (blk : Nat) (s : State) : Out :=
  match s.block? blk with
  | none => .next s
  | some b =>
    match if b.saved.isSome then none else b.draw.bind (s.setupNext b) with
    | some d => .next (s.putDraw b d)
    | none => .next s

/-! ### The end of a draw (R164) -/

/-- SUCC nodes that take a record now; each entry of the descriptor counts. -/
def State.succNodes (s : State) (n : Node) : List Nat :=
  (List.range 4).filterMap fun k =>
    let x := fieldOf n.descBytes (0x18 + 4 * k) 4
    if x = 0xFFFF_FFFF then none
    else (s.node? x).bind fun m => if m.status == .valid then some x else none

/-- Whether the successors have room for one copy each. -/
def State.chainRoom (s : State) (n : Node) : Bool :=
  let xs := s.succNodes n
  xs.all fun x => match s.node? x with
    | some m => decide ((xs.filter (· == x)).length ≤ m.free)
    | none => true

/-- A copy of the root record enters every successor as a detached record (log 86). -/
def State.chain (s : State) (n : Node) (root : List Byte) (ctx : Nat) : State :=
  (s.succNodes n).foldl (fun (s : State) x =>
    match s.node? x with
    | some m => s.putNode (m.enter s.timeNs root 0 ctx [])
    | none => s) s

/-- Whether the draw of a block is over: its teams have ended and only frame and object records are left (R159). -/
def State.drawOver (s : State) (b : Block) : Bool :=
  match b.draw with
  | some d => !(s.teams.any fun t => t.blk == b.id) && d.recs.all fun (r : RsRec) => decide (r.tier ≤ 2)
  | none => false

/-- DRAW_RETIRE (R164): the root record retires, with CHAIN set its copies are enqueued, and the block leaves its core. -/
def execDrawRetire (blk : Nat) (s : State) : Out :=
  match s.block? blk with
  | none => .next s
  | some b =>
    match s.drawOver b, s.node? b.node, b.draw, b.shared with
    | true, some n, some d, some _ =>
      let chained := (fieldOf d.root 0x20 4).testBit 3 && s.lastCopy b
      if chained && !s.chainRoom n then .next s
      else
        let s := s.drawDone b.unit b false
        let s := if chained then s.chain n d.root b.ctx else s
        .next (s.endBlock b)
    | _, _, _, _ => .next s

/-! ### Ray traversal (R167 to R169) -/

/-- A point or direction. -/
structure V3 where
  x : Fl
  y : Fl
  z : Fl
  deriving DecidableEq, Repr

/-- One rounded operation of R168. -/
def addR (a b : Fl) : Fl := r32 (Fl.add .rn a b)
/-- Rounded difference. -/
def subR (a b : Fl) : Fl := r32 (a.sub b)
/-- Rounded product. -/
def mulR (a b : Fl) : Fl := r32 (a.mul b)
/-- Difference of two points. -/
def V3.sub (a b : V3) : V3 := { x := subR a.x b.x, y := subR a.y b.y, z := subR a.z b.z }
/-- dot of R168. -/
def V3.dot (a b : V3) : Fl := addR (addR (mulR a.x b.x) (mulR a.y b.y)) (mulR a.z b.z)
/-- cross of R168. -/
def V3.cross (a b : V3) : V3 :=
  { x := subR (mulR a.y b.z) (mulR a.z b.y), y := subR (mulR a.z b.x) (mulR a.x b.z),
    z := subR (mulR a.x b.y) (mulR a.y b.x) }

/-- A binary32 number in a table. -/
def flAt (bs : List Byte) (off : Nat) : Fl := f32.dec (fieldOf bs off 4)
/-- Three of them. -/
def v3At (bs : List Byte) (off : Nat) : V3 := { x := flAt bs off, y := flAt bs (off + 4), z := flAt bs (off + 8) }

/-- A ray as traversal uses it: origin, direction and interval. -/
structure RayLine where
  o : V3
  d : V3
  tmin : Fl
  tmax : Fl
  deriving DecidableEq, Repr

/-- The ray of eight words (R401). -/
def rayLine (v : List Word) : RayLine :=
  let g (k : Nat) : Fl := w32 (v.getD k 0)
  { o := { x := g 0, y := g 1, z := g 2 }, d := { x := g 3, y := g 4, z := g 5 }, tmin := g 6, tmax := g 7 }

/-- Interval of one axis: none when it is empty. A direction of 0 gives every value, which is the pair of infinities. -/
def axisSpan (o d lo hi : Fl) : Option (Fl × Fl) :=
  if hi.lt lo then none
  else if d.le (.ofInt 0) && (Fl.ofInt 0).le d then
    if lo.le o && o.le hi then some (.inf true, .inf false) else none
  else
    let inv := div32 (.ofInt 1) d
    let a := r32 ((lo.sub o).mul inv)
    let b := r32 ((hi.sub o).mul inv)
    if b.lt a then some (b, a) else some (a, b)

/-- Whether a ray enters a box (R168). A comparison with a NaN does not hold (log 85). -/
def RayLine.enters (r : RayLine) (lo hi : V3) : Bool :=
  match axisSpan r.o.x r.d.x lo.x hi.x, axisSpan r.o.y r.d.y lo.y hi.y, axisSpan r.o.z r.d.z lo.z hi.z with
  | some a, some b, some c =>
    let ls := [a.1, b.1, c.1]
    let us := [a.2, b.2, c.2]
    ls.all fun l => us.all (fun u => l.le u) && l.le r.tmax && us.all fun u => r.tmin.le u
  | _, _, _ => false

/-- Test of a leaf: t and the fields that RHIT reads (R168). -/
def RayLine.leaf (r : RayLine) (bs : List Byte) : Option (Fl × RayHit) :=
  let v0 := v3At bs 0
  let e1 := (v3At bs 12).sub v0
  let e2 := (v3At bs 24).sub v0
  let p := r.d.cross e2
  let det := e1.dot p
  let zero := Fl.ofInt 0
  if (det.le zero && zero.le det) || (fieldOf bs 0x2C 4).testBit 0 then none
  else
    let inv := div32 (.ofInt 1) det
    let s := r.o.sub v0
    let u := mulR (s.dot p) inv
    let q := s.cross e1
    let v := mulR (r.d.dot q) inv
    let t := mulR (e2.dot q) inv
    if zero.le u && zero.le v && (addR u v).le (.ofInt 1) && r.tmin.le t && t.le r.tmax then
      let w (x : Fl) : Word := BitVec.ofNat 32 (f32.rne x)
      some (t, { kind := 1, t := w t, u := w u, v := w v, prim := BitVec.ofNat 32 (fieldOf bs 0x24 4),
                 user := BitVec.ofNat 32 (fieldOf bs 0x28 4) })
    else none

/-- The better of two hits: the smaller t, and on equal t the leaf of the lower address. -/
def betterHit (a b : Option (Fl × Nat × RayHit)) : Option (Fl × Nat × RayHit) :=
  match a, b with
  | some x, some y => if y.1.lt x.1 || (y.1.le x.1 && x.1.le y.1 && decide (y.2.1 < x.2.1)) then some y else some x
  | none, y => y
  | x, none => x

/-- Bytes that the traversal unit reads; none is a fault (R169). -/
def State.rayRead (s : State) (b : Block) (va n : Nat) : Option (List Byte) :=
  match (s.readHomeVa b.unit .read (va % 2 ^ 48) n).2 with
  | .ok bs => some bs
  | .error _ => none

/-- Children of a node that a ray enters, as references; one of KIND 3 ends the ray whether or not it enters its box (R169). -/
def RayLine.children (r : RayLine) (bs : List Byte) : List Nat :=
  (List.range 4).filterMap fun k =>
    let c := fieldOf bs (0x60 + 4 * k) 4
    if bits c 31 30 = 0 then none
    else if bits c 31 30 = 3 then some c
    else if r.enters (v3At bs (24 * k)) (v3At bs (24 * k + 12)) then some c else none

/-- The leaves of a run: the best hit, or none for a fault. -/
def State.rayLeaves (s : State) (b : Block) (r : RayLine) (leaves first : Nat) (best : Option (Fl × Nat × RayHit)) :
    List Nat → Option (Option (Fl × Nat × RayHit))
  | [] => some best
  | k :: ks =>
    let a := leaves + 48 * (first + k)
    match s.rayRead b a 48 with
    | none => none
    | some bs =>
      if fieldOf bs 0x2C 4 / 2 ≠ 0 then none
      else s.rayLeaves b r leaves first (betterHit best ((r.leaf bs).map fun (t, h) => (t, a, h))) ks

/-- What a traversal has come to. -/
inductive RayEnd where
  | hit (h : RayHit)
  | open_
  deriving DecidableEq, Repr

/-- Visits the references still to do. A node reached twice is visited once: its visit depends on nothing but the ray. -/
def State.rayVisit (s : State) (b : Block) (r : RayLine) (nodes leaves : Nat) :
    Nat → List Nat → List Nat → Option (Fl × Nat × RayHit) → RayEnd
  | 0, _, _, _ => .open_
  | _ + 1, [], _, best => .hit (match best with | some (_, _, h) => h | none => {})
  | fuel + 1, c :: todo, seen, best =>
    if bits c 31 30 = 0 ∨ c ∈ seen then s.rayVisit b r nodes leaves fuel todo seen best
    else if bits c 31 30 = 1 then
      match s.rayRead b (nodes + 128 * bits c 29 0) 128 with
      | none => .hit { kind := 2 }
      | some bs =>
        if !zeros bs 0x70 16 then .hit { kind := 2 }
        else s.rayVisit b r nodes leaves fuel (r.children bs ++ todo) (c :: seen) best
    else if bits c 31 30 = 2 then
      match s.rayLeaves b r leaves (bits c 25 0) best (List.range (bits c 29 26 + 1)) with
      | none => .hit { kind := 2 }
      | some best => s.rayVisit b r nodes leaves fuel todo (c :: seen) best
    else .hit { kind := 2 }

/-- Traversal of a ray: the fuel exceeds the number of references that distinct nodes can give. -/
def State.traverse (s : State) (b : Block) (x : Ray) : RayEnd :=
  s.rayVisit b (rayLine x.vals) (fieldOf x.desc 0 8) (fieldOf x.desc 8 8) (2 ^ 34) [fieldOf x.desc 0x10 4] [] none

/-- RAY_TRAVERSAL (R168, R169): the traversal unit finishes a ray. Without a ray section the ray passes through with no code
run: it returns what a lane that ends without RRET does (R146, R402) (log 85). -/
def execRayTraversal (blk ray : Nat) (s : State) : Out :=
  match s.block? blk with
  | none => .next s
  | some b =>
    match if b.saved.isSome then none else b.draw with
    | none => .next s
    | some d =>
      match d.rays.find? fun (x : Ray) => x.id == ray && x.hit.isNone && x.ret.isNone with
      | none => .next s
      | some x =>
        match s.traverse b x with
        | .open_ => .next s
        | .hit h =>
          let through := !d.hasTier 7
          let up (y : Ray) : Ray :=
            if y.id == ray then { y with hit := some h, ret := if through then some [0, 0, 0, 0] else y.ret } else y
          let s := s.putBlock { b with draw := some { d with rays := d.rays.map up } }
          .next (if through then s.decJoin b.unit x.frame else s)

end Sys2Proof.Machine
end

