-- ==== Sys2Proof/Machine/Integer.lean ====
section
/-! DEFINITION. Integer instructions: 0x10 to 0x2B (R320 to R322). -/

namespace Sys2Proof.Machine

/-- Width of the operands of an integer FN. -/
def fnWidth (fn : BitVec 9) : Nat := if fnLong fn then 64 else 32

/-- An instruction of exact integers a and b with the flags W, SAT and X64. -/
def Env.int2 (e : Env) (i : Instr) (f : FV) (op : Int → Int → Int) : Out :=
  e.intOut i f.d.toNat (fnLong f.fn) fun l =>
    fitInt (fnWidth f.fn) (fnW f.fn) (fnSat f.fn)
      (op (e.int (fnLong f.fn) (fnW f.fn) f.sa.toNat l) (e.int (fnLong f.fn) (fnW f.fn) f.sb.toNat l))

/-- An instruction of one bit string of the operand width. -/
def Env.bits1 (e : Env) (i : Instr) (f : FV) (long : Bool) (op : Nat → Nat → Nat) : Out :=
  e.intOut i f.d.toNat long fun l => op (fnWidth f.fn) (e.int (fnLong f.fn) true f.sa.toNat l).toNat

/-- A shift or rotation: the count is a 32-bit operand. -/
def Env.shift2 (e : Env) (i : Instr) (f : FV) (op : Nat → Nat → Nat → Nat) : Out :=
  e.intOut i f.d.toNat (fnLong f.fn) fun l =>
    op (fnWidth f.fn) (e.int (fnLong f.fn) true f.sa.toNat l).toNat (e.src32 f.sb.toNat l).toNat

/-- An instruction of three 32-bit words. -/
def Env.word3 (e : Env) (i : Instr) (f : FV) (op : Nat → Nat → Nat → Nat) : Out :=
  e.intOut i f.d.toNat false fun l =>
    op (e.src32 f.sa.toNat l).toNat (e.src32 f.sb.toNat l).toNat (e.src32 f.sc.toNat l).toNat

/-- x << n at a width; 0 from the width on. -/
def shlAt (w x n : Nat) : Nat := if w ≤ n then 0 else x * 2 ^ n % 2 ^ w
/-- x >> n -/
def shrAt (w x n : Nat) : Nat := if w ≤ n then 0 else x / 2 ^ n
/-- Arithmetic x >> n: from the width on every bit is the sign. -/
def sarAt (w x n : Nat) : Nat := wrapNat w (sextInt w x / (2 ^ Nat.min n w : Nat))
/-- Rotation left by n mod w. -/
def rotAt (w x n : Nat) : Nat := let k := n % w; (x * 2 ^ k + x / 2 ^ (w - k)) % 2 ^ w
/-- Ones in the low w bits. -/
def onesAt (w x : Nat) : Nat := ((List.range w).filter fun k => x.testBit k).length
/-- Leading zeros of w bits. -/
def clzAt (w x : Nat) : Nat := if x = 0 then w else w - 1 - Nat.log2 x
/-- Bit reversal of w bits. -/
def bitrAt (w x : Nat) : Nat := (List.range w).foldl (fun a k => if x.testBit (w - 1 - k) then a + 2 ^ k else a) 0
/-- Bit `k` of the result is entry 4 a + 2 b + c of a table (R320). -/
def tlutAt (tab a b c : Nat) : Nat :=
  (List.range 32).foldl (fun x k =>
    let i := (if a.testBit k then 4 else 0) + (if b.testBit k then 2 else 0) + (if c.testBit k then 1 else 0)
    if tab.testBit i then x + 2 ^ k else x) 0
/-- FEXT (R321). -/
def fextAt (uns : Bool) (a b c : Nat) : Nat :=
  let pos := bits b 7 0
  let len := bits c 7 0
  if len = 0 ∨ 32 ≤ pos then 0
  else
    let len := Nat.min len (32 - pos)
    let f := (a / 2 ^ pos) % 2 ^ len
    if uns then f else wrapNat 32 (sextInt len f)
/-- FDEP (R321). -/
def fdepAt (a b c : Nat) : Nat :=
  let pos := bits c 7 0
  let len := bits c 15 8
  if len = 0 ∨ 32 ≤ pos then b
  else
    let len := Nat.min len (32 - pos)
    b - ((b / 2 ^ pos) % 2 ^ len) * 2 ^ pos + (a % 2 ^ len) * 2 ^ pos
/-- BSHUF (R321). -/
def bshufAt (a b c : Nat) : Nat :=
  let x := b * 2 ^ 32 + a
  ((List.range 4).map fun k =>
    let s := bits c (8 * k + 7) (8 * k)
    let y := bits x (8 * (s % 8) + 7) (8 * (s % 8))
    let y := match s / 8 % 4 with
      | 0 => y
      | 1 => 0
      | 2 => if y.testBit 7 then 0xFF else 0
      | _ => 0xFF
    y * 2 ^ (8 * k)).sum

/-- ADD -/
def execAdd (f : FV) (s : State) : Out := issue (.add f) s fun e => e.int2 (.add f) f (· + ·)
/-- TADD -/
def execTadd (f : FV) (s : State) : Out :=
  issue (.tadd f) s fun e => e.intOut (.tadd f) f.d.toNat false fun l =>
    fitInt 32 (fnW f.fn) (fnSat f.fn) (e.int false (fnW f.fn) f.sa.toNat l + e.int false (fnW f.fn) f.sb.toNat l +
      e.int false (fnW f.fn) f.sc.toNat l)
/-- SUB -/
def execSub (f : FV) (s : State) : Out := issue (.sub f) s fun e => e.int2 (.sub f) f (· - ·)
/-- NEG -/
def execNeg (f : FV) (s : State) : Out :=
  issue (.neg f) s fun e => e.intOut (.neg f) f.d.toNat (fnLong f.fn) fun l =>
    fitInt (fnWidth f.fn) false (fnSat f.fn) (-(e.int (fnLong f.fn) false f.sa.toNat l))
/-- ABS -/
def execAbs (f : FV) (s : State) : Out :=
  issue (.abs f) s fun e => e.intOut (.abs f) f.d.toNat (fnLong f.fn) fun l =>
    fitInt (fnWidth f.fn) false (fnSat f.fn) ((e.int (fnLong f.fn) false f.sa.toNat l).natAbs)
/-- MULL -/
def execMull (f : FV) (s : State) : Out :=
  issue (.mull f) s fun e => e.intOut (.mull f) f.d.toNat false fun l =>
    (e.src32 f.sa.toNat l).toNat * (e.src32 f.sb.toNat l).toNat % 2 ^ 32
/-- MULH -/
def execMulh (f : FV) (s : State) : Out :=
  issue (.mulh f) s fun e => e.intOut (.mulh f) f.d.toNat false fun l =>
    wrapNat 64 (e.int false (fnW f.fn) f.sa.toNat l * e.int false (fnW f.fn) f.sb.toNat l) / 2 ^ 32
/-- MADL -/
def execMadl (f : FV) (s : State) : Out :=
  issue (.madl f) s fun e => e.intOut (.madl f) f.d.toNat false fun l =>
    fitInt 32 false (fnSat f.fn) (e.int false false f.sa.toNat l * e.int false false f.sb.toNat l +
      e.int false false f.sc.toNat l)
/-- MADW -/
def execMadw (f : FV) (s : State) : Out :=
  issue (.madw f) s fun e => e.intOut (.madw f) f.d.toNat true fun l =>
    wrapNat 64 (e.int false (fnW f.fn) f.sa.toNat l * e.int false (fnW f.fn) f.sb.toNat l + e.int true false f.sc.toNat l)
/-- MIN -/
def execMin (f : FV) (s : State) : Out := issue (.min f) s fun e => e.int2 (.min f) f Min.min
/-- MAX -/
def execMax (f : FV) (s : State) : Out := issue (.max f) s fun e => e.int2 (.max f) f Max.max
/-- ADIF -/
def execAdif (f : FV) (s : State) : Out :=
  issue (.adif f) s fun e => e.intOut (.adif f) f.d.toNat false fun l =>
    ((e.int false (fnW f.fn) f.sa.toNat l - e.int false (fnW f.fn) f.sb.toNat l).natAbs +
      (e.src32 f.sc.toNat l).toNat) % 2 ^ 32
/-- TLUT -/
def execTlut (f : FV) (s : State) : Out :=
  issue (.tlut f) s fun e => e.word3 (.tlut f) f (tlutAt (f.fn.toNat % 256))
/-- SHL -/
def execShl (f : FV) (s : State) : Out := issue (.shl f) s fun e => e.shift2 (.shl f) f shlAt
/-- SHR -/
def execShr (f : FV) (s : State) : Out := issue (.shr f) s fun e => e.shift2 (.shr f) f shrAt
/-- SAR -/
def execSar (f : FV) (s : State) : Out := issue (.sar f) s fun e => e.shift2 (.sar f) f sarAt
/-- ROT -/
def execRot (f : FV) (s : State) : Out := issue (.rot f) s fun e => e.shift2 (.rot f) f rotAt
/-- FUNL -/
def execFunl (f : FV) (s : State) : Out :=
  issue (.funl f) s fun e => e.word3 (.funl f) f fun a b c => (a * 2 ^ 32 + b) * 2 ^ (c % 32) / 2 ^ 32 % 2 ^ 32
/-- ONES -/
def execOnes (f : FV) (s : State) : Out := issue (.ones f) s fun e => e.bits1 (.ones f) f false onesAt
/-- CLZ -/
def execClz (f : FV) (s : State) : Out := issue (.clz f) s fun e => e.bits1 (.clz f) f false clzAt
/-- BITR -/
def execBitr (f : FV) (s : State) : Out := issue (.bitr f) s fun e => e.bits1 (.bitr f) f (fnLong f.fn) bitrAt
/-- FEXT -/
def execFext (f : FV) (s : State) : Out := issue (.fext f) s fun e => e.word3 (.fext f) f (fextAt (fnW f.fn))
/-- FDEP -/
def execFdep (f : FV) (s : State) : Out := issue (.fdep f) s fun e => e.word3 (.fdep f) f fdepAt
/-- PICK -/
def execPick (f : FV) (s : State) : Out :=
  issue (.pick f) s fun e => e.intOut (.pick f) f.d.toNat (fnLong f.fn) fun l =>
    (e.int (fnLong f.fn) true (if e.src32 f.sc.toNat l ≠ 0 then f.sa.toNat else f.sb.toNat) l).toNat
/-- MOV -/
def execMov (f : FV) (s : State) : Out := issue (.mov f) s fun e => e.bits1 (.mov f) f (fnLong f.fn) fun _ x => x
/-- SETI (R322) -/
def execSeti (f : FV) (w2 : BitVec 64) (s : State) : Out :=
  issue (.seti f w2) s fun e => e.intOut (.seti f w2) f.d.toNat false fun _ => w2.toNat % 2 ^ 32
/-- SCAD -/
def execScad (f : FV) (s : State) : Out :=
  issue (.scad f) s fun e => e.word3 (.scad f) f fun a b c => (a + shlAt 32 b c) % 2 ^ 32
/-- BSHUF -/
def execBshuf (f : FV) (s : State) : Out := issue (.bshuf f) s fun e => e.word3 (.bshuf f) f bshufAt

end Sys2Proof.Machine
end

