-- ==== Sys2Proof/Machine/Registers.lean ====
section
/-! DEFINITION. Writes of registers (R5): the package register block, BAR0 of a function, context register pages, private
pages of firmware cores, health registers and node tables (R19, R25, R33, R36, R61, R68, R77, R87, R88, R102, R175, R211,
R409). Reserved bits, registers that are read-only and offsets that hold none take nothing. -/

namespace Sys2Proof.Machine

/-! ### The package register block (R34) -/

/-- Power status: THERMAL, FASTTRIP and CAPPED are W1C. -/
def State.writePowerStatus (s : State) (v : Nat) : State :=
  let p := s.pkg
  { s with pkg := { p with thermal := p.thermal && !v.testBit 2, fasttrip := p.fasttrip && !v.testBit 1,
                           capped := p.capped && !v.testBit 0 } }

/-- HB_CTL (R68): beats are awaited anew once ENABLE becomes 1 (log 99, log 115). -/
def State.writeHbCtl (s : State) (v : Nat) : State :=
  let on := v.testBit 31 && !s.pkg.hbEnable
  let from_ (n : Neighbour) : Neighbour := if on && n.beatAt != 0 then { n with beatAt := s.timeNs } else n
  { s with pkg := { s.pkg with hbEnable := v.testBit 31, hbPeriod := BitVec.ofNat 10 v,
                               neighbours := s.pkg.neighbours.map from_ } }

/-- Port control (R25): RETRY_LIMIT, then ENABLE, then RETRAIN. -/
def State.writePortControl (s : State) (port v : Nat) : State :=
  let q := { s.pkg.port port with retryLimit := BitVec.ofNat 4 (bits v 7 4) }
  (({ s with pkg := s.pkg.putPort port q }).writeEnable port (v.testBit 0)).writeRetrain port (v.testBit 1)

/-- PCTL (R87): MIG_TMO, then the command. -/
def State.writePctl (s : State) (part v : Nat) : State :=
  let s := s.putPart { s.part part with migTmo := BitVec.ofNat 4 (bits v 7 4) }
  match bits v 1 0 with
  | 1 => s.resizeStart part
  | 2 => s.resizeAbort part 12
  | 3 => s.resizeAdvance part
  | _ => s

/-- DRN_CTL (R88): FAULT is W1C, then GO. -/
def State.writeDrnCtl (s : State) (part v : Nat) : State :=
  let p := s.part part
  let s := s.putPart { p with drnFault := p.drnFault && !v.testBit 2 }
  if v.testBit 0 then s.drainGo part else s

/-- Replaces the 32 bits of a word at place `k`. -/
def putWord (w : Nat) (x : BitVec w) (k v : Nat) : BitVec w :=
  let m := BitVec.ofNat w (2 ^ 32 - 1) <<< (32 * k)
  (x &&& ~~~m) ||| (BitVec.ofNat w (v % 2 ^ 32) <<< (32 * k))

/-- A register of a partition's block (R87); the targets are ignored outside STABLE (R89). -/
def State.writePartReg (s : State) (part off v : Nat) : State :=
  let p := s.part part
  let stable := p.state == .idle
  match off with
  | 0x00 => s.writePctl part v
  | 0x04 => s.putPart { p with done := p.done && !v.testBit 7 }
  | 0x60 | 0x64 | 0x68 | 0x6C => if stable then s.putPart { p with tSlices := putWord 128 p.tSlices ((off - 0x60) / 4) v } else s
  | 0x70 => if stable then s.putPart { p with tGroups := BitVec.ofNat 32 v } else s
  | 0x80 | 0x84 => s.putPart { p with drnSrc := putWord 64 p.drnSrc ((off - 0x80) / 4) v }
  | 0x88 | 0x8C => s.putPart { p with drnDst := putWord 64 p.drnDst ((off - 0x88) / 4) v }
  | 0x90 => s.writeDrnCtl part v
  | _ => s

/-- A quota with the fields of one data register: 0 QSLOT, 1 QROWS, 2 QBAR (R88). -/
def Quota.write (q : Quota) (reg v : Nat) : Quota :=
  match reg with
  | 0 => { q with granules := bits v 23 16, slots := bits v 12 8, slot0 := bits v 3 0 }
  | 1 => { q with rows := bits v 25 16, row0 := bits v 9 0 }
  | _ => { q with bars := bits v 27 16, bar0 := bits v 10 0 }

/-- A data register of the quota window (R88): only a staged quota of a partition in STABLE takes it. -/
def State.writeQuota (s : State) (reg v : Nat) : State :=
  let sel := s.pkg.qsel.toNat
  let core := bits sel 7 0
  let p := s.part (bits sel 27 24)
  if !sel.testBit 31 || decide (160 ≤ core) || p.state != .idle then s
  else s.putPart { p with tQuotas := aput p.tQuotas core ((p.tQuota core).write reg v) }

/-- A register of the package block. -/
def State.writePkgReg (s : State) (off v : Nat) : State :=
  if off = 0x100 then s.writePowerStatus v
  else if off = 0x104 then s.writeCap v
  else if off = 0x200 then s.writeHbCtl v
  else if 0x1000 ≤ off ∧ off < 0x1600 ∧ off % 0x40 = 4 then s.writePortControl ((off - 0x1000) / 0x40) v
  else if 0x2000 ≤ off ∧ off < 0x3000 then s.writePartReg ((off - 0x2000) / 0x100) (off % 0x100) v
  else if off = 0x3000 then { s with pkg := { s.pkg with qsel := BitVec.ofNat 32 v &&& 0x8F0000FF } }
  else if off = 0x3004 ∨ off = 0x3008 ∨ off = 0x300C then s.writeQuota ((off - 0x3004) / 4) v
  else s

/-! ### BAR0 of a function (R33, R36, R38, R45) -/

/-- A base of a queue pair: discarded while the pair is ACTIVE or DRAINING (R36). -/
def State.writeBase (s : State) (fn q k v : Nat) : State :=
  let p := s.pairAt fn q
  if p.state = 1 ∨ p.state = 3 then s
  else s.putPairAt fn q (if k < 2 then { p with sqBase := putWord 64 p.sqBase k v }
                         else { p with cqBase := putWord 64 p.cqBase (k - 2) v })

/-- Four bytes of the MSI-X table; a pending vector that is no longer masked is sent (log 120). -/
def Func.writeMsix (f : Func) (off v : Nat) : Func :=
  let new := (leBytes 4 v).zipIdx.map fun x => x.1 ^^^ msixReset (off + x.2)
  let f := { f with msixTab := msetList 0 f.msixTab off new }
  let vec := off / 16
  if f.msixPend.getLsbD vec && !f.masked vec then
    { f with msixPend := f.msixPend &&& ~~~(BitVec.ofNat 17 (2 ^ vec)), msix := f.msix ++ [vec] }
  else f
/-- Four bytes of a function's MSI-X table. -/
def State.writeMsix (s : State) (fn off v : Nat) : State :=
  { s with pkg := s.pkg.putFunc fn ((s.pkg.func fn).writeMsix off v) }

/-- A register of BAR0: nothing is taken until FSTAT.READY is 1. -/
def State.writeBar0 (s : State) (fn off v : Nat) : State :=
  if !s.fnUp fn || !(s.pkg.func fn).ready || off % 4 != 0 then s
  else if 0x1000 ≤ off ∧ off < 0x1400 then
    let q := (off - 0x1000) / 0x40
    match off % 0x40 with
    | 0x00 | 0x04 | 0x08 | 0x0C => s.writeBase fn q (off % 0x40 / 4) v
    | 0x10 => s.writeQcfg fn q v
    | _ => s
  else if 0x8000 ≤ off ∧ off < 0x8100 then
    let q := (off - 0x8000) / 0x10
    match off % 0x10 with
    | 0 => s.writeTail fn q v
    | 4 => s.writeHead fn q v
    | _ => s
  else if 0xC000 ≤ off ∧ off < 0xC110 then s.writeMsix fn (off - 0xC000) v
  else s

/-! ### Context register pages (R175, R176, R181, R211, R409) -/

/-- TLBI_CTL (R181): SCOPE, then GO. -/
def Ctx.writeTlbi (c : Ctx) (v : Nat) : Ctx :=
  let c := { c with tlbiScope := BitVec.ofNat 2 v }
  if v.testBit 31 then c.tlbiGo else c

/-- A register of a context's page. HB, HL and HO take nothing while the window is enabled. -/
def State.writeCtxReg (s : State) (c : Ctx) (off : Nat) (x : DWord) : State :=
  match off with
  | 0x10 => if c.heapEn then s else s.putCtx { c with hb := x }
  | 0x18 => if c.heapEn then s else s.putCtx { c with hl := x }
  | 0x20 => if c.heapEn then s else s.putCtx { c with ho := x }
  | 0x28 => s.writeHeapCtl c (x.toNat % 2 ^ 32)
  | 0x30 => s.putCtx { c with hvec := x &&& 0x0000_FFFF_FFFF_FFF9 }
  | 0x40 => s.putCtx (c.writeTlbi (x.toNat % 2 ^ 32))
  | 0x48 => s.putCtx { c with tlbiVa := x }
  | _ => if 0x100 ≤ off ∧ off < 0x900 ∧ off % 8 = 0 then s.writeCsr c ((off - 0x100) / 8) x else s

/-! ### Firmware cores and health (R61, R77) -/

/-- WD_WIN or WD_KICK of a firmware core; a window takes effect from the next kick (R62). -/
def State.writeFwReg (s : State) (k off v : Nat) : State :=
  if off = 0x200 ∧ k < 23 then
    { s with pkg := s.pkg.putCore k { s.pkg.core k with nextOpen := some (BitVec.ofNat 16 v),
                                                        nextClose := some (BitVec.ofNat 16 (v / 2 ^ 16)) } }
  else if off = 0x204 then s.kick k (BitVec.ofNat 16 v)
  else s

/-- The one health register that takes writes: its bits 0 to 4 are W1C. -/
def State.writeHealth (s : State) (off v : Nat) : State :=
  if off = 0x20 then { s with pkg := { s.pkg with health := s.pkg.health &&& ~~~(BitVec.ofNat 6 (v % 32)) } } else s

/-! ### Node tables (R102) -/

/-- A node's entry as its guest writes VALID_REQ: a 0 retires a registered node and clears a refused one (log 98). -/
def Node.request (n : Node) (v : Bool) : Node :=
  let n := { n with validReq := v }
  if v then n
  else match n.status with
    | .valid => { n with status := .retiring }
    | .empty | .retiring => n
    | .badDesc | .badShape | .badGang | .rateStore => { n with status := .empty }

/-- Replaces a node's entry, or adds it. -/
def State.entryNode (s : State) (n : Node) : State :=
  if (s.node? n.num).isSome then s.putNode n else { s with nodes := s.nodes ++ [n] }

/-- A double word of a node table. -/
def State.writeNodeTab (s : State) (part off : Nat) (x : DWord) : State :=
  let k := 2 ^ 20 * part + off / 16
  let n := (s.node? k).getD { num := k }
  if 16 ≤ part ∨ 65536 ≤ off then s
  else if off % 16 = 0 then s.entryNode (n.request (x.getLsbD 0))
  else if off % 16 = 8 then s.entryNode { n with desc := x }
  else s

/-- REGISTER_WRITE (R5) -/
def execRegisterWrite (r : RegSpace) (off : Nat) (v : BitVec 64) (s : State) : Out :=
  match r with
  | .pkg => .next (s.writePkgReg off (v.toNat % 2 ^ 32))
  | .bar0 fn => .next (s.writeBar0 fn off (v.toNat % 2 ^ 32))
  | .ctxPage k => .next (match s.ctxs.find? fun (c : Ctx) => c.id == k with
      | some c => s.writeCtxReg c off v
      | none => s)
  | .fw k => .next (s.writeFwReg k off (v.toNat % 2 ^ 32))
  | .health => .next (s.writeHealth off (v.toNat % 2 ^ 32))
  | .nodeTable part => .next (s.writeNodeTab part off v)
  | .vfEnable => .next (if v.getLsbD 0 then { s with pkg := { s.pkg with vfEnable := true } } else s.clearVfEnable)

end Sys2Proof.Machine
end

