-- ==== Sys2Proof/Machine/Uniform.lean ====
section
/-! DEFINITION. Uniform instructions: 0x30 to 0x3B (R323, R324). -/

namespace Sys2Proof.Machine

/-- Operand b of format U: SB, or IMM24 sign-extended (R278). -/
def Env.uB (e : Env) (f : FU) : DWord := if f.i = 1 then f.imm.signExtend 64 else e.uSrc f.sb.toNat

/-- Completes a uniform instruction of a and b. -/
def Env.uni (e : Env) (i : Instr) (f : FU) (op : DWord → DWord → DWord) : Out :=
  e.sOut i f.d.toNat (op (e.uSrc f.sa.toNat) (e.uB f))

/-- SADD -/
def execSadd (f : FU) (s : State) : Out := issue (.sadd f) s fun e => e.uni (.sadd f) f (· + ·)
/-- SSUB -/
def execSsub (f : FU) (s : State) : Out := issue (.ssub f) s fun e => e.uni (.ssub f) f (· - ·)
/-- SMUL -/
def execSmul (f : FU) (s : State) : Out := issue (.smul f) s fun e => e.uni (.smul f) f (· * ·)
/-- SLOP -/
def execSlop (f : FU) (s : State) : Out :=
  issue (.slop f) s fun e => e.uni (.slop f) f fun a b =>
    match f.fn.toNat with
    | 0 => a &&& b
    | 1 => a ||| b
    | 2 => a ^^^ b
    | _ => a &&& ~~~b
/-- SSHF: the count is the whole of b, unsigned. -/
def execSshf (f : FU) (s : State) : Out :=
  issue (.sshf f) s fun e => e.uni (.sshf f) f fun a b =>
    let op := match f.fn.toNat with | 0 => shlAt | 1 => shrAt | 2 => sarAt | _ => rotAt
    BitVec.ofNat 64 (op 64 a.toNat b.toNat)
/-- SMOV -/
def execSmov (f : FU) (s : State) : Out :=
  issue (.smov f) s fun e => e.sOut (.smov f) f.d.toNat (if f.i = 1 then f.imm.signExtend 64 else e.uSrc f.sa.toNat)
/-- SMOVI -/
def execSmovi (f : FU) (w2 : BitVec 64) (s : State) : Out :=
  issue (.smovi f w2) s fun e => e.sOut (.smovi f w2) f.d.toNat w2
/-- SCMP: FN [2:0] the comparison, [3] unsigned (R296). -/
def execScmp (f : FU) (s : State) : Out :=
  issue (.scmp f) s fun e => e.uni (.scmp f) f fun a b =>
    let d : Int := if f.fn.getLsbD 3 then (a.toNat : Int) - b.toNat else a.toInt - b.toInt
    if cmpCode (f.fn.toNat % 8) d then 1 else 0
/-- SLEA -/
def execSlea (f : FU) (s : State) : Out :=
  issue (.slea f) s fun e => e.uni (.slea f) f fun a b => ((a + b).truncate 48 : BitVec 48).signExtend 64
/-- SSEL -/
def execSsel (f : FU) (s : State) : Out :=
  issue (.ssel f) s fun e => e.uni (.ssel f) f fun a b => if e.t.sreg f.d.toNat ≠ 0 then a else b

/-- SFROMV (R324): the value of the lowest active non-helper lane. -/
def execSfromv (f : FV) (s : State) : Out :=
  issue (.sfromv f) s fun e =>
    let ls := e.t.list (e.t.mask &&& ~~~e.t.helper)
    let v (l : Nat) := e.src32 f.sa.toNat l
    let x := match ls with | [] => 0 | l :: _ => v l
    if f.fn.getLsbD 0 && ls.any fun l => v l != x then e.trapTeam (.sfromv f) .nonuniform
    else e.sOut (.sfromv f) f.d.toNat (x.zeroExtend 64)

/-- SREAD (R324). %block gives the whole block index. -/
def execSread (f : FV) (s : State) : Out :=
  issue (.sread f) s fun e =>
    e.sOut (.sread f) f.d.toNat (if f.sa = 0x123 then e.b.index else e.special f.sa.toNat 0)

end Sys2Proof.Machine
end

