-- ==== Sys2Proof/Machine/Dispatch.lean ====
section
/-! DEFINITION. One arm per constructor of Instr: what each instruction and each event does. -/

namespace Sys2Proof.Machine

def exec (i : Instr) (s : State) : Host.Outcome State Fault Refusal :=
  match i with
  | .nop f => Sys2Proof.Machine.execNop f s
  | .bra f => Sys2Proof.Machine.execBra f s
  | .brx f => Sys2Proof.Machine.execBrx f s
  | .call f => Sys2Proof.Machine.execCall f s
  | .callx f => Sys2Proof.Machine.execCallx f s
  | .ret f => Sys2Proof.Machine.execRet f s
  | .mark f => Sys2Proof.Machine.execMark f s
  | .join f => Sys2Proof.Machine.execJoin f s
  | .brk f => Sys2Proof.Machine.execBrk f s
  | .loop f => Sys2Proof.Machine.execLoop f s
  | .exit f => Sys2Proof.Machine.execExit f s
  | .yield f => Sys2Proof.Machine.execYield f s
  | .vgrow f => Sys2Proof.Machine.execVgrow f s
  | .vshrink f => Sys2Proof.Machine.execVshrink f s
  | .add f => Sys2Proof.Machine.execAdd f s
  | .tadd f => Sys2Proof.Machine.execTadd f s
  | .sub f => Sys2Proof.Machine.execSub f s
  | .neg f => Sys2Proof.Machine.execNeg f s
  | .abs f => Sys2Proof.Machine.execAbs f s
  | .mull f => Sys2Proof.Machine.execMull f s
  | .mulh f => Sys2Proof.Machine.execMulh f s
  | .madl f => Sys2Proof.Machine.execMadl f s
  | .madw f => Sys2Proof.Machine.execMadw f s
  | .min f => Sys2Proof.Machine.execMin f s
  | .max f => Sys2Proof.Machine.execMax f s
  | .adif f => Sys2Proof.Machine.execAdif f s
  | .tlut f => Sys2Proof.Machine.execTlut f s
  | .shl f => Sys2Proof.Machine.execShl f s
  | .shr f => Sys2Proof.Machine.execShr f s
  | .sar f => Sys2Proof.Machine.execSar f s
  | .rot f => Sys2Proof.Machine.execRot f s
  | .funl f => Sys2Proof.Machine.execFunl f s
  | .ones f => Sys2Proof.Machine.execOnes f s
  | .clz f => Sys2Proof.Machine.execClz f s
  | .bitr f => Sys2Proof.Machine.execBitr f s
  | .fext f => Sys2Proof.Machine.execFext f s
  | .fdep f => Sys2Proof.Machine.execFdep f s
  | .pick f => Sys2Proof.Machine.execPick f s
  | .mov f => Sys2Proof.Machine.execMov f s
  | .seti f w2 => Sys2Proof.Machine.execSeti f w2 s
  | .scad f => Sys2Proof.Machine.execScad f s
  | .bshuf f => Sys2Proof.Machine.execBshuf f s
  | .sadd f => Sys2Proof.Machine.execSadd f s
  | .ssub f => Sys2Proof.Machine.execSsub f s
  | .smul f => Sys2Proof.Machine.execSmul f s
  | .slop f => Sys2Proof.Machine.execSlop f s
  | .sshf f => Sys2Proof.Machine.execSshf f s
  | .smov f => Sys2Proof.Machine.execSmov f s
  | .smovi f w2 => Sys2Proof.Machine.execSmovi f w2 s
  | .scmp f => Sys2Proof.Machine.execScmp f s
  | .slea f => Sys2Proof.Machine.execSlea f s
  | .ssel f => Sys2Proof.Machine.execSsel f s
  | .sfromv f => Sys2Proof.Machine.execSfromv f s
  | .sread f => Sys2Proof.Machine.execSread f s
  | .fadd f => Sys2Proof.Machine.execFadd f s
  | .fmul f => Sys2Proof.Machine.execFmul f s
  | .ffma f => Sys2Proof.Machine.execFfma f s
  | .fmin f => Sys2Proof.Machine.execFmin f s
  | .fmax f => Sys2Proof.Machine.execFmax f s
  | .frnd f => Sys2Proof.Machine.execFrnd f s
  | .fclass f => Sys2Proof.Machine.execFclass f s
  | .fscale f => Sys2Proof.Machine.execFscale f s
  | .frcp f => Sys2Proof.Machine.execFrcp f s
  | .frsq f => Sys2Proof.Machine.execFrsq f s
  | .fsqrt f => Sys2Proof.Machine.execFsqrt f s
  | .fexp2 f => Sys2Proof.Machine.execFexp2 f s
  | .flog2 f => Sys2Proof.Machine.execFlog2 f s
  | .fsin f => Sys2Proof.Machine.execFsin f s
  | .fcos f => Sys2Proof.Machine.execFcos f s
  | .ftanh f => Sys2Proof.Machine.execFtanh f s
  | .dadd f => Sys2Proof.Machine.execDadd f s
  | .dmul f => Sys2Proof.Machine.execDmul f s
  | .dfma f => Sys2Proof.Machine.execDfma f s
  | .dmin f => Sys2Proof.Machine.execDmin f s
  | .dmax f => Sys2Proof.Machine.execDmax f s
  | .hadd2 f => Sys2Proof.Machine.execHadd2 f s
  | .hmul2 f => Sys2Proof.Machine.execHmul2 f s
  | .hfma2 f => Sys2Proof.Machine.execHfma2 f s
  | .hmax2 f => Sys2Proof.Machine.execHmax2 f s
  | .cvt f => Sys2Proof.Machine.execCvt f s
  | .pack f => Sys2Proof.Machine.execPack f s
  | .unpack f => Sys2Proof.Machine.execUnpack f s
  | .qscale f => Sys2Proof.Machine.execQscale f s
  | .cmpd f => Sys2Proof.Machine.execCmpd f s
  | .icmpd f => Sys2Proof.Machine.execIcmpd f s
  | .dot2 f => Sys2Proof.Machine.execDot2 f s
  | .dot4 f => Sys2Proof.Machine.execDot4 f s
  | .dot8 f => Sys2Proof.Machine.execDot8 f s
  | .qswap f => Sys2Proof.Machine.execQswap f s
  | .qbcast f => Sys2Proof.Machine.execQbcast f s
  | .qddx f => Sys2Proof.Machine.execQddx f s
  | .qddy f => Sys2Proof.Machine.execQddy f s
  | .xlane f => Sys2Proof.Machine.execXlane f s
  | .pscan f => Sys2Proof.Machine.execPscan f s
  | .treduce f => Sys2Proof.Machine.execTreduce f s
  | .pcmpi f => Sys2Proof.Machine.execPcmpi f s
  | .pcmpf f => Sys2Proof.Machine.execPcmpf f s
  | .pcmpd f => Sys2Proof.Machine.execPcmpd f s
  | .plut f => Sys2Proof.Machine.execPlut f s
  | .pagree f => Sys2Proof.Machine.execPagree f s
  | .ptov f => Sys2Proof.Machine.execPtov f s
  | .vtop f => Sys2Proof.Machine.execVtop f s
  | .ld f => Sys2Proof.Machine.execLd f s
  | .st f => Sys2Proof.Machine.execSt f s
  | .ldv f => Sys2Proof.Machine.execLdv f s
  | .stv f => Sys2Proof.Machine.execStv f s
  | .ldl f => Sys2Proof.Machine.execLdl f s
  | .stl f => Sys2Proof.Machine.execStl f s
  | .pfetch f => Sys2Proof.Machine.execPfetch f s
  | .tex f => Sys2Proof.Machine.execTex f s
  | .texg f => Sys2Proof.Machine.execTexg f s
  | .rtw f => Sys2Proof.Machine.execRtw f s
  | .rtz f => Sys2Proof.Machine.execRtz f s
  | .rtr f => Sys2Proof.Machine.execRtr f s
  | .atom f w2 => Sys2Proof.Machine.execAtom f w2 s
  | .acas f w2 => Sys2Proof.Machine.execAcas f w2 s
  | .red f w2 => Sys2Proof.Machine.execRed f w2 s
  | .atoms f w2 => Sys2Proof.Machine.execAtoms f w2 s
  | .awaitv f w2 => Sys2Proof.Machine.execAwaitv f w2 s
  | .bari f => Sys2Proof.Machine.execBari f s
  | .bara f => Sys2Proof.Machine.execBara f s
  | .barw f => Sys2Proof.Machine.execBarw f s
  | .baraw f => Sys2Proof.Machine.execBaraw f s
  | .bart f => Sys2Proof.Machine.execBart f s
  | .barx f => Sys2Proof.Machine.execBarx f s
  | .cpy f w2 => Sys2Proof.Machine.execCpy f w2 s
  | .cpyt f w2 => Sys2Proof.Machine.execCpyt f w2 s
  | .gath f w2 => Sys2Proof.Machine.execGath f w2 s
  | .scat f w2 => Sys2Proof.Machine.execScat f w2 s
  | .eclose f => Sys2Proof.Machine.execEclose f s
  | .ewait f => Sys2Proof.Machine.execEwait f s
  | .ewaito f => Sys2Proof.Machine.execEwaito f s
  | .mma f w2 => Sys2Proof.Machine.execMma f w2 s
  | .mmal f w2 => Sys2Proof.Machine.execMmal f w2 s
  | .mzero f => Sys2Proof.Machine.execMzero f s
  | .mldt f w2 => Sys2Proof.Machine.execMldt f w2 s
  | .mrd f => Sys2Proof.Machine.execMrd f s
  | .mwr f => Sys2Proof.Machine.execMwr f s
  | .mdrain f w2 => Sys2Proof.Machine.execMdrain f w2 s
  | .mtag f => Sys2Proof.Machine.execMtag f s
  | .spawn f => Sys2Proof.Machine.execSpawn f s
  | .spawnd f => Sys2Proof.Machine.execSpawnd f s
  | .await f => Sys2Proof.Machine.execAwait f s
  | .awaitSteal f => Sys2Proof.Machine.execAwaitSteal f s
  | .recg f => Sys2Proof.Machine.execRecg f s
  | .done f => Sys2Proof.Machine.execDone f s
  | .nodeq f => Sys2Proof.Machine.execNodeq f s
  | .rget f => Sys2Proof.Machine.execRget f s
  | .rbary f => Sys2Proof.Machine.execRbary f s
  | .rflat f => Sys2Proof.Machine.execRflat f s
  | .rcov f => Sys2Proof.Machine.execRcov f s
  | .rkill f => Sys2Proof.Machine.execRkill f s
  | .trace f => Sys2Proof.Machine.execTrace f s
  | .rret f => Sys2Proof.Machine.execRret f s
  | .rhit f => Sys2Proof.Machine.execRhit f s
  | .trap f => Sys2Proof.Machine.execTrap f s
  | .rttRetry f => Sys2Proof.Machine.execRttRetry f s
  | .rttSkip f => Sys2Proof.Machine.execRttSkip f s
  | .rttKill f => Sys2Proof.Machine.execRttKill f s
  | .syscall f => Sys2Proof.Machine.execSyscall f s
  | .csrr f => Sys2Proof.Machine.execCsrr f s
  | .csrw f => Sys2Proof.Machine.execCsrw f s
  | .bkpt f => Sys2Proof.Machine.execBkpt f s
  | .pmark f => Sys2Proof.Machine.execPmark f s
  | .clock f => Sys2Proof.Machine.execClock f s
  | .tlbi f => Sys2Proof.Machine.execTlbi f s
  | .coll f w2 => Sys2Proof.Machine.execColl f w2 s
  | .frec f => Sys2Proof.Machine.execFrec f s
  | .packagePowerOn b => Sys2Proof.Machine.execPackagePowerOn b s
  | .registerWrite r off v => Sys2Proof.Machine.execRegisterWrite r off v s
  | .powerSample pkgW temp => Sys2Proof.Machine.execPowerSample pkgW temp s
  | .railFastTrip r => Sys2Proof.Machine.execRailFastTrip r s
  | .junction105 die => Sys2Proof.Machine.execJunction105 die s
  | .junctionBelow95 die => Sys2Proof.Machine.execJunctionBelow95 die s
  | .thermtrip die => Sys2Proof.Machine.execThermtrip die s
  | .frequencyChange die => Sys2Proof.Machine.execFrequencyChange die s
  | .powerCapWrite v => Sys2Proof.Machine.execPowerCapWrite v s
  | .ageingMeasure rs => Sys2Proof.Machine.execAgeingMeasure rs s
  | .flitReceive port flit => Sys2Proof.Machine.execFlitReceive port flit s
  | .flitReplay port => Sys2Proof.Machine.execFlitReplay port s
  | .portPartnerDetect port nb => Sys2Proof.Machine.execPortPartnerDetect port nb s
  | .portTrainResult port lanes => Sys2Proof.Machine.execPortTrainResult port lanes s
  | .portRetrainResult port lanes => Sys2Proof.Machine.execPortRetrainResult port lanes s
  | .portLaneLoss port lane => Sys2Proof.Machine.execPortLaneLoss port lane s
  | .portEnableWrite port v => Sys2Proof.Machine.execPortEnableWrite port v s
  | .portRetrainWrite port v => Sys2Proof.Machine.execPortRetrainWrite port v s
  | .portStatusRead port => Sys2Proof.Machine.execPortStatusRead port s
  | .heartbeatSend => Sys2Proof.Machine.execHeartbeatSend s
  | .heartbeatReceive payload => Sys2Proof.Machine.execHeartbeatReceive payload s
  | .beatMissed pkg => Sys2Proof.Machine.execBeatMissed pkg s
  | .resetRequestReceive msg => Sys2Proof.Machine.execResetRequestReceive msg s
  | .linkMessageSend l m => Sys2Proof.Machine.execLinkMessageSend l m s
  | .inboxPop l => Sys2Proof.Machine.execInboxPop l s
  | .upMessageApply leaf => Sys2Proof.Machine.execUpMessageApply leaf s
  | .sorrelMessageApply => Sys2Proof.Machine.execSorrelMessageApply s
  | .downMessageApply leaf => Sys2Proof.Machine.execDownMessageApply leaf s
  | .restoreMessage => Sys2Proof.Machine.execRestoreMessage s
  | .wdKick core key => Sys2Proof.Machine.execWdKick core key s
  | .wdLateTrip core => Sys2Proof.Machine.execWdLateTrip core s
  | .firmwareRestartDone core => Sys2Proof.Machine.execFirmwareRestartDone core s
  | .qpEnable fn q cfg => Sys2Proof.Machine.execQpEnable fn q cfg s
  | .qpDisable fn q => Sys2Proof.Machine.execQpDisable fn q s
  | .qpDrainDone fn q => Sys2Proof.Machine.execQpDrainDone fn q s
  | .qpErrorStopped fn q => Sys2Proof.Machine.execQpErrorStopped fn q s
  | .sqnWrite fn q v => Sys2Proof.Machine.execSqnWrite fn q v s
  | .cqhWrite fn q v => Sys2Proof.Machine.execCqhWrite fn q v s
  | .sqEntryFetch fn q faults => Sys2Proof.Machine.execSqEntryFetch fn q faults s
  | .completionWrite fn q cid faults => Sys2Proof.Machine.execCompletionWrite fn q cid faults s
  | .sqeNop fn q => Sys2Proof.Machine.execSqeNop fn q s
  | .enqueue fn q dmaFaultAt => Sys2Proof.Machine.execEnqueue fn q dmaFaultAt s
  | .enqueueWait fn q dmaFaultAt => Sys2Proof.Machine.execEnqueueWait fn q dmaFaultAt s
  | .enqueueWaitDone fn q cid => Sys2Proof.Machine.execEnqueueWaitDone fn q cid s
  | .enqueueInline fn q => Sys2Proof.Machine.execEnqueueInline fn q s
  | .query fn q => Sys2Proof.Machine.execQuery fn q s
  | .guestDefinedCommand fn q status result => Sys2Proof.Machine.execGuestDefinedCommand fn q status result s
  | .flrInitiate fn => Sys2Proof.Machine.execFlrInitiate fn s
  | .pfFlr => Sys2Proof.Machine.execPfFlr s
  | .hotReset => Sys2Proof.Machine.execHotReset s
  | .flrAbortTimeout fn => Sys2Proof.Machine.execFlrAbortTimeout fn s
  | .flrComplete fn => Sys2Proof.Machine.execFlrComplete fn s
  | .sbiStandardCall part r => Sys2Proof.Machine.execSbiStandardCall part r s
  | .version part r => Sys2Proof.Machine.execVersion part r s
  | .callQuery part r => Sys2Proof.Machine.execCallQuery part r s
  | .partInfo part r => Sys2Proof.Machine.execPartInfo part r s
  | .partResizeReq part r => Sys2Proof.Machine.execPartResizeReq part r s
  | .vfBind part r => Sys2Proof.Machine.execVfBind part r s
  | .vfReset part r => Sys2Proof.Machine.execVfReset part r s
  | .poolDonate part r => Sys2Proof.Machine.execPoolDonate part r s
  | .poolReclaim part r => Sys2Proof.Machine.execPoolReclaim part r s
  | .ctxCreate part r => Sys2Proof.Machine.execCtxCreate part r s
  | .ctxDestroy part r => Sys2Proof.Machine.execCtxDestroy part r s
  | .collGroup part r => Sys2Proof.Machine.execCollGroup part r s
  | .collGroupTimeout handle => Sys2Proof.Machine.execCollGroupTimeout handle s
  | .attestReport part r => Sys2Proof.Machine.execAttestReport part r s
  | .healthRead part r => Sys2Proof.Machine.execHealthRead part r s
  | .resizeStart part => Sys2Proof.Machine.execResizeStart part s
  | .resizeAbort part => Sys2Proof.Machine.execResizeAbort part s
  | .resizeAdvance part => Sys2Proof.Machine.execResizeAdvance part s
  | .prepareAck part leaf => Sys2Proof.Machine.execPrepareAck part leaf s
  | .blockMigrate blk => Sys2Proof.Machine.execBlockMigrate blk s
  | .migrateTimeout part => Sys2Proof.Machine.execMigrateTimeout part s
  | .rehashLineMove part slice => Sys2Proof.Machine.execRehashLineMove part slice s
  | .drnCopyGo part => Sys2Proof.Machine.execDrnCopyGo part s
  | .drnCopyDone part => Sys2Proof.Machine.execDrnCopyDone part s
  | .releaseAck part => Sys2Proof.Machine.execReleaseAck part s
  | .scrubUnit part u => Sys2Proof.Machine.execScrubUnit part u s
  | .shareRound part => Sys2Proof.Machine.execShareRound part s
  | .placementRound leaf => Sys2Proof.Machine.execPlacementRound leaf s
  | .coalesceTimeout node => Sys2Proof.Machine.execCoalesceTimeout node s
  | .timeSliceEnd core part => Sys2Proof.Machine.execTimeSliceEnd core part s
  | .gangHalt gang applied => Sys2Proof.Machine.execGangHalt gang applied s
  | .blockResume blk core => Sys2Proof.Machine.execBlockResume blk core s
  | .handlerWindowTimeout core slot half => Sys2Proof.Machine.execHandlerWindowTimeout core slot half s
  | .guestFaultResume core slot half retry => Sys2Proof.Machine.execGuestFaultResume core slot half retry s
  | .loadReturn core slot half n => Sys2Proof.Machine.execLoadReturn core slot half n s
  | .linkLostReturn core slot half n => Sys2Proof.Machine.execLinkLostReturn core slot half n s
  | .storePerformedAtHome n => Sys2Proof.Machine.execStorePerformedAtHome n s
  | .l1Eviction core n => Sys2Proof.Machine.execL1Eviction core n s
  | .tlbiCtlGo ctx => Sys2Proof.Machine.execTlbiCtlGo ctx s
  | .tlbiComplete ctx => Sys2Proof.Machine.execTlbiComplete ctx s
  | .heapctlWrite ctx v => Sys2Proof.Machine.execHeapctlWrite ctx v s
  | .sampleTake core ctx => Sys2Proof.Machine.execSampleTake core ctx s
  | .smpCtlWrite ctx v => Sys2Proof.Machine.execSmpCtlWrite ctx v s
  | .smpDroppedRead ctx => Sys2Proof.Machine.execSmpDroppedRead ctx s
  | .copyPiece core op => Sys2Proof.Machine.execCopyPiece core op s
  | .gatherElement core op => Sys2Proof.Machine.execGatherElement core op s
  | .matrixStep core op => Sys2Proof.Machine.execMatrixStep core op s
  | .moveBandPass core op => Sys2Proof.Machine.execMoveBandPass core op s
  | .collComplete handle remote => Sys2Proof.Machine.execCollComplete handle remote s
  | .awaitvWake core slot half => Sys2Proof.Machine.execAwaitvWake core slot half s
  | .barwWake core slot half => Sys2Proof.Machine.execBarwWake core slot half s
  | .ewaitReturn core slot half => Sys2Proof.Machine.execEwaitReturn core slot half s
  | .awaitWake core slot half => Sys2Proof.Machine.execAwaitWake core slot half s
  | .vgrowGrant core part => Sys2Proof.Machine.execVgrowGrant core part s
  | .spawnRetry core slot half => Sys2Proof.Machine.execSpawnRetry core slot half s
  | .batchDispatch core slot half => Sys2Proof.Machine.execBatchDispatch core slot half s
  | .triangleSetup blk => Sys2Proof.Machine.execTriangleSetup blk s
  | .drawRetire blk => Sys2Proof.Machine.execDrawRetire blk s
  | .rayTraversal blk ray => Sys2Proof.Machine.execRayTraversal blk ray s
  | .throttleControlResume => Sys2Proof.Machine.execThrottleControlResume s
  | .collGroupComplete handle => Sys2Proof.Machine.execCollGroupComplete handle s
  | .cowslipContinue core slot half => Sys2Proof.Machine.execCowslipContinue core slot half s

end Sys2Proof.Machine
end

