-- ==== Sys2Proof/Machine/Step.lean ====
section
/-! DEFINITION. One step of the part, and the placing of a word where the next step fetches. -/

namespace Sys2Proof.Machine

/-- One step: the oldest event to come, or the issue of the selected team; then time passes. -/
def step (s : State) : Host.Outcome State Fault Refusal := passed s (s.advanceWith exec)

/-- Places the words of an instruction where the next step fetches: a launched block of one team whose PC names them. -/
def State.withFetchWord (s : State) (nbits w : Nat) : State := s.placeCode (w % 2 ^ nbits)

end Sys2Proof.Machine
end

