-- ==== Sys2Proof/Machine/Claims.lean ====
section
/-! DEFINITION. The terms of the statements: which instructions act on registers alone, and what such an instruction leaves
as it was. -/

namespace Sys2Proof.Machine

/-- Instructions of registers alone that can meet no cause of execution: their result is one vector register, a run of them,
a predicate or an s register. SFROMV.chk, and PACK, UNPACK, CMPD and ICMPD, which read a table, are apart. -/
def registerOnly : Instr → Bool
  | .add _ | .tadd _ | .sub _ | .neg _ | .abs _ | .mull _ | .mulh _ | .madl _ | .madw _ | .min _ | .max _ | .adif _
  | .tlut _ | .shl _ | .shr _ | .sar _ | .rot _ | .funl _ | .ones _ | .clz _ | .bitr _ | .fext _ | .fdep _ | .pick _
  | .mov _ | .seti _ _ | .scad _ | .bshuf _ => true
  | .sadd _ | .ssub _ | .smul _ | .slop _ | .sshf _ | .smov _ | .smovi _ _ | .scmp _ | .slea _ | .ssel _ | .sread _ => true
  | .fadd _ | .fmul _ | .ffma _ | .fmin _ | .fmax _ | .frnd _ | .fclass _ | .fscale _ | .frcp _ | .frsq _ | .fsqrt _
  | .fexp2 _ | .flog2 _ | .fsin _ | .fcos _ | .ftanh _ | .dadd _ | .dmul _ | .dfma _ | .dmin _ | .dmax _ | .hadd2 _
  | .hmul2 _ | .hfma2 _ | .hmax2 _ => true
  | .cvt _ | .qscale _ | .dot2 _ | .dot4 _ | .dot8 _ => true
  | .qswap _ | .qbcast _ | .qddx _ | .qddy _ | .xlane _ | .pscan _ | .treduce _ => true
  | .pcmpi _ | .pcmpf _ | .pcmpd _ | .plut _ | .pagree _ | .ptov _ | .vtop _ => true
  | .rget _ | .rbary _ | .rflat _ | .rcov _ | .rhit _ => true
  | _ => false

/-- Registers that an instruction at issue writes: v registers below 1024, s registers from 1024, predicates from 2048. -/
def Env.writes (e : Env) (i : Instr) : List Nat := regsWritten i e.b.rtRun

/-- What an instruction of registers leaves of its team: every lane of every register but the guarded lanes of those that it
writes, the stack, the fault record, the loads in flight (but for the mark of those that a halt must not read anew), and what a trap
has saved. A register is known by where its name leads, since a handler
window may stand on held registers (R136). -/
structure RegFrame (i : Instr) (e : Env) (t : Team) : Prop where
  vec : ∀ r l, l < 1024 →
    ((∀ d ∈ e.writes i, d < 1024 → e.t.vname r ≠ e.t.vname d) ∨ (e.t.act i.hdr).getLsbD l = false) →
      t.getV r l = e.t.getV r l
  pred : ∀ p l, p < 7 → (2048 + p ∉ e.writes i ∨ (e.t.act i.hdr).getLsbD l = false) →
    (t.pred p).getLsbD l = (e.t.pred p).getLsbD l
  sreg : ∀ n, 1024 + n ∉ e.writes i → t.sreg n = e.t.sreg n
  active : (t.mask, t.helper) = e.t.restore.getD (e.t.mask, e.t.helper)
  stack : t.stack = e.t.stack
  fault : t.fault = e.t.fault
  saved : t.trap.map (fun x => ({ x with window := .granules [] } : TrapState)) =
    e.t.trap.map fun x => ({ x with window := .granules [] } : TrapState)
  other : t.chunks = e.t.chunks ∧ t.status = e.t.status ∧ t.flights = (e.t.fixLoads e.op).flights ∧ t.counters = e.t.counters ∧
    t.frame = e.t.frame ∧ t.run = e.t.run ∧ t.elems = e.t.elems ∧ t.rays = e.t.rays ∧ t.async = e.t.async

/-- The machine after an instruction that changes nothing outside its team: it is counted in `x` (R71), which is `e` or, where
the instruction reads rate-store rows, `e` with their conflict clk counted; the team stands in its place, and every byte of
every memory reads as before. -/
structure TeamStep (e x : Env) (s' : State) (t : Team) : Prop where
  state : s' = x.counted.putTeam t
  current : s'.curTeam = some t
  cores : s'.cores = e.s.cores
  bytes : ∀ chip a n, s'.homeRead chip a n = e.s.homeRead chip a n

/-- An instruction that reads rate-store rows, with their conflict clk counted (R137, R397); any other as it stands. -/
def Env.rateRead (e : Env) (i : Instr) : Env :=
  match i with
  | .rget f => e.rateBanked (bits f.fn.toNat 7 3) (e.t.act f.h) fun l =>
      (e.drawOf.ancestor (bits f.fn.toNat 2 0) 8 (e.elemOf l).up).toList
  | .rbary f => e.rateBanked (bits f.fn.toNat 7 3) (e.t.act f.h) (e.vertRecs 3)
  | .rflat f => e.rateBanked (bits f.fn.toNat 7 3) (e.t.act f.h) (e.vertRecs 1)
  | _ => e

/-! ### Results -/

/-- An instruction answers a next state in which its one 32-bit result is `x` in every lane whose guard holds: in the newest
latch, and in v[d] unless WS keeps it there (R132). Its other effects are those of `Env.counted` and of a team step. -/
def Env.gives32 (e : Env) (i : Instr) (d : Nat) (x : Nat → Word) (o : Out) : Prop :=
  ∃ t, o = .next (e.counted.putTeam t) ∧ t.pc = e.nextPc i ∧ t.latches.tail = e.t.latches.take 7 ∧
    ∀ l, l < 1024 → l < e.t.lanes → (e.t.act i.hdr).getLsbD l = true →
      t.latch 1 l = x l ∧ (i.hdr.ws = 0 → t.getV d l = x l)

/-- The same for a 64-bit result: v[d] and v[d + 1], and an empty latch (R132, R320). -/
def Env.gives64 (e : Env) (i : Instr) (d : Nat) (x : Nat → DWord) (o : Out) : Prop :=
  ∃ t, o = .next (e.counted.putTeam t) ∧ t.pc = e.nextPc i ∧ t.latches = (none :: e.t.latches).take 8 ∧
    ∀ l, l < 1024 → l < e.t.lanes → (e.t.act i.hdr).getLsbD l = true → t.getV (d + 1) l ++ t.getV d l = x l

/-- The same for an s register (R323). -/
def Env.givesS (e : Env) (i : Instr) (d : Nat) (x : DWord) (o : Out) : Prop :=
  ∃ t, o = .next (e.counted.putTeam t) ∧ t.pc = e.nextPc i ∧ t.latches = (none :: e.t.latches).take 8 ∧ t.sreg d = x

/-- The same for a predicate, in every lane whose guard holds (R317). -/
def Env.givesPred (e : Env) (i : Instr) (d : Nat) (x : Nat → Bool) (o : Out) : Prop :=
  ∃ t, o = .next (e.counted.putTeam t) ∧ t.pc = e.nextPc i ∧ t.latches = (none :: e.t.latches).take 8 ∧
    ∀ l, l < 1024 → l < e.t.lanes → (e.t.act i.hdr).getLsbD l = true → (t.pred d).getLsbD l = x l

/-- An exact integer as the result of an integer instruction: clamped to the range of the destination under SAT, else
wrapped (R320). -/
def Env.givesInt (e : Env) (i : Instr) (f : FV) (long uns sat : Bool) (x : Nat → Int) (o : Out) : Prop :=
  let fit (w : Nat) (x : Int) : Int :=
    if sat then (if uns then max 0 (min (2 ^ w - 1) x) else max (-2 ^ (w - 1)) (min (2 ^ (w - 1) - 1) x)) else x
  if long then e.gives64 i f.d.toNat (fun l => BitVec.ofInt 64 (fit 64 (x l))) o
  else e.gives32 i f.d.toNat (fun l => BitVec.ofInt 32 (fit 32 (x l))) o

/-! ### Next states -/

/-- The state after an instruction that leaves the team as `t` in the state `s'`: it is counted (R71), the loads in
flight are marked that a halt must not read anew (R193, R217), the latches have shifted (R132), a retried instruction's mask stands again (R214), and the team goes on at `pc`. -/
def Env.after (e : Env) (s' : State) (t : Team) (lat : Option (Map Word)) (pc : CodeOff) : State :=
  ({ e with s := s' } : Env).counted.putTeam { ((t.fixLoads e.op).shift lat).unretry with pc := pc }

/-- The same, at the next instruction. -/
def Env.stepped (e : Env) (i : Instr) (s' : State) (t : Team) (lat : Option (Map Word)) : State :=
  e.after s' t lat (e.nextPc i)

/-- The state after a transfer of control to `pc`: it is counted, the latches have shifted, and after a taken one the team waits 6 clk
for fetch (R145, R425). -/
def Env.moved (e : Env) (t : Team) (pc : CodeOff) (taken : Bool) : State :=
  e.counted.putTeam { (t.shift none).unretry with pc := pc, fetchWait := if taken then .upTo (e.s.clk + 6) else .no }

/-- The state after an instruction that could not issue: the team tries it again, and the reason is kept (R74, R144). -/
def Env.waiting (e : Env) (reason : Nat) : State :=
  e.s.putTeam { e.t with stall := reason, region := (e.s.team? e.t.tid).bind Team.region }

/-- The depth limit of a team's rejoin stack (R305, R226). -/
def Env.limit (e : Env) : Nat := if e.t.fore then 16 else 32

/-- The selected team as an instruction reaches the checks of decode: merged (R308), its region closed in front of an
instruction that names no latch. -/
def State.atDecode (s : State) (t : Team) (i : Instr) : Env :=
  { s := s.putTeam t.merge, t := t.merge.closeRegion i, b := (s.putTeam t.merge).blockOf (t.merge.closeRegion i), op := i.opcode }

/-- The trap of a team cause as its instruction raises it (R209): every active lane but helpers traps. -/
def Env.raise (e : Env) (i : Instr) (c : Cause) : Raise :=
  { cause := c, lanes := e.t.mask &&& ~~~e.t.helper, pending := e.t.mask, full := true, pc := e.t.pc, insn := i.word,
    resume := (e.t.resumeAt i).1, size := (e.t.resumeAt i).2 }

end Sys2Proof.Machine
end

