-- ==== Sys2Proof/Certificates/Slice0/Obligations.lean ====
section
/-! DEFINITION. The statements for the provers. -/

set_option Elab.async false

open Sys2Proof Sys2Proof.Machine

/-! ### Encodings -/

/-- The words that the encoding chapters write out field by field decode to the instructions they stand for;
the opcodes that R291 leaves unassigned decode to nothing, and every other opcode has a word that decodes. -/
def Obligations.WorkedWordsDecode : Prop :=
  decode 0x1000_7010_100C_0000 0 = some (.add { h := {}, d := 1, sa := 2, sb := 3, sc := 0, fn := 0 }) ∧
  decode 0x4200_7020_1812_A241 0 = some (.ffma { h := {}, d := 2, sa := 3, sb := 4, sc := 0x151, fn := 0x041 }) ∧
  decode 0x8000_7070_2180_2028 0 =
    some (.ld { h := {}, data := 7, addr := 4, seg := 3, off := 64, pol := 1, size := 2, space := 0 }) ∧
  decode 0x0900_7FFF_FFD1_0000 0 = some (.loop { h := {}, off := 0xFF_FFFD, fn := 0x10000 }) ∧
  decode 0x3000_718C_10FF_FFC0 0 = some (.sadd { h := {}, d := 3, sa := 3, sb := 0, i := 1, fn := 0, imm := 0xFF_FFC0 }) ∧
  decode 0x6000_70C0_1800_02C1 0 = some (.cvt { h := {}, d := 12, sa := 3, imm := 0, fn := 0x2C1 }) ∧
  decode 0x7800_7009_0554_0002 0 = some (.pcmpi { h := {}, d := 0, sa := 0x120, sb := 0x155, sc := 0, fn := 2 }) ∧
  decode 0xB800_7008_6436_1C01 0x200A_0C00_0000_0000 =
    some (.cpy { h := {}, d := 0, sa := 0x10C, sb := 0x10D, sc := 0x10E, fn := 1 } 0x200A_0C00_0000_0000) ∧
  decode 0xD200_7000_0000_0001 0 = some (.awaitSteal { h := {}, d := 0, sa := 0, sb := 0, sc := 0, fn := 1 }) ∧
  decode 0xE100_7000_0000_0001 0 = some (.rttSkip { h := {}, d := 0, sa := 0, sb := 0, sc := 0, fn := 1 }) ∧
  decode 0 0 = some (.nop { h := { gp := 0 }, off := 0, fn := 0 }) ∧
  decode 0xFFFF_FFFF_FFFF_FFFF 0 = none ∧
  (∀ (w w2 : DWord), (w.extractLsb' 56 8).toNat ∈ [0x0E, 0x0F] ++ List.range' 0x2C 4 ++ List.range' 0x3C 4 ++
      List.range' 0x59 7 ++ List.range' 0x69 7 ++ [0x77, 0x7F] ++ List.range' 0x8C 20 ++ List.range' 0xA5 11 ++
      [0xB6, 0xB7, 0xBF] ++ List.range' 0xC8 8 ++ [0xD6, 0xD7] ++ List.range' 0xEB 21 → decode w w2 = none) ∧
  ∀ op : BitVec 8, op.toNat ∉ [0x0E, 0x0F] ++ List.range' 0x2C 4 ++ List.range' 0x3C 4 ++
      List.range' 0x59 7 ++ List.range' 0x69 7 ++ [0x77, 0x7F] ++ List.range' 0x8C 20 ++ List.range' 0xA5 11 ++
      [0xB6, 0xB7, 0xBF] ++ List.range' 0xC8 8 ++ [0xD6, 0xD7] ++ List.range' 0xEB 21 →
    ∃ w : DWord, w.extractLsb' 56 8 = op ∧ (decode w 0).isSome

/-- Decode and encode agree, for every instruction of the opcode map: the bytes of a well-formed instruction, with anything
behind them, decode to it and to what is behind them. -/
def Obligations.EncodeDecodeRoundTrip : Prop :=
  ∀ (i : Instr) (rest : List Byte), i.isEvent = false → WellFormed i →
    decodeBytes (encodeBytes i ++ rest) = some (i, rest)

/-- Each word has one meaning, and no bit of it is dropped: what decodes encodes to the same words. -/
def Obligations.DecodeEncodeRoundTrip : Prop :=
  ∀ (w w2 : DWord) (i : Instr), decode w w2 = some i →
    i.isEvent = false ∧ i.word = w ∧ i.second = if isTwoWord w then some w2 else none

/-! ### Steps -/

/-- A step runs the decoded instruction: the words at the PC of a team that may issue decode to an instruction, and the step
is exec of it, followed by the passing of time. Words that decode to nothing and fetches that fail trap. INFO and the
closing of the region at those traps are the model's choice (log 68), and so are that a load held back is performed on its
return (log 54) and the order of a pair's halves in one step (log 55). -/
def Obligations.StepRunsFetchedInstruction : Prop :=
  (∀ (s s' : State) (t : Team) (f : Fetched), s.inputs = [] → s.pkg.powered = true → s.curTeam = some t →
    s.lowerFirst t exec = none → s.canIssue t = true → t.packets = [] →
    (t.async = [] ∨ t.trap.isSome = true ∨ t.cursor ≠ 0) → s.fetched t = (s', f) →
      (∀ i, f = .instr i → t.merge.blocker (s'.blockOf t.merge).rtRun i = none →
        (s'.joins t.merge i = none → step s = passed s (noted i s' (exec i s'))) ∧
        (∀ u s1 s2, s'.joins t.merge i = some u → noted i s' (exec i s') = .next s1 →
          (∀ t1, s1.team? t.tid = some t1 → t1.issued ≠ t.issued) → (∃ u1, s1.team? u.tid = some u1 ∧ s1.canIssue u1 = true) →
          s2 = { s1 with sel := { core := t.core, slot := t.slot, half := 1, joint := true } } →
            step s = passed s (noted i s2 (exec i s2)))) ∧
      (∀ i n, f = .instr i → t.merge.blocker (s'.blockOf t.merge).rtRun i = some n →
        step s = passed s (.next ((s'.landFlight t.merge n).1.putTeam (s'.landFlight t.merge n).2))) ∧
      (∀ w n, f = .bad w n →
        step s = passed s (Env.fetchTrap { s := s', t := { t.merge with region := none }, b := s'.blockOf t.merge }
          .illegalOpcode w n 0 0 0)) ∧
      (∀ w x, f = .fault w x →
        step s = passed s (Env.fetchTrap { s := s', t := t.merge, b := s'.blockOf t.merge } x.cause w
          (if isTwoWord w then 16 else 8) (infoOf 15 0 3 3 x) (BitVec.ofNat 64 x.va) x.gpa))) ∧
  (∀ (s : State) (t : Team), t.fore = false ∨ t.half ≠ 1 ∨ s.teamAt t.core t.slot 0 = none → s.lowerFirst t exec = none) ∧
  (∀ (s s1 s2 : State) (t u : Team) (i : Instr), s.inputs = [] → s.pkg.powered = true → s.curTeam = some t → t.fore = true →
    t.half = 1 → s.teamAt t.core t.slot 0 = some u → s.fetched u = (s1, .instr i) →
    (s1.readyFor u.merge i = false → s.lowerFirst t exec = none) ∧
    (s1.readyFor u.merge i = true →
      ({ s with sel := { s.sel with half := 0 } } : State).issueTeam u exec = .next s2 →
      (∀ v, s2.team? u.tid = some v → v.issued = u.issued → v.status = .ready → v.stall = 0) →
        step s = passed s (.next s2)) ∧
    (s1.readyFor u.merge i = true →
      ({ s with sel := { s.sel with half := 0 } } : State).issueTeam u exec = .next s2 →
      (∃ v, s2.team? u.tid = some v ∧ v.issued = u.issued ∧ v.status = .ready ∧ v.stall ≠ 0) → s.lowerFirst t exec = none)) ∧
  (∀ (s : State) (t u : Team), t.fore = true → t.half = 1 → s.teamAt t.core t.slot 0 = some u →
    (∀ i, (s.fetched u).2 ≠ .instr i) → s.lowerFirst t exec = none) ∧
  (∀ (s s1 : State) (t : Team) (f : MFault), (s.envAt t).fetchWord (s.envAt t).t.pc = (s1, .error f) →
    s.fetched t = (s1, .fault 0 f)) ∧
  (∀ (s s1 : State) (t : Team) (w : DWord), (s.envAt t).fetchWord (s.envAt t).t.pc = (s1, .ok w) →
    (isTwoWord w = false → s.fetched t = (s1, match decode w 0 with | some i => .instr i | none => .bad w 8)) ∧
    (isTwoWord w = true → ∀ s2,
      (∀ w2, ({ s.envAt t with s := s1 } : Env).fetchWord ((s.envAt t).t.pc + 8) = (s2, .ok w2) →
        s.fetched t = (s2, match decode w w2 with | some i => .instr i | none => .bad w 16)) ∧
      (∀ f, ({ s.envAt t with s := s1 } : Env).fetchWord ((s.envAt t).t.pc + 8) = (s2, .error f) →
        s.fetched t = (s2, .fault w f)))) ∧
  ∀ (e : Env) (pc : CodeOff) (va : Nat) (s1 : State) (ps : List (Phys × Nat)), e.codeVa pc = some va →
    e.s.translateAll e.who .fetch (pieces va 9 8) = (s1, .ok ps) → e.b.mem0 = s1.mem → e.b.host0 = s1.host →
    e.fetchWord pc = (s1, .ok (BitVec.ofNat 64 (leNat (ps.flatMap fun (p, k) => s1.homeRead false p.pa k))))

/-- The oldest event to come is executed, before any issue; a part from which the island removed power stops until
PACKAGE_POWER_ON. The list of events is the model's (log 1). -/
def Obligations.StepTakesOldestEvent : Prop :=
  (∀ (s : State) (i : Instr) (is : List Instr), s.inputs = i :: is → i.isEvent = true → s.pkg.powered = true →
    step s = passed s (exec i { s.midway exec with inputs := is })) ∧
  (∀ s : State, s.midway exec = s ∨ ∃ k t, 0 < k ∧ s.curTeam = some t ∧ k < t.words ∧ s.begin k exec = some (s.midway exec)) ∧
  (∀ (s : State) (b : BootArgs) (is : List Instr), s.inputs = .packagePowerOn b :: is → s.pkg.powered = false →
    step s = passed s (exec (.packagePowerOn b) { s with inputs := is })) ∧
  (∀ (s : State) (i : Instr) (is : List Instr), s.inputs = i :: is → i.isEvent = true → powersOn i = false →
    s.pkg.powered = false → step s = .fault .powerRemoved) ∧
  (∀ s : State, s.inputs = [] → s.pkg.powered = false → step s = .fault .powerRemoved) ∧
  ∀ s : State, s.inputs = [] → s.pkg.powered = true → s.curTeam = none → step s = .next s.pass

/-- The words placed where the next step fetches are fetched through translation and memory and run (log 23). -/
def Obligations.PlacedInstructionRuns : Prop :=
  ∀ (nbits w : Nat) (i : Instr), decodeTableWord nbits w = some i →
    ∃ s : State, s.curTeam = some (placedTeam State.reset) ∧
      step (State.reset.withFetchWord nbits w) = passed (State.reset.withFetchWord nbits w) (noted i s (exec i s))

/-- An invariant that every step keeps: while a team is resident, the selection names a resident team (log 21 leaves open
which one), and that team stands on the selected core and slot. -/
def Obligations.SelectedTeamIsResident : Prop :=
  ∀ s s' : State, (s.teams.any Team.resident = true → ∃ t, s.curTeam = some t ∧ t.resident = true) →
    step s = .next s' → s'.teams.any Team.resident = true →
      ∃ t, s'.curTeam = some t ∧ t ∈ s'.teams ∧ t.resident = true ∧ t.core = s'.sel.core ∧ t.slot = s'.sel.slot ∧
        t.half = s'.sel.half

/-- The machine at reset. What an unlisted byte reads as is the model's choice (log 5), and so is that clk and the time are 0
(log 4); the values of the package's registers are the spec's. -/
def Obligations.ResetState : Prop :=
  let s := State.reset
  s.teams = [] ∧ s.blocks = [] ∧ s.nodes = [] ∧ s.parts = [] ∧ s.ctxs = [] ∧ s.inputs = [] ∧
  (∀ a n, s.homeRead false a n = List.replicate n 0) ∧
  s.storeQ = [] ∧ s.loadQ = [] ∧ s.poison = [] ∧ s.chipPoison = [] ∧ s.spadPoison = [] ∧
  (s.teams.any Team.resident = true → ∃ t, s.curTeam = some t) ∧
  s.pkg.powered = true ∧ s.pkg.booted = false ∧ s.pkg.capW = 2600 ∧
  (∀ k, ((s.pkg.port k).state, (s.pkg.port k).retryLimit, (s.pkg.port k).enable) = (1, 8, true)) ∧
  s.pkg.hbEnable = false ∧ s.pkg.hbPeriod = 0x00A ∧ s.clk = 0 ∧ s.timeNs = 0

/-! ### Traps -/

/-- The checks of decode come before masking and before any effect: an instruction that meets one of their causes traps,
whatever its guard and the mask, and does nothing else. -/
def Obligations.DecodeCauseTrapsBeforeEffect : Prop :=
  ∀ (i : Instr) (s : State) (t : Team) (c : Cause), i.isEvent = false → s.curTeam = some t →
    (s.atDecode t i).decodeCause i = some c →
    exec i s = .next ((s.atDecode t i).s.takeTrap (s.atDecode t i).t ((s.atDecode t i).raise i c))

/-- Which cause of decode an instruction meets: the one of highest priority. The cause word of the fault record: the code
of R207, the counter of an ENGINE_FAULT, and the async bit. -/
def Obligations.DecodeCausesByPriority : Prop :=
  (∀ (e : Env) (i : Instr),
    (encCheck i = some .illegal → e.decodeCause i = some .illegalOpcode) ∧
    (e.t.fore = true → gen2Illegal i.opcode = true → e.decodeCause i = some .illegalOpcode) ∧
    (∀ (_ : encCheck i ≠ some .illegal) (_ : e.t.fore = false ∨ gen2Illegal i.opcode = false),
      ((encCheck i = some .reserved ∨ e.selectorBad i = true) → e.decodeCause i = some .reservedField) ∧
      (encCheck i = none → e.selectorBad i = false →
        (e.rateBad i = true → e.decodeCause i = some .rateMismatch) ∧
        (e.rateBad i = false → (e.regBad i || e.transferOver i) = true → e.decodeCause i = some .regLimit) ∧
        (e.rateBad i = false → (e.regBad i || e.transferOver i) = false → e.t.stack ≠ [] → e.t.trap = none →
          (∃ r ∈ regsRead i 0 ++ regsWritten i 0, 1024 ≤ r ∧ r < 2048) → e.decodeCause i = some .divergedUniform) ∧
        (e.rateBad i = false → (e.regBad i || e.transferOver i) = false →
          (e.t.stack = [] ∨ e.t.trap.isSome = true ∨ ∀ r ∈ regsRead i 0 ++ regsWritten i 0, r < 1024 ∨ 2048 ≤ r) →
          (e.latchBad i = true → e.decodeCause i = some .latchRegion) ∧
          (e.latchBad i = false → e.t.trap = none → i.opcode = 0xE1 ∨ i.opcode = 0xE8 →
            e.decodeCause i = some .privilege) ∧
          (∀ f, i = .csrw f → e.latchBad i = false → e.t.trap = none → (e.uval f.sa.toNat).toNat ≤ 0x12 →
            e.decodeCause i = some .privilege) ∧
          (e.latchBad i = false → (e.t.trap.isSome = true ∨ (i.opcode ≠ 0xE1 ∧ i.opcode ≠ 0xE8 ∧ i.opcode ≠ 0xE4)) →
            e.decodeCause i = none))))) ∧
  [Cause.illegalOpcode, .reservedField, .rateMismatch, .regLimit, .divergedUniform, .latchRegion, .privilege, .trap,
    .syscall, .bkpt, .nonuniform, .descInvalid, .frameExhausted, .barrierState, .nodeUnknown, .engineFault, .segLimit,
    .misaligned, .rangeLocked, .pageFault, .guestPageFault, .partBounds, .accessFault, .linkLost, .dataError,
    .doubleTrap].map Cause.code =
    [0x01, 0x02, 0x03, 0x04, 0x05, 0x06, 0x07, 0x08, 0x09, 0x0A, 0x10, 0x11, 0x12, 0x13, 0x14, 0x15, 0x20, 0x21, 0x22,
      0x23, 0x24, 0x25, 0x26, 0x27, 0x28, 0x30] ∧
  (∀ c d : Cause, c.code = d.code → c = d) ∧
  ∀ r : Raise, r.k < 4 → ∃ x : Nat, r.record.cause = BitVec.ofNat 64 x ∧ x % 256 = r.cause.code ∧
    x / 256 % 4 = (if r.cause = .engineFault then r.k else 0) ∧
    (x / 1024 = if r.cause = .linkLost ∨ r.cause = .engineFault then 1 else 0)

/-- Trap entry (R212), in the three cases of the handler window (R136). That the load packets still to be reissued are kept in
the trap state (log 28) and that ENTRY stands in the PC as a virtual address (log 51) are the model's reading. -/
def Obligations.TrapEntryRunsHandler : Prop :=
  ∀ (s0 s : State) (t0 t : Team) (r : Raise), s0.landAll t0 = (s, t) → r.cause ≠ .guestPageFault → r.cause ≠ .doubleTrap →
    t.trap = none → (s.ctx (s.blockOf t).ctx).hvec.getLsbD 0 = true →
    let b := s.blockOf t
    let words := t.wordsOf r.lanes
    let record : FaultRec := { cause := r.record.cause, pc := r.pc.zeroExtend 64, insn := r.insn, info := r.info,
                               eaddr := r.eaddr, va := r.va, gpa := r.gpa }
    let entry (w : Window) : Team :=
      { t with
        latches := [], region := none, restore := none, mid := none, status := .ready, stall := 0, packets := [], cursor := 0, table := none,
        pc := BitVec.ofNat 48 ((s.ctx b.ctx).hvec.toNat % 2 ^ 48 / 8 * 8), mask := r.lanes, helper := 0, fault := record,
        trap := some { resume := r.resume, size := r.size, mask := (t.restore.getD (t.mask, t.helper)).1,
                       helper := (t.restore.getD (t.mask, t.helper)).2, pending := r.pending, full := r.full,
                       s20 := [t.sreg 20, t.sreg 21, t.sreg 22, t.sreg 23], p6 := t.pred 6, depth := t.stack.length,
                       window := w, words := words, mid := t.mid, packets := r.packets, later := t.packets, fault := record,
                       cursor := if r.packets = [] then 0 else t.cursor,
                       table := if r.packets = [] then none else t.table } }
    let fits := s.granulesUsed t.core b.part + s.reserve t.core b.part + words.length ≤
      ((s.part b.part).quota t.core).granules
    (fits → s0.takeTrap t0 r = s.putTeam (entry (.granules []))) ∧
    (¬fits → 1024 * words.length ≤ 384 * b.saveRows →
      s0.takeTrap t0 r = (s.putSpad t.core (b.saveAt t) (words.flatMap (t.spillBytes (s.mate t)))).putTeam
          (entry (.spill t.chunks))) ∧
    (¬fits → 384 * b.saveRows < 1024 * words.length → ∃ since, s0.takeTrap t0 r =
      s.putTeam { t with latches := [], region := none, status := .window r since, stall := 0x0E })

/-- Traps that no handler runs. That a hold for Sorrel fills the fault record (log 78) and keeps the load packets still to be
reissued (log 28) is the model's reading. -/
def Obligations.TrapsWithoutHandler : Prop :=
  ∀ (s0 s : State) (t0 t : Team) (r : Raise), s0.landAll t0 = (s, t) →
    (r.cause = .guestPageFault → ∃ h : TrapState, s0.takeTrap t0 r = (s.putTeam
      { t with latches := [], region := none, status := .sorrel, stall := 0x0E, restore := none, mid := none, packets := [],
               table := none, fault := r.record, hold := some h }).notify (s.blockOf t).part .guestPageFault ∧
        h = t.trapState r (.granules []) (t.wordsOf r.lanes) ∧ h.resume = r.resume ∧ h.pending = r.pending ∧
        (h.mask, h.helper) = t.restore.getD (t.mask, t.helper) ∧ h.packets = r.packets ∧ h.later = t.packets ∧
        h.mid = t.mid ∧ h.fault = r.record) ∧
    (r.cause ≠ .guestPageFault → (t.trap.isSome = true ∨ r.cause = .doubleTrap) →
      s0.takeTrap t0 r = (s.notify (s.blockOf t).part .doubleTrap).abortBlock (s.blockOf t)) ∧
    (r.cause ≠ .guestPageFault → r.cause ≠ .doubleTrap → t.trap = none →
      (s.ctx (s.blockOf t).ctx).hvec.getLsbD 0 = false → s0.takeTrap t0 r = s.abortBlock (s.blockOf t))

/-- TRAP, SYSCALL and BKPT. -/
def Obligations.TrapInstructionsTrap : Prop :=
  ∀ (f : FV) (s : State) (e : Env),
    (s.ready (.trap f) = some e →
      exec (.trap f) s = .next (if e.t.mask &&& ~~~e.t.helper = 0 then e.stepped (.trap f) e.s e.t none
        else e.counted.takeTrap e.t (e.raise (.trap f) .trap))) ∧
    (s.ready (.syscall f) = some e →
      exec (.syscall f) s = .next (if e.t.mask &&& ~~~e.t.helper = 0 then e.stepped (.syscall f) e.s e.t none
        else e.counted.takeTrap e.t (e.raise (.syscall f) .syscall))) ∧
    (s.ready (.bkpt f) = some e →
      exec (.bkpt f) s = .next (if e.t.mask &&& ~~~e.t.helper = 0 then e.stepped (.bkpt f) e.s e.t none
        else if e.s.pkg.cowslip = true then
          e.counted.putTeam { e.t.fixLoads e.op with status := .cowslip, stall := 0x0E, latches := [], region := none }
        else e.counted.takeTrap e.t (e.raise (.bkpt f) .bkpt)))

/-- The three modes of RTT, from a handler whose window stands on granules. That RTT.retry reissues the load packets that
failed, and every mode those still to be reissued, is the model's reading (log 28). -/
def Obligations.RttReturns : Prop :=
  ∀ (f : FV) (s : State) (e : Env) (tr : TrapState) (g : Map Word), e.t.trap = some tr →
    e.t.mask &&& ~~~e.t.helper ≠ 0 → tr.window = .granules g → tr.s20.length = 4 →
    let back (t : Team) : Prop := t.trap = none ∧ t.latches = [] ∧ t.region = none ∧ t.vregs = e.t.vregs ∧
      (∀ k, k < 4 → t.sreg (20 + k) = tr.s20.getD k 0) ∧ (∀ k, k < 20 → t.sreg k = e.t.sreg k) ∧ t.pred 6 = tr.p6 ∧
      (∀ p, p < 6 → t.pred p = e.t.pred p) ∧ t.stack = e.t.stack ∧ t.chunks = e.t.chunks ∧ t.fault = e.t.fault
    (s.ready (.rttRetry f) = some e → e.t.stack.length = tr.depth →
      ∃ t, exec (.rttRetry f) s = .next (e.counted.putTeam t) ∧ back t ∧ t.pc = tr.resume ∧ t.mid = tr.mid ∧
        t.packets = tr.packets ++ (e.t.packets ++ tr.later) ∧
        (tr.full = true → t.mask = tr.mask ∧ t.helper = tr.helper ∧ t.restore = e.t.restore) ∧
        (tr.full = false → t.mask = tr.pending ∧ t.helper = tr.helper &&& tr.pending ∧
          t.restore = some (tr.mask, tr.helper) ∧ t.cursor = tr.cursor ∧ t.table = tr.table)) ∧
    (s.ready (.rttSkip f) = some e → e.t.stack.length = tr.depth →
      ∃ t, exec (.rttSkip f) s = .next (e.counted.putTeam t) ∧ back t ∧ t.pc = tr.resume + BitVec.ofNat 48 tr.size ∧
        t.mask = tr.mask ∧ t.helper = tr.helper ∧ t.mid = none ∧ t.packets = e.t.packets ++ tr.later) ∧
    (s.ready (.rttKill f) = some e → e.t.stack.length = tr.depth →
      ∃ t, exec (.rttKill f) s = .next ((e.counted.putTeam t).abortBlock e.b) ∧ back t) ∧
    (s.ready (.rttRetry f) = some e → e.t.stack.length ≠ tr.depth →
      exec (.rttRetry f) s = .next (e.counted.takeTrap e.t (e.raise (.rttRetry f) .doubleTrap))) ∧
    (s.ready (.rttSkip f) = some e → e.t.stack.length ≠ tr.depth →
      exec (.rttSkip f) s = .next (e.counted.takeTrap e.t (e.raise (.rttSkip f) .doubleTrap))) ∧
    (s.ready (.rttKill f) = some e → e.t.stack.length ≠ tr.depth →
      exec (.rttKill f) s = .next (e.counted.takeTrap e.t (e.raise (.rttKill f) .doubleTrap)))

/-- Spilled registers return from the save rows, register-major with lanes ascending, and no other register changes. -/
def Obligations.RttRestoresSpilledRegisters : Prop :=
  (∀ (e : Env) (tr : TrapState) (c : Nat), tr.window = .spill c → tr.words.Nodup → (∀ j ∈ tr.words, j < 32) → 1 ≤ c →
    (∀ n j k l, tr.words[n]? = some j → k < 8 → l < (if e.t.fore then 16 else 32) →
      mget 0 (e.leaveHandler tr).vregs (1024 * (32 * c - 8 + k) + 32 * j + l) =
        BitVec.ofNat 32 (leNat (mgetList 0 (e.s.coreSt e.t.core).spad
          (e.b.saveAt e.t + 1024 * n + 128 * k + 4 * (if e.t.fore then 16 * e.t.half + l else l)) 4))) ∧
    (∀ r l, l < 1024 →
      (r < 32 * c - 8 ∨ 32 * c ≤ r ∨ l / 32 ∉ tr.words ∨ (e.t.fore = true ∧ 16 ≤ l % 32)) →
      mget 0 (e.leaveHandler tr).vregs (1024 * r + l) = mget 0 e.t.vregs (1024 * r + l))) ∧
  ∀ (s : State) (t : Team) (b : Block) (words : List Nat) (n j k l : Nat), words[n]? = some j → k < 8 → l < 32 →
    BitVec.ofNat 32 (leNat (mgetList 0 ((s.spill t b words).coreSt t.core).spad (b.saveAt t + 1024 * n + 128 * k + 4 * l) 4)) =
      if t.fore then mget 0 (if l / 16 = t.half then t.vregs else (s.mate t).vregs) (1024 * (32 * t.chunks - 8 + k) + l % 16)
      else mget 0 t.vregs (1024 * (32 * t.chunks - 8 + k) + 32 * j + l)

/-! ### Control flow -/

/-- NOP, YIELD and MARK. -/
def Obligations.StraightControlCompletes : Prop :=
  ∀ (f : FC) (s : State) (e : Env),
    (s.ready (.nop f) = some e → exec (.nop f) s = .next (e.stepped (.nop f) e.s e.t none)) ∧
    (s.ready (.yield f) = some e →
      exec (.yield f) s = .next (e.counted.putTeam
        { (e.t.shift none).unretry with age := e.s.clk, yielded := some e.s.clk, pc := e.t.pc + 8 })) ∧
    (∀ t c, t.yielded = some c → s.canIssue t = true → c + 1 < s.clk) ∧
    (s.ready (.mark f) = some e → e.t.stack.length < e.limit →
      exec (.mark f) s = .next (e.stepped (.mark f) e.s
        (e.t.push { pc := e.t.pc + BitVec.ofInt 48 (8 * f.off.toInt), kind := .region }) none)) ∧
    (s.ready (.mark f) = some e → e.limit ≤ e.t.stack.length →
      exec (.mark f) s = .next (e.counted.takeTrap e.t (e.raise (.mark f) .regLimit)))

/-- LOOP (R313). -/
def Obligations.LoopCountsDown : Prop :=
  (∀ (f : FC) (s : State) (e : Env), s.ready (.loop f) = some e →
    let n := bits f.fn.toNat 19 15
    let x := e.t.sreg n - 1
    n < 24 ∧ (e.t.sreg n = 0 → x.toNat = 2 ^ 64 - 1) ∧
    exec (.loop f) s = .next (e.moved (e.t.putS n x)
      (if x = 0 then e.t.pc + 8 else e.t.pc + BitVec.ofInt 48 (8 * f.off.toInt)) (x != 0))) ∧
  (∀ f : FC, 24 ≤ bits f.fn.toNat 19 15 → encCheck (.loop f) = some .reserved) ∧
  ∀ (f : FC) (s : State) (t : Team), s.curTeam = some t → encCheck (.loop f) = some .reserved →
    (exec (.loop f) s = .next ((s.atDecode t (.loop f)).s.takeTrap (s.atDecode t (.loop f)).t
      ((s.atDecode t (.loop f)).raise (.loop f) .reservedField))) ∧
    ∀ g : FC, encCheck (.loop g) = none → (s.atDecode t (.loop g)).rateBad (.loop g) = false →
      (s.atDecode t (.loop g)).regBad (.loop g) = false → (s.atDecode t (.loop g)).t.stack ≠ [] →
      (s.atDecode t (.loop g)).t.trap = none →
      exec (.loop g) s = .next ((s.atDecode t (.loop g)).s.takeTrap (s.atDecode t (.loop g)).t
        ((s.atDecode t (.loop g)).raise (.loop g) .divergedUniform))

/-- The merge before an issue (R308): what one pop does, when it stops, and that every issue starts from it. -/
def Obligations.MergeJoinsPendingLanes : Prop :=
  (∀ (t : Team) (st : List Rejoin), t.stack = st ++ [{ pc := t.pc, kind := .pending }] →
    ∃ u : Team, t.merge = u.merge ∧ u.stack = st ∧ u.pc = t.pc ∧
      (∀ l, l < 1024 → l < t.lanes →
        u.mask.getLsbD l = (t.mask.getLsbD l || t.getV 0 l == BitVec.ofNat 32 (st.length + 1))) ∧
      (∀ l, l < 1024 → l < t.lanes →
        u.getV 0 l = if t.getV 0 l = BitVec.ofNat 32 (st.length + 1) then 0 else t.getV 0 l) ∧
      (∀ r l, t.vname r ≠ t.vname 0 → l < 1024 → u.getV r l = t.getV r l) ∧ u.preds = t.preds ∧ u.sregs = t.sregs) ∧
  (∀ t : Team, t.stack.getLast? ≠ some { pc := t.pc, kind := .pending } → t.merge = t) ∧
  ∀ (i : Instr) (s : State) (e : Env), s.ready i = some e → ∃ t0, s.curTeam = some t0 ∧ e.t.mask = t0.merge.mask ∧
    e.t.stack = t0.merge.stack ∧ e.t.vregs = t0.merge.vregs ∧ e.s.clk = s.clk ∧ e.s.timeNs = s.timeNs

/-- BRA, in every case of its guard. That a team which goes on at offset + 8 waits for no fetch is the model's choice (log 30). -/
def Obligations.BranchTakesLaneGroups : Prop :=
  ∀ (f : FC) (e : Env),
    let active (l : Nat) : Prop := l < e.t.lanes ∧ e.t.mask.getLsbD l = true
    let go (l : Nat) : Prop := (e.t.act f.h).getLsbD l = true
    let target : CodeOff := e.t.pc + BitVec.ofInt 48 (8 * f.off.toInt)
    let next : CodeOff := e.t.pc + 8
    let first := if target < next then target else next
    let second := if target < next then next else target
    let pushed (wait : Lanes) : Team := e.t.pushGroup { pc := second, kind := .pending } wait
    let split (run wait : Lanes) : Prop := target ≠ next ∧ (∃ l, active l ∧ go l) ∧ (∃ l, active l ∧ ¬go l) ∧
      (∀ l, run.getLsbD l = true ↔ active l ∧ (go l ↔ target < next)) ∧
      (∀ l, wait.getLsbD l = true ↔ active l ∧ ¬(go l ↔ target < next))
    (∀ s : State, s.ready (.bra f) = some e →
      ((∃ l, active l) → (∀ l, active l → go l) → exec (.bra f) s = .next (e.moved e.t target (target != next))) ∧
      ((∀ l, active l → ¬go l) → exec (.bra f) s = .next (e.moved e.t next false)) ∧
      (target = next → exec (.bra f) s = .next (e.moved e.t next false)) ∧
      (∀ run wait, split run wait →
        exec (.bra f) s = .next (e.moved { pushed wait with mask := run } first (first != next)))) ∧
    (∀ run wait, split run wait → (e.transferOver (.bra f) = true ↔ e.limit < (pushed wait).stack.length)) ∧
    ((∀ l, active l → go l) ∨ (∀ l, active l → ¬go l) ∨ target = next → e.transferOver (.bra f) = false)

/-- CALL, in every case of its guard. -/
def Obligations.CallTakesLaneGroups : Prop :=
  ∀ (f : FC) (e : Env),
    let active (l : Nat) : Prop := l < e.t.lanes ∧ e.t.mask.getLsbD l = true
    let go (l : Nat) : Prop := (e.t.act f.h).getLsbD l = true
    let target : CodeOff := e.t.pc + BitVec.ofInt 48 (8 * f.off.toInt)
    let next : CodeOff := e.t.pc + 8
    let pushed (wait : Lanes) : Team :=
      (if wait = 0 then e.t else e.t.pushGroup { pc := next, kind := .pending } wait).push { pc := next, kind := .call }
    let split (run wait : Lanes) : Prop := (∃ l, active l ∧ go l) ∧ (∀ l, run.getLsbD l = true ↔ active l ∧ go l) ∧
      (∀ l, wait.getLsbD l = true ↔ active l ∧ ¬go l)
    (∀ s : State, s.ready (.call f) = some e →
      ((∀ l, active l → ¬go l) → exec (.call f) s = .next (e.moved e.t next false)) ∧
      ∀ run wait, split run wait → exec (.call f) s = .next (e.moved { pushed wait with mask := run } target true)) ∧
    (∀ run wait, split run wait → (e.transferOver (.call f) = true ↔ e.limit < (pushed wait).stack.length)) ∧
    ((∀ l, active l → ¬go l) → e.transferOver (.call f) = false)

/-- BRX and CALLX with one group. That a BRX waits for fetch exactly where d is not the next instruction is the model's choice
(log 30), and so is the link that stands over the wait numbers (log 37). -/
def Obligations.IndirectTransferToOneTarget : Prop :=
  ∀ (f : FV) (e : Env),
    let active (l : Nat) : Prop := l < e.t.lanes ∧ e.t.mask.getLsbD l = true
    let go (l : Nat) : Prop := (e.t.act f.h).getLsbD l = true
    let target (l : Nat) : CodeOff := BitVec.ofNat 48 ((e.src32 f.sa.toNat l).toNat / 8 * 8)
    let next : CodeOff := e.t.pc + 8
    (∀ s : State, s.ready (.brx f) = some e →
      ((∀ l, active l → ¬go l) → exec (.brx f) s = .next (e.moved e.t next false)) ∧
      ∀ d, (∃ l, active l) → (∀ l, active l → go l ∧ target l = d) →
        exec (.brx f) s = .next (e.moved e.t d (d != next))) ∧
    (∀ s : State, s.ready (.callx f) = some e →
      ((∀ l, ¬active l) → exec (.callx f) s = .next (e.moved e.t next false)) ∧
      ((∃ l, active l) → (∀ l, active l → ¬go l) →
        exec (.callx f) s = .next (e.moved (e.t.putV f.d.toNat (e.t.act f.h) fun _ => next.truncate 32) next false)) ∧
      ∀ (d : CodeOff) (run : Lanes), (∃ l, active l) → (∀ l, active l → go l ∧ target l = d) →
        (∀ l, run.getLsbD l = true ↔ active l) →
        exec (.callx f) s = .next (e.moved { (e.t.push { pc := next, kind := .call }).putV f.d.toNat (e.t.act f.h)
          fun _ => next.truncate 32 with mask := run } d true)) ∧
    ∀ d, (∃ l, active l) → (∀ l, active l → go l ∧ target l = d) →
      e.transferOver (.brx f) = false ∧ (e.transferOver (.callx f) = true ↔ e.limit ≤ e.t.stack.length)

/-- BRX and CALLX in general: the group of the lowest destination runs. The wait for fetch where it is not the next instruction
(log 30) and the link of every calling lane in v[d], v0 included (log 37), are the model's choices. -/
def Obligations.DivergentTransferRunsLowestTarget : Prop :=
  ∀ (f : FV) (e : Env),
    let active (l : Nat) : Prop := l < e.t.lanes ∧ e.t.mask.getLsbD l = true
    let go (l : Nat) : Prop := (e.t.act f.h).getLsbD l = true
    let target (l : Nat) : CodeOff := BitVec.ofNat 48 ((e.src32 f.sa.toNat l).toNat / 8 * 8)
    let next : CodeOff := e.t.pc + 8
    let dest (l : Nat) : CodeOff := if (e.t.act f.h).getLsbD l = true then target l else next
    (∀ s : State, s.ready (.brx f) = some e → (∃ l, active l) →
      ∃ (d : CodeOff) (t : Team), exec (.brx f) s = .next (e.moved t d (d != next)) ∧
        (∃ l, active l ∧ dest l = d) ∧ (∀ l, active l → d ≤ dest l) ∧
        (∀ l, l < e.t.lanes → (t.mask.getLsbD l = true ↔ active l ∧ dest l = d)) ∧ e.t.stack <+: t.stack) ∧
    (∀ s : State, s.ready (.callx f) = some e → (∃ l, active l ∧ go l) →
      ∃ (d : CodeOff) (t : Team), exec (.callx f) s = .next (e.moved t d true) ∧
        (∃ l, active l ∧ go l ∧ target l = d) ∧ (∀ l, active l → go l → d ≤ target l) ∧
        (∀ l, l < e.t.lanes → (t.mask.getLsbD l = true ↔ active l ∧ go l ∧ target l = d)) ∧ e.t.stack <+: t.stack ∧
        t.stack.getLast? = some { pc := next, kind := .call } ∧
        ∀ l, l < 1024 → l < e.t.lanes → go l → t.getV f.d.toNat l = next.truncate 32) ∧
    (e.transferOver (.brx f) = true → e.limit + 1 < e.t.stack.length + ((e.t.list e.t.mask).map dest).dedup.length)

/-- Pending pushes, region and call pushes, and the wait register v0. -/
def Obligations.PushesSetWaitNumbers : Prop :=
  ∀ (t : Team) (pc : CodeOff) (w : Lanes),
    (t.stack.getLast? = some { pc := pc, kind := .pending } →
      let u := t.pushGroup { pc := pc, kind := .pending } w
      u.stack = t.stack ∧ ∀ r l, l < 1024 → l < t.lanes →
        u.getV r l = if t.vname r = t.vname 0 ∧ w.getLsbD l = true then BitVec.ofNat 32 t.stack.length else t.getV r l) ∧
    (t.stack.getLast? ≠ some { pc := pc, kind := .pending } →
      let u := t.pushGroup { pc := pc, kind := .pending } w
      u.stack = t.stack ++ [{ pc := pc, kind := .pending }] ∧ ∀ r l, l < 1024 → l < t.lanes →
        u.getV r l = if t.vname r = t.vname 0 ∧ w.getLsbD l = true then BitVec.ofNat 32 (t.stack.length + 1)
          else if t.vname r = t.vname 0 ∧ t.stack = [] then 0 else t.getV r l) ∧
    ∀ kind, let u := t.push { pc := pc, kind := kind }
      u.stack = t.stack ++ [{ pc := pc, kind := kind }] ∧ u.mask = t.mask ∧ u.preds = t.preds ∧ u.sregs = t.sregs ∧
      ∀ r l, l < 1024 → l < t.lanes →
        u.getV r l = if t.vname r = t.vname 0 ∧ t.stack = [] then 0 else t.getV r l

/-- Arrivals (R309, R311), for a team whose mask is its full mask. -/
def Obligations.ArrivalResumesTopEntry : Prop :=
  ∀ (f : FC) (s : State) (e : Env), e.t.restore = none →
    let resumed (st : List Rejoin) (x : Rejoin) (n : Nat) (u : Team) : Prop :=
      u.stack = st ∧ u.pc = x.pc ∧
      (∀ l, l < 1024 → l < e.t.lanes → (u.mask.getLsbD l = true ↔
        (if e.t.mask.getLsbD l then BitVec.ofNat 32 (n + 1) else e.t.getV 0 l) = BitVec.ofNat 32 (st.length + 1))) ∧
      (∀ l, l < 1024 → l < e.t.lanes → u.getV 0 l = if u.mask.getLsbD l then 0
        else if e.t.mask.getLsbD l then BitVec.ofNat 32 (n + 1) else e.t.getV 0 l) ∧
      (∀ r l, e.t.vname r ≠ e.t.vname 0 → l < 1024 → u.getV r l = e.t.getV r l) ∧ u.preds = e.t.preds ∧ u.sregs = e.t.sregs
    let someLane (st : List Rejoin) (n : Nat) : Prop := ∃ l, l < 1024 ∧ l < e.t.lanes ∧
      (if e.t.mask.getLsbD l then BitVec.ofNat 32 (n + 1) else e.t.getV 0 l) = BitVec.ofNat 32 (st.length + 1)
    (∀ (st : List Rejoin) (x : Rejoin) (n : Nat), e.t.stack = st ++ [x] → someLane st n →
      (s.ready (.ret f) = some e → nearest .call e.t.stack = some n →
        ∃ u, exec (.ret f) s = .next (e.counted.putTeam u) ∧ resumed st x n u) ∧
      (s.ready (.join f) = some e → nearest .region e.t.stack = some n →
        ∃ u, exec (.join f) s = .next (e.counted.putTeam u) ∧ resumed st x n u) ∧
      (s.ready (.brk f) = some e → nearest .region e.t.stack = some n → e.t.act f.h = e.t.mask → e.t.mask ≠ 0 →
        ∃ u, exec (.brk f) s = .next (e.counted.putTeam u) ∧ resumed st x n u)) ∧
    (∀ n, s.ready (.brk f) = some e → nearest .region e.t.stack = some n →
      (e.t.act f.h = 0 → exec (.brk f) s = .next (e.stepped (.brk f) e.s e.t none)) ∧
      (e.t.act f.h ≠ 0 → e.t.mask &&& ~~~(e.t.act f.h) ≠ 0 →
        exec (.brk f) s = .next (e.stepped (.brk f) e.s
          { e.t.putV 0 (e.t.act f.h) fun _ => BitVec.ofNat 32 (n + 1) with mask := e.t.mask &&& ~~~(e.t.act f.h) } none))) ∧
    (s.ready (.ret f) = some e → nearest .call e.t.stack = none →
      exec (.ret f) s = .next (e.counted.takeTrap e.t (e.raise (.ret f) .regLimit))) ∧
    (s.ready (.join f) = some e → nearest .region e.t.stack = none →
      exec (.join f) s = .next (e.counted.takeTrap e.t (e.raise (.join f) .regLimit))) ∧
    (s.ready (.brk f) = some e → nearest .region e.t.stack = none →
      exec (.brk f) s = .next (e.counted.takeTrap e.t (e.raise (.brk f) .regLimit)))

/-- The nearest entry of a kind: only P entries stand above it. -/
def Obligations.NearestEntry : Prop :=
  ∀ (k : RejoinKind) (st : List Rejoin), k ≠ .pending →
    (∀ n, nearest k st = some n ↔
      ∃ x : Rejoin, st[n]? = some x ∧ x.kind = k ∧ ∀ (m : Nat) (y : Rejoin), n < m → st[m]? = some y → y.kind = .pending) ∧
    (nearest k st = none ↔
      ∀ (n : Nat) (x : Rejoin), st[n]? = some x → x.kind = k → ∃ (m : Nat) (y : Rejoin), n < m ∧ st[m]? = some y ∧ y.kind ≠ .pending)

/-- EXIT. That in a handler it goes on, with the failure kept until RTT, is the model's reading (log 66), and so is which of
several failures is reported (log 67). -/
def Obligations.ExitFinishesLanes : Prop :=
  ∀ (f : FC) (s : State) (e : Env), s.ready (.exit f) = some e → e.t.restore = none →
    let w := e.t.act f.h
    let t : Team := { e.t with mask := e.t.mask &&& ~~~w, helper := e.t.helper &&& ~~~w }
    let noExport := e.b.draw = none ∨ e.exportBad = false
    let x : Env := if e.t.tier = 7 then e.returnRays (e.raysOf (e.t.actNH f.h)) fun _ => [0, 0, 0, 0] else e
    (e.t.mask &&& ~~~w ≠ 0 → exec (.exit f) s = .next (x.stepped (.exit f) x.s t none)) ∧
    (e.t.mask &&& ~~~w = 0 → e.t.stack = [] →
      (e.busy = true → exec (.exit f) s = .next (e.waiting (if e.engBusy then 8 else 9))) ∧
      (e.busy = false →
        (¬noExport → exec (.exit f) s = .next (e.counted.takeTrap e.t (e.raise (.exit f) .regLimit))) ∧
        (noExport → e.t.trap = none → ∀ k u info eaddr, e.t.takeFailure true [0, 1, 2, 3] = some (k, u, info, eaddr) →
          exec (.exit f) s = .next (e.counted.takeTrap u
            { cause := .engineFault, lanes := u.mask &&& ~~~u.helper, pending := u.mask, full := true, pc := u.pc,
              insn := (Instr.exit f).word, resume := u.pc, size := 8, info := info, eaddr := eaddr, k := k })) ∧
        (noExport → (e.t.trap.isSome = true ∨ e.t.takeFailure true [0, 1, 2, 3] = none) → x.busy = false →
          (e.t.batch = none → exec (.exit f) s = .next ((x.counted.putTeam t).endTeam t false)) ∧
          (e.t.batch.isSome = true → exec (.exit f) s = .next ((x.counted.putTeam t).endBatch t)))))

/-- VGROW and VSHRINK. -/
def Obligations.RegisterChunks : Prop :=
  ∀ (f : FC) (s : State) (e : Env),
    (s.ready (.vgrow f) = some e →
      let gran := ((e.s.part e.b.part).quota e.t.core).granules
      (e.t.chunks = 8 ∨ gran < e.t.words * (e.t.chunks + 1) →
        exec (.vgrow f) s = .next (e.counted.takeTrap e.t (e.raise (.vgrow f) .regLimit))) ∧
      (e.t.chunks ≠ 8 → e.t.words * (e.t.chunks + 1) ≤ gran → e.s.canGrow e.t = true →
        ∃ t : Team, exec (.vgrow f) s = .next (e.stepped (.vgrow f) e.s t none) ∧
          t = { e.t with chunks := e.t.chunks + 1, vregs := t.vregs } ∧
          ∀ r l, l < 1024 → mget 0 t.vregs (1024 * r + l) =
            if 32 * e.t.chunks ≤ r ∧ r < 32 * (e.t.chunks + 1) then 0 else mget 0 e.t.vregs (1024 * r + l)) ∧
      (e.t.chunks ≠ 8 → e.t.words * (e.t.chunks + 1) ≤ gran → e.s.canGrow e.t = false →
        exec (.vgrow f) s = .next (e.counted.putTeam
          { e.t with status := .vgrow e.s.clk, stall := 10, latches := [], region := none }))) ∧
    (s.ready (.vshrink f) = some e →
      (e.t.chunks ≤ e.t.base → exec (.vshrink f) s = .next (e.stepped (.vshrink f) e.s e.t none)) ∧
      (e.t.base < e.t.chunks → ∃ t : Team, exec (.vshrink f) s = .next (e.stepped (.vshrink f) e.s t none) ∧
        t = { e.t with chunks := e.t.chunks - 1, vregs := t.vregs } ∧
        ∀ r l, l < 1024 → mget 0 t.vregs (1024 * r + l) =
          if 32 * (e.t.chunks - 1) ≤ r ∧ r < 32 * e.t.chunks then 0 else mget 0 e.t.vregs (1024 * r + l)))

/-! ### Instructions of registers -/

/-- Instructions of registers alone complete, and this is their frame: every form, every guard and mask. -/
def Obligations.RegisterInstructionsComplete : Prop :=
  ∀ (i : Instr) (s : State) (e : Env), registerOnly i = true → s.ready i = some e →
    ∃ s' t, exec i s = .next s' ∧ TeamStep e (e.rateRead i) s' t ∧ RegFrame i e t ∧ t.pc = e.t.pc + BitVec.ofNat 48 i.size

/-- Integer arithmetic is exact, then saturated or wrapped once. -/
def Obligations.IntegerArithmeticResults : Prop :=
  ∀ (f : FV) (s : State) (e : Env),
    let w := f.fn.getLsbD 0
    let sat := f.fn.getLsbD 1
    let long := f.fn.getLsbD 2
    let a (long uns : Bool) (l : Nat) : Int := e.int long uns f.sa.toNat l
    let b (long uns : Bool) (l : Nat) : Int := e.int long uns f.sb.toNat l
    let c (long uns : Bool) (l : Nat) : Int := e.int long uns f.sc.toNat l
    (s.ready (.add f) = some e → e.givesInt (.add f) f long w sat (fun l => a long w l + b long w l) (exec (.add f) s)) ∧
    (s.ready (.sub f) = some e → e.givesInt (.sub f) f long w sat (fun l => a long w l - b long w l) (exec (.sub f) s)) ∧
    (s.ready (.tadd f) = some e → e.givesInt (.tadd f) f false w sat
      (fun l => a false w l + b false w l + c false w l) (exec (.tadd f) s)) ∧
    (s.ready (.neg f) = some e → e.givesInt (.neg f) f long false sat (fun l => -a long false l) (exec (.neg f) s)) ∧
    (s.ready (.abs f) = some e → e.givesInt (.abs f) f long false sat (fun l => |a long false l|) (exec (.abs f) s)) ∧
    (s.ready (.min f) = some e →
      e.givesInt (.min f) f long w false (fun l => min (a long w l) (b long w l)) (exec (.min f) s)) ∧
    (s.ready (.max f) = some e →
      e.givesInt (.max f) f long w false (fun l => max (a long w l) (b long w l)) (exec (.max f) s)) ∧
    (s.ready (.mull f) = some e →
      e.gives32 (.mull f) f.d.toNat (fun l => e.src32 f.sa.toNat l * e.src32 f.sb.toNat l) (exec (.mull f) s)) ∧
    (s.ready (.mulh f) = some e → e.gives32 (.mulh f) f.d.toNat
      (fun l => (BitVec.ofInt 64 (a false w l * b false w l)).extractLsb' 32 32) (exec (.mulh f) s)) ∧
    (s.ready (.madl f) = some e → e.givesInt (.madl f) f false false sat
      (fun l => a false false l * b false false l + c false false l) (exec (.madl f) s)) ∧
    (s.ready (.madw f) = some e → e.gives64 (.madw f) f.d.toNat
      (fun l => BitVec.ofInt 64 (a false w l * b false w l) + e.src64 f.sc.toNat l) (exec (.madw f) s)) ∧
    (s.ready (.adif f) = some e → e.gives32 (.adif f) f.d.toNat
      (fun l => BitVec.ofInt 32 |a false w l - b false w l| + e.src32 f.sc.toNat l) (exec (.adif f) s))

/-- Shifts, counts, bit fields, selections and byte shuffles. -/
def Obligations.IntegerBitResults : Prop :=
  ∀ (f : FV) (w2 : DWord) (s : State) (e : Env),
    let long := f.fn.getLsbD 2
    let a (l : Nat) : Word := e.src32 f.sa.toNat l
    let b (l : Nat) : Word := e.src32 f.sb.toNat l
    let c (l : Nat) : Word := e.src32 f.sc.toNat l
    let a2 (l : Nat) : DWord := e.src64 f.sa.toNat l
    let b2 (l : Nat) : DWord := e.src64 f.sb.toNat l
    let gives (i : Instr) (x : Nat → Word) (y : Nat → DWord) : Prop :=
      if long then e.gives64 i f.d.toNat y (exec i s) else e.gives32 i f.d.toNat x (exec i s)
    let bit (l k : Nat) : Bool := if long then (a2 l).getLsbD k else (a l).getLsbD k
    let width : Nat := if long then 64 else 32
    (s.ready (.shl f) = some e → gives (.shl f) (fun l => a l <<< (b l).toNat) fun l => a2 l <<< (b l).toNat) ∧
    (s.ready (.shr f) = some e → gives (.shr f) (fun l => a l >>> (b l).toNat) fun l => a2 l >>> (b l).toNat) ∧
    (s.ready (.sar f) = some e →
      gives (.sar f) (fun l => (a l).sshiftRight (b l).toNat) fun l => (a2 l).sshiftRight (b l).toNat) ∧
    (s.ready (.rot f) = some e →
      gives (.rot f) (fun l => (a l).rotateLeft (b l).toNat) fun l => (a2 l).rotateLeft (b l).toNat) ∧
    (s.ready (.mov f) = some e → gives (.mov f) a a2) ∧
    (s.ready (.pick f) = some e →
      gives (.pick f) (fun l => if c l = 0 then b l else a l) fun l => if c l = 0 then b2 l else a2 l) ∧
    (∀ (x : Nat → Word) (y : Nat → DWord), (∀ l k, k < 32 → (x l).getLsbD k = (a l).getLsbD (31 - k)) →
      (∀ l k, k < 64 → (y l).getLsbD k = (a2 l).getLsbD (63 - k)) → s.ready (.bitr f) = some e → gives (.bitr f) x y) ∧
    (s.ready (.ones f) = some e →
      e.gives32 (.ones f) f.d.toNat (fun l => BitVec.ofNat 32 ((List.range width).countP (bit l))) (exec (.ones f) s)) ∧
    (∀ n : Nat → Nat, (∀ l, n l ≤ width ∧ (∀ k, width - n l ≤ k → k < width → bit l k = false) ∧
        (n l < width → bit l (width - 1 - n l) = true)) → s.ready (.clz f) = some e →
      e.gives32 (.clz f) f.d.toNat (fun l => BitVec.ofNat 32 (n l)) (exec (.clz f) s)) ∧
    (∀ x : Nat → Word, (∀ l k, k < 32 → (x l).getLsbD k = f.fn.getLsbD
        ((if (a l).getLsbD k then 4 else 0) + (if (b l).getLsbD k then 2 else 0) + if (c l).getLsbD k then 1 else 0)) →
      s.ready (.tlut f) = some e → e.gives32 (.tlut f) f.d.toNat x (exec (.tlut f) s)) ∧
    (s.ready (.funl f) = some e → e.gives32 (.funl f) f.d.toNat
      (fun l => ((a l ++ b l) <<< ((c l).toNat % 32)).extractLsb' 32 32) (exec (.funl f) s)) ∧
    (s.ready (.fext f) = some e → e.gives32 (.fext f) f.d.toNat (fun l =>
      let pos := (b l).toNat % 256
      let len := (c l).toNat % 256
      if len = 0 ∨ 32 ≤ pos then 0
      else if f.fn.getLsbD 0 then ((a l).extractLsb' pos (min len (32 - pos))).zeroExtend 32
      else ((a l).extractLsb' pos (min len (32 - pos))).signExtend 32) (exec (.fext f) s)) ∧
    (∀ x : Nat → Word, (∀ l k, k < 32 →
        let pos := (c l).toNat % 256
        let len := (c l).toNat / 256 % 256
        (x l).getLsbD k = if pos ≤ k ∧ k < pos + len then (a l).getLsbD (k - pos) else (b l).getLsbD k) →
      s.ready (.fdep f) = some e → e.gives32 (.fdep f) f.d.toNat x (exec (.fdep f) s)) ∧
    (s.ready (.seti f w2) = some e →
      e.gives32 (.seti f w2) f.d.toNat (fun _ => w2.truncate 32) (exec (.seti f w2) s)) ∧
    (s.ready (.scad f) = some e →
      e.gives32 (.scad f) f.d.toNat (fun l => a l + (b l <<< (c l).toNat)) (exec (.scad f) s)) ∧
    (∀ x : Nat → Word, (∀ l k, k < 4 →
        let sel := (c l).extractLsb' (8 * k) 8
        let y : Byte := (b l ++ a l).extractLsb' (8 * (sel.toNat % 8)) 8
        (x l).extractLsb' (8 * k) 8 = match sel.toNat / 8 % 4 with
          | 0 => y
          | 1 => 0
          | 2 => if y.getLsbD 7 then 0xFF else 0
          | _ => 0xFF) →
      s.ready (.bshuf f) = some e → e.gives32 (.bshuf f) f.d.toNat x (exec (.bshuf f) s))

/-- Uniform instructions and predicates. -/
def Obligations.UniformAndPredicateResults : Prop :=
  (∀ (f : FU) (w2 : DWord) (s : State) (e : Env),
    let a : DWord := if f.sa.toNat = 31 then 0 else e.t.sreg f.sa.toNat
    let b : DWord := if f.i = 1 then f.imm.signExtend 64 else if f.sb.toNat = 31 then 0 else e.t.sreg f.sb.toNat
    let gives (i : Instr) (x : DWord) : Prop := s.ready i = some e → e.givesS i f.d.toNat x (exec i s)
    gives (.sadd f) (a + b) ∧ gives (.ssub f) (a - b) ∧ gives (.smul f) (a * b) ∧
    gives (.slop f) (if f.fn = 0 then a &&& b else if f.fn = 1 then a ||| b else if f.fn = 2 then a ^^^ b else a &&& ~~~b) ∧
    (f.fn.toNat < 4 → gives (.sshf f) (if f.fn = 0 then a <<< b.toNat else if f.fn = 1 then a >>> b.toNat
      else if f.fn = 2 then a.sshiftRight b.toNat else a.rotateLeft b.toNat)) ∧
    gives (.smov f) (if f.i = 1 then f.imm.signExtend 64 else a) ∧ gives (.smovi f w2) w2 ∧
    gives (.scmp f) (if cmpCode (f.fn.toNat % 8)
      (if f.fn.getLsbD 3 then (a.toNat : Int) - b.toNat else a.toInt - b.toInt) then 1 else 0) ∧
    gives (.slea f) (((a + b).extractLsb' 0 48).signExtend 64) ∧
    gives (.ssel f) (if e.t.sreg f.d.toNat = 0 then b else a)) ∧
  (∀ (f : FV) (s : State) (e : Env),
    (s.ready (.sread f) = some e → e.givesS (.sread f) f.d.toNat
      (if f.sa = 0x123 then e.b.index else e.special f.sa.toNat 0) (exec (.sread f) s)) ∧
    (∀ l0, (e.t.mask &&& ~~~e.t.helper).getLsbD l0 = true → l0 < e.t.lanes →
      (∀ l, l < l0 → (e.t.mask &&& ~~~e.t.helper).getLsbD l = false) →
      s.ready (.sfromv f) = some e →
      ((f.fn.getLsbD 0 = false ∨ ∀ l, l < e.t.lanes → (e.t.mask &&& ~~~e.t.helper).getLsbD l = true →
          e.src32 f.sa.toNat l = e.src32 f.sa.toNat l0) →
        e.givesS (.sfromv f) f.d.toNat ((e.src32 f.sa.toNat l0).zeroExtend 64) (exec (.sfromv f) s)) ∧
      (f.fn.getLsbD 0 = true → (∃ l, l < e.t.lanes ∧ (e.t.mask &&& ~~~e.t.helper).getLsbD l = true ∧
          e.src32 f.sa.toNat l ≠ e.src32 f.sa.toNat l0) →
        exec (.sfromv f) s = .next (e.counted.takeTrap e.t (e.raise (.sfromv f) .nonuniform)))) ∧
    ((∀ l, l < e.t.lanes → (e.t.mask &&& ~~~e.t.helper).getLsbD l = false) → s.ready (.sfromv f) = some e →
      e.givesS (.sfromv f) f.d.toNat 0 (exec (.sfromv f) s)) ∧
    (s.ready (.pcmpi f) = some e → e.givesPred (.pcmpi f) f.d.toNat (fun l => cmpCode (f.fn.toNat % 8)
      (e.int (f.fn.getLsbD 4) (f.fn.getLsbD 3) f.sa.toNat l - e.int (f.fn.getLsbD 4) (f.fn.getLsbD 3) f.sb.toNat l))
      (exec (.pcmpi f) s)) ∧
    (s.ready (.pcmpf f) = some e → e.givesPred (.pcmpf f) f.d.toNat (fun l => cmpFloat (f.fn.toNat % 8)
      (f.fn.getLsbD 3) (e.fp f32 false f.sa.toNat l) (e.fp f32 false f.sb.toNat l)) (exec (.pcmpf f) s)) ∧
    (s.ready (.pcmpd f) = some e → e.givesPred (.pcmpd f) f.d.toNat (fun l => cmpFloat (f.fn.toNat % 8)
      (f.fn.getLsbD 3) (e.fp f64 false f.sa.toNat l) (e.fp f64 false f.sb.toNat l)) (exec (.pcmpd f) s)) ∧
    (s.ready (.plut f) = some e → e.givesPred (.plut f) f.d.toNat (fun l => f.fn.getLsbD
      ((if (e.t.pred f.sa.toNat).getLsbD l then 4 else 0) + (if (e.t.pred f.sb.toNat).getLsbD l then 2 else 0) +
        if (e.t.pred f.sc.toNat).getLsbD l then 1 else 0)) (exec (.plut f) s)) ∧
    (s.ready (.pagree f) = some e → ∀ v : Bool,
      (let vote (l : Nat) : Bool := (e.t.pred f.sa.toNat).getLsbD l
       let votes (l : Nat) : Prop := l < e.t.lanes ∧ (e.t.actNH f.h).getLsbD l = true
       v = true ↔ if f.fn.toNat % 4 = 0 then ∀ l, votes l → vote l = true
         else if f.fn.toNat % 4 = 1 then ∃ l, votes l ∧ vote l = true
         else (∀ l, votes l → vote l = true) ∨ ∀ l, votes l → vote l = false) →
      e.givesPred (.pagree f) f.d.toNat (fun _ => v) (exec (.pagree f) s)) ∧
    (s.ready (.vtop f) = some e → e.givesPred (.vtop f) f.d.toNat (fun l => e.src32 f.sa.toNat l != 0)
      (exec (.vtop f) s)) ∧
    (s.ready (.ptov f) = some e → ∀ x : Nat → Word, (∀ l k, k < 32 →
        (x l).getLsbD k = (decide (k < 8) && (e.t.pred k).getLsbD l)) →
      e.gives32 (.ptov f) f.d.toNat x (exec (.ptov f) s)))

/-- Floating point: the operation on decoded operands, rounded once. -/
def Obligations.FloatResults : Prop :=
  ∀ (f : FV) (s : State) (e : Env),
    let m := selFmt f.fn
    let z := f.fn.getLsbD 6
    let r := Rnd.ofCode (bits f.fn.toNat 8 7)
    let v (c : BitVec 9) (l : Nat) : Fl := m.dec (if z then m.flush (e.fpCode m c.toNat l) else e.fpCode m c.toNat l)
    let out (x : Nat) : Word := BitVec.ofNat 32 (if z then m.flush x else x)
    let gives (i : Instr) (x : Nat → Nat) : Prop :=
      s.ready i = some e → e.gives32 i f.d.toNat (fun l => out (x l)) (exec i s)
    let d (c : BitVec 9) (l : Nat) : Fl := f64.dec (e.fpCode f64 c.toNat l)
    let gives2 (i : Instr) (x : Nat → Nat) : Prop :=
      s.ready i = some e → e.gives64 i f.d.toNat (fun l => BitVec.ofNat 64 (x l)) (exec i s)
    let n := if f.fn.toNat % 64 = 0 then f16 else bf16
    let h (c : BitVec 9) (l k : Nat) : Fl :=
      n.dec (if z then n.flush (e.halfCode n c.toNat l k) else e.halfCode n c.toNat l k)
    let outH (x : Nat) : Nat := if z then n.flush x else x
    let givesH (i : Instr) (x : Nat → Nat → Nat) : Prop := s.ready i = some e →
      e.gives32 i f.d.toNat (fun l => BitVec.ofNat 32 (outH (x l 0) + 65536 * outH (x l 1))) (exec i s)
    gives (.fadd f) (fun l => m.rnd r (Fl.add r (v f.sa l) (v f.sb l))) ∧
    gives (.fmul f) (fun l => m.rnd r ((v f.sa l).mul (v f.sb l))) ∧
    gives (.ffma f) (fun l => m.rnd r (Fl.add r ((v f.sa l).mul (v f.sb l)) (v f.sc l))) ∧
    gives (.fmin f) (fun l => m.rne (fminNum (v f.sa l) (v f.sb l))) ∧
    gives (.fmax f) (fun l => m.rne (fmaxNum (v f.sa l) (v f.sb l))) ∧
    gives (.frnd f) (fun l => Machine.frnd m r (v f.sa l)) ∧
    gives (.fscale f) (fun l => Machine.fscale m r (v f.sa l) (e.src32 f.sb.toNat l).toInt) ∧
    gives (.frcp f) (fun l => m.div r (.fin false 1 0) (v f.sa l)) ∧
    gives (.fsqrt f) (fun l => m.sqrt r (v f.sa l)) ∧
    gives (.frsq f) (fun l => Machine.frsq m (v f.sa l)) ∧
    gives (.fexp2 f) (fun l => Machine.fexp2 m (v f.sa l)) ∧ gives (.flog2 f) (fun l => Machine.flog2 m (v f.sa l)) ∧
    gives (.fsin f) (fun l => Machine.fsin m (v f.sa l)) ∧ gives (.fcos f) (fun l => Machine.fcos m (v f.sa l)) ∧
    gives (.ftanh f) (fun l => Machine.ftanh m (v f.sa l)) ∧
    (s.ready (.fclass f) = some e → e.gives32 (.fclass f) f.d.toNat (fun l => BitVec.ofNat 32
      (Machine.fclass m (if z then m.flush (e.fpCode m f.sa.toNat l) else e.fpCode m f.sa.toNat l))) (exec (.fclass f) s)) ∧
    gives2 (.dadd f) (fun l => f64.rnd r (Fl.add r (d f.sa l) (d f.sb l))) ∧
    gives2 (.dmul f) (fun l => f64.rnd r ((d f.sa l).mul (d f.sb l))) ∧
    gives2 (.dfma f) (fun l => f64.rnd r (Fl.add r ((d f.sa l).mul (d f.sb l)) (d f.sc l))) ∧
    gives2 (.dmin f) (fun l => f64.rne (fminNum (d f.sa l) (d f.sb l))) ∧
    gives2 (.dmax f) (fun l => f64.rne (fmaxNum (d f.sa l) (d f.sb l))) ∧
    givesH (.hadd2 f) (fun l k => n.rnd r (Fl.add r (h f.sa l k) (h f.sb l k))) ∧
    givesH (.hmul2 f) (fun l k => n.rnd r ((h f.sa l k).mul (h f.sb l k))) ∧
    givesH (.hfma2 f) (fun l k => n.rnd r (Fl.add r ((h f.sa l k).mul (h f.sb l k)) (h f.sc l k))) ∧
    givesH (.hmax2 f) (fun l k => n.rne (fmaxNum (h f.sa l k) (h f.sb l k))) ∧
    (s.ready (.qscale f) = some e → e.gives32 (.qscale f) f.d.toNat (fun l => BitVec.ofNat 32 (f32.rnd r
      ((f32.dec (e.fpCode f32 f.sa.toNat l)).mul (decS16 ((e.src32 f.sb.toNat l).toNat % 65536))))) (exec (.qscale f) s))

/-- Exact arithmetic, and what one rounding to a format does, in rational numbers. -/
def Obligations.ArithmeticIsExactThenRoundedOnce : Prop :=
  let val : Fl → ℚ := fun x => match x with
    | .fin neg m e => (if neg then -1 else 1) * m * (2 : ℚ) ^ e
    | _ => 0
  (∀ (n k : Bool) (m p : Nat) (a b : Int) (r : Rnd),
    val ((Fl.fin n m a).mul (.fin k p b)) = val (.fin n m a) * val (.fin k p b) ∧
    val (Fl.add r (.fin n m a) (.fin k p b)) = val (.fin n m a) + val (.fin k p b)) ∧
  ∀ (f : Fmt) (m : Nat) (e : Int), f ∈ [f16, bf16, f32, f64, acc36] →
    (f.rnd .rz (.fin false m e) < f.infCode - 1 →
      val (f.dec (f.rnd .rz (.fin false m e))) ≤ val (.fin false m e) ∧
      val (.fin false m e) < val (f.dec (f.rnd .rz (.fin false m e) + 1))) ∧
    (f.rnd .rn (.fin false m e) < f.infCode - 1 →
      |val (f.dec (f.rnd .rn (.fin false m e))) - val (.fin false m e)| * 2 ≤
        val (f.dec (f.rnd .rn (.fin false m e) + 1)) - val (f.dec (f.rnd .rn (.fin false m e)))) ∧
    (f.rnd .ru (.fin false m e) < f.infCode → val (.fin false m e) ≤ val (f.dec (f.rnd .ru (.fin false m e)))) ∧
    ∀ r, f.rnd r (.fin true m e) = f.signBit +
      f.rnd (match r with | .ru => .rd | .rd => .ru | r => r) (.fin false m e)

/-- Lane exchange, derivatives, prefix scans and reductions. -/
def Obligations.LaneExchangeResults : Prop :=
  ∀ (f : FV) (s : State) (e : Env),
    let a (l : Nat) : Word := e.src32 f.sa.toNat l
    let w : Nat := if e.t.fore then 16 else 32
    let opn := f.fn.toNat % 8
    let prefix_ (l : Nat) : List Word := ((e.t.list (e.t.actNH f.h)).filter (· < l)).map (e.scanSrc opn f.sa.toNat)
    let fold (xs : List Word) : Word := match xs with
      | [] => scanId opn
      | x :: r => r.foldl (scanOp opn) x
    let diff (l p q : Nat) : Word :=
      BitVec.ofNat 32 (f32.rne ((e.fp f32 false f.sa.toNat (l / 4 * 4 + p)).sub (e.fp f32 false f.sa.toNat (l / 4 * 4 + q))))
    (s.ready (.qswap f) = some e → e.gives32 (.qswap f) f.d.toNat
      (fun l => a (l / 4 * 4 + ((l % 4) ^^^ (f.fn.toNat % 4 + 1)))) (exec (.qswap f) s)) ∧
    (s.ready (.qbcast f) = some e → e.gives32 (.qbcast f) f.d.toNat (fun l => a (l / 4 * 4 + f.fn.toNat % 4))
      (exec (.qbcast f) s)) ∧
    (s.ready (.qddx f) = some e → e.gives32 (.qddx f) f.d.toNat
      (fun l => if f.fn.getLsbD 0 then diff l 1 0 else diff l (l % 4 / 2 * 2 + 1) (l % 4 / 2 * 2)) (exec (.qddx f) s)) ∧
    (s.ready (.qddy f) = some e → e.gives32 (.qddy f) f.d.toNat
      (fun l => if f.fn.getLsbD 0 then diff l 2 0 else diff l (l % 2 + 2) (l % 2)) (exec (.qddy f) s)) ∧
    (s.ready (.xlane f) = some e → e.gives32 (.xlane f) f.d.toNat (fun l =>
      let b := (e.src32 f.sb.toNat l).toNat
      let k := l % w
      a (l / w * w + if f.fn.toNat % 4 = 0 then b % w else if f.fn.toNat % 4 = 1 then (if k < b then k else k - b)
        else if f.fn.toNat % 4 = 2 then (if w ≤ k + b then k else k + b) else k ^^^ (b % w))) (exec (.xlane f) s)) ∧
    (s.ready (.pscan f) = some e → ∃ s' t, exec (.pscan f) s = .next s' ∧ TeamStep e e s' t ∧ RegFrame (.pscan f) e t ∧
      t.pc = e.nextPc (.pscan f) ∧ t.latches.tail = e.t.latches.take 7 ∧
      (∀ l, l < 1024 → l < e.t.lanes → (e.t.actNH f.h).getLsbD l = true →
        let y := if f.fn.getLsbD 3 then fold (prefix_ l) else fold (prefix_ l ++ [e.scanSrc opn f.sa.toNat l])
        t.latch 1 l = y ∧ (f.h.ws = 0 → t.getV f.d.toNat l = y)) ∧
      ∀ r l, l < 1024 → (f.h.ws = 1 ∨ e.t.vname r ≠ e.t.vname f.d.toNat ∨ (e.t.actNH f.h).getLsbD l = false) →
        t.getV r l = e.t.getV r l) ∧
    (s.ready (.treduce f) = some e → e.gives32 (.treduce f) f.d.toNat (fun _ => fold (prefix_ e.t.lanes))
      (exec (.treduce f) s))

/-- Completion: the latches, the mask of a retried instruction, and the frame of the state. That a pass holds its pipe 1 clk where
R145 gives no occupancy, and the count of PASSES_SKIPPED, are the model's choice (log 106). -/
def Obligations.LatchesShift : Prop :=
  (∀ (e : Env) (s' : State) (t : Team) (lat : Option (Map Word)) (pc : CodeOff),
    e.after s' t lat pc = ({ e with s := s' } : Env).counted.putTeam
      { t with latches := (lat :: t.latches).take 8, pc := pc, restore := none, issued := t.issued + 1, yielded := none,
               fetchWait := .no, stall := 0, cursor := 0, table := none, flights := (t.fixLoads e.op).flights,
               mask := (t.restore.getD (t.mask, t.helper)).1, helper := (t.restore.getD (t.mask, t.helper)).2 } ∧
    ∃ teams ctxs, e.after s' t lat pc = { s' with teams := teams, ctxs := ctxs }) ∧
  (∀ e : Env, e.counted = if e.t.cursor ≠ 0 then e.s else
    let s := e.s.count e.b.ctx 2 1
    let filled := ((List.range e.t.words).filter fun j => (List.range 32).any fun l => e.t.mask.getLsbD (32 * j + l)).length
    if e.s.sel.joint = true then s
    else if wholeOp e.op = true then s.count e.b.ctx 3 1
    else (s.count e.b.ctx 3 (occupancy e.op * filled)).count e.b.ctx 4 (e.t.words - filled)) ∧
  (∀ (e : Env) (s' : State) (t : Team) (lat : Option (Map Word)) (pc : CodeOff) (chip : Bool) (a n : Nat),
    (e.after s' t lat pc).homeRead chip a n = s'.homeRead chip a n ∧ (e.after s' t lat pc).cores = s'.cores) ∧
  (∀ (i : Instr) (s : State) (e : Env) (d : Nat) (w : Lanes) (x : Nat → Word), s.ready i = some e →
    ∃ t, e.vec i d w x = .next (e.counted.putTeam t) ∧ t.pc = e.nextPc i ∧
      ∀ l, l < 1024 → l < e.t.lanes → t.latch 1 l =
        if w.getLsbD l then x l else if i.hdr.ws = 1 then 0 else e.t.getV d l)

/-- Conversions, dot products, packing and companding. -/
def Obligations.ConversionAndTableResults : Prop :=
  (∀ (f : FVI) (s : State) (e : Env), s.ready (.cvt f) = some e →
    let n := f.fn.toNat
    let x (l : Nat) : Nat :=
      cvtDst (bits n 7 4) (Rnd.ofCode (bits n 10 9)) (n.testBit 8) (e.cvtSrc (bits n 3 0) (n.testBit 8) f.sa.toNat l)
    if bits n 7 4 = 0 ∨ bits n 7 4 = 6 ∨ bits n 7 4 = 7
    then e.gives64 (.cvt f) f.d.toNat (fun l => BitVec.ofNat 64 (x l)) (exec (.cvt f) s)
    else e.gives32 (.cvt f) f.d.toNat (fun l => BitVec.ofNat 32 (x l)) (exec (.cvt f) s)) ∧
  ∀ (f : FV) (s : State) (e : Env),
    let ty := bits f.fn.toNat 3 0
    let r := Rnd.ofCode (bits f.fn.toNat 8 7)
    let code (c : BitVec 9) (l k : Nat) : Nat := if ty = 2 then e.halfCode f16 c.toNat l k
      else if ty = 3 then e.halfCode bf16 c.toNat l k else elemCode ty (e.src32 c.toNat l).toNat k
    let prod (n l : Nat) : List Fl := (List.range n).map fun k =>
      (elemDec ty (code f.sa l k)).mul (elemDec ty (code f.sb l k))
    let dot (i : Instr) (n : Nat) : Prop := s.ready i = some e →
      (elemFloat ty = true → e.gives32 i f.d.toNat (fun l => BitVec.ofNat 32
        (f32.rnd r (sumFl (r == .rd) (prod n l ++ [e.fp f32 false f.sc.toNat l])))) (exec i s)) ∧
      (elemFloat ty = false → e.gives32 i f.d.toNat (fun l =>
        let c : Int := if ty = 9 ∨ ty = 11 then (e.src32 f.sc.toNat l).toNat else (e.src32 f.sc.toNat l).toInt
        let x := ((prod n l).map fun p => p.units 0).sum + c
        BitVec.ofInt 32 (if f.fn.getLsbD 4 then satI32 x else x)) (exec i s))
    let w := e.t.act f.h
    let tab (i : Instr) (c : BitVec 9) (e' : Env) (t : Option (List Byte)) : Prop :=
      let va := (e.uval c.toNat).toNat
      s.ready i = some e ∧ ((va = 0 ∧ e' = e ∧ t = none) ∨ (e.t.table = none ∧ w = 0 ∧ e' = e ∧ t = none) ∨
        (∃ bs, va ≠ 0 ∧ e.t.table = some bs ∧ e' = e ∧ t = if bs = [] then none else some bs) ∨
        ∃ s' bs, va ≠ 0 ∧ e.t.table = none ∧ va % 64 = 0 ∧ w ≠ 0 ∧ e.readOnce e.s va 256 = (s', .ok bs) ∧ tableOk bs = true ∧
          e' = { e with s := s' } ∧ t = some bs)
    let invalid (c : BitVec 9) : Prop :=
      e.t.table = none ∧ w &&& ~~~e.t.helper ≠ 0 ∧ (e.uval c.toNat).toNat % 64 ≠ 0
    let comp (t : Option (List Byte)) (x : Fl) : Fl := match t with | some tab => compand tab x | none => x
    let uncomp (t : Option (List Byte)) (x : Fl) : Fl := match t with | some tab => uncompand tab x | none => x
    dot (.dot2 f) 2 ∧ dot (.dot4 f) 4 ∧ dot (.dot8 f) 8 ∧
    (∀ e' t, tab (.cmpd f) f.sb e' t → e'.gives32 (.cmpd f) f.d.toNat
      (fun l => BitVec.ofNat 32 (f32.rne (comp t (e'.fp f32 false f.sa.toNat l)))) (exec (.cmpd f) s)) ∧
    (∀ e' t, tab (.icmpd f) f.sb e' t → e'.gives32 (.icmpd f) f.d.toNat
      (fun l => BitVec.ofNat 32 (f32.rne (uncomp t (e'.fp f32 false f.sa.toNat l)))) (exec (.icmpd f) s)) ∧
    (∀ e' t, tab (.pack f) f.sc e' t → e'.gives32 (.pack f) f.d.toNat
      (fun l => BitVec.ofNat 32 (packElems ty ((List.range (packCount ty)).map fun k =>
        let y := (f32.dec (e'.t.getV (f.sa.toNat + k) l).toNat).mul (e'.fp f32 false f.sb.toNat l)
        elemSat ty r (match t with | some tab => compand tab (f32.dec (f32.rne y)) | none => y)))) (exec (.pack f) s)) ∧
    (∀ e' t, tab (.unpack f) f.sb e' t → exec (.unpack f) s = .next (e'.stepped (.unpack f) e'.s
      (e'.t.putRun f.d.toNat w ((List.range (packCount ty)).map fun k l =>
        BitVec.ofNat 32 (f32.rne (uncomp t (elemDec ty (elemCode ty (e'.src32 f.sa.toNat l).toNat k)))))) none)) ∧
    (invalid f.sb → (s.ready (.cmpd f) = some e → exec (.cmpd f) s = .next (e.counted.takeTrap e.t (e.raise (.cmpd f) .descInvalid))) ∧
      (s.ready (.icmpd f) = some e → exec (.icmpd f) s = .next (e.counted.takeTrap e.t (e.raise (.icmpd f) .descInvalid))) ∧
      (s.ready (.unpack f) = some e → exec (.unpack f) s = .next (e.counted.takeTrap e.t (e.raise (.unpack f) .descInvalid)))) ∧
    (invalid f.sc → s.ready (.pack f) = some e →
      exec (.pack f) s = .next (e.counted.takeTrap e.t (e.raise (.pack f) .descInvalid)))

/-! ### Memory -/

/-- The checks of an access, with the address that it forms. That an offset of SPACE 3 which is negative or beyond the size is
PART_BOUNDS is the model's reading (log 60); what an access of a byte that a resize has discarded does (log 87), and how long a
word keeps an error in it (log 105), are its choices. -/
def Obligations.AccessChecks : Prop :=
  (∀ (g : BitVec 128) (k : Nat) (val off : Int) (n : Nat) (write fetch : Bool),
    let limit := bits g.toNat 111 64
    let base := bits g.toNat 47 0
    let o := (BitVec.ofInt 64 (val * (2 ^ bits g.toNat 114 112 : Nat) + off)).toInt
    if bits g.toNat 127 116 ≠ 0 ∨ bits g.toNat 63 48 ≠ 0 ∨ 2 ^ 48 < base + limit ∨ o < 0 ∨ limit < o + n ∨
        (k = 15 ∧ fetch = false) ∨ (write = true ∧ g.getLsbD 115 = true)
    then segAddr g k val off n write fetch = none
    else segAddr g k val off n write fetch = some ((base + o.toNat) % 2 ^ 48)) ∧
  ∀ (e : Env) (s : State) (kind : AccKind) (seg : Nat) (val off : Int) (n : Nat), 0 < n →
    let a := (BitVec.ofInt 64 (val + off)).toInt
    let write := kind != .read
    let inBlock (b : Block) (r : Int) : Prop := 0 ≤ r ∧ r + n ≤ 384 * b.rows ∧ r % n = 0
    (segAddr (e.b.seg seg) seg val off n write false = none →
      e.checkAddr s kind 0 seg val off n = (s, .error { cause := .segLimit })) ∧
    (∀ va, segAddr (e.b.seg seg) seg val off n write false = some va →
      (kind = .atomic → va % n ≠ 0 → e.checkAddr s kind 0 seg val off n = (s, .error { cause := .misaligned, va := va })) ∧
      ((kind = .atomic → va % n = 0) →
        (s.locked e.t.core e.b.ctx 0 0 va n write = true →
          e.checkAddr s kind 0 seg val off n = (s, .error { cause := .rangeLocked, va := va })) ∧
        ∀ s' ps, s.locked e.t.core e.b.ctx 0 0 va n write = false →
          s.translateAll e.who kind (pieces va (n + 1) n) = (s', .ok ps) →
          e.checkAddr s kind 0 seg val off n = (s', .ok (.va va ps)))) ∧
    (¬inBlock e.b a → e.checkAddr s kind 1 seg val off n = (s, .error { cause := .segLimit })) ∧
    (inBlock e.b a → e.checkAddr s kind 1 seg val off n =
      if s.locked e.t.core e.b.ctx 1 e.b.id a.toNat n write then (s, .error { cause := .rangeLocked })
      else (s, .ok (.spad e.t.core (384 * e.b.row0 + a.toNat)))) ∧
    (s.member e.b (a / 393216) = none → e.checkAddr s kind 2 seg val off n = (s, .error { cause := .segLimit })) ∧
    (∀ m, s.member e.b (a / 393216) = some m →
      (¬inBlock m (a % 393216) → e.checkAddr s kind 2 seg val off n = (s, .error { cause := .segLimit })) ∧
      (inBlock m (a % 393216) → (m.core ≠ e.t.core ∨ s.locked e.t.core e.b.ctx 1 m.id (a % 393216).toNat n write = false) →
        e.checkAddr s kind 2 seg val off n = (s, .ok (.spad m.core (384 * m.row0 + (a % 393216).toNat))))) ∧
    (a % n ≠ 0 → e.checkAddr s kind 3 seg val off n = (s, .error { cause := .segLimit })) ∧
    (a % n = 0 →
      let slices := (s.part e.b.part).sliceList
      if 0 ≤ a ∧ a + n ≤ (524288 * Nat.max slices.length (setBits 128 (s.part e.b.part).oldSlices.toNat).length : Nat)
      then e.checkAddr s kind 3 seg val off n = (s, .ok (if a.toNat < 524288 * slices.length
        then .chip (524288 * slices.getD (a.toNat / 524288) 0 + a.toNat % 524288) else .gone a.toNat))
      else e.checkAddr s kind 3 seg val off n = (s, .error { cause := .partBounds })) ∧
    (∀ (space : Nat) (s1 : State) (x : MFault), e.checkAddr s kind space seg val off n = (s1, .error x) →
      e.check s kind space seg val off n = (s1, .error x)) ∧
    (∀ (space : Nat) (s1 : State) (t : Target), e.checkAddr s kind space seg val off n = (s1, .ok t) →
      e.check s kind space seg val off n =
        if s1.targetBad e.who kind t n then (s1, .error { cause := .dataError }) else (s1, .ok t)) ∧
    (∀ (t : Target), (kind = .write ∨ (s.spadPoison = [] ∧ s.chipPoison = [])) → s.targetBad e.who kind t n = false) ∧
    (∀ (core b k : Nat), kind ≠ .write → kind ≠ .fetch → kind ≠ .engWrite → kind ≠ .walk → s.remoteQ = [] →
      (core, k) ∈ s.spadPoison → b < 4 * k + 4 → 4 * k < b + n → s.targetBad e.who kind (.spad core b) n = true) ∧
    (∀ (b : Nat) (bs : List Byte) (o : Nat), s.storeAt e.who 0 false (.gone o) bs = s ∧
      s.homeLoad (.gone o) b = (List.range b).map fun i => Config.goneByte s.tick (o + i)) ∧
    ∀ (va m : Nat) (p : Phys) (s1 : State) (r : List (Nat × Nat)), s.translate e.who kind (va % 2 ^ 48) = (s1, .ok p) →
      (s1.dataBad e.who kind false p.pa m = true → s.translateAll e.who kind ((va, m) :: r) =
        (s1, .error { cause := .dataError, va := va % 2 ^ 48, pbmt := p.pbmt })) ∧
      ((kind = .write ∨ s1.poison = []) → s1.dataBad e.who kind false p.pa m = false)

/-- Loads, stores and prefetches where no lane meets a cause. That a load's home accesses are queued at issue and performed on
their way is the model's reading (log 54). -/
def Obligations.LoadsAndStoresComplete : Prop :=
  ∀ (f : FM) (s : State) (e : Env),
    let n := sizeBytes f.size.toNat
    let off (v : Bool) (l : Nat) : Int := f.off.toInt + (if v then (n * l : Nat) else 0)
    let laddr (v : Bool) (l : Nat) : Int := e.addrVal f.addr.toNat l + off v l
    let saddr (v : Bool) (l : Nat) : Int := (e.t.getV f.data.toNat l).toNat + off v l
    let val (l : Nat) : Nat :=
      if sizeRegs f.size.toNat = 1 then (e.src32 f.addr.toNat l).toNat
      else leNat ((List.range (sizeRegs f.size.toNat)).flatMap fun k => leBytes 4 (e.t.getV (f.addr.toNat + k) l).toNat)
    let load (i : Instr) (priv : Bool) (chk : State → Nat → State × Except MFault Target) (addr : Nat → Nat) : Prop :=
      ∀ s1 as s2 vals, e.checkLanes chk addr e.s (e.t.list (e.t.act f.h)) = (s1, as, []) →
        (e.banked s1 f.space.toNat n as).loadLanes e.who f.pol.toNat priv n as = (s2, vals) →
        let fl := e.flights e.t.pc f.data.toNat f.size.toNat f.space.toNat f.pol.toNat (f.h.ws == 1) as vals
        exec i s = .next (e.stepped i (s2.queueLoads e.who f.pol.toNat n as) { e.t with flights := e.t.flights ++ fl }
          (if sizeRegs f.size.toNat = 1 then some (if f.h.ws = 1 then [] else e.t.row f.data.toNat) else none))
    let store (i : Instr) (priv : Bool) (chk : State → Nat → State × Except MFault Target) (addr : Nat → Nat) : Prop :=
      ∀ s1 as, e.checkLanes chk addr e.s (e.t.list (e.t.actNH f.h)) = (s1, as, []) →
        exec i s = .next (e.stepped i ((e.banked s1 f.space.toNat n as).storeLanes e.who f.pol.toNat priv n val as) e.t none)
    let held (i : Instr) (w : Lanes) (addr : Nat → Int) : Prop :=
      s.ready i = some e → e.mustWait f.space.toNat w addr = true → exec i s = .next (e.waiting 0x0C)
    let rd (v : Bool) (s : State) (l : Nat) := e.check s .read f.space.toNat f.seg.toNat (e.addrVal f.addr.toNat l) (off v l) n
    let wr (v : Bool) (s : State) (l : Nat) :=
      e.check s .write f.space.toNat f.seg.toNat (e.t.getV f.data.toNat l).toNat (off v l) n
    let own (k : AccKind) (s : State) (l : Nat) (o : Int) : State × Except MFault Target :=
      if 0 ≤ o ∧ o + n ≤ 65536 then e.check s k 0 14 0 ((2 ^ 26 * e.t.pix + 2 ^ 16 * l : Nat) + o) n
      else (s, .error { cause := .segLimit })
    (s.ready (.ld f) = some e → e.mustWait f.space.toNat (e.t.act f.h) (laddr false) = false →
      load (.ld f) false (rd false) (fun l => (laddr false l).toNat)) ∧
    (s.ready (.ldv f) = some e → e.mustWait f.space.toNat (e.t.act f.h) (laddr true) = false →
      load (.ldv f) false (rd true) (fun l => (laddr true l).toNat)) ∧
    (s.ready (.ldl f) = some e → load (.ldl f) true (fun s l => own .read s l (laddr false l)) (fun _ => 0)) ∧
    (s.ready (.st f) = some e → e.mustWait f.space.toNat (e.t.actNH f.h) (saddr false) = false →
      store (.st f) false (wr false) (fun l => (saddr false l).toNat)) ∧
    (s.ready (.stv f) = some e → e.mustWait f.space.toNat (e.t.actNH f.h) (saddr true) = false →
      store (.stv f) false (wr true) (fun l => (saddr true l).toNat)) ∧
    held (.ld f) (e.t.act f.h) (laddr false) ∧ held (.ldv f) (e.t.act f.h) (laddr true) ∧
    held (.st f) (e.t.actNH f.h) (saddr false) ∧ held (.stv f) (e.t.actNH f.h) (saddr true) ∧
    (s.ready (.stl f) = some e → store (.stl f) true (fun s l => own .write s l (saddr false l)) (fun _ => 0)) ∧
    (s.ready (.pfetch f) = some e → ∃ s', exec (.pfetch f) s = .next (e.stepped (.pfetch f) s' e.t none) ∧
      s'.teams = e.s.teams ∧ ∀ c, (s'.coreSt c).spad = (e.s.coreSt c).spad)

/-- Lane causes: which one traps, in which lanes, and what the others have done, for every plain access and every atomic. A load
that traps reads its other lanes at once (the model's reading, log 54). -/
def Obligations.LaneCausesTrap : Prop :=
  (∀ (e : Env) (i : Instr) (s : State) (t : Team) (fs : List LaneFault) (seg space size kind : Nat), fs ≠ [] →
    (∀ x ∈ fs, x.lane < 1024) → fs.Pairwise (fun x y => x.lane ≠ y.lane) →
    ∃ top ∈ fs, ∃ r : Raise, (∀ x ∈ fs, top.f.cause.prio ≤ x.f.cause.prio) ∧
      (∀ x ∈ fs, x.f.cause.prio = top.f.cause.prio → top.lane ≤ x.lane) ∧
      e.trapLanes i s t fs seg space size kind = .next (State.takeTrap
        (if top.f.cause = .rangeLocked then ({ e with s := s } : Env).counted.count e.b.ctx 8 1
          else ({ e with s := s } : Env).counted) t r) ∧
      r.cause = top.f.cause ∧ r.pc = e.t.pc ∧ r.insn = i.word ∧ r.full = t.region.isSome ∧
      (∀ l, r.lanes.getLsbD l = true ↔ ∃ x ∈ fs, x.lane = l ∧ x.f.cause = top.f.cause) ∧
      (t.region.isSome = true → r.pending = e.t.mask) ∧
      (t.region = none → ∀ l, r.pending.getLsbD l = true ↔ ∃ x ∈ fs, x.lane = l) ∧
      (∀ x ∈ fs, x.f.cause = top.f.cause →
        mget 0 r.va x.lane = BitVec.ofNat 64 x.f.va ∧ mget 0 r.gpa x.lane = BitVec.ofNat 64 x.f.gpa)) ∧
  (∀ (f : FM) (s : State) (e : Env),
    let n := sizeBytes f.size.toNat
    let off (v : Bool) (l : Nat) : Int := f.off.toInt + (if v then (n * l : Nat) else 0)
    let laddr (v : Bool) (l : Nat) : Int := e.addrVal f.addr.toNat l + off v l
    let saddr (v : Bool) (l : Nat) : Int := (e.t.getV f.data.toNat l).toNat + off v l
    let val (l : Nat) : Nat :=
      if sizeRegs f.size.toNat = 1 then (e.src32 f.addr.toNat l).toNat
      else leNat ((List.range (sizeRegs f.size.toNat)).flatMap fun k => leBytes 4 (e.t.getV (f.addr.toNat + k) l).toNat)
    let load (i : Instr) (priv : Bool) (seg : Nat) (chk : State → Nat → State × Except MFault Target) (addr : Nat → Nat) : Prop :=
      ∀ s1 as fs, e.checkLanes chk addr e.s (e.t.list (e.t.act f.h)) = (s1, as, fs) → fs ≠ [] →
        let s2 := e.banked s1 f.space.toNat n as
        let got := s2.loadLanes e.who f.pol.toNat priv n as
        (e.t.region.isSome = true → exec i s = e.trapLanes i s2 e.t fs seg f.space.toNat f.size.toNat 0) ∧
        (e.t.region = none → exec i s = e.trapLanes i got.1
          ((e.flights e.t.pc f.data.toNat f.size.toNat f.space.toNat f.pol.toNat false as got.2).foldl Team.land
            { e.t with latches := [] }) fs seg f.space.toNat f.size.toNat 0)
    let store (i : Instr) (priv : Bool) (seg : Nat) (chk : State → Nat → State × Except MFault Target) (addr : Nat → Nat) : Prop :=
      ∀ s1 as fs, e.checkLanes chk addr e.s (e.t.list (e.t.actNH f.h)) = (s1, as, fs) → fs ≠ [] →
        exec i s = e.trapLanes i ((e.banked s1 f.space.toNat n as).storeLanes e.who f.pol.toNat priv n val as) e.t fs
          seg f.space.toNat f.size.toNat 1
    let rd (v : Bool) (s : State) (l : Nat) := e.check s .read f.space.toNat f.seg.toNat (e.addrVal f.addr.toNat l) (off v l) n
    let wr (v : Bool) (s : State) (l : Nat) :=
      e.check s .write f.space.toNat f.seg.toNat (e.t.getV f.data.toNat l).toNat (off v l) n
    let own (k : AccKind) (s : State) (l : Nat) (o : Int) : State × Except MFault Target :=
      if 0 ≤ o ∧ o + n ≤ 65536 then e.check s k 0 14 0 ((2 ^ 26 * e.t.pix + 2 ^ 16 * l : Nat) + o) n
      else (s, .error { cause := .segLimit })
    (s.ready (.ld f) = some e → e.mustWait f.space.toNat (e.t.act f.h) (laddr false) = false →
      load (.ld f) false f.seg.toNat (rd false) (fun l => (laddr false l).toNat)) ∧
    (s.ready (.ldv f) = some e → e.mustWait f.space.toNat (e.t.act f.h) (laddr true) = false →
      load (.ldv f) false f.seg.toNat (rd true) (fun l => (laddr true l).toNat)) ∧
    (s.ready (.ldl f) = some e → load (.ldl f) true 14 (fun s l => own .read s l (laddr false l)) (fun _ => 0)) ∧
    (s.ready (.st f) = some e → e.mustWait f.space.toNat (e.t.actNH f.h) (saddr false) = false →
      store (.st f) false f.seg.toNat (wr false) (fun l => (saddr false l).toNat)) ∧
    (s.ready (.stv f) = some e → e.mustWait f.space.toNat (e.t.actNH f.h) (saddr true) = false →
      store (.stv f) false f.seg.toNat (wr true) (fun l => (saddr true l).toNat)) ∧
    (s.ready (.stl f) = some e → store (.stl f) true 14 (fun s l => own .write s l (saddr false l)) (fun _ => 0))) ∧
  ∀ (f : FV) (w2 : BitVec 64) (s : State) (e : Env),
    let a := atomF f w2
    let w := e.t.actNH f.h
    let addr (l : Nat) : Int := e.addrVal f.sa.toNat l + a.off
    let chk (s : State) (l : Nat) := e.check s .atomic a.space a.seg (e.addrVal f.sa.toNat l) a.off a.bytes
    let got := e.checkLanes chk (fun l => (addr l).toNat) e.s (e.t.list w)
    let some1 : Bool := !got.2.1.isEmpty
    let passed := e.precede (e.banked got.1 a.space a.bytes got.2.1) ((a.pub || a.obt) && some1) (got.2.1.flatMap fun x => x.tgt.elim [] (Target.ranges a.bytes))
    let before := if a.pub && some1 then e.source passed else passed
    let go (step : Nat → Nat → Nat) := e.atomGo a.bytes step before got.2.1
    let homed (step : Nat → Nat → Nat) : State :=
      if e.t.trap.isSome then (go step).1.watchPools before e.b.part else (go step).1
    let after (step : Nat → Nat → Nat) : State := if a.obt && some1 then e.target (homed step) else homed step
    let words (x : Nat → Nat) : List (Nat → Word) :=
      if a.wide then [fun l => BitVec.ofNat 32 (x l), fun l => BitVec.ofNat 32 (x l / 2 ^ 32)] else [fun l => BitVec.ofNat 32 (x l)]
    let dst (step : Nat → Nat → Nat) : Team := e.t.putRun f.d.toNat
      (((go step).2.map Prod.fst).foldl (fun m l => m ||| (1#1024 <<< l)) 0 ||| (e.t.act f.h &&& e.t.helper))
      (words fun l => alookup 0 (go step).2 l)
    let opStep (l v : Nat) : Nat := atomOp a.ty a.opn v (e.atomSrc a f.sb.toNat l)
    let cas (l v : Nat) : Nat := if v = e.atomSrc a f.sb.toNat l then e.atomSrc a f.sc.toNat l else v
    let traps (i : Instr) (step : Nat → Nat → Nat) (t : Team) : Prop :=
      s.ready i = some e → e.mustWait a.space w addr = false → got.2.2 ≠ [] →
        exec i s = e.trapLanes i (after step) t got.2.2 a.seg a.space (if a.wide then 3 else 2) 2
    traps (.atom f w2) opStep (dst opStep) ∧ traps (.acas f w2) cas (dst cas) ∧ traps (.red f w2) opStep e.t ∧
    traps (.atoms f w2) opStep (match (go opStep).2 with
      | [] => e.t
      | (_, v) :: _ => e.t.putS f.d.toNat (BitVec.ofNat 64 v)) ∧
    (∀ s1 x, (chk e.s 0) = (s1, .error x) →
      s.ready (.awaitv f w2) = some e → w ≠ 0 → e.mustWait a.space w (fun _ => addr 0) = false →
        exec (.awaitv f w2) s = e.trapLanes (.awaitv f w2) s1 e.t ((e.t.list w).map fun l => { lane := l, f := x })
          a.seg a.space (if a.wide then 3 else 2) 2)

/-- Loads and stores of SPACE 1: offset `a` of the block is byte `place a` of the core. That conflict clk count in PASSES too is the
model's choice (log 106). -/
def Obligations.ScratchpadAccesses : Prop :=
  ∀ (f : FM) (s : State) (e : Env), f.space = 1 →
    let n := sizeBytes f.size.toNat
    let place (a : Int) : Nat := 384 * e.b.row0 + a.toNat
    let ok (a : Int) (write : Bool) : Bool :=
      e.b.spadOk a n && !e.s.locked e.t.core e.b.ctx 1 e.b.id a.toNat n write &&
        (write || !e.s.targetBad e.who .read (.spad e.t.core (place a)) n)
    let accs (a : Nat → Int) (write : Bool) (w : Lanes) : List LaneAcc := (e.t.list w).map fun l =>
      { lane := l, addr := 0, tgt := if ok (a l) write then some (.spad e.t.core (place (a l))) else none }
    let counted (as : List LaneAcc) : State :=
      let k := e.conflicts n as
      if k = 0 then e.s
      else (({ e.s with sel := { e.s.sel with held := e.s.sel.held + k } } : State).count e.b.ctx 7 k).count e.b.ctx 3 k
    let spad := (e.s.coreSt e.t.core).spad
    (∀ x ∈ e.s.storeQ, x.tid ≠ e.t.tid) → (∀ x ∈ e.s.remoteQ, x.tid ≠ e.t.tid) →
    (s.ready (.st f) = some e →
      let a (l : Nat) : Int := (BitVec.ofInt 64 ((e.t.getV f.data.toNat l).toNat + f.off.toInt)).toInt
      let val (l : Nat) : Nat :=
        if sizeRegs f.size.toNat = 1 then (e.src32 f.addr.toNat l).toNat
        else leNat ((List.range (sizeRegs f.size.toNat)).flatMap fun k => leBytes 4 (e.t.getV (f.addr.toNat + k) l).toNat)
      (∀ l ∈ e.t.list (e.t.actNH f.h), ok (a l) true = true) →
      ∃ s', exec (.st f) s = .next (e.stepped (.st f) s' e.t none) ∧
        ({ s' with cores := [], loadQ := [], spadPoison := [] } : State) =
          { counted (accs a true (e.t.actNH f.h)) with cores := [], loadQ := [], spadPoison := [] } ∧
        (∀ x, x ∈ s'.spadPoison ↔ x ∈ e.s.spadPoison ∧ ∀ l ∈ e.t.list (e.t.actNH f.h),
          ¬(x.1 = e.t.core ∧ place (a l) < 4 * x.2 + 4 ∧ 4 * x.2 < place (a l) + n)) ∧
        (∀ c, c ≠ e.t.core → s'.coreSt c = e.s.coreSt c) ∧
        ({ s'.coreSt e.t.core with spad := [] } : CoreSt) = { e.s.coreSt e.t.core with spad := [] } ∧
        ∀ x, mget 0 (s'.coreSt e.t.core).spad x =
          match ((e.t.list (e.t.actNH f.h)).filter fun l => decide (place (a l) ≤ x) && decide (x < place (a l) + n)).getLast? with
          | some l => BitVec.ofNat 8 (val l / 2 ^ (8 * (x - place (a l))))
          | none => mget 0 spad x) ∧
    (s.ready (.ld f) = some e →
      let a (l : Nat) : Int := (BitVec.ofInt 64 (e.addrVal f.addr.toNat l + f.off.toInt)).toInt
      (∀ l ∈ e.t.list (e.t.act f.h), ok (a l) false = true ∨ e.t.helper.getLsbD l = true) →
      ∃ s' fl lat, exec (.ld f) s = .next (e.stepped (.ld f) s' { e.t with flights := e.t.flights ++ fl } lat) ∧
        ({ s' with loadQ := [] } : State) = { counted (accs a false (e.t.act f.h)) with loadQ := [] } ∧
        ∀ l ∈ e.t.list (e.t.act f.h), ∃ x ∈ fl, x.gen = e.t.gen ∧ x.seq = e.t.issued ∧ x.fmt = 0 ∧ x.dst = f.data.toNat ∧ x.size = f.size.toNat ∧
          x.lanes.getLsbD l = true ∧ x.latchOnly = (f.h.ws == 1) ∧
          ∀ k, k < sizeRegs f.size.toNat → ∃ v : Nat,
            (ok (a l) false = true → v = leNat (mgetList 0 spad (place (a l)) n)) ∧
            (ok (a l) false = false → v = 0) ∧
            alookup 0 x.vals (1024 * (f.data.toNat + k) + l) = (loadWords f.size.toNat v).getD k 0)

/-- The return of a pass of a load. -/
def Obligations.LoadReturnLands : Prop :=
  ∀ (t : Team) (f : Flight),
    (f.gen ≠ t.gen → t.land f = t) ∧
    (f.gen = t.gen →
      (t.land f).pc = t.pc ∧ (t.land f).mask = t.mask ∧ (t.land f).preds = t.preds ∧ (t.land f).sregs = t.sregs ∧
      (f.latchOnly = false → ∀ k l, k < f.regs → l < 1024 → l < t.lanes → f.lanes.getLsbD l = true →
        (t.land f).getV (f.dst + k) l = alookup 0 f.vals (1024 * (f.dst + k) + l)) ∧
      (∀ r l, l < 1024 → (f.latchOnly = true ∨ (∀ k, k < f.regs → t.vname r ≠ t.vname (f.dst + k)) ∨
        f.lanes.getLsbD l = false) → (t.land f).getV r l = t.getV r l) ∧
      ∀ p, let mine := f.regs = 1 ∧ f.fmt = 0 ∧ f.seq + 1 + p = t.issued
        (∀ m, t.latches[p]? = some (some m) → mine → ∃ row, (t.land f).latches[p]? = some (some row) ∧
          ∀ l, l < t.lanes → mget 0 row l = if f.lanes.getLsbD l then alookup 0 f.vals (1024 * f.dst + l) else mget 0 m l) ∧
        ((t.latches[p]? = some none ∨ t.latches[p]? = none ∨ ¬mine) → (t.land f).latches[p]? = t.latches[p]?))

/-- Home memory, and the way of a DEF store to it. The naming of L1's sets and the write-back of a line that leaves a full one are
the model's choice (log 101). -/
def Obligations.DefStoreReachesHome : Prop :=
  (∀ (s : State) (chip : Bool) (a : Nat) (bs : List Byte),
    (s.homeWrite chip a bs).homeRead chip a bs.length = bs ∧
    (∀ chip' x, (chip' ≠ chip ∨ x < a ∨ a + bs.length ≤ x) → (s.homeWrite chip a bs).homeByte chip' x = s.homeByte chip' x) ∧
    (Memory.wf s.mem = true → Memory.wf s.host = true → Memory.wf s.chip = true →
      Memory.wf (s.homeWrite chip a bs).mem = true ∧ Memory.wf (s.homeWrite chip a bs).host = true ∧
        Memory.wf (s.homeWrite chip a bs).chip = true)) ∧
  ∀ (s : State) (core slot ctx : Nat) (chip : Bool) (a : Nat) (bs : List Byte) (priv : Bool), slot < 16 →
    a % 128 + bs.length ≤ 128 →
    (∀ x ∈ (s.coreSt core).l1, x.chip = chip → x.line = a / 128 → x.ctx = ctx) →
    let s1 := s.defWrite core slot ctx chip a bs priv
    let l1 := (s.coreSt core).l1
    (∀ chip' x, (x / 128 % 1024 ≠ a / 128 % 1024 ∨ (chip' = chip ∧ x / 128 = a / 128) ∨
        (∃ y ∈ l1, y.ctx = ctx ∧ y.chip = chip ∧ y.line = a / 128) ∨
        (l1.filter fun y => y.line % 1024 == a / 128 % 1024).length < 8) →
      s1.homeByte chip' x = s.homeByte chip' x) ∧
    (s1.defRead core ctx chip a bs.length priv).2 = bs ∧
    (s1.sourceEnd core slot true).homeRead chip a bs.length = bs

/-- Atomics and AWAITV. The zero-extended 32-bit old value of ATOMS (log 61) and the checks of AWAITV as those of an atomic (log 63)
are the model's reading. -/
def Obligations.AtomicsComplete : Prop :=
  (∀ (f : FV) (w2 : BitVec 64) (s : State) (e : Env),
    let a := atomF f w2
    let w := e.t.actNH f.h
    let addr (l : Nat) : Int := e.addrVal f.sa.toNat l + a.off
    let chk (s : State) (l : Nat) := e.check s .atomic a.space a.seg (e.addrVal f.sa.toNat l) a.off a.bytes
    let got := e.checkLanes chk (fun l => (addr l).toNat) e.s (e.t.list w)
    let some1 : Bool := !got.2.1.isEmpty
    let passed := e.precede (e.banked got.1 a.space a.bytes got.2.1) ((a.pub || a.obt) && some1) (got.2.1.flatMap fun x => x.tgt.elim [] (Target.ranges a.bytes))
    let before := if a.pub && some1 then e.source passed else passed
    let go (step : Nat → Nat → Nat) := e.atomGo a.bytes step before got.2.1
    let homed (step : Nat → Nat → Nat) : State :=
      if e.t.trap.isSome then (go step).1.watchPools before e.b.part else (go step).1
    let after (step : Nat → Nat → Nat) : State := if a.obt && some1 then e.target (homed step) else homed step
    let words (x : Nat → Nat) : List (Nat → Word) :=
      if a.wide then [fun l => BitVec.ofNat 32 (x l), fun l => BitVec.ofNat 32 (x l / 2 ^ 32)] else [fun l => BitVec.ofNat 32 (x l)]
    let dst (step : Nat → Nat → Nat) : Team := e.t.putRun f.d.toNat
      (((go step).2.map Prod.fst).foldl (fun m l => m ||| (1#1024 <<< l)) 0 ||| (e.t.act f.h &&& e.t.helper))
      (words fun l => alookup 0 (go step).2 l)
    let opStep (l v : Nat) : Nat := atomOp a.ty a.opn v (e.atomSrc a f.sb.toNat l)
    let cas (l v : Nat) : Nat := if v = e.atomSrc a f.sb.toNat l then e.atomSrc a f.sc.toNat l else v
    let free : Prop := e.mustWait a.space w addr = false ∧ got.2.2 = []
    (s.ready (.atom f w2) = some e → free →
      exec (.atom f w2) s = .next (e.stepped (.atom f w2) (after opStep) (dst opStep) none)) ∧
    (s.ready (.acas f w2) = some e → free →
      exec (.acas f w2) s = .next (e.stepped (.acas f w2) (after cas) (dst cas) none)) ∧
    (s.ready (.red f w2) = some e → free →
      exec (.red f w2) s = .next (e.stepped (.red f w2) (after opStep) e.t none)) ∧
    (s.ready (.atoms f w2) = some e → free →
      exec (.atoms f w2) s = .next (e.stepped (.atoms f w2) (after opStep)
        (match (go opStep).2 with
         | [] => e.t
         | (_, v) :: _ => e.t.putS f.d.toNat (BitVec.ofNat 64 v)) none)) ∧
    (∀ i ∈ [Instr.atom f w2, .acas f w2, .red f w2, .atoms f w2], s.ready i = some e → e.mustWait a.space w addr = true →
      exec i s = .next (e.waiting 0x0C)) ∧
    let i : Instr := .awaitv f w2
    let put (x : Nat) : Team := e.t.putRun f.d.toNat (e.t.act f.h) (words fun _ => x)
    (s.ready i = some e → e.t.act f.h = 0 → exec i s = .next (e.stepped i e.s e.t none)) ∧
    (s.ready i = some e → e.t.act f.h ≠ 0 → w = 0 → exec i s = .next (e.stepped i e.s (put 0) none)) ∧
    (s.ready i = some e → w ≠ 0 → e.mustWait a.space w (fun _ => addr 0) = true → exec i s = .next (e.waiting 0x0C)) ∧
    ∀ tgt, (chk e.s 0).2 = .ok tgt →
      let s2 := (e.precede (chk e.s 0).1 a.obt (tgt.ranges a.bytes)).toHome e.who tgt a.bytes
      let x := leNat (s2.homeLoad tgt a.bytes)
      let b := (e.uval f.sb.toNat).toNat % 2 ^ (8 * a.bytes)
      (s.ready i = some e → w ≠ 0 → e.mustWait a.space w (fun _ => addr 0) = false → x ≠ b →
        exec i s = .next (e.stepped i (if a.obt then e.target s2 else s2) (put x) none)) ∧
      (s.ready i = some e → w ≠ 0 → e.mustWait a.space w (fun _ => addr 0) = false → x = b →
        exec i s = .next (({ e with s := s2 } : Env).counted.putTeam
          { e.t.fixLoads e.op with
                     waddr := match tgt with | .va va _ => va | _ => (addr 0).toNat
                     status := .awaitv (s2.watchAt tgt).1 (s2.watchAt tgt).2 a.bytes (BitVec.ofNat 64 b) f.d.toNat (e.t.act f.h) a.obt,
                     stall := 9, latches := [], region := none }))) ∧
  ∀ (e : Env) (n : Nat) (step : Nat → Nat → Nat) (s : State) (as : List LaneAcc) (p : Nat),
    (∀ x ∈ as, x.tgt = some (.spad e.t.core p)) → (∀ l v, step l v < 2 ^ (8 * n)) →
    let v0 := leNat (mgetList 0 (s.coreSt e.t.core).spad p n)
    let after (ls : List LaneAcc) : Nat := ls.foldl (fun v x => step x.lane v) v0
    (e.atomGo n step s as).2 = as.zipIdx.map (fun (x, k) => (x.lane, after (as.take k))) ∧
    leNat (mgetList 0 ((e.atomGo n step s as).1.coreSt e.t.core).spad p n) = after as ∧
    ∀ q, q < p ∨ p + n ≤ q → mget 0 ((e.atomGo n step s as).1.coreSt e.t.core).spad q = mget 0 (s.coreSt e.t.core).spad q

/-- The barrier word and the barrier instructions. That arrivals on their way are applied first (log 104), that a local arrival
performs the team's own accesses (log 103) and that BARX takes a 64-bit rank (log 41) are the model's choices. -/
def Obligations.BarrierInstructions : Prop :=
  (∀ (s : State) (core n : Nat) (b : Bar), -(2 ^ 20) ≤ b.txb → b.txb < 2 ^ 20 → b.expect < 1024 → b.pending < 1024 →
    (s.putBar core n b).bar core n = b ∧
    ∀ x, x < 0x5C100 + 8 * n ∨ 0x5C100 + 8 * n + 8 ≤ x →
      mget 0 ((s.putBar core n b).coreSt core).spad x = mget 0 (s.coreSt core).spad x) ∧
  (∀ (b : Bar),
    (b.pending = 0 → b.arrive = none) ∧
    (b.pending ≠ 0 → b.arrive = some
      (if b.init = true ∧ b.pending = 1 ∧ b.txb = 0 then { b with phase := !b.phase, pending := b.expect }
       else { b with pending := b.pending - 1 })) ∧
    ∀ n : Nat, b.announce n = if 2 ^ 20 ≤ n ∨ (2 ^ 20 : Int) ≤ b.txb + n then none
      else if b.init = true ∧ b.pending = 0 ∧ b.txb + n = 0 then some { b with txb := 0, phase := !b.phase, pending := b.expect }
      else some { b with txb := b.txb + n }) ∧
  ∀ (f : FV) (s : State) (e : Env),
    let k := (e.uval f.sa.toNat).toNat % 2 ^ 32
    let n := e.b.bar0 + k
    let word := e.s.bar e.t.core n
    let q := e.uval f.sb.toNat
    let s0 := e.s.landArrivals e.b k
    let arrived := (s0.bar e.t.core n).arrive
    let own (slots : BitVec 16) : Prop :=
      ∀ j, j < 16 → (slots.getLsbD j = true ↔ ∃ t ∈ s0.teams, t.blk = e.b.id ∧ t.resident = true ∧ t.slot = j)
    let after (slots : BitVec 16) (b : Bar) : State :=
      (s0.putBar e.t.core n b).localArrival e.t.tid e.t.core e.t.slot e.b.ctx slots
    let bad (s1 : State) (i : Instr) : Out := .next (({ e with s := s1 } : Env).counted.takeTrap e.t (e.raise i .barrierState))
    let changed (i : Instr) (b : Option Bar) : Prop := s.ready i = some e → e.t.actNH f.h ≠ 0 →
      exec i s = match b with
        | some b => .next (e.stepped i (e.s.putBar e.t.core n b) e.t none)
        | none => .next (e.counted.takeTrap e.t (e.raise i .barrierState))
    let waits (i : Instr) (s1 : State) : Out :=
      if (s1.bar e.t.core n).phase ≠ q.getLsbD 0
      then .next (e.stepped i (if (s1.coreSt e.t.core).remote.contains n then s1.targetEnd e.t.core e.b.ctx false else s1) e.t none)
      else .next (({ e with s := s1 } : Env).counted.putTeam
        { e.t.fixLoads e.op with status := .barrier (n - e.b.bar0) (q.getLsbD 0), stall := 7, latches := [], region := none })
    (∀ i ∈ [Instr.bari f, .bara f, .barw f, .baraw f, .bart f, .barx f], s.ready i = some e → e.t.actNH f.h = 0 →
      exec i s = .next (e.stepped i e.s e.t none)) ∧
    changed (.bari f) (if q.toNat = 0 ∨ 1024 ≤ q.toNat ∨ (word.init = true ∧ (word.pending ≠ word.expect ∨ word.txb ≠ 0))
      then none else some { phase := word.phase, txb := 0, expect := q.toNat, pending := q.toNat, init := true }) ∧
    (s.ready (.bara f) = some e → e.t.actNH f.h ≠ 0 → ∃ slots, own slots ∧ exec (.bara f) s = match arrived with
      | some b => .next (e.stepped (.bara f) (after slots b) e.t none)
      | none => bad s0 (.bara f)) ∧
    changed (.bart f) (word.announce q.toNat) ∧
    (s.ready (.barw f) = some e → e.t.actNH f.h ≠ 0 → exec (.barw f) s =
      if word.init = true then waits (.barw f) e.s else .next (e.counted.takeTrap e.t (e.raise (.barw f) .barrierState))) ∧
    (s.ready (.baraw f) = some e → e.t.actNH f.h ≠ 0 → word.init = false → exec (.baraw f) s = bad e.s (.baraw f)) ∧
    (s.ready (.baraw f) = some e → e.t.actNH f.h ≠ 0 → word.init = true → ∃ slots, own slots ∧
      exec (.baraw f) s = match arrived with
        | some b => waits (.baraw f) (after slots b)
        | none => bad s0 (.baraw f)) ∧
    (s.ready (.barx f) = some e → e.t.list (e.t.actNH f.h) ≠ [] → e.s.member e.b q.toNat = none →
      ∃ r : Raise, r.cause = .segLimit ∧ (∀ l, r.lanes.getLsbD l = true ↔ l < e.t.lanes ∧ (e.t.actNH f.h).getLsbD l = true) ∧
        exec (.barx f) s = .next (e.counted.takeTrap e.t r)) ∧
    (s.ready (.barx f) = some e → e.t.actNH f.h ≠ 0 → ∀ m, e.s.member e.b q.toNat = some m →
      (m.id = e.b.id → ∃ slots, own slots ∧ exec (.barx f) s = match arrived with
        | some b => .next (e.stepped (.barx f) (after slots b) e.t none)
        | none => bad s0 (.barx f)) ∧
      (m.id ≠ e.b.id → m.saved ≠ none → exec (.barx f) s = .next (e.waiting 0x0C)) ∧
      (m.id ≠ e.b.id → m.saved = none →
        let s2 := e.s.landArrivals m k
        let s1 := e.source s2
        ((s2.bar m.core (m.bar0 + k)).pending ≠ 0 → exec (.barx f) s = .next (e.stepped (.barx f)
          { s1 with remoteQ := s1.remoteQ ++ [{ tid := e.t.tid, src := e.b.id, dst := m.id, bar := some k, addr := 0, bytes := [] }] }
          e.t none)) ∧
        ((s2.bar m.core (m.bar0 + k)).pending = 0 → exec (.barx f) s = bad s2 (.barx f))))

/-! ### Engines -/

/-- Issue of the engines' operations. That MDRAIN makes the checks of R372 and R377 with side A, and of side B's table, is the
model's reading (log 40); the lock of operand A against reads follows R390's case, not R204's text (log 129). -/
def Obligations.EngineInstructionsIssue : Prop :=
  ∀ (f : FV) (w2 : BitVec 64) (s : State) (e : Env),
    let act := e.t.act f.h
    let room (o : EngOp) (locks : List (Nat × Lock)) : Prop :=
      ((e.s.coreSt e.t.core).ops.filter fun x => sameQueue x.eng o.eng).length < queueRoom o.eng ∧
        ∀ l ∈ locks, (e.s.coreSt l.1).locks.length + (locks.filter fun m => m.1 == l.1).length ≤ 64
    let issued (i : Instr) (s1 : State) (o : EngOp) (locks : List (Nat × Lock)) : Out :=
      let s2 := (({ e with s := s1 } : Env).target (e.source s1)).addLocks locks
      let s3 := s2.putCore e.t.core { s2.coreSt e.t.core with ops := (s2.coreSt e.t.core).ops ++ [o] }
      let k := e.t.counters.getD o.k {}
      .next (e.stepped i { s3 with nextId := s3.nextId + 1 }
        { e.t with counters := e.t.counters.set o.k { k with opened := k.opened ++ [o.id] } } none)
    let stalled (s1 : State) : Out := .next (({ e with s := s1 } : Env).waiting 8)
    let bulk (i : Instr) (g : Engine) (kind : EngKind) : Prop := s.ready i = some e →
      let o := e.newOp f w2 g kind
      let locks := o.spans.1.flatMap (e.lockOf o false 0) ++ o.spans.2.flatMap (e.lockOf o true o.mcast)
      (act = 0 → exec i s = .next (e.stepped i e.s e.t none)) ∧
      (act ≠ 0 → e.engBad o = true → exec i s = .next (e.counted.takeTrap e.t (e.raise i .descInvalid))) ∧
      (act ≠ 0 → e.engBad o = false → room o locks → exec i s = issued i e.s o locks) ∧
      (act ≠ 0 → e.engBad o = false → ¬room o locks → exec i s = stalled e.s)
    let fromBlock (i : Instr) (o : EngOp) (bad : EngOp → Bool) (locks : Env → EngOp → List (Nat × Lock)) : Prop :=
      s.ready i = some e →
      (e.t.actNH f.h = 0 → exec i s = .next (e.stepped i e.s e.t none)) ∧
      (e.t.actNH f.h ≠ 0 → o.kind = .mma → (∃ t ∈ o.aTile, e.b.tiles.length ≤ t) →
        exec i s = .next (e.counted.takeTrap e.t (e.raise i .regLimit))) ∧
      (e.t.actNH f.h ≠ 0 → (∀ t ∈ o.aTile, t < e.b.tiles.length) → o.c.toNat % 32 ≠ 0 →
        exec i s = .next (e.counted.takeTrap e.t (e.raise i .descInvalid))) ∧
      (e.t.actNH f.h ≠ 0 → (∀ t ∈ o.aTile, t < e.b.tiles.length) → o.c.toNat % 32 = 0 →
        ∀ s1 bs, e.readOnce e.s o.c.toNat 32 = (s1, .ok bs) →
        let o1 := { o with fmt := bs }
        let pairHeld := o1.pair = true → o.tile + 1 < e.b.tiles.length
        (¬pairHeld → exec i s = .next (({ e with s := s1 } : Env).counted.takeTrap e.t (e.raise i .regLimit))) ∧
        (pairHeld → bad o1 = true → exec i s = .next (({ e with s := s1 } : Env).counted.takeTrap e.t (e.raise i .descInvalid))) ∧
        (pairHeld → bad o1 = false → ∀ s2 t, o1.tabAt false ≠ 0 → e.readOnce s1 (o1.tabAt false) 256 = (s2, .ok t) →
          tableOk t = false → exec i s = .next (({ e with s := s2 } : Env).counted.takeTrap e.t (e.raise i .descInvalid))) ∧
        (pairHeld → bad o1 = false → ∀ s2 s3 ta tb,
          let table (s s' : State) (va : Nat) (t : List Byte) : Prop :=
            if va = 0 then s' = s ∧ t = [] else va % 64 = 0 ∧ e.readOnce s va 256 = (s', .ok t) ∧ tableOk t = true
          table s1 s2 (o1.tabAt false) ta →
          table s2 s3 (o1.tabAt true) tb →
          let o2 := { o1 with tabA := ta, tabB := tb }
          let ls := locks { e with s := s3 } o2
          let fits := ((s3.coreSt e.t.core).ops.filter fun x => sameQueue x.eng o.eng).length < queueRoom o.eng ∧
            ∀ l ∈ ls, (s3.coreSt l.1).locks.length + (ls.filter fun m => m.1 == l.1).length ≤ 64
          (fits → exec i s = issued i s3 o2 ls) ∧ (¬fits → exec i s = stalled s3)))
    let mma (many : Bool) : EngOp :=
      { e.newOp f w2 .step .mma with tile := f.d.toNat, fn := f.fn.toNat + (if many then 256 else 0) }
    let mmaLocks (e : Env) (o : EngOp) : List (Nat × Lock) :=
      ((o.operandSpans false).zipIdx.flatMap fun x => (e.lockOf o false 0 x.1).map fun l =>
        (l.1, { l.2 with noRead := x.2 == 0 && o.opSpace false != 4 })) ++ (o.operandSpans true).flatMap (e.lockOf o false 0)
    let ld : EngOp := { e.newOp f w2 .move .mldt with tile := f.d.toNat }
    let ldLocks : List (Nat × Lock) :=
      e.lockOf ld false 0 { space := ld.lspace, seg := ld.lseg, val := ld.a, len := ld.lstride * 63 + 64 * ld.lsize }
    bulk (.cpy f w2) .copy .cpy ∧ bulk (.cpyt f w2) .copy .cpyt ∧
    bulk (.gath f w2) .gather .gath ∧ bulk (.scat f w2) .gather .scat ∧
    (s.ready (.mzero f) = some e →
      let o : EngOp := { e.newOp f 0 .move .mzero with tile := f.d.toNat }
      (act = 0 → exec (.mzero f) s = .next (e.stepped (.mzero f) e.s e.t none)) ∧
      (act ≠ 0 → room o [] → exec (.mzero f) s = issued (.mzero f) e.s o []) ∧
      (act ≠ 0 → ¬room o [] → exec (.mzero f) s = stalled e.s)) ∧
    (s.ready (.mldt f w2) = some e →
      let bad := ld.lspace = 4 ∨ 5 ≤ ld.conv ∨ ld.a.toNat % 16 ≠ 0
      (act = 0 → exec (.mldt f w2) s = .next (e.stepped (.mldt f w2) e.s e.t none)) ∧
      (act ≠ 0 → bad → exec (.mldt f w2) s = .next (e.counted.takeTrap e.t (e.raise (.mldt f w2) .descInvalid))) ∧
      (act ≠ 0 → ¬bad → room ld ldLocks → exec (.mldt f w2) s = issued (.mldt f w2) e.s ld ldLocks) ∧
      (act ≠ 0 → ¬bad → ¬room ld ldLocks → exec (.mldt f w2) s = stalled e.s)) ∧
    fromBlock (.mma f w2) (mma false) EngOp.mmaBad mmaLocks ∧ fromBlock (.mmal f w2) (mma true) EngOp.mmaBad mmaLocks ∧
    fromBlock (.mdrain f w2) { e.newOp f w2 .move .mdrain with tile := f.d.toNat } EngOp.mdrainBad (fun e o =>
      (o.drainSpans false ++ (if o.trans then o.drainSpans true else [])).flatMap (e.lockOf o true 0))

/-- Batches, and the waits for them. That a fault is kept in a handler until RTT (log 66), that the first failure is reported and
every one observed is cleared (log 67), and that the locks of an unclosed operation stay (log 57), are the model's choices. -/
def Obligations.BatchesAndWaits : Prop :=
  (∀ (c : Counter) (n : Nat),
    (c.waitOver true n = true ↔ (c.batches.filter fun b => !b.ops.isEmpty).length ≤ n) ∧
    (c.waitOver false n = true ↔ ∀ b ∈ c.batches, b.ops ≠ [] → 2 ^ 31 ≤ (BitVec.ofNat 32 n - b.num).toNat)) ∧
  (∀ (f : FV) (s : State) (e : Env),
    let k := bits f.fn.toNat 1 0
    let c := e.t.counters.getD k {}
    (s.ready (.eclose f) = some e →
      (e.t.act f.h = 0 → exec (.eclose f) s = .next (e.stepped (.eclose f) e.s e.t none)) ∧
      (e.t.act f.h ≠ 0 → 65536 ≤ c.incomplete.length → exec (.eclose f) s = .next (e.waiting 8)) ∧
      (e.t.act f.h ≠ 0 → c.incomplete.length < 65536 →
        let due := c.opened.filter (e.s.opLive e.t.core)
        let b : Batch := { num := c.closed, ops := due, all := c.opened, failed := c.openFailed, fault := c.openFault,
                           eaddr := c.openEaddr }
        let left := (c.batches ++ [b]).filter fun b => b.failed || !b.ops.isEmpty
        exec (.eclose f) s = .next (e.stepped (.eclose f)
          (if due = [] then e.s.dropLocks fun l => c.opened.contains l.op else e.s)
          { e.t with counters := e.t.counters.set k { opened := [], closed := c.closed + 1, batches := left } } none))) ∧
    ∀ (i : Instr) (most : Bool), (i = .ewait f ∧ most = false) ∨ (i = .ewaito f ∧ most = true) → s.ready i = some e →
      let n := (e.uval f.sa.toNat).toNat % 2 ^ 32
      (e.t.act f.h = 0 → exec i s = .next (e.stepped i e.s e.t none)) ∧
      (e.t.act f.h ≠ 0 → c.waitOver most n = false → exec i s = .next (e.counted.putTeam
        { e.t.fixLoads e.op with status := .engine k most n, stall := 8, latches := [], region := none })) ∧
      (e.t.act f.h ≠ 0 → c.waitOver most n = true →
        (c.batches.find? (fun b => b.failed && b.ops.isEmpty) = none →
          exec i s = .next (e.stepped i (e.target e.s) e.t none)) ∧
        ∀ b, c.batches.find? (fun b => b.failed && b.ops.isEmpty) = some b →
          let t := { e.t with counters := e.t.counters.set k { c with batches := c.batches.filter fun x => !(x.failed && x.ops.isEmpty) } }
          let r : Raise :=
            { e.raise i .engineFault with resume := e.t.pc, size := i.size, info := b.fault, eaddr := b.eaddr, k := k }
          let x : AsyncCause :=
            { cause := .engineFault, pc := t.pc, insn := i.word, lanes := t.mask &&& ~~~t.helper, info := b.fault,
              eaddr := b.eaddr, k := k }
          exec i s = .next (if e.t.trap.isSome then e.stepped i (e.target e.s) { t with async := t.async ++ [x] } none
            else ({ e with s := e.target e.s } : Env).counted.takeTrap t r))) ∧
  ∀ (core slot half : Nat) (s : State) (t : Team) (k n : Nat) (most : Bool), s.teamAt core slot half = some t →
    t.status = .engine k most n → (t.counters.getD k {}).waitOver most n = true →
    let c := t.counters.getD k {}
    let insn := ((s.envOf t).codeAt t.pc).1
    let size := ((s.envOf t).codeAt t.pc).2
    let s1 := s.targetEnd t.core (s.blockOf t).ctx false
    let back (t : Team) : Team := { t with status := .ready, stall := 0, pc := t.pc + BitVec.ofNat 48 size, restore := none,
                                           mask := (t.restore.getD (t.mask, t.helper)).1, helper := (t.restore.getD (t.mask, t.helper)).2 }
    (c.batches.find? (fun b => b.failed && b.ops.isEmpty) = none →
      exec (.ewaitReturn core slot half) s = .next (s1.putTeam (back t))) ∧
    ∀ b, c.batches.find? (fun b => b.failed && b.ops.isEmpty) = some b →
      let t1 := { t with counters := t.counters.set k { c with batches := c.batches.filter fun x => !(x.failed && x.ops.isEmpty) } }
      exec (.ewaitReturn core slot half) s = .next (
        if t.trap.isSome then s1.putTeam (back { t1 with async := t.async ++ [
          { cause := .engineFault, pc := t.pc, insn := insn, lanes := t.mask &&& ~~~t.helper, info := b.fault, eaddr := b.eaddr, k := k }] })
        else s1.takeTrap { t1 with status := .ready }
          { cause := .engineFault, lanes := t.mask &&& ~~~t.helper, pending := t.mask, full := true, pc := t.pc, insn := insn,
            resume := t.pc, size := size, info := b.fault, eaddr := b.eaddr, k := k })

/-- MRD, MWR and MTAG. -/
def Obligations.MatrixCellInstructions : Prop :=
  ∀ (f : FV) (s : State) (e : Env),
    let c := e.s.coreSt e.t.core
    let num (base : BitVec 9) (l : Nat) : Nat := (e.uval base.toNat).toNat % 2 ^ 32 + l
    let after (i : Instr) (c' : CoreSt) (t : Team) : Prop := ∃ s',
      exec i s = .next (({ e with s := s' } : Env).counted.putTeam t) ∧ s'.coreSt e.t.core = c' ∧
      (∀ n, n ≠ e.t.core → s'.coreSt n = e.s.coreSt n) ∧ ({ s' with cores := [] } : State) = { e.s with cores := [] }
    e.t.mid = none →
    (s.ready (.mrd f) = some e → let conv := (e.uval f.sb.toNat).toNat % 2 ^ 32
      (e.t.act f.h ≠ 0 → 4 ≤ conv → exec (.mrd f) s = .next (e.counted.takeTrap e.t (e.raise (.mrd f) .descInvalid))) ∧
      (conv < 4 → ∀ p, e.b.phys f.sc.toNat = p → p < 16 →
        (∀ l ∈ e.t.list (e.t.act f.h), num f.sa l < 4096 ∨ e.t.helper.getLsbD l = true) →
        (∀ b, b < 8 → (∃ l ∈ e.t.list (e.t.act f.h), num f.sa l / 512 = b) →
          c.bandTaken e.b.id f.sc.toNat b = false ∧ tagAt c.tagV p b = true) →
        ∃ c' t, after (.mrd f) c' t ∧ t.pc = e.nextPc (.mrd f) ∧
          (∀ l ∈ e.t.list (e.t.act f.h), t.latch 1 l = if num f.sa l < 4096 then mrdVal conv (c.cell p (num f.sa l)) else 0) ∧
          (f.h.ws = 0 → ∀ l ∈ e.t.list (e.t.act f.h), t.getV f.d.toNat l = t.latch 1 l) ∧
          ({ c' with tagC := 0 } : CoreSt) = { c with tagC := 0 } ∧
          ∀ q b, q < 16 → b < 8 → tagAt c'.tagC q b = (tagAt c.tagC q b ||
            (f.fn.getLsbD 3 && decide (q = p ∧ ∃ l ∈ e.t.list (e.t.act f.h), num f.sa l / 512 = b))))) ∧
    (s.ready (.mwr f) = some e → let conv := (e.uval f.sc.toNat).toNat % 2 ^ 32
      (e.t.act f.h ≠ 0 → 4 ≤ conv → exec (.mwr f) s = .next (e.counted.takeTrap e.t (e.raise (.mwr f) .descInvalid))) ∧
      (conv < 4 → ∀ p, e.b.phys f.d.toNat = p → p < 16 → (∀ l ∈ e.t.list (e.t.actNH f.h), num f.sb l < 4096) →
        let hit (b : Nat) : Prop := ∃ l ∈ e.t.list (e.t.actNH f.h), num f.sb l / 512 = b
        (∀ b, b < 8 → hit b → c.bandTaken e.b.id f.d.toNat b = false ∧ tagAt c.tagC p b = true) →
        ∃ c' t, after (.mwr f) c' t ∧ t = { ((e.t.fixLoads e.op).shift none).unretry with mid := none, pc := e.nextPc (.mwr f) } ∧
          (∀ q n, n < 4096 → c'.cell q n =
            if q = p ∧ (e.uval f.sb.toNat).toNat % 2 ^ 32 ≤ n ∧
              n - (e.uval f.sb.toNat).toNat % 2 ^ 32 ∈ e.t.list (e.t.actNH f.h)
            then mwrVal conv (c.cell p n) (e.src32 f.sa.toNat (n - (e.uval f.sb.toNat).toNat % 2 ^ 32)) else c.cell q n) ∧
          ∀ q b, q < 16 → b < 8 → (q = p ∧ hit b → tagAt c'.tagV q b = true ∧ tagAt c'.tagC q b = false) ∧
            (¬(q = p ∧ hit b) → tagAt c'.tagV q b = tagAt c.tagV q b ∧ tagAt c'.tagC q b = tagAt c.tagC q b))) ∧
    (s.ready (.mtag f) = some e →
      let mask := (e.uval f.sa.toNat).toNat % 2 ^ 32
      let tags := (e.uval f.sb.toNat).toNat % 2 ^ 32
      (e.t.act f.h = 0 → exec (.mtag f) s = .next (e.stepped (.mtag f) e.s e.t none)) ∧
      (e.t.act f.h ≠ 0 → 256 ≤ mask ∨ 4 ≤ tags → exec (.mtag f) s = .next (e.counted.takeTrap e.t (e.raise (.mtag f) .descInvalid))) ∧
      (e.t.act f.h ≠ 0 → mask < 256 → tags < 4 → ∀ p, e.b.phys f.d.toNat = p → p < 16 →
        (∀ b, b < 8 → mask.testBit b = true → c.bandTaken e.b.id f.d.toNat b = false) →
        ∃ c' t, after (.mtag f) c' t ∧ t = { ((e.t.fixLoads e.op).shift none).unretry with mid := none, pc := e.nextPc (.mtag f) } ∧
          ({ c' with tagV := 0, tagC := 0 } : CoreSt) = { c with tagV := 0, tagC := 0 } ∧
          ∀ q b, q < 16 → b < 8 →
            tagAt c'.tagV q b = (if q = p ∧ mask.testBit b = true then tags.testBit 0 else tagAt c.tagV q b) ∧
            tagAt c'.tagC q b = (if q = p ∧ mask.testBit b = true then tags.testBit 1 else tagAt c.tagC q b)))

/-- Progress of the engines. -/
def Obligations.EngineProgress : Prop :=
  ∀ (core op : Nat) (s : State) (o : EngOp) (e : Env), s.opEnv o = some e →
    let first (g : Engine) : Prop := (s.coreSt core).head g = some o
    let ended (s : State) (cursor total : Nat) : State :=
      if total ≤ cursor then s.retireOp e.t.core o else s.putOp e.t.core { o with cursor := cursor }
    let written (d : Int) (s1 : State) (bs : List Byte) (s2 : State) : Prop :=
      ({ e with s := s1 } : Env).deliverAt o d bs = (s2, .ok ())
    let copyAway : Bool :=
      e.awayAt o.sspace (o.b.toInt + (o.sstride * (o.cursor / o.rowLen) + o.cursor % o.rowLen : Nat)) ||
        e.destAway o (o.dstride * (o.cursor / o.rowLen) + o.cursor % o.rowLen : Nat)
    let indexAway : Bool := e.awayAt o.ispace (o.c.toInt + (4 * o.cursor : Nat))
    (∀ g, first g → o.id ≠ op → (g = .copy → exec (.copyPiece core op) s = .next s) ∧
      (g = .gather → exec (.gatherElement core op) s = .next s)) ∧
    (first .copy → o.id = op → copyAway = true → exec (.copyPiece core op) s = .next s) ∧
    (first .copy → o.id = op → copyAway = false →
      let row := o.cursor / o.rowLen
      let x := o.cursor % o.rowLen
      let d := o.dstride * row + x
      let n := Nat.min (o.rowLen - x)
        (128 - ((e.spanAt { space := o.dspace, seg := o.dseg, val := o.a, len := 0 } + d) % 128).toNat)
      ∀ s1 ts s2, e.place (e.opWho o) false o.sspace o.sseg o.b (o.sstride * row + x : Nat) n = (s1, .ok ts) →
        written d s1 (s1.engLoad ts) s2 →
        exec (.copyPiece core op) s = .next (ended s2 (o.cursor + n) (o.rowLen * o.rowCount))) ∧
    (first .copy → o.id = op → copyAway = false →
      let row := o.cursor / o.rowLen
      let x := o.cursor % o.rowLen
      let d := o.dstride * row + x
      let n := Nat.min (o.rowLen - x)
        (128 - ((e.spanAt { space := o.dspace, seg := o.dseg, val := o.a, len := 0 } + d) % 128).toNat)
      ∀ s1 y, e.place (e.opWho o) false o.sspace o.sseg o.b (o.sstride * row + x : Nat) n = (s1, .error y) →
        exec (.copyPiece core op) s = .next (if y.cause = .guestPageFault then s1.notify e.b.part .guestPageFault
          else s1.faultOp e.t.core o o.sseg o.sspace 4 y)) ∧
    (first .gather → o.id = op → indexAway = true → exec (.gatherElement core op) s = .next s) ∧
    (first .gather → o.id = op → indexAway = false →
      ∀ s1 ts s2 us s3, e.place (e.opWho o) false o.ispace o.iseg o.c (4 * o.cursor : Nat) 4 = (s1, .ok ts) →
        let k := leNat (s1.engLoad ts)
        let from_ := if o.kind = .gath then k else o.cursor
        let to_ := if o.kind = .gath then o.cursor else k
        let away : Bool := e.awayAt o.sspace (o.b.toInt + (o.esize * from_ : Nat)) || e.destAway o (o.esize * to_ : Nat)
        (away = true → exec (.gatherElement core op) s = .next s) ∧
        (away = false → ({ e with s := s1 } : Env).place (e.opWho o) false o.sspace o.sseg o.b (o.esize * from_ : Nat) o.esize = (s2, .ok us) →
        written (o.esize * to_ : Nat) s2 (s2.engLoad us) s3 →
        exec (.gatherElement core op) s = .next (ended s3 (o.cursor + 1) o.count))) ∧
    ((s.coreSt core).ops.find? (fun x => x.id == op && x.eng == .step) = some o →
      let o1 := (s.coreSt core).takeBands e.b o
      let s1 := s.putOp core o1
      let served := s.served core o = true ∧ mget 0 s.pkg.pause (core / 80) ≤ s.timeNs ∧
        e.stepAway o = false ∧ (s.coreSt core).aReady e.b o = true
      (¬(o1.untaken = [] ∧ served) → exec (.matrixStep core op) s = .next s1) ∧
      ∀ c, o1.untaken = [] → served → ({ e with s := s1 } : Env).step o1 = .ok c →
        let s2 := (s1.putCore core c).count e.b.ctx 5 1
        let o2 := { o1 with cursor := o.cursor + 1 }
        exec (.matrixStep core op) s =
          .next (if o.steps ≤ o.cursor + 1 then s2.finishOp core e.b o2 else s2.putOp core o2)) ∧
    ((s.coreSt core).ops.find? (fun x => x.id == op && x.eng == .move) = some o → o.kind = .mzero →
      (s.served core o = true → (s.coreSt core).canTake e.b o o.cursor = true → ∃ c,
        exec (.moveBandPass core op) s = .next (({ e with s := e.s.putCore e.t.core c } : Env).bandDone o o.cursor) ∧
        (∀ n, n < 512 → c.cell (e.b.phys o.tile) (512 * o.cursor + n) = 0) ∧
        ∀ n, (n < 4096 * e.b.phys o.tile + 512 * o.cursor ∨ 4096 * e.b.phys o.tile + 512 * (o.cursor + 1) ≤ n) →
          mget 0 c.cells n = mget 0 (e.s.coreSt e.t.core).cells n) ∧
      ((s.coreSt core).canTake e.b o o.cursor = false → exec (.moveBandPass core op) s = .next s)) ∧
    ((s.coreSt core).ops.find? (fun x => x.id == op && x.eng == .move) = some o → s.served core o = true →
      (s.coreSt core).canTake e.b o o.cursor = true →
      (e.passAway o o.cursor = true → exec (.moveBandPass core op) s = .next s) ∧
      (o.kind = .mldt → e.passAway o o.cursor = false → ∀ s1 rows,
        e.loadRows o ((List.range 8).map (8 * o.cursor + ·)) = (s1, rows, none) →
        let c1 := (s1.coreSt e.t.core).putRows (e.b.phys o.tile) (8 * o.cursor) rows
        exec (.moveBandPass core op) s = .next (({ e with s := s1.putCore e.t.core c1 } : Env).bandDone o o.cursor)) ∧
      (o.kind = .mdrain → e.passAway o o.cursor = false →
        let o1 := e.capture o o.cursor
        let ws := e.drainWrites o1 o.cursor
        ∀ s1, e.firstFault o1 ws = none → e.writeRows o1 ws = (s1, none) →
        exec (.moveBandPass core op) s = .next (({ e with s := s1 } : Env).bandDone o1 o.cursor)))

/-! ### Spawning, records and the system instructions -/

/-- SPAWN, SPAWND and NODEQ. -/
def Obligations.SpawnEnqueuesRecords : Prop :=
  ∀ (f : FV) (s : State) (e : Env),
    let ls := e.t.list (e.t.actNH f.h)
    let x := e.uval f.sa.toNat
    let framed (s0 : State) (t0 : Team) (fr : Nat) : Prop :=
      (e.t.frame = some fr ∧ s0 = e.s ∧ t0 = e.t) ∨
      (e.t.frame = none ∧ t0 = { e.t with frame := some fr } ∧ ∃ s1, e.s.takeFrame e.owner (e.b.seg 13) e.b.node = (s1, some fr) ∧
        s0 = s1.putField e.owner (fr + 0x18) 8 (recField e.runNow))
    let parked (e : Env) : Out :=
      let s1 := match e.t.frame with | some fr => e.s.frameFlags e.owner fr 2 | none => e.s
      .next (({ e with s := s1 } : Env).counted.putTeam { e.t.fixLoads e.op with status := .spawn [], stall := 9, latches := [], region := none })
    let filled (n n' : Node) (link : DWord) (cs : List Client) : Prop :=
      n' = { n with queue := n'.queue, count := n.count + ls.length } ∧
      ∃ new, n'.queue = n.queue ++ new ∧ new.length = ls.length ∧ ∀ k, k < ls.length → ∃ q, new[k]? = some q ∧
        q.seq = n.count + k ∧ q.link = link ∧ q.pctx = e.b.ctx ∧ q.block = none ∧ q.taken = false ∧ q.clients = cs ∧
        ∀ j, j < 16 → fieldOf q.bytes (4 * j) 4 = (e.t.getV (f.sb.toNat + j) (ls.getD k 0)).toNat
    (∀ i : Instr, i = .spawn f ∨ i = .spawnd f → s.ready i = some e →
      (e.t.actNH f.h = 0 → exec i s = .next (e.stepped i e.s e.t none)) ∧
      (e.t.actNH f.h ≠ 0 → e.nodeNamed x = none → exec i s = .next (e.counted.takeTrap e.t (e.raise i .nodeUnknown)))) ∧
    (s.ready (.spawnd f) = some e → e.t.actNH f.h ≠ 0 → ∀ n m, e.nodeNamed x = some n →
      ({ e with s := e.source e.s } : Env).nodeNamed x = some m →
      (ls.length ≤ m.free → ∃ m' : Node, filled m m' 0 [] ∧
        exec (.spawnd f) s = .next (e.stepped (.spawnd f) (((e.source e.s).putNode m').updateHeld m.part) e.t none)) ∧
      (m.free < ls.length → exec (.spawnd f) s = parked { e with s := e.source e.s })) ∧
    (s.ready (.spawn f) = some e → e.t.actNH f.h ≠ 0 → ∀ n, e.nodeNamed x = some n →
      (∀ s0, e.t.frame = none → e.s.takeFrame e.owner (e.b.seg 13) e.b.node = (s0, none) →
        exec (.spawn f) s = .next (({ e with s := s0 } : Env).counted.takeTrap e.t (e.raise (.spawn f) .frameExhausted))) ∧
      ∀ s0 t0 fr, framed s0 t0 fr →
        let e1 : Env := { e with s := ({ e with s := s0, t := t0 } : Env).source s0, t := t0 }
        ∀ m, e1.nodeNamed x = some m →
        (ls.length ≤ m.free → ∃ (m' : Node) (s2 : State), filled m m' (BitVec.ofNat 64 (2 ^ 63 + fr)) (e1.s.clientsOf t0) ∧
          ({ s2 with pkg := e1.s.pkg } : State) = e1.s ∧
          exec (.spawn f) s = .next (e1.stepped (.spawn f) (((s2.putNode m').updateHeld m.part).addJoin e.owner fr ls.length) t0 none)) ∧
        (m.free < ls.length → exec (.spawn f) s = parked e1)) ∧
    (s.ready (.nodeq f) = some e →
      (e.t.act f.h = 0 → exec (.nodeq f) s = .next (e.stepped (.nodeq f) e.s e.t none)) ∧
      (e.t.act f.h ≠ 0 → e.nodeNamed x = none → exec (.nodeq f) s = .next (e.counted.takeTrap e.t (e.raise (.nodeq f) .nodeUnknown))) ∧
      (e.t.act f.h ≠ 0 → ∀ n, e.nodeNamed x = some n → ∃ t, exec (.nodeq f) s = .next (e.stepped (.nodeq f) e.s t none) ∧
        ∀ l ∈ e.t.list (e.t.act f.h), t.getV f.d.toNat l = BitVec.ofNat 32 (n.qcap - n.queue.length)))

/-- RECG, DONE, AWAIT and AWAIT.steal. FRAME_EXHAUSTED, NODE and PARKED of AWAIT.steal (log 70), DONE acting whatever its guard
(log 71) and the longest run of adjacent records (log 73) are the model's reading. -/
def Obligations.RecordsReceivedAndAwaited : Prop :=
  (∀ (n : Node) (blk max : Nat),
    let own := n.queue.filter fun (q : QEntry) => q.block == some blk && !q.taken
    let src := if own = [] then n.queue.filter fun (q : QEntry) => q.block.isNone else own
    let run := n.recgRun blk max
    run <+: src ∧ run.length ≤ max ∧ (src ≠ [] → max ≠ 0 → run ≠ []) ∧
    ∀ (i : Nat) (q r : QEntry), run[i]? = some q → run[i + 1]? = some r → r.seq = q.seq + 1) ∧
  ∀ (f : FV) (s : State) (e : Env),
    let ls := e.t.list (e.t.act f.h)
    let holds (t : Team) (l : Nat) (bs : List Byte) : Prop :=
      ∀ k, k < 16 → t.getV (f.d.toNat + k) l = BitVec.ofNat 32 (fieldOf bs (4 * k) 4)
    let awaited (i : Instr) (e : Env) : Out :=
      .next (e.stepped i ((e.target e.s).takeRays e.t).1 ((e.target e.s).takeRays e.t).2 none)
    let parked (e : Env) (fr : Nat) : Out := .next (({ e with s := e.s.frameFlags e.owner fr 2 } : Env).counted.putTeam
      { e.t.fixLoads e.op with status := .await, stall := 9, latches := [], region := none })
    let ready (e1 : Env) : Prop := (e.t.run = none ∧ e1 = e) ∨ (e.t.run ≠ none ∧ e.doneNow = some e1)
    (s.ready (.recg f) = some e →
      (ls = [] → e.b.shared.isSome = true → exec (.recg f) s = .next (e.stepped (.recg f) e.s e.t none)) ∧
      (ls = [] → e.b.shared = none → ∀ e1, ready e1 → exec (.recg f) s = .next (e1.stepped (.recg f) e1.s e1.t none)) ∧
      (ls ≠ [] → e.b.shared.isSome = true →
        ∃ t, exec (.recg f) s = .next (e.stepped (.recg f) (e.target (e.noteRun e.runNow)) t none) ∧
          t.mask = e.t.mask ∧ ∀ l ∈ ls, holds t l e.b.record) ∧
      (e.b.shared = none → e.t.run ≠ none → e.doneNow = none → exec (.recg f) s = .next (e.waiting 9)) ∧
      (ls ≠ [] → e.b.shared = none → ∀ e1, ready e1 → ∀ n, e1.s.node? e.b.node = some n →
        let run := n.recgRun e.b.id ls.length
        let fed (l : Nat) : Prop := ∃ k, k < run.length ∧ ls[k]? = some l
        (∀ q : QEntry, run.head? = some q → ∃ (t : Team) (m : List QEntry), exec (.recg f) s =
            .next (e1.stepped (.recg f) (({ e1 with s := e1.target (e1.s.putNode { n with queue := m }) } : Env).noteRun t.run) t none) ∧
          m = n.queue.map (fun (q : QEntry) => if q.seq ∈ run.map QEntry.seq then { q with block := some e.b.id, taken := true } else q) ∧
          t.run = some { first := q.seq, len := run.length, shared := false } ∧
          (∀ (k : Nat) (q : QEntry), run[k]? = some q → ∀ l, ls[k]? = some l →
            holds t l q.bytes ∧ t.mask.getLsbD l = true ∧ t.helper.getLsbD l = false) ∧
          (∀ l ∈ ls, ¬fed l → (∃ l', fed l' ∧ l' / 4 = l / 4) →
            holds t l [] ∧ t.mask.getLsbD l = true ∧ t.helper.getLsbD l = true) ∧
          (∀ l ∈ ls, ¬fed l → (¬∃ l', fed l' ∧ l' / 4 = l / 4) → t.mask.getLsbD l = false) ∧
          ∀ l, l ∉ ls → t.mask.getLsbD l = e1.t.mask.getLsbD l ∧ t.helper.getLsbD l = e1.t.helper.getLsbD l) ∧
        (run = [] → (∃ l, e1.t.mask.getLsbD l = true ∧ l ∉ ls) → ∃ t,
          exec (.recg f) s = .next (e1.stepped (.recg f) (e1.noteRun none) t none) ∧ t.run = none ∧
          ∀ l, t.mask.getLsbD l = (e1.t.mask.getLsbD l && decide (l ∉ ls))))) ∧
    (s.ready (.done f) = some e →
      (e.t.mask &&& ~~~e.t.helper = 0 → exec (.done f) s = .next (e.stepped (.done f) e.s e.t none)) ∧
      (e.t.mask &&& ~~~e.t.helper ≠ 0 →
        (∀ fr, e.t.frame = some fr → e.s.join e.owner fr ≠ 0 →
          exec (.done f) s = .next (e.waiting 9)) ∧
        ((∀ fr, e.t.frame = some fr → e.s.join e.owner fr = 0) →
          let r := (e.source e.s).doneRun e.owner e.t false
          let s1 := match e.t.frame with
            | some fr => r.1.giveFrame e.owner (e.b.seg 13) fr
            | none => r.1
          ∃ t, exec (.done f) s = .next (e.stepped (.done f) (e.target s1) t none) ∧ t.run = none ∧ t.frame = none ∧
            (∀ n l, t.getV n l = e.t.getV n l) ∧ t.sregs = e.t.sregs ∧ t.preds = e.t.preds ∧ t.mask = e.t.mask))) ∧
    (s.ready (.await f) = some e →
      (e.t.act f.h = 0 ∨ e.t.frame = none → exec (.await f) s = .next (e.stepped (.await f) e.s e.t none)) ∧
      ∀ fr, e.t.act f.h ≠ 0 → e.t.frame = some fr → exec (.await f) s =
        if e.s.join e.owner fr = 0 then awaited (.await f) e else parked e fr) ∧
    (s.ready (.awaitSteal f) = some e →
      (e.t.act f.h = 0 → exec (.awaitSteal f) s = .next (e.stepped (.awaitSteal f) e.s e.t none)) ∧
      let plain := e.b.ratep = true ∨ e.b.gangN ≠ 0 ∨ e.b.roles = true ∨ (e.t.stack ≠ [] ∧ e.b.live = 0)
      (e.t.act f.h ≠ 0 → plain → e.t.frame = none → exec (.awaitSteal f) s = .next (e.stepped (.awaitSteal f) e.s e.t none)) ∧
      (e.t.act f.h ≠ 0 → plain → ∀ fr, e.t.frame = some fr → exec (.awaitSteal f) s =
        if e.s.join e.owner fr = 0 then awaited (.awaitSteal f) e else parked e fr) ∧
      (e.t.act f.h ≠ 0 → ¬plain → ∀ s0, e.t.frame = none → e.s.takeFrame e.owner (e.b.seg 13) e.b.node = (s0, none) →
        exec (.awaitSteal f) s = .next (({ e with s := s0 } : Env).counted.takeTrap e.t (e.raise (.awaitSteal f) .frameExhausted))) ∧
      (e.t.act f.h ≠ 0 → ¬plain → ∀ s0 t0 fr, (e.t.frame = some fr ∧ s0 = e.s ∧ t0 = e.t) ∨
          (e.t.frame = none ∧ t0 = { e.t with frame := some fr } ∧ ∃ s1, e.s.takeFrame e.owner (e.b.seg 13) e.b.node = (s1, some fr) ∧
            s0 = s1.putField e.owner (fr + 0x18) 8 (recField e.runNow)) →
        let e0 : Env := { e with s := s0, t := t0 }
        exec (.awaitSteal f) s =
          if s0.join e.owner fr = 0 then awaited (.awaitSteal f) e0
          else if e0.engBusy = true then .next (e0.waiting 8)
          else .next (({ e0 with s := e0.counted } : Env).saveCont fr (e0.nextPc (.awaitSteal f)) none)))

/-- The system instructions other than the traps and RTT. -/
def Obligations.SystemInstructionsComplete : Prop :=
  ∀ (f : FV) (w2 : BitVec 64) (s : State) (e : Env),
    let c := e.s.ctx e.b.ctx
    let n := (e.uval f.sa.toNat).toNat
    let handler := e.t.trap.isSome
    let acts : Prop := e.t.mask &&& ~~~e.t.helper ≠ 0
    let pair (i : Instr) (s' : State) (x : Nat → DWord) : Prop := ∃ t, exec i s = .next (e.stepped i s' t none) ∧
      ∀ l, l < 1024 → l < e.t.lanes → e.t.mask.getLsbD l = true → t.getV (f.d.toNat + 1) l ++ t.getV f.d.toNat l = x l
    (∀ i ∈ [Instr.csrr f, .csrw f, .clock f, .frec f, .pmark f, .tlbi f, .coll f w2], s.ready i = some e → ¬acts →
      exec i s = .next (e.stepped i e.s e.t none)) ∧
    (s.ready (.csrr f) = some e → acts →
      pair (.csrr f) (if handler = true ∧ n = 0x14 then e.s.putCtx { c with smpDropped := 0 } else e.s) fun _ => e.s.csr c n) ∧
    (∀ k, k < 8 → e.s.csr c k = mget 0 c.pmc k ∧ e.s.csr c (8 + k) = mget 0 c.pmcsel k) ∧
    e.s.csr c 0x11 = c.smpBase ∧ e.s.csr c 0x12 = c.smpRd ∧ e.s.csr c 0x13 = c.smpWr ∧
    e.s.csr c 0x14 = c.smpDropped.zeroExtend 64 ∧ e.s.csr c 0x18 = BitVec.ofNat 64 c.id ∧
    e.s.csr c 0x19 = BitVec.ofNat 64 c.part ∧ e.s.csr c 0x1A = BitVec.ofNat 64 e.s.timeNs ∧
    e.s.csr c 0x1B = partId.zeroExtend 64 ∧
    (s.ready (.csrw f) = some e → acts →
      let x := e.uval f.sb.toNat
      let to_ (s' : State) : Prop := exec (.csrw f) s = .next (e.stepped (.csrw f) s' e.t none)
      (handler = false → to_ e.s) ∧
      (handler = true →
        (n < 8 → to_ (e.s.putCtx { c with pmc := mset 0 c.pmc n x })) ∧
        (8 ≤ n → n < 0x10 → to_ (e.s.putCtx { c with pmcsel := mset 0 c.pmcsel (n - 8) (x &&& 0xFF) })) ∧
        (n = 0x10 → to_ (e.s.writeSmpCtl c x.toNat)) ∧
        (n = 0x11 → to_ (if c.smpEn then e.s else e.s.putCtx { c with smpBase := x &&& ~~~0x1F })) ∧
        (n = 0x12 → to_ (e.s.putCtx { c with smpRd := BitVec.ofNat 64 (x.toNat % 2 ^ c.ringLog) })) ∧
        (0x13 ≤ n → to_ e.s))) ∧
    (s.ready (.clock f) = some e → acts → pair (.clock f) e.s fun _ => BitVec.ofNat 64 (e.s.clk - e.b.launch)) ∧
    (s.ready (.frec f) = some e → acts →
      pair (.frec f) e.s fun l =>
        if n = 0 then e.t.fault.cause else if n = 1 then e.t.fault.pc else if n = 2 then e.t.fault.insn
        else if n = 3 then e.t.fault.info else if n = 4 then e.t.fault.eaddr
        else if n = 8 then mget 0 e.t.fault.va l &&& 0xFFFF_FFFF else if n = 9 then (mget 0 e.t.fault.va l >>> 32) &&& 0xFFFF
        else if n = 10 then mget 0 e.t.fault.gpa l &&& 0xFFFF_FFFF
        else if n = 11 then (mget 0 e.t.fault.gpa l >>> 32) &&& 0x3FFFF else 0) ∧
    (s.ready (.pmark f) = some e → acts → exec (.pmark f) s =
      .next (e.stepped (.pmark f) (if c.smpEn then e.s.sample e.b e.t e.t.pc 0 else e.s) e.t none)) ∧
    (s.ready (.tlbi f) = some e → acts → ∃ st, exec (.tlbi f) s = .next (e.counted.putTeam
        { e.t.fixLoads e.op with status := .tlbi st, stall := 0x0E, latches := [], region := none }) ∧
      st = if f.fn.getLsbD 0 then some (n % 2 ^ 48) else none) ∧
    (s.ready (.coll f w2) = some e → acts →
      let inst := e.collInst f w2
      (e.collGroup f inst = none → exec (.coll f w2) s = .next (e.counted.takeTrap e.t (e.raise (.coll f w2) .descInvalid))) ∧
      ∀ g, e.collGroup f inst = some g →
        let s1 := e.target (e.source e.s)
        let k := e.t.counters.getD inst.k {}
        let n := mget 0 g.issued inst.rank
        let join (x : Group) : Group := if x.handle = g.handle then
            { x with insts := x.insts ++ [{ inst with n := n }], issued := mset 0 x.issued inst.rank (n + 1), since := if x.insts = [] ∧ x.complete = false then s1.timeNs else x.since }
          else x
        let done := e.stepped (.coll f w2) { s1 with groups := s1.groups.map join, nextId := s1.nextId + 1 }
          { e.t with counters := e.t.counters.set inst.k { k with opened := k.opened ++ [inst.op] } } none
        (s1.cutOff g = false → g.lostTo ≤ n → exec (.coll f w2) s = .next done) ∧
        (s1.cutOff g = false → n < g.lostTo → exec (.coll f w2) s =
          .next ((done.collEnd { inst with n := n } (some unstatedFault)).collDrop g.handle [inst.op])) ∧
        ∀ x, s1.cutOff g = true → done.groups.find? (fun y => y.handle == g.handle) = some x →
          exec (.coll f w2) s = .next (done.collFail x))

/-! ### Textures, render targets and rays -/

/-- Texture and render-target instructions where no lane meets a cause. -/
def Obligations.TextureAndTargetAccesses : Prop :=
  (∀ a b : Fl, zTest 0 a b = false ∧ zTest 6 a b = true ∧ (a ≠ .nan → b ≠ .nan →
    zTest 1 a b = decide (a.cmp b < 0) ∧ zTest 2 a b = decide (a.cmp b ≤ 0) ∧ zTest 3 a b = decide (0 < a.cmp b) ∧
    zTest 4 a b = decide (0 ≤ a.cmp b) ∧ zTest 5 a b = decide (a.cmp b = 0))) ∧
  ∀ (f : FV) (s : State) (e : Env),
    let act := e.t.act f.h
    let put (n : Nat) (vs : List (Nat × List Nat)) : Team := e.t.putRun f.d.toNat act
      ((List.range n).map fun k l => BitVec.ofNat 32 ((alookup [] vs l).getD k 0))
    let texture (i : Instr) (plan : Env → List Byte → Nat → TexPlan) : Prop := s.ready i = some e →
      (act = 0 → exec i s = .next (e.stepped i e.s (put 4 []) none)) ∧
      ∀ s1 d, act ≠ 0 → e.readOnce e.s (e.uval f.sb.toNat).toNat 32 = (s1, .ok d) →
        (texOk d = false → act &&& ~~~e.t.helper ≠ 0 → exec i s = .next (({ e with s := s1 } : Env).counted.takeTrap e.t (e.raise i .descInvalid))) ∧
        (texOk d = true → ∀ s2 vs,
          ({ e with s := s1 } : Env).sampleLanes (fieldOf d 0x10 1) (plan { e with s := s1 } d) s1 (e.t.list act) = (s2, vs, []) →
          exec i s = .next (e.stepped i s2 (put 4 vs) none))
    texture (.tex f) (fun e d l => e.texPlan f d l) ∧ texture (.texg f) (fun e d l => e.texgPlan f d l) ∧
    (e.b.draw = none →
      (s.ready (.rtw f) = some e → exec (.rtw f) s = .next (e.stepped (.rtw f) e.s e.t none)) ∧
      (s.ready (.rtz f) = some e → e.gives32 (.rtz f) f.d.toNat (fun _ => 0) (exec (.rtz f) s)) ∧
      (s.ready (.rtr f) = some e → exec (.rtr f) s = .next (e.stepped (.rtr f) e.s (put e.b.rtRun []) none))) ∧
    ∀ d, e.b.draw = some d →
      let w := e.t.actNH f.h
      let lanes := e.t.list w
      let spots (l : Nat) : List Spot := (mget {} e.t.elems l).spots e.t.tier
      let fmt := fieldOf d.target 0x1C 1
      let n := fmtBytes fmt
      let colour := spotAddr (fieldOf d.target 0 8) (fieldOf d.target 0x10 4) n
      let depth := spotAddr (fieldOf d.target 8 8) (fieldOf d.target 0x14 4) 4
      let bit (p : Spot) : Nat := 2 ^ (if e.t.tier = 5 then 4 * p.2.2 + 2 * (p.2.1 % 2) + p.1 % 2 else 0)
      (e.targetWait d w = true → ∀ i ∈ [Instr.rtw f, .rtz f, .rtr f], s.ready i = some e →
        exec i s = .next (e.waiting 5)) ∧
      (e.targetWait d w = false →
        (s.ready (.rtw f) = some e →
          (fieldOf d.target 0 8 = 0 → exec (.rtw f) s = .next (e.stepped (.rtw f) e.s e.t none)) ∧
          ∀ s1 ls, fieldOf d.target 0 8 ≠ 0 → e.spotLanes .write colour n id e.s lanes = (s1, ls, []) →
            let bytes (l : Nat) : List Byte := (List.range (fmtChannels fmt)).flatMap fun k =>
              leBytes (fmtChanBytes fmt) (chanEnc fmt (e.t.getV (f.sa.toNat + k) l).toNat)
            exec (.rtw f) s = .next (e.stepped (.rtw f) (ls.foldl (fun (s : State) (x : Nat × List (Spot × Target)) =>
              x.2.foldl (fun (s : State) (p : Spot × Target) => e.putSpot s p.2 (bytes x.1)) s) s1) e.t none)) ∧
        (s.ready (.rtz f) = some e → fieldOf d.target 8 8 = 0 →
          e.gives32 (.rtz f) f.d.toNat (fun l => BitVec.ofNat 32 (if l ∈ lanes then ((spots l).map bit).sum else 0))
            (exec (.rtz f) s)) ∧
        (s.ready (.rtz f) = some e → fieldOf d.target 8 8 ≠ 0 → ∀ s1 ls, e.spotLanes .write depth 4 id e.s lanes = (s1, ls, []) →
          ∃ s2 r, (s2, r) = ls.foldl (fun (a : State × List (Nat × List Spot)) (x : Nat × List (Spot × Target)) =>
              ((e.zSpots (fieldOf d.target 0x1E 1) (e.t.getV f.sa.toNat x.1) a.1 x.2).1,
               a.2 ++ [(x.1, (e.zSpots (fieldOf d.target 0x1E 1) (e.t.getV f.sa.toNat x.1) a.1 x.2).2)])) (s1, []) ∧
            ({ e with s := s2 } : Env).gives32 (.rtz f) f.d.toNat
              (fun l => BitVec.ofNat 32 (((alookup [] r l).map bit).sum)) (exec (.rtz f) s)) ∧
        (s.ready (.rtr f) = some e →
          (fieldOf d.target 0 8 = 0 → exec (.rtr f) s = .next (e.stepped (.rtr f) e.s (put e.b.rtRun []) none)) ∧
          ∀ s1 ls, fieldOf d.target 0 8 ≠ 0 → e.spotLanes .read colour n (List.take 1) e.s lanes = (s1, ls, []) →
            let read (a : State × List (Nat × List Nat)) (x : Nat × List (Spot × Target)) : State × List (Nat × List Nat) :=
              match x.2 with
              | [] => a
              | p :: _ => ((e.getSpot a.1 p.2 n).1, a.2 ++ [(x.1, texelChans fmt (e.getSpot a.1 p.2 n).2)])
            let vs := (ls.foldl read (s1, [])).2
            let reads : Lanes := (vs.map Prod.fst).foldl (fun m l => m ||| (1#1024 <<< l)) 0
            let rest : Team := e.t.putRun f.d.toNat (act &&& ~~~reads) ((List.range e.b.rtRun).map fun _ _ => 0)
            ∃ fl : List Flight, exec (.rtr f) s = .next (e.stepped (.rtr f) (ls.foldl read (s1, [])).1
                { rest with flights := rest.flights ++ fl } none) ∧
              (∀ x ∈ fl, ∀ l, x.lanes.getLsbD l = true → l ∈ vs.map Prod.fst) ∧
              ∀ v ∈ vs, ∃ x ∈ fl, x.gen = e.t.gen ∧ x.seq = e.t.issued ∧ x.dst = f.d.toNat ∧ x.fmt = fmt ∧
                x.latchOnly = false ∧ x.lanes.getLsbD v.1 = true ∧
                ∀ k, k < v.2.length → alookup 0 x.vals (1024 * (f.d.toNat + k) + v.1) = BitVec.ofNat 32 (v.2.getD k 0)))

/-- RKILL, TRACE and RRET, and the tier reads. That a quad without a live element leaves the mask with the helpers already in it, and
that a lane which has finished by EXIT still counts, are the model's reading (log 72). -/
def Obligations.RayAndKillInstructions : Prop :=
  ∀ (f : FV) (s : State) (e : Env),
    let w := e.t.actNH f.h
    let ls := e.t.list w
    (∀ i ∈ [Instr.rkill f, .trace f, .rret f], s.ready i = some e → w = 0 → exec i s = .next (e.stepped i e.s e.t none)) ∧
    (s.ready (.rkill f) = some e → w ≠ 0 → (e.t.kill w).unretry.mask ≠ 0 →
      exec (.rkill f) s = .next (e.stepped (.rkill f) e.s (e.t.kill w) none)) ∧
    (∀ l, l < 1024 → l < e.t.lanes →
      (w.getLsbD l = true → mget {} (e.t.kill w).elems l = { mget {} e.t.elems l with live := false }) ∧
      (w.getLsbD l = false → mget {} (e.t.kill w).elems l = mget {} e.t.elems l) ∧
      let dead := (∃ k ∈ ls, k / 4 = l / 4) ∧ ∀ q, q < 4 → (mget {} (e.t.kill w).elems (l / 4 * 4 + q)).live = false
      (dead → (e.t.kill w).mask.getLsbD l = false) ∧
      (¬dead → (e.t.kill w).mask.getLsbD l = e.t.mask.getLsbD l ∧
        (e.t.mask.getLsbD l = true → (e.t.kill w).helper.getLsbD l = (e.t.helper.getLsbD l || w.getLsbD l)))) ∧
    (s.ready (.trace f) = some e → w ≠ 0 → (e.uval f.sa.toNat).toNat % 32 ≠ 0 →
      exec (.trace f) s = .next (e.counted.takeTrap e.t (e.raise (.trace f) .descInvalid))) ∧
    (s.ready (.trace f) = some e → w ≠ 0 → ∀ s1 bs, (e.uval f.sa.toNat).toNat % 32 = 0 →
      e.readOnce e.s (e.uval f.sa.toNat).toNat 32 = (s1, .ok bs) →
      (fieldOf bs 0x14 12 ≠ 0 → exec (.trace f) s = .next (({ e with s := s1 } : Env).counted.takeTrap e.t (e.raise (.trace f) .descInvalid))) ∧
      ∀ s0, fieldOf bs 0x14 12 = 0 → e.t.frame = none → s1.takeFrame e.owner (e.b.seg 13) e.b.node = (s0, none) →
        exec (.trace f) s = .next (({ e with s := s0 } : Env).counted.takeTrap e.t (e.raise (.trace f) .frameExhausted))) ∧
    (s.ready (.trace f) = some e → w ≠ 0 → ∀ s1 bs s0 t0 fr, (e.uval f.sa.toNat).toNat % 32 = 0 →
      e.readOnce e.s (e.uval f.sa.toNat).toNat 32 = (s1, .ok bs) →
      (e.t.frame = some fr ∧ s0 = s1 ∧ t0 = e.t) ∨
        (e.t.frame = none ∧ t0 = { e.t with frame := some fr } ∧ ∃ s2, s1.takeFrame e.owner (e.b.seg 13) e.b.node = (s2, some fr) ∧
          s0 = s2.putField e.owner (fr + 0x18) 8 (recField e.runNow)) →
      let e1 : Env := { e with s := ({ e with s := s0, t := t0 } : Env).source s0, t := t0 }
      let d := e.drawOf
      let waiting := (d.rays.filter fun (r : Ray) => r.ret.isNone).length
      (fieldOf bs 0x14 12 = 0 → 1024 < waiting + ls.length → exec (.trace f) s =
        .next (({ e1 with s := e1.s.frameFlags e.owner fr 2 } : Env).counted.putTeam
          { t0.fixLoads e.op with status := .spawn bs, stall := 9, latches := [], region := none })) ∧
      (fieldOf bs 0x14 12 = 0 → waiting + ls.length ≤ 1024 → ∃ rays : List Ray, rays.length = ls.length ∧
        (∀ (k : Nat) (r : Ray), rays[k]? = some r → r.id = d.next + k ∧ r.team = e.t.tid ∧ r.lane = ls.getD k 0 ∧ r.frame = fr ∧
          r.desc = bs ∧ r.hit = none ∧ r.ret = none ∧
          r.vals = (List.range 8).map fun j => e.t.getV (f.sb.toNat + j) (ls.getD k 0)) ∧
        exec (.trace f) s = .next (e1.stepped (.trace f)
          ((e1.s.putBlock { e.b with draw := some { d with rays := d.rays ++ rays, next := d.next + ls.length } }).addJoin
            e.owner fr ls.length)
          { t0 with rays := t0.rays ++ rays.map fun r => (r.id, f.d.toNat) } none))) ∧
    (s.ready (.rret f) = some e → w ≠ 0 → (e.t.finish w).unretry.mask ≠ 0 → e.b.draw = none →
      exec (.rret f) s = .next (e.stepped (.rret f) (e.source e.s) (e.t.finish w) none)) ∧
    (s.ready (.rret f) = some e → w ≠ 0 → (e.t.finish w).unretry.mask ≠ 0 → ∀ d, e.b.draw = some d →
      let held (l : Nat) : Option Ray := (e.elemOf l).tri.bind fun i => d.rays.find? fun (r : Ray) => r.id == i && r.ret.isNone
      let rays := ls.filterMap held
      ∃ rs : List Ray, rs.length = d.rays.length ∧
        (∀ (k : Nat) (r : Ray), d.rays[k]? = some r →
          (∀ l ∈ ls, (∃ q : Ray, held l = some q ∧ q.id = r.id) → (∀ l' ∈ ls, (∃ q : Ray, held l' = some q ∧ q.id = r.id) → l ≤ l') →
            rs[k]? = some { r with ret := some ((List.range 4).map fun j => e.t.getV (f.sa.toNat + j) l) }) ∧
          ((∀ l ∈ ls, ∀ q : Ray, held l = some q → q.id ≠ r.id) → rs[k]? = some r)) ∧
        exec (.rret f) s = .next (e.stepped (.rret f)
          (((e.source e.s).putBlock { e.b with draw := some { d with rays := rs } }).endRays e.b rays)
          (e.t.finish w) none)) ∧
    ∀ x : Nat → Word,
      let slot := f.fn.toNat / 8 % 32
      let all (y : Nat → Option Word) : Prop := ∀ l, l < e.t.lanes → (e.t.act f.h).getLsbD l = true → y l = some (x l)
      let tri (l : Nat) : Option Tri := (e.elemOf l).tri.bind e.drawOf.tri?
      (s.ready (.rget f) = some e →
        all (fun l => (e.drawOf.ancestor (f.fn.toNat % 8) 8 (e.elemOf l).up).map fun r => r.vals.getD slot 0) →
        (e.rateRead (.rget f)).gives32 (.rget f) f.d.toNat x (exec (.rget f) s)) ∧
      (s.ready (.rflat f) = some e → all (fun l => (tri l).map fun t => (e.drawOf.vertVals t slot).getD 0 0) →
        (e.rateRead (.rflat f)).gives32 (.rflat f) f.d.toNat x (exec (.rflat f) s)) ∧
      (s.ready (.rbary f) = some e → all (fun l => (tri l).map fun t =>
          interp t.x t.y t.w (e.drawOf.vertVals t slot) (evalPoint e.t.tier (e.elemOf l).elem).1
            (evalPoint e.t.tier (e.elemOf l).elem).2) →
        (e.rateRead (.rbary f)).gives32 (.rbary f) f.d.toNat x (exec (.rbary f) s)) ∧
      (s.ready (.rcov f) = some e → all (fun l => some (if e.t.helper.getLsbD l = true ∨ (e.elemOf l).live = false then 0
          else (e.elemOf l).cov.zeroExtend 32)) →
        e.gives32 (.rcov f) f.d.toNat x (exec (.rcov f) s)) ∧
      (s.ready (.rhit f) = some e → all (fun l => ((e.rayOf l).bind Ray.hit).map fun h => h.field (f.fn.toNat % 8)) →
        e.gives32 (.rhit f) f.d.toNat x (exec (.rhit f) s))

/-! ### Events of the package -/

/-- Power-on, register writes, power, throttle and ageing, on the package that stands. The state after JUNCTION_BELOW_95C and the
count of waiting moves (log 24), what a power-on keeps and where an aged die starts (log 35), and the dies of VDD_AON (log 114) are
the model's choices. -/
def Obligations.PowerAndRegisterEvents : Prop :=
  ∀ s : State,
    let p := s.pkg
    (∀ b x, bootFrom b = some x → ∃ t, exec (.packagePowerOn b) s = .next t ∧ t.pkg.booted = true ∧ t.pkg.powered = true ∧
      t.teams = [] ∧ t.blocks = [] ∧ (b.guests = [] → t.mem = []) ∧ t.pkg.nonceCtr = p.nonceCtr ∧
      t.pkg.agedCap = p.agedCap ∧ (∀ d ∈ p.agedCap, mget 0 t.pkg.th d = 1) ∧
      (∀ q ∈ t.parts, q.live = true ∧ q.id < 16 ∧ q.id ∈ b.guests.map Prod.fst ∧ q.tree =
        [{ node := "/uzonus,sorrel", prop := "version", value := Config.sorrelVersion.zeroExtend 32 },
         { node := "/uzonus,sorrel", prop := "call-extension", value := 0x09555A01 }]) ∧
      [0, 1, 2, 3].map (mget measZero t.pkg.meas) =
        [x.island, x.sched, x.leaf, x.sorrel].map fun i => sha512 (measZero ++ sha512 i.bytes)) ∧
    (∀ b, bootFrom b = none → ∃ t, exec (.packagePowerOn b) s = .next t ∧ t.pkg.recovery = true ∧ t.pkg.booted = false ∧
      t.parts = []) ∧
    (∀ w temp, p.controls = true → p.capWait ≤ s.timeNs → p.capW.toNat < Nat.min w 0xFFFF →
      ∃ t, exec (.powerSample w temp) s = .next t ∧ t.pkg.capWait = s.timeNs + 1000000 ∧
        ∀ d, d < 2 → t.pkg.target d = Nat.min 3 (p.target d + 1)) ∧
    (∀ w temp n, p.controls = true → p.capWait ≤ s.timeNs → p.lowSince = some n → n + 10000000 ≤ s.timeNs →
      100 * w < 94 * p.capW.toNat → w < 0x10000 → ∃ t, exec (.powerSample w temp) s = .next t ∧
        ∀ d, d < 2 → t.pkg.target d =
          if p.floorOf d < p.target d ∧ d ∉ p.hot then p.target d - 1 else p.target d) ∧
    (∀ r, ∃ t, exec (.railFastTrip r) s = .next t ∧ t.pkg.fasttrip = true ∧ ∀ d, d ∈ railDies r →
      mget 0 t.pkg.pause d = s.timeNs + 2000 ∧ (p.controls = true → t.pkg.target d = Nat.min 3 (p.target d + 1)) ∧
      (p.controls = false → p.fallback = false → t.pkg.target d = p.target d ∧
        mget 0 t.pkg.fastWait d = Nat.min 3 (mget 0 p.fastWait d + 1))) ∧
    (∀ die, p.controls = true → ∃ t, exec (.junction105 die) s = .next t ∧ mget 0 t.pkg.th die = 3 ∧ t.pkg.target die = 3 ∧
      die ∈ t.pkg.hot ∧ t.pkg.thermal = true) ∧
    (∀ die, p.controls = true → die ∈ p.hot → ∃ t, exec (.junctionBelow95 die) s = .next t ∧ die ∉ t.pkg.hot ∧
      t.pkg.target die = if p.floorOf die < p.target die then p.target die - 1 else p.target die) ∧
    (∀ die, die < 2 → ∃ t, exec (.thermtrip die) s = .next t ∧ t.pkg.powered = false ∧ t.pkg.health.getLsbD 0 = true) ∧
    (∀ die, p.islandUp = false ∨ (die = 1 ∧ mget 0 p.pend 0 ≠ 0) → exec (.frequencyChange die) s = .next s) ∧
    (∀ die n, p.islandUp = true → (die = 1 → mget 0 p.pend 0 = 0) → mget 0 p.pend die = n + 1 → ∃ t, exec (.frequencyChange die) s = .next t ∧ mget 0 t.pkg.th die = n ∧
      mget 0 t.pkg.pend die = 0 ∧ t.mem = s.mem ∧ t.storeQ = s.storeQ) ∧
    (∀ v : BitVec 32, ∃ t, exec (.powerCapWrite v) s = .next t ∧
      exec (.registerWrite .pkg 0x104 (v.zeroExtend 64)) s = .next t ∧
      t.pkg.capW.toNat = Nat.max 1200 (Nat.min 2600 (v.toNat % 0x10000)) ∧
      t.pkg.floor.toNat = v.toNat / 0x10000 % 4 ∧
      (p.controls = true → ∀ d, d < 2 → t.pkg.floorOf d ≤ t.pkg.target d)) ∧
    (∀ r, p.islandUp = true → r.cluster < 20 → ∃ t, exec (.ageingMeasure [r]) s = .next t ∧
      t.pkg.age r.cluster = { slow := r.slow, life := r.life, guard_ := r.guard } ∧
      (60 < r.guard.toNat → r.cluster / 10 ∈ t.pkg.agedCap)) ∧
    (p.fallback = true → p.islandUp = true → (p.core 22).upSince + 10000000000 ≤ s.timeNs →
      ∃ t, exec .throttleControlResume s = .next t ∧ t.pkg.fallback = false ∧
        ∀ d, d < 2 → t.pkg.target d = if d ∈ p.hot then 3 else Nat.max 2 p.floor.toNat) ∧
    (∀ v : DWord, v.getLsbD 1 = true → ∃ t, exec (.registerWrite .pkg 0x100 v) s = .next t ∧ t.pkg.fasttrip = false ∧
      t.pkg.capW = p.capW) ∧
    (∀ (k : Nat) (v : DWord), k < 23 → ∃ t, exec (.registerWrite (.fw k) 0x200 v) s = .next t ∧
      (t.pkg.core k).nextOpen = some (v.truncate 16) ∧ (t.pkg.core k).nextClose = some (v.extractLsb' 16 16)) ∧
    (∀ v : DWord, ∃ t, exec (.registerWrite .health 0x20 v) s = .next t ∧
      ∀ k, t.pkg.health.getLsbD k = (p.health.getLsbD k && !(decide (k < 5) && v.getLsbD k))) ∧
    (∀ (c : Ctx) (v : DWord), s.ctxs.find? (fun x => x.id == c.id) = some c →
      exec (.registerWrite (.ctxPage c.id) 0x30 v) s = .next (s.putCtx { c with hvec := v &&& 0x0000_FFFF_FFFF_FFF9 })) ∧
    (∀ (part k : Nat) (v : DWord), part < 16 → k < 4096 → s.node? (2 ^ 20 * part + k) = none →
      ∃ t, exec (.registerWrite (.nodeTable part) (16 * k) v) s = .next t ∧
        t.nodes = s.nodes ++ [{ num := 2 ^ 20 * part + k, validReq := v.getLsbD 0 }]) ∧
    (∀ v : DWord, ∃ t, exec (.registerWrite .pkg 0x3000 v) s = .next t ∧ t.pkg.qsel = v.truncate 32 &&& 0x8F0000FF)

/-- Messages of the firmware tree, and its watchdogs. What a restore message leaves of the old block, and what it does to a node that
is not LOST, is the model's choice (log 116). -/
def Obligations.FirmwareEvents : Prop :=
  ∀ s : State,
    let p := s.pkg
    (∀ l (m : LinkMsg) n, s.node? m.node = some n →
      (∀ c, l = .down c → c < 20 → p.schedUp = true → ∃ x : LinkMsg, x.node = n.num ∧ x.seq = n.gen.truncate 32 ∧
        exec (.linkMessageSend l m) s = .next (s.sendLink l x)) ∧
      (l = .sorrel → exec (.linkMessageSend l m) s =
        .next ((s.putNode { n with sorrelSent := n.sorrelSent + 1 }).sendLink l { m with seq := n.sorrelSent + 1 })) ∧
      (∀ c, l = .up c → c < 20 → p.leafUp c = true → (p.core (2 + c)).mute = false →
        let k := mget 0 n.leafSent c + 1
        let first := n.due.find? fun x => x.1 == c
        (first ≠ some (c, m.body) → exec (.linkMessageSend l m) s = .next s) ∧
        (first = some (c, m.body) → exec (.linkMessageSend l m) s =
          .next ((s.putNode { n with leafSent := mset 0 n.leafSent c k, due := n.due.erase (c, m.body) }).sendLink l
            { m with seq := k })))) ∧
    (∀ n : Node, n.written.gen = n.gen + 1 ∧ ∃ a, a % 256 = 0 ∧ (s.writeNode n).mem = msetList memDefault s.mem a n.written.blockBytes ∧
      (s.writeNode n).nodes = s.nodes.map fun x => if x.num == n.num then n.written else x) ∧
    (∀ l m, let x := p.link l
      let y := (s.sendLink l m).pkg.link l
      (x.permits = 0 → y = { x with overrun := true }) ∧
      (x.permits ≠ 0 → y = { x with inbox := x.inbox ++ [m], permits := x.permits - 1 })) ∧
    (∀ l m r, p.receiverUp l = true → (p.link l).inbox = m :: r → ∃ t, exec (.inboxPop l) s = .next t ∧
      t.pkg.link l = { p.link l with inbox := r, permits := Nat.min 16 ((p.link l).permits + 1) }) ∧
    (∀ leaf m r n, leaf < 20 → p.schedUp = true → (p.link (.up leaf)).inbox = m :: r → s.node? m.node = some n →
      (m.seq.toNat ≤ (mget 0 n.leafSeq leaf).toNat → exec (.upMessageApply leaf) s = .next (s.popLink (.up leaf))) ∧
      ((mget 0 n.leafSeq leaf).toNat < m.seq.toNat → exec (.upMessageApply leaf) s =
        let n' := n.applyUp leaf m.body
        .next ((s.writeNode { n' with leafSeq := mset 0 n'.leafSeq leaf m.seq }).popLink (.up leaf)))) ∧
    (∀ (n : Node) leaf g r, leaf < 20 →
      (n.queue.head?.map QEntry.seq ≠ some g → ∀ body ∈ [LinkBody.age g r, .started g r, .oldest g r], n.applyUp leaf body = n) ∧
      (n.queue.head?.map QEntry.seq = some g →
        (∀ c, mget 0 (n.applyUp leaf (.age g r)).age c =
          if c = leaf then Nat.min 255 r else if n.ageFor = g + 1 then mget 0 n.age c else 0) ∧
        (r < 2 ^ 64 → (n.applyUp leaf (.started g r)).blkNext.toNat = if n.blkRoot = g + 1 then Nat.max n.blkNext.toNat r else r) ∧
        (r < 2 ^ 64 → (n.applyUp leaf (.oldest g r)).blkOldest.toNat = if n.blkRoot = g + 1 then Nat.max n.blkOldest.toNat r else r))) ∧
    (∀ m r n share q, p.schedUp = true → (p.link .sorrel).inbox = m :: r → s.node? m.node = some n →
      m.body = .setShare share q →
      (n.lastSeq.toNat < m.seq.toNat → exec .sorrelMessageApply s =
        .next ((s.writeNode { n with share := share, quota := quotaMap q, lastSeq := m.seq }).popLink .sorrel)) ∧
      (m.seq.toNat ≤ n.lastSeq.toNat → exec .sorrelMessageApply s = .next (s.popLink .sorrel))) ∧
    (∀ m r n, p.schedUp = true → (p.link .sorrel).inbox = m :: r → s.node? m.node = some n →
      (m.seq.toNat ≤ n.lastSeq.toNat → exec .sorrelMessageApply s = .next (s.popLink .sorrel)) ∧
      (n.lastSeq.toNat < m.seq.toNat → (∀ share q, m.body ≠ .setShare share q) → (∀ d share q, m.body ≠ .restore d share q) →
        exec .sorrelMessageApply s = .next ((s.writeNode { n with lastSeq := m.seq }).popLink .sorrel))) ∧
    (∀ leaf m r n share q, leaf < 20 → p.leafUp leaf = true → (p.link (.down leaf)).inbox = m :: r →
      s.node? m.node = some n → m.body = .setShare share q → ∃ n', exec (.downMessageApply leaf) s =
        .next ((s.putNode n').popLink (.down leaf)) ∧
        (newer m.seq (mget 0 n.leafGen leaf) = true →
          mget 0 n'.leafGen leaf = m.seq ∧ n'.quotaIn leaf = some (q.getD leaf 0)) ∧
        (newer m.seq (mget 0 n.leafGen leaf) = false → n' = n)) ∧
    (∀ m r n desc share q, p.schedUp = true → (p.link .sorrel).inbox = m :: r → s.node? m.node = some n →
      m.body = .restore desc share q →
      exec .sorrelMessageApply s = exec .restoreMessage s ∧
      (m.seq.toNat ≤ n.lastSeq.toNat → exec .restoreMessage s = .next (s.popLink .sorrel)) ∧
      (n.lastSeq.toNat < m.seq.toNat → ∃ t, exec .restoreMessage s = .next t ∧
        t.nodes = s.nodes.map fun x => if x.num == n.num then
          { n with desc := desc, descBytes := s.homeRead false (desc.toNat / 64 * 64) 64,
                   pkt := s.homeRead false (fieldOf (s.homeRead false (desc.toNat / 64 * 64) 64) 8 8 / 128 * 128) 128,
                   share := share, quota := quotaMap q, lost := false, damaged := false, gen := 1, lastSeq := m.seq } else x)) ∧
    (∀ core key, core < 23 → (p.core core).up = true →
      let c := p.core core
      let t := s.timeNs - c.kicked
      (key = 0x5AA5 → 1000 * c.openUs.toNat ≤ t → t < 1000 * c.close → exec (.wdKick core key) s =
        .next { s with pkg := p.putCore core { c with
          kicked := s.timeNs, openUs := c.nextOpen.getD c.openUs, closeUs := c.nextClose.getD c.closeUs,
          nextOpen := none, nextClose := none } }) ∧
      (key ≠ 0x5AA5 → exec (.wdKick core key) s = .next (s.trip core 3)) ∧
      (key = 0x5AA5 → t < 1000 * c.openUs.toNat → exec (.wdKick core key) s = .next (s.trip core 1)) ∧
      (key = 0x5AA5 → 1000 * c.openUs.toNat ≤ t → 1000 * c.close ≤ t → exec (.wdKick core key) s = .next (s.trip core 2)) ∧
      (1000 * c.close ≤ t → exec (.wdLateTrip core) s = .next (s.trip core 2)) ∧
      (t < 1000 * c.close → exec (.wdLateTrip core) s = .next s) ∧
      ∀ cause, ((c.tripTimes.filter fun t => decide (s.timeNs < t + 1000000000)).length < 2) →
        ((s.trip core cause).pkg.core core).restarting = true ∧ ((s.trip core cause).pkg.core core).cause = cause) ∧
    (∀ core, core < 23 → (p.core core).restarting = true → p.restartDue core s.timeNs = true →
      ∃ t, exec (.firmwareRestartDone core) s = .next t ∧ (t.pkg.core core).restarting = false ∧
        (t.pkg.core core).upSince = s.timeNs ∧
        ((t.pkg.core core).openUs, (t.pkg.core core).closeUs) = fwWindow core)

/-- Ports and heartbeats. The state after a quorum reset (log 36), the first SEQ and where it goes on (log 109), the retrains and
entries to DOWN that writes cause (log 83), a flit that another port delivered (log 110) and the count of a missed beat (log 115) are
the model's choices. -/
def Obligations.PortAndHeartbeatEvents : Prop :=
  ∀ (s : State) (port : Nat),
    let q := s.pkg.port port
    let to_ (i : Instr) (st lanes : BitVec 4) : Prop := exec i s = .next (s.portTo port st lanes)
    (∀ f, port < 24 → q.carries = true → flitOk f = false → ∃ t, exec (.flitReceive port f) s = .next t ∧
      t.pkg.port port = { q with crcErr := if q.crcErr = 255 then 255 else q.crcErr + 1 }) ∧
    (∀ f, port < 24 → q.carries = true → flitOk f = true → ∃ t, exec (.flitReceive port f) s = .next t ∧
      (t.pkg.port port).delivered = (if flitSeq f = q.rxSeq + 1 ∧ flitKind f ≠ 0 ∧ s.replayOf q f = false
        then q.delivered ++ [(flitKind f, flitVc f, flitPayload f)] else q.delivered) ∧
      (t.pkg.port port).rxSeq = if flitSeq f = q.rxSeq + 1 then flitSeq f else q.rxSeq) ∧
    (port < 24 → q.carries = true → q.unacked ≠ [] →
      (Nat.max 1 q.retryLimit.toNat ≤ q.replays + 1 → to_ (.flitReplay port) 4 0) ∧
      (q.replays + 1 < Nat.max 1 q.retryLimit.toNat → ∃ t, exec (.flitReplay port) s = .next t ∧
        t.pkg.port port = { q with replays := q.replays + 1 })) ∧
    (∀ nb, port < 24 → q.state = 1 → q.locked = false → ∃ t, exec (.portPartnerDetect port nb) s = .next t ∧
      (t.pkg.port port).state = 2 ∧ (t.pkg.port port).neighbour = some nb) ∧
    (∀ (lanes : BitVec 4) (i : Instr),
      (q.state = 2 ∧ i = .portTrainResult port lanes) ∨ (q.state = 4 ∧ i = .portRetrainResult port lanes) →
      (lanes = 0xF → to_ i 3 0xF) ∧
      (lanes ∈ [0x3, 0x7, 0xB] → to_ i 5 0x3) ∧ (lanes ∈ [0x5, 0xD] → to_ i 5 0x5) ∧ (lanes ∈ [0x6, 0xE] → to_ i 5 0x6) ∧
      (lanes = 0x9 → to_ i 5 0x9) ∧ (lanes = 0xA → to_ i 5 0xA) ∧ (lanes = 0xC → to_ i 5 0xC) ∧
      (lanes ∈ [0, 1, 2, 4, 8] → to_ i 1 0)) ∧
    (∀ lane, q.lanes.getLsbD lane = true →
      (q.state = 3 → to_ (.portLaneLoss port lane) 5 (twoLowest (q.lanes &&& ~~~(1#4 <<< lane)))) ∧
      (q.state = 5 → to_ (.portLaneLoss port lane) 1 0)) ∧
    (∀ v, port < 24 → exec (.portEnableWrite port v) s =
      let s1 : State := { s with pkg := s.pkg.putPort port { q with enable := v, locked := false } }
      .next (if v = false then s1.portTo port 0 0 else if q.state = 0 then s1.portTo port 1 0 else s1)) ∧
    (∀ st lanes, q.carries = false ∨ st = 3 ∨ st = 5 → q.downs = [] → let r := (s.portTo port st lanes).pkg.port port
      r.state = st ∧ r.lanes = lanes ∧ r.enable = q.enable ∧ r.locked = q.locked) ∧
    (port < 24 → q.carries = true → to_ (.portRetrainWrite port true) 4 0) ∧
    (port < 24 → ∃ t, exec (.portStatusRead port) s = .next t ∧
      t.pkg.readVal = BitVec.ofNat 64 (q.state.toNat * 2 ^ 24 + q.lanes.toNat * 2 ^ 20 + q.retrains.toNat * 2 ^ 8 +
        q.crcErr.toNat) ∧
      t.pkg.port port = { q with retrains := 0, crcErr := 0 }) ∧
    (q.carries = false → 2 ≤ (q.downs.filter fun t => decide (s.timeNs < t + 1000000000)).length → q.waiting = [] →
      ((s.portTo port 1 0).pkg.port port).locked = true ∧ (s.portTo port 1 0).pkg.events = s.pkg.events ++ [(1, port)]) ∧
    (s.pkg.hbEnable = true → s.pkg.schedUp = true → ∃ t, exec .heartbeatSend s = .next t ∧
      t.pkg.hbBeat = s.pkg.hbBeat + 1 ∧ t.pkg.hbForce = s.pkg.hbPeriod) ∧
    (∀ bs : List Byte, s.pkg.hbEnable = true → bs.length = 26 → ∃ t, exec (.heartbeatReceive bs) s = .next t ∧
      let n := t.pkg.neighbour (BitVec.ofNat 64 (fieldOf bs 0 8))
      n.epoch = BitVec.ofNat 64 (fieldOf bs 8 8) ∧ n.beat = BitVec.ofNat 32 (fieldOf bs 16 4) ∧ n.missed = 0 ∧ n.beatAt = s.timeNs) ∧
    (∀ id, let at_ := (s.pkg.neighbour id).beatAt
      let late := at_ ≠ 0 ∧ 2 * at_ + 3 * (1000000 * Nat.max 1 (Nat.min 1000 s.pkg.hbForce.toNat)) ≤ 2 * s.timeNs
      (¬late ∨ s.pkg.islandUp = false → exec (.beatMissed id) s = .next s) ∧
      (late → s.pkg.hbEnable = true → s.pkg.islandUp = true → id ∈ s.pkg.neighbourIds s.timeNs →
      ∃ t, exec (.beatMissed id) s = .next t ∧
        (t.pkg.neighbour id).missed = (s.pkg.neighbour id).missed + 1 ∧
        t.pkg.nonceCtr = if (s.pkg.neighbour id).missed + 1 = 3 then s.pkg.nonceCtr + 1 else s.pkg.nonceCtr)) ∧
    (∀ msg, s.pkg.hbEnable = true → s.pkg.islandUp = true → s.pkg.accepts msg = true →
      let n := s.pkg.neighbour (BitVec.ofNat 64 (fieldOf msg 4 8))
      let s1 : State := { s with pkg := s.pkg.putNeighbour { n with
        ctr := BitVec.ofNat 64 (fieldOf msg 28 8), reset := some s.timeNs } }
      (s1.pkg.quorum s.timeNs = false → exec (.resetRequestReceive msg) s = .next s1) ∧
      (s1.pkg.quorum s.timeNs = true → ∃ t, exec (.resetRequestReceive msg) s = .next t ∧ t.teams = [] ∧ t.blocks = [] ∧
        t.nodes = [] ∧ t.mem = s.mem ∧ t.pkg.hbEpoch = s.pkg.hbEpoch + 1 ∧ t.pkg.health.getLsbD 3 = true))

/-- The endpoint: pairs, commands, resets. The model's choices in it: masks, pending bits and VF Enable (log 120), what FLR keeps and
how cancelled records end (log 90), ORDER and the order of checks (log 91), announced entries (log 118), the first of several causes
(log 119). -/
def Obligations.EndpointEvents : Prop :=
  ∀ (s : State) (fn q : Nat), s.pairReady fn q = true →
    let f := s.pkg.func fn
    let p := s.pairAt fn q
    let to_ (i : Instr) (p' : Pair) : Prop := exec i s = .next (s.putPairAt fn q p')
    let done (i : Instr) (c : Cmd) (st : BitVec 15) (r : Nat) : Prop := to_ i (p.complete c st r).settle
    (∀ p' : Pair, (s.putPairAt fn q p').pairAt fn q = p') ∧
    (∀ (c : Cmd) st r, (p.complete c st r).due = if c.flags.testBit 1 = true ∧ st = stSuccess then p.due
      else p.due ++ [{ idx := c.idx, cid := c.cid, status := st, result := BitVec.ofNat 32 r }]) ∧
    (∀ cfg : BitVec 32, p.state = 0 ∨ p.state = 2 →
      let sq := (cfg.extractLsb' 0 4).toNat
      let cq := (cfg.extractLsb' 8 4).toNat
      let sizes := 2 ≤ sq ∧ sq ≤ cq ∧ cq ≤ 12
      let bases := p.sqBase.toNat % 4096 = 0 ∧ p.cqBase.toNat % 4096 = 0
      ∃ t, exec (.qpEnable fn q cfg) s = .next t ∧ let p' := t.pairAt fn q
        p'.cfg = cfg &&& 0x00FF_0F0F ∧ p'.enabled = true ∧
        (sizes → bases → f.bound = true → (p'.state, p'.sqHead, p'.sqTail, p'.ahead, p'.cqHead, p'.cqWrite, p'.phase) =
          (1, 0, 0, 0, 0, 0, true)) ∧
        (¬sizes → (p'.state, p'.err) = (2, 1)) ∧ (sizes → ¬bases → (p'.state, p'.err) = (2, 2)) ∧
        (sizes → bases → f.bound = false → (p'.state, p'.err) = (2, 3))) ∧
    (p.state = 1 → ∃ t, exec (.qpDisable fn q) s = .next t ∧ let p' := t.pairAt fn q
      p'.state = 3 ∧ p'.enabled = false ∧ p'.fetched = [] ∧ p'.due = p.due ++ p.fetched.map fun (c : Cmd) =>
        ({ idx := c.idx, cid := c.cid, status := stAborted, result := 0 } : Compl)) ∧
    (p.state = 3 → p.ahead = 0 → p.fetched = [] → p.flight = [] → p.due = [] →
      to_ (.qpDrainDone fn q) { p with state := 0 }) ∧
    (let hits := s.blocks.filter fun b => (s.blockClients b).any fun c => c.fn == fn && c.q == q && f.cancelled.contains (c.q, c.idx)
      let stopped := s.stopCancelled fn (· == q)
      let p1 := stopped.pairAt fn q
      (hits = [] → stopped = s.purge) ∧
      (∀ b, hits = [b] → s.block? b.id = some b → stopped = (s.abortBlock b).purge) ∧
      (p.state ≠ 2 → exec (.qpErrorStopped fn q) s = .next s) ∧
      (p.state = 2 → p1.enabled = true ∨ stopped.cancelledRuns fn (· == q) = true → exec (.qpErrorStopped fn q) s = .next stopped) ∧
      (p.state = 2 → p1.enabled = false → stopped.cancelledRuns fn (· == q) = false → ∃ t, exec (.qpErrorStopped fn q) s = .next t ∧
        t.pairAt fn q = { p1 with state := 0 } ∧ t.nodes = stopped.nodes)) ∧
    (∀ cause, (s.errorPair fn q p cause).pairAt fn q = p.toError cause ∧
      ∀ c ∈ p.flight, (q, c.idx) ∈ ((s.errorPair fn q p cause).pkg.func fn).cancelled) ∧
    (∀ v : BitVec 32, p.state = 1 → let n := v.toNat % 65536
      (n < p.sqSize → to_ (.sqnWrite fn q v) { p with sqTail := n, ahead := p.ahead + (n + p.sqSize - p.sqTail) % p.sqSize }) ∧
      (p.sqSize ≤ n → exec (.sqnWrite fn q v) s = .next (s.errorPair fn q p 4)) ∧
      (n < p.cqSize → to_ (.cqhWrite fn q v) { p with cqHead := n }) ∧
      (p.cqSize ≤ n → exec (.cqhWrite fn q v) s = .next (s.errorPair fn q p 4))) ∧
    (p.state = 1 ∨ p.state = 3 → p.ahead ≠ 0 →
      exec (.sqEntryFetch fn q true) s = .next (s.errorPair fn q p 5) ∧
      ((p.state = 1 → s.intakeRoom f = true) → ∃ t, exec (.sqEntryFetch fn q false) s = .next t ∧
        (t.pairAt fn q).sqHead = (p.sqHead + 1) % p.sqSize ∧ (t.pairAt fn q).ahead = p.ahead - 1 ∧ (t.pairAt fn q).count = p.count + 1 ∧
        (p.state = 1 → ∀ bs, bs = s.hostRead (p.sqBase.toNat + 64 * p.sqHead) 64 → p.fetched = [] →
          ∀ c : Cmd, c = { idx := p.count, entry := bs } → c.flags % 4 = 0 → c.fieldBad = false → c.reservedOp = false →
            (t.pairAt fn q).fetched = [c]))) ∧
    (∀ cid (c : Compl), p.state = 1 ∨ p.state = 3 → p.slotFree = true → p.due.find? (fun x => x.cid == cid) = some c →
      exec (.completionWrite fn q cid true) s = .next (s.errorPair fn q p 6) ∧
      exec (.completionWrite fn q cid false) s =
        .next (((s.flushWhere StoreEnt.toHost).writeCompl fn q c).raise fn (p.cfg.toNat / 65536 % 256)) ∧
      (∀ vec, vec ≤ 16 → (s.raise fn vec).pkg.func fn = if f.masked vec then { f with msixPend := f.msixPend ||| BitVec.ofNat 17 (2 ^ vec) }
        else { f with msix := f.msix ++ [vec] }) ∧
      (s.writeCompl fn q c).hostRead (p.cqBase.toNat + 16 * p.cqWrite) 16 = p.entryOf q c) ∧
    (∀ c : Cmd, p.nextCmd (fun _ => true) = some c →
      let bad := c.nrec ≠ 0 ∨ c.ptr ≠ 0
      let started (c1 : Cmd) : Pair := ({ p with fetched := p.fetched.filter fun x => x.idx != c.idx, flight := [c1] } : Pair).settle
      (c.opc = 0 → (bad → done (.sqeNop fn q) c stField 0) ∧ (¬bad → done (.sqeNop fn q) c stSuccess 0)) ∧
      (c.opc = 4 → (bad → done (.query fn q) c stField 0) ∧
        (¬bad → s.clientNode fn c = none → done (.query fn q) c stNode 0) ∧
        ∀ n, ¬bad → s.clientNode fn c = some n → done (.query fn q) c stSuccess n.free) ∧
      (c.opc = 3 → (bad → done (.enqueueInline fn q) c stField 0) ∧
        (¬bad → s.clientNode fn c = none → p.flight = [] → done (.enqueueInline fn q) c stNode 0) ∧
        ∀ n, ¬bad → s.clientNode fn c = some n → 0 < n.free → p.flight = [] →
          let rec_ := (c.entry.drop 24).take 40 ++ List.replicate 24 0
          let c1 : Cmd := { c with target := some n.num, recs := [rec_], stop := none }
          c.sent = 0 → ∃ t : State, exec (.enqueueInline fn q) s = .next t ∧
            t.pairAt fn q = ((started c1).complete c stSuccess 1).settle ∧ ∃ e : QEntry, e.bytes = rec_ ∧
              ∀ m ∈ t.nodes, m.num = n.num → m.queue = n.queue ++ [e]) ∧
      (∀ st r, 0x80 ≤ c.opc →
        (st.toNat < 5 ∨ 0x4000 ≤ st.toNat → done (.guestDefinedCommand fn q st r) c st r.toNat) ∧
        (5 ≤ st.toNat → st.toNat < 0x4000 → exec (.guestDefinedCommand fn q st r) s = .next s)) ∧
      (∀ (i : Instr) (wait : Bool) (at_ : Option Nat), i = (if wait = true then .enqueueWait fn q at_ else .enqueue fn q at_) →
        c.opc = (if wait = true then 2 else 1) → p.flight = [] →
        (c.nrec = 0 ∨ 4096 < c.nrec ∨ c.ptr % 64 ≠ 0 → done i c stField 0) ∧
        (1 ≤ c.nrec → c.nrec ≤ 4096 → c.ptr % 64 = 0 →
          (s.clientNode fn c = none → done i c stNode 0) ∧
          ∀ n, s.clientNode fn c = some n → c.nrec ≤ n.free →
            let j := Nat.min (at_.getD c.nrec) c.nrec
            let stop : Option (BitVec 15) := if j < c.nrec then some stDma else none
            let rs := (List.range j).map fun k => s.hostRead (c.ptr + 64 * k) 64
            let c1 : Cmd := { c with target := some n.num, recs := rs, stop := stop }
            let c2 : Cmd := { c1 with recs := [], sent := j, live := c.live + j }
            c.sent = 0 → ∃ t : State, exec i s = .next t ∧
              (j ≠ 0 → t.nodes = ((s.putNode (n.enterAll s.timeNs 0 (pktCtx n.pkt) [{ fn := fn, q := q, idx := c.idx }] rs)).updateHeld n.part).nodes ∧
                t.pairAt fn q = if wait = true then { started c1 with flight := [c2] }
                  else ((started c1).complete c (stop.getD stSuccess) j).settle) ∧
              (j = 0 → t.nodes = s.nodes ∧ t.pairAt fn q = ((started c1).complete c stDma 0).settle)))) ∧
    (∀ cid (c : Cmd), p.flight.find? (fun x => x.opc == 2 && x.cid == cid && x.recs.isEmpty && x.live == 0) = some c →
      done (.enqueueWaitDone fn q cid) c (c.stop.getD (if c.bad = true then stWork else stSuccess)) c.sent) ∧
    (∀ off v, v.getLsbD 0 = true → exec (.registerWrite .vfEnable off v) s = .next { s with pkg := { s.pkg with vfEnable := true } }) ∧
    (f.resetting = false → ∃ t, exec (.flrInitiate fn) s = .next t ∧ (t.pkg.func fn).resetting = true ∧
      (t.pkg.func fn).ready = false ∧ (t.pkg.func fn).resetAt = s.timeNs ∧ (fn = 0 → t.pkg.vfEnable = false)) ∧
    (∃ t, exec .pfFlr s = .next t ∧ exec .hotReset s = .next t ∧ exec (.flrInitiate 0) s = .next t ∧ t.pkg.vfEnable = false ∧
      (t.pkg.func 0).resetting = true ∧ (s.pkg.vfEnable = true → ∀ k, k < 64 → (t.pkg.func k).resetting = true)) ∧
    (∀ k, (s.pkg.func k).resetting = true →
      (s.timeNs < (s.pkg.func k).resetAt + 50000000 → exec (.flrAbortTimeout k) s = .next s) ∧
      ((s.pkg.func k).resetAt + 50000000 ≤ s.timeNs → ∀ b,
        s.blocks.filter (fun b => (s.blockClients b).any fun c =>
          c.fn == k && (s.pkg.func k).cancelled.contains (c.q, c.idx)) = [b] → s.block? b.id = some b →
        exec (.flrAbortTimeout k) s = .next (s.abortBlock b).purge) ∧
      (s.cancelledRuns k (fun _ => true) = true → exec (.flrComplete k) s = .next s) ∧
      (s.cancelledRuns k (fun _ => true) = false → ∃ t, exec (.flrComplete k) s = .next t ∧ (t.pkg.func k).resetting = false ∧ (t.pkg.func k).ready = true ∧
        (t.pkg.func k).part = 0xFF ∧ ∀ j, ((t.pkg.func k).pair j) = { count := ((s.pkg.func k).pair j).count }))

/-- Calls to Sorrel, and collective groups. SBI's numbers, results and effects are those of SBI v2.0 (PRESUMED, log 11). The model's
choices are BUSY for a context at work (log 93), accepting every resize request (log 94), handle numbers and DENIED first (log 97), and
the intake depth of the last VF_BIND (log 117); values that stay free are those of logs 10, 11 and 34. -/
def Obligations.SorrelCallEvents : Prop :=
  ∀ (s : State) (part : Nat) (r : CallRegs),
    let call (n maj min : Nat) : Prop := r.a7 = 0x0955_5A01 ∧ r.a6.toNat = 65536 * n + 256 * maj + min
    let p := s.part part
    (∀ v, (s.ok v).pkg.callErr = 0 ∧ (s.ok v).pkg.callVals = [BitVec.ofNat 64 v]) ∧
    ([CallStatus.failed, .notSupported, .invalidParam, .denied, .invalidAddress, .busy].map
      fun e => (s.fail e).pkg.callErr) = [-1, -2, -3, -4, -5, -6] ∧
    (r.a7 = 0x0955_5A01 →
      (2 ^ 32 ≤ r.a6.toNat ∨ callVersion (r.a6.toNat / 65536 % 65536) = none →
        ∀ i ∈ [Instr.version part r, .callQuery part r, .partInfo part r, .ctxCreate part r, .healthRead part r],
          exec i s = .next (s.fail .notSupported))) ∧
    (r.a7 ≠ 0x0955_5A01 → let hart := r.hart
      let gives (t : State) : Prop := exec (.sbiStandardCall part r) s = .next t
      let sbi (ext fid : Nat) : Prop := r.a7.toNat = ext ∧ r.a6.toNat = fid
      let known : Prop := r.a0.toNat ∈ p.hartIds
      let all := p.maskHarts r.a0 r.a1
      (r.a7.toNat ∉ sbiServed ∨ sbiFunctions r.a7.toNat ≤ r.a6.toNat → gives (s.fail .notSupported)) ∧
      (r.a7.toNat ∈ sbiServed → r.a6.toNat < sbiFunctions r.a7.toNat → ∃ t, gives t ∧ (r.a7 ≠ 0x4442434E → t.mem = s.mem)) ∧
      (sbi 0x10 0 → gives (s.ok 0x0200_0000)) ∧
      (sbi 0x10 3 → gives (s.ok (if r.a0.toNat ∈ sbiServed ∨ r.a0 = 0x0955_5A01 then 1 else 0))) ∧
      (sbi 0x54494D45 0 → ∃ t : State, gives (t.ok 0) ∧ (t.part part).hartOf hart = { p.hartOf hart with timer := r.a0 }) ∧
      (sbi 0x735049 0 → (all = none → gives (s.fail .invalidParam)) ∧
        ∀ hs, all = some hs → ∃ t : State, gives (t.ok 0) ∧
          ∀ h, (t.part part).hartOf h = { p.hartOf h with soft := decide (h ∈ hs) || (p.hartOf h).soft }) ∧
      (sbi 0x52464E43 0 ∨ sbi 0x52464E43 1 ∨ sbi 0x52464E43 2 → gives (if all = none then s.fail .invalidParam else s.ok 0)) ∧
      (sbi 0x48534D 0 → (¬known → gives (s.fail .invalidParam)) ∧
        (known → (s.gpa? part r.a1.toNat).isSome = true → (p.hartOf r.a0.toNat).stopped = true → ∃ t : State, gives (t.ok 0) ∧
          (t.part part).hartOf r.a0.toNat = { p.hartOf r.a0.toNat with stopped := false, startAt := r.a1, arg := r.a2 })) ∧
      (sbi 0x48534D 1 → ∃ t, gives t ∧ (t.part part).hartOf hart = { p.hartOf hart with stopped := true }) ∧
      (sbi 0x48534D 2 → gives (if known then s.ok (if (p.hartOf r.a0.toNat).stopped = true then 1 else 0) else s.fail .invalidParam)) ∧
      (sbi 0x53525354 0 → r.a0.toNat % 2 ^ 32 = 0 → r.a1.toNat % 2 ^ 32 ≤ 1 → ∃ t, gives t ∧ ∀ h, ((t.part part).hartOf h) = {}) ∧
      (sbi 0x4442434E 2 → ∃ t : State, gives (t.ok 0) ∧ (t.part part).console = p.console ++ [r.a0.truncate 8])) ∧
    (call 1 1 0 → exec (.version part r) s = .next (s.ok Config.sorrelVersion.toNat)) ∧
    (call 1 1 1 → exec (.version part r) s = .next (s.fail .notSupported)) ∧
    (call 2 1 0 → (r.a0 = 0x20 → exec (.callQuery part r) s = .next (s.ok 0x101)) ∧
      (r.a0 = 0x30 → exec (.callQuery part r) s = .next (s.ok 0x200)) ∧
      (r.a0 = 0x12 → exec (.callQuery part r) s = .next (s.fail .notSupported))) ∧
    (∀ maj, maj = 1 ∨ maj = 2 → call 0x10 maj 0 → r.a0.toNat % 8 = 0 → ∀ t : State,
      s.gpaWrite part r.a0.toNat (s.partInfoBytes part maj) = some t → exec (.partInfo part r) s = .next (t.ok 0)) ∧
    (call 0x11 1 0 → exec (.partResizeReq part r) s =
      .next ((s.putPart { p with rreq := p.rreq + 1, rask := (r.a0, r.a1) }).ok (p.rreq + 1).toNat)) ∧
    (∀ min, min ≤ 1 → call 0x20 1 min → r.a0.toNat < 64 → let f := s.pkg.func r.a0.toNat
      (f.bound = true → f.part.toNat ≠ part → exec (.vfBind part r) s = .next (s.fail .denied)) ∧
      (f.bound = false ∨ f.part.toNat = part → ∀ xs, s.exportSet part r.a1.toNat r.a2.toNat = .ok xs → ∃ t,
        exec (.vfBind part r) s = .next t ∧ (t.pkg.func r.a0.toNat).part = BitVec.ofNat 8 part ∧
        (t.pkg.func r.a0.toNat).exported = xs ∧ t.pkg.callErr = 0 ∧
        (t.part part).intake = if min = 1 then r.a3.toNat else 0)) ∧
    (call 0x21 1 0 → 1 ≤ r.a0.toNat → r.a0.toNat < 64 → let t := s.flr r.a0.toNat
      ((s.pkg.func r.a0.toNat).part.toNat = part →
        exec (.vfReset part r) s = .next (t.ok (t.pkg.func r.a0.toNat).dropped)) ∧
      ((s.pkg.func r.a0.toNat).part.toNat ≠ part → exec (.vfReset part r) s = .next (s.fail .denied))) ∧
    (call 0x30 2 0 → r.a2.toNat ≤ 2 → r.a0.toNat % frameBytes r.a2.toNat = 0 →
      r.a0.toNat + frameBytes r.a2.toNat * r.a1.toNat ≤ 2 ^ 50 →
      let fill := s.poolField p (64 * r.a2.toNat + 8) 8
      let take := s.poolField p (64 * r.a2.toNat) 8
      let n := Nat.min r.a1.toNat (2048 - (fill - take))
      exec (.poolDonate part r) s = .next ((s.donate p r.a2.toNat r.a0.toNat fill n).ok n)) ∧
    (call 0x31 2 0 → r.a2.toNat ≤ 2 →
      let fill := s.poolField p (64 * r.a2.toNat + 8) 8
      let n := Nat.min r.a0.toNat (fill - s.poolField p (64 * r.a2.toNat) 8)
      ∃ t, exec (.poolReclaim part r) s = .next t ∧ t.pkg.callErr = 0 ∧
        t.pkg.callVals = [BitVec.ofNat 64 (s.validBefore p r.a2.toNat fill n)]) ∧
    (∀ k, call 0x40 1 0 → r.a0.toNat % 4096 = 0 → 1 ≤ k → k < 256 → (∀ c ∈ s.ctxs, c.id ≠ k) →
      (∀ j, 1 ≤ j → j < k → ∃ c ∈ s.ctxs, c.id = j) → ∃ t : State, exec (.ctxCreate part r) s = .next (t.ok k) ∧
        t.ctxs = s.ctxs ++ [{ id := k, part := part, vroot := r.a0 }]) ∧
    (∀ c, call 0x41 1 0 → s.ctxs.find? (fun c => c.id == r.a0.toNat) = some c →
      (c.part ≠ part → exec (.ctxDestroy part r) s = .next (s.fail .denied)) ∧
      (c.part = part → s.ctxAtWork c.id = true → exec (.ctxDestroy part r) s = .next (s.fail .busy)) ∧
      (c.part = part → s.ctxAtWork c.id = false →
        exec (.ctxDestroy part r) s = .next (((s.dropCtx c.id).putCtxTab part c.id 0).ok 0))) ∧
    (∀ bs, call 0x50 1 0 → 1 ≤ r.a1.toNat → r.a1.toNat ≤ 4096 →
      s.guestRead part r.a0.toNat (16 * r.a1.toNat) = some bs → let rs := rankList bs r.a1.toNat
      ((∃ x ∈ rs, x.1 = ownId ∧ x.2.1 ≠ part) → exec (.collGroup part r) s = .next (s.fail .denied)) ∧
      ((∀ x ∈ rs, x.2.2 = 0 ∧ ((x.1 = ownId ∧ x.2.1 = part) ∨ (x.1 ≠ ownId ∧ s.pkg.reaches x.1 = true))) →
        ∃ t, ∃ g : Group, exec (.collGroup part r) s = .next t ∧ t.groups = s.groups ++ [g] ∧ t.pkg.callErr = 0 ∧
          t.pkg.callVals = [g.handle.zeroExtend 64] ∧ g.part = part ∧ g.ranks = r.a1.toNat ∧
          g.complete = rs.all fun x => x.1 == ownId)) ∧
    (∀ nonce (t : State), call 0x60 1 0 → s.guestRead part r.a0.toNat 32 = some nonce →
      s.gpaWrite part r.a1.toNat (s.reportBody part nonce ++ edSign Config.identitySeed (s.reportBody part nonce)) = some t →
      exec (.attestReport part r) s = .next (t.ok 640)) ∧
    (call 0x70 1 0 → exec (.healthRead part r) s = .next (s.ok (s.healthReg r.a0.toNat))) ∧
    (∀ g, s.groups.find? (fun x => x.handle == g.handle) = some g →
      (exec (.collGroupComplete g.handle) s = .next { s with
        groups := s.groups.map fun x => if x.handle == g.handle then { x with complete := true } else x }) ∧
      (g.complete = false → g.insts ≠ [] → g.since + 1000000000 ≤ s.timeNs →
        exec (.collGroupTimeout g.handle) s = .next (s.collFail g)) ∧
      (∀ hs s1 ls, g.complete = true → (∀ m ∈ g.members, m.2.1 = ownId) → g.heads = some hs → hs ≠ [] →
        s.collReads g.ranks hs = (s1, ls) → (∀ x ∈ hs, ∀ y ∈ hs, CollInst.shape x = CollInst.shape y) →
        (∀ l ∈ ls, l.bad = none) →
        let srcs := (List.range g.ranks).map fun k => ((ls.find? fun l => l.c.rank == k).map CollLocal.src).getD []
        let one (s : State) (l : CollLocal) : State :=
          let bs := collBytesFor l.c srcs
          (s.collWrite l.c.ctx l.dst (fun _ x => some x) (bs.length + 1) bs l.ps).collEnd l.c none
        exec (.collComplete g.handle []) s = .next ((ls.foldl one s1).collDrop g.handle (hs.map CollInst.op))) ∧
      (∀ hs, g.complete = true → (∀ m ∈ g.members, m.2.1 = ownId) → g.heads = some hs →
        (∃ x ∈ hs, ∃ y ∈ hs, CollInst.shape x ≠ CollInst.shape y) → exec (.collComplete g.handle []) s =
          .next ((hs.foldl (fun s c => s.collEnd c (some unstatedFault)) s).collDrop g.handle (hs.map CollInst.op))))

/-- The resize machine, placement, halts. The model's choices in it: one acknowledgement for each kind of departing unit (log 31), the
core of a resumed block (log 50), the lowest of several causes (log 80), MIGRATE waiting for halted blocks (log 88), the turn of the
leaves (log 113), and the addresses of the page copier (log 127). -/
def Obligations.PartitionAndPlacementEvents : Prop :=
  ∀ (s : State) (part : Nat),
    let p := s.part part
    let put (p' : Part) : State := s.putPart p'
    (∀ err, let t := s.endResize p err
      (t.part part).state = .idle ∧ (t.part part).done = true ∧ (t.part part).err = BitVec.ofNat 4 err ∧
        t.pkg.irqs = s.pkg.irqs ++ [(part, 0x200)]) ∧
    (part < 16 → s.startCause p = 0 → s.affectedLeaves p ≠ [] → exec (.resizeStart part) s =
      let p1 := { p with state := .prepare, err := 0, phaseAt := s.timeNs, acks := s.affectedLeaves p,
                         rrun := if p.rreq = p.rdone then 0 else p.rreq }
      .next ((List.range 3).foldl (fun s k => s.dropFrames p1 k) (put p1))) ∧
    (part < 16 → s.startCause p ≠ 0 →
      exec (.resizeStart part) s = .next (put { p with err := BitVec.ofNat 4 (s.startCause p) })) ∧
    (16 ≤ part → exec (.resizeStart part) s = .next s) ∧
    (p.state = .prepare ∨ p.state = .migrate → exec (.resizeAbort part) s = .next (s.endResize p 12)) ∧
    (p.state ∈ [.rehash, .drain, .release, .scrub] → exec (.resizeAbort part) s = .next (put { p with err := 11 })) ∧
    (p.state = .drain → exec (.resizeAdvance part) s = .next (s.enterRelease p)) ∧
    (∀ leaf, s.pkg.leafUp leaf = true → p.state = .prepare → leaf ∈ p.acks →
      let p1 := { p with acks := p.acks.filter (· != leaf) }
      exec (.prepareAck part leaf) s = .next (if p1.acks = [] then s.enterMigrate p1 else put p1)) ∧
    (p.state = .migrate → p.phaseAt + 1000000 * 2 ^ p.migTmo.toNat ≤ s.timeNs →
      exec (.migrateTimeout part) s = .next (s.endResize p 9)) ∧
    (∀ slice, p.state = .rehash → let p1 := { p with sweep := p.sweep.filter (· != slice) }
      exec (.rehashLineMove part slice) s = .next (if p1.sweep = [] then s.enterDrain p1 else put p1)) ∧
    (p.state = .drain → p.drnBusy = false →
      (p.drainFault = true → exec (.drnCopyGo part) s = .next (put { p with drnFault := true })) ∧
      (p.drainFault = false → exec (.drnCopyGo part) s =
        .next (s.drainPage { p with drnBusy := true } (p.drnSrc.toNat / 4096 * 4096)))) ∧
    (p.drnBusy = true ∨ p.state ≠ .drain → exec (.drnCopyGo part) s = .next s) ∧
    (p.drnBusy = false → exec (.drnCopyDone part) s = .next s) ∧
    (p.drnBusy = true → exec (.drnCopyDone part) s =
      .next (s.drainEnd p (p.drnSrc.toNat / 4096 * 4096) (p.drnDst.toNat / 4096 * 4096))) ∧
    (p.state = .release → (∀ a b as, p.acks = a :: b :: as →
        exec (.releaseAck part) s = .next (put { p with acks := b :: as })) ∧
      (p.acks.length ≤ 1 → exec (.releaseAck part) s = .next (s.enterScrub p))) ∧
    (∀ u, p.state = .scrub → u ∈ p.units → let p1 := { p with units := p.units.filter fun x => x != u }
      exec (.scrubUnit part u) s =
        .next (if p1.units = [] then (s.scrub p u).endResize p1 p.err.toNat else (s.scrub p u).putPart p1)) ∧
    (∀ n a, 2 ^ 34 * n ≤ a → a < 2 ^ 34 * (n + 1) → a < hostBase → (s.scrub p (.group n)).homeByte false a = 0) ∧
    (∀ n a, 524288 * n ≤ a → a < 524288 * (n + 1) → (s.scrub p (.slice n)).homeByte true a = 0) ∧
    (∀ b, s.block? b.id = some b → b.part = part → p.state = .migrate → s.pkg.leafUp (b.core / 8) = true →
      b.id ∈ s.toMigrate p → s.mayMigrate p b = true →
      (b.saved = none → exec (.blockMigrate b.id) s = .next (s.haltMigrating b)) ∧
      (b.saved.isSome = true → exec (.blockMigrate b.id) s = .next s)) ∧
    (∀ n : Node, s.pkg.booted = true → s.pkg.schedUp = true → s.nodes = [n] → n.part = part → n.status = .valid →
      n.held = false → n.blkHeld = false → n.lost = false → n.queue ≠ [] → s.heldNow n = false →
      let total := ((List.range 20).map (s.clusterSlots p)).sum
      exec (.shareRound part) s = .next (s.giveShare p total (n.weight * n.occupancy) n)) ∧
    (∀ (n : Node) total sum, let t := targetShare total (n.weight * n.occupancy) sum n.occupancy (pktSlots n.pkt)
      (t = n.share → s.giveShare p total sum n = s) ∧
      (t ≠ n.share → t = 0 ∨ n.share = 0 → s.giveShare p total sum n = s.writeNode { n with
        share := t, quota := splitQuota t ((List.range 20).map (s.clusterSlots p)) }) ∧
      (n.share ≠ 0 → t ≠ 0 → (n.share < t + 16 ∧ t < n.share + 16) → s.giveShare p total sum n = s)) ∧
    (∀ leaf, leaf < 20 → s.pkg.booted = true → s.pkg.leafUp leaf = true →
      let turn := s.pkg.takeTurn leaf
      let fuel (s : State) : Nat := 129 + (s.nodes.map fun n => n.queue.length).sum
      let each (f : State → Nat → State) (s : State) : State := s.nodeNums.foldl f s
      (turn.2 = true ↔ ∀ c, c < leaf → s.pkg.leafUp c = true → leaf ∉ s.pkg.roundDone ∧ c ∈ s.pkg.roundDone) ∧
      (turn.2 = false → exec (.placementRound leaf) s = .next s) ∧
      (turn.2 = true → ∃ s1 s2 s3 s4 : State, s1 = State.resumeAll leaf [] (s.resumeList leaf) { s with pkg := turn.1 } ∧
        s2 = each (fun s n => s.offerGangs n leaf (fuel s1)) s1 ∧
        s3 = s1.nodeNums.foldl (fun s n => s.startWithin n leaf (fuel s1)) s2 ∧
        s4 = s1.nodeNums.foldl (fun s n => s.backfill n leaf (s3.nodes.any fun m =>
          s3.tries m leaf && decide (8 ≤ m.failedIn leaf)) (fuel s1)) s3 ∧
        exec (.placementRound leaf) s = .next ((List.range 16).foldl State.settleMigrate
          ((((s4.teams.filter fun t => t.resident && t.core / 8 == leaf && t.status == .spawn []).foldl
            State.saveSpawner s4).skewAll leaf).reportPlaced leaf)))) ∧
    (∀ c x xs t, x.first = true → s.resumeItem c x = (t, false) → (∀ y ∈ xs, y.part = x.part ∧ y.first = false) →
      State.resumeAll c [] (x :: xs) s = t) ∧
    (∀ (n : Node) k s1 leaf fuel, s.node? n.num = some n → n.quotaIn leaf = some k →
      s.startNext n (clusterCores leaf) (k - s.slotsHeld n.num leaf) = some s1 →
      s.startWithin n.num leaf (fuel + 1) = s1.startWithin n.num leaf fuel) ∧
    (∀ (n : Node) q qs, s.node? n.num = some n → n.waiting = q :: qs → q.arrived + n.coalT ≤ s.timeNs →
      exec (.coalesceTimeout n.num) s = .next (s.putNode { n with coalesced := some q.seq })) ∧
    (∀ (n : Node) q qs now, n.waiting = q :: qs → (n.triggered now = true ↔
      n.coalC ≤ qs.length + 1 ∨ n.coalesced = some q.seq ∨ q.arrived + n.coalT ≤ now)) ∧
    (∀ core c, s.nextSlice part core (s.sliceNow part core) = some c →
      let bs := (s.onCore core).filter fun b => b.part == part && b.ctx == s.sliceNow part core
      (bs = [] → exec (.timeSliceEnd core part) s = .next (s.takeSlice part core c)) ∧
      ∀ b, bs = [b] → s.block? b.id = some b → b.gangN = 0 → exec (.timeSliceEnd core part) s =
        .next ((s.haltBlock b false []).takeSlice part core c)) ∧
    (∀ t : Team, t.halt.resident = false ∧ t.halt.gen = t.gen + 1 ∧ t.halt.region = none ∧ t.halt.latches = [] ∧
      (∀ g, t.region = some g → (∀ r n, t.status ≠ .window r n) → t.halt.pc = g.start)) ∧
    (∀ gid a b, s.gangBlocks gid = [a, b] → a.saved = none → b.saved = none →
      let own (r : Remote) : Bool := r.src == a.id || r.src == b.id
      let s1 : State := { s with remoteQ := s.remoteQ.filter fun r => !own r }
      exec (.gangHalt gid false) s = .next ((s1.haltBlock a false (s.remoteQ.filter fun r => r.src == a.id)).haltBlock b false
        (s.remoteQ.filter fun r => r.src == b.id))) ∧
    (∀ b v core cv x c, s.block? b.id = some b → b.saved = some v → b.gangN = 0 → x.what = .block b.id →
      s.firstRoom b.part b.ctx (s.needOf b) (clusterCores c) = some (core, cv) →
      s.resumeItem c x = ((s.restoreInto b v core cv).takeSlice b.part core b.ctx, true)) ∧
    (∀ b core, s.block? b.id = some b → let c := b.core / 8
      s.pkg.leafFailed.contains c = false →
      (s.pkg.leafUp c = false → exec (.blockResume b.id core) s = .next s) ∧
      (s.pkg.leafUp c = true →
        (s.resumeFirst c [] (s.resumeList c) = none → exec (.blockResume b.id core) s = .next s) ∧
        ∀ x t, s.resumeFirst c [] (s.resumeList c) = some (x, t) → b.gangN = 0 →
          (x.what = .block b.id ∧ (t.block? b.id).map Block.core = some core → exec (.blockResume b.id core) s = .next t) ∧
          (¬(x.what = .block b.id ∧ (t.block? b.id).map Block.core = some core) → exec (.blockResume b.id core) s = .next s))) ∧
    (∀ core slot half (t : Team) r since b, s.teamAt core slot half = some t → t.status = .window r since →
      since + 10000 ≤ s.timeNs → s.latestBlock (s.blockOf t).part core (fun b => b.id != t.blk &&
        !(s.protected b && b.node == (s.blockOf t).node)) = some b →
      exec (.handlerWindowTimeout core slot half) s = .next (s.preempt b)) ∧
    (∀ core slot half (t : Team) (tr : TrapState), s.teamAt core slot half = some t → t.hold = some tr →
      exec (.guestFaultResume core slot half true) s = .next (s.putTeam (t.release tr)) ∧
      exec (.guestFaultResume core slot half false) s = .next (s.abortBlock (s.blockOf t)) ∧
      (t.release tr).status = .ready ∧ (t.release tr).pc = tr.resume ∧ (t.release tr).hold = none ∧
      (t.release tr).mask = if tr.full = true then tr.mask else tr.pending)

/-- Events of memory, samples, waits and draws. Rays of a draw without a ray section, boxes with NaN and single visits (log 85) and the
CHAIN copies of a retired draw (log 86) are the model's choices; reasons that timing decides are free (log 30). -/
def Obligations.MemoryAndWaitEvents : Prop :=
  (∀ (s : State) (n : Nat) (e : StoreEnt), s.storeQ[n]? = some e → (∀ x ∈ s.storeQ.take n, s.storeAfter x e = false) →
    ∃ t, exec (.storePerformedAtHome n) s = .next t ∧ t.storeQ = s.storeQ.eraseIdx n ∧
      t.homeRead e.chip e.pa e.bytes.length = e.bytes ∧
      ∀ chip a, (chip ≠ e.chip ∨ a < e.pa ∨ e.pa + e.bytes.length ≤ a) → t.homeByte chip a = s.homeByte chip a) ∧
  (∀ (s : State) (core n : Nat) (l : Line), (s.coreSt core).l1[n]? = some l →
    ∃ t, exec (.l1Eviction core n) s = .next t ∧ (t.coreSt core).l1 = (s.coreSt core).l1.eraseIdx n ∧
      (∀ i, i < 128 → t.homeByte l.chip (128 * l.line + i) =
        if l.dirty.getLsbD i = true then mget memDefault l.data i else s.homeByte l.chip (128 * l.line + i)) ∧
      ∀ chip a, (chip ≠ l.chip ∨ a / 128 ≠ l.line) → t.homeByte chip a = s.homeByte chip a) ∧
  (∀ (s : State) (c : Ctx), s.ctx c.id = c →
    (∀ page va, c.tlbiBusy = false → c.tlbiScope.toNat < 2 → page = decide (c.tlbiScope = 1) → va = c.tlbiVa.toNat % 2 ^ 48 →
      exec (.tlbiCtlGo c.id) s = .next (s.putCtx { c with tlbiBusy := true, tlbiPend := some (page, va) })) ∧
    (let ps := match s.tlbis c.id with | [] => [none] | ps => ps
      ∃ t, exec (.tlbiComplete c.id) s = .next t ∧ t.tlb = (s.tlb.filter fun e => !(e.ctx == c.id &&
        ps.any fun p => e.inPage p)).map fun e => if e.ctx == c.id then ps.foldl Tlb.strip e else e) ∧
    (∀ v : BitVec 32, let r := s.heapRefusal c (v.getLsbD 31)
      (r = 0 → exec (.heapctlWrite c.id v) s = .next (s.putCtx { c with heapEn := v.getLsbD 31 })) ∧
      (r ≠ 0 → exec (.heapctlWrite c.id v) s = .next (s.putCtx { c with heapErr := BitVec.ofNat 4 r }))) ∧
    (s.ctxAtWork c.id = true → s.heapRefusal c true = 1 ∧ s.heapRefusal c false = 1) ∧
    (∀ v : BitVec 32, c.smpEn = false → v.getLsbD 31 = false → exec (.smpCtlWrite c.id v) s = .next (s.putCtx { c with
      smpEn := false, smpSize := v.extractLsb' 16 5, smpPeriod := v.truncate 16 })) ∧
    (∃ t, exec (.smpDroppedRead c.id) s = .next t ∧ t.pkg.readVal = s.csr c 0x14 ∧
      t.ctxs = (s.putCtx { c with smpDropped := 0 }).ctxs)) ∧
  (∀ (s : State) (core slot half : Nat) (t : Team), s.teamAt core slot half = some t →
    let to_ (i : Instr) (t' : Team) : Prop := exec i s = .next (s.putTeam t')
    let b := s.blockOf t
    (∀ n, n < t.flights.length → exec (.loadReturn core slot half n) s = .next ((s.landFlight t n).1.putTeam (s.landFlight t n).2)) ∧
    (∀ n f, t.flights[n]? = some f → s.loadQ = [] → to_ (.loadReturn core slot half n) (((t.dropFlight n).overtake n f).land f)) ∧
    (∀ n f, f.home = false ∨ n = 0 → t.overtake n f = t) ∧
    (∀ n f, t.flights[n]? = some f → f.gen = t.gen → ∃ c : AsyncCause, c.cause = .linkLost ∧ c.pc = f.pc ∧
      c.lanes = f.lanes &&& ~~~t.helper ∧
      let t' := (t.dropFlight n).land { f with vals := [] }
      let s' : State := { s with loadQ := s.loadQ.filter fun e => !e.ofFlight t f }
      exec (.linkLostReturn core slot half n) s = .next (s'.putTeam { t' with async := t'.async ++ [c] })) ∧
    exec (.linkLostReturn core slot half t.flights.length) s = .next (s.loseAtomic t) ∧
    (∀ k o, ((s.coreSt core).ops.filter fun o => o.tid == t.tid)[k]? = some o →
      exec (.linkLostReturn core slot half (t.flights.length + 1 + k)) s = .next (s.loseOp core o)) ∧
    (∀ space a n v dst lanes obt, t.status = .awaitv space a n v dst lanes obt →
      (s.watched space a n = v.toNat → exec (.awaitvWake core slot half) s = .next s) ∧
      (s.watched space a n ≠ v.toNat → exec (.awaitvWake core slot half) s =
        .next ((if obt = true then s.targetEnd t.core b.ctx false else s).putTeam ((t.putRun dst lanes (atomRuns (n == 8) fun _ => s.watched space a n)).wake 16)))) ∧
    (∀ k ph, t.status = .barrier k ph → ((s.bar core (b.bar0 + k)).phase = ph → exec (.barwWake core slot half) s = .next s) ∧
      ((s.bar core (b.bar0 + k)).phase ≠ ph → exec (.barwWake core slot half) s =
        .next ((s.barTarget core b.ctx (b.bar0 + k)).putTeam (t.wake 8)))) ∧
    (∀ fr, t.status = .await → t.frame = some fr →
      (s.join (s.whoOf t) fr ≠ 0 → exec (.awaitWake core slot half) s = .next s) ∧
      (s.join (s.whoOf t) fr = 0 → b.draw = none → exec (.awaitWake core slot half) s =
        .next ((s.targetEnd t.core (s.whoOf t).ctx false).unpark t))) ∧
    (∀ part us, s.vgrowQueue core part = t :: us → s.protected b = false →
      (s.canGrow t = true → to_ (.vgrowGrant core part) (t.grow.wake 8)) ∧
      (s.canGrow t = false → exec (.vgrowGrant core part) s = .next s)) ∧
    (∀ desc f e, t.status = .spawn desc → e = s.envOf t → e.fetch.2 = .instr (.spawn f) →
      (e.nodeNamed (e.uval f.sa.toNat) = none → t.frame = none → exec (.spawnRetry core slot half) s =
        ({ e with t := { t with status := .ready, stall := 0 } } : Env).teamTrap e.s (.spawn f) .nodeUnknown) ∧
      ((e.nodeNamed (e.uval f.sa.toNat)).isSome = true →
        (∀ s1, e.spawnNow f true = some s1 → exec (.spawnRetry core slot half) s = .next (s1.unpark e.t)) ∧
        (e.spawnNow f true = none → exec (.spawnRetry core slot half) s = .next e.s))) ∧
    (t.byCowslip = true → to_ (.cowslipContinue core slot half) (t.wake 8)) ∧
    (t.wake 8).status = .ready ∧ (t.wake 8).pc = t.pc + 8 ∧
    (∀ d d' bt, b.draw = some d → t.batch = none → t.status = .ready →
      d.choose t.lanes t.tid (if d.hasTier 7 = true ∧ ((s.teams.filter fun u => u.blk == b.id).map Team.num).foldl Nat.max 0 = t.num
        then [7] else [6, 5, 4, 3, 2, 1]) = some (d', bt) → 
        let s1 := s.putDraw b { d' with batches := d'.batches ++ [bt] }
        exec (.batchDispatch core slot half) s =
          .next ((if bt.tier = 7 then s1.targetEnd t.core b.ctx false else s1).putTeam (t.startBatch d' bt))) ∧
    (∀ c : Ctx, t.resident = true → t.core = core → t.entered ≠ s.clk → s.teams = [t] → s.left = [] → b.ctx = c.id → s.ctx c.id = c → c.smpEn = true →
      t.fore = false → t.half = mget 0 c.smpHalf (16 * core + t.slot) →
      let a := s.coreSt core
      let per := if mget 0 a.smpPer c.id = 0 then c.period else mget 0 a.smpPer c.id
      let left := mget 0 a.smpLeft c.id
      (left < per → exec (.sampleTake core c.id) s = .next s) ∧
      (per ≤ left → exec (.sampleTake core c.id) s =
        let s1 := (s.putCore core { a with smpLeft := mset 0 a.smpLeft c.id (left - per), smpPer := mset 0 a.smpPer c.id 0 }).putCtx
          { c with smpSlot := mset 15 c.smpSlot core t.slot,
                   smpHalf := mset 0 c.smpHalf (16 * core + t.slot) (mget 0 c.smpHalf (16 * core + t.slot)) }
        let seen := s.seen t
        .next (s1.sample b t seen.pc (s.reasonOf seen)))) ∧
    (∀ c : Ctx, t.resident = true → t.entered = s.clk → s.teams = [t] → s.left = [] →
      exec (.sampleTake core c.id) s = .next s)) ∧
  ∀ (s : State) (b : Block) (d : Draw), s.block? b.id = some b → b.draw = some d →
    (∀ d', b.saved = none → s.setupNext b d = some d' →
      exec (.triangleSetup b.id) s = .next (s.putDraw b d')) ∧
    (∀ n seq, s.drawOver b = true → s.node? b.node = some n → b.shared = some seq →
      (s.lastCopy b = false → exec (.drawRetire b.id) s = .next (s.endBlock b)) ∧
      (s.lastCopy b = true → (fieldOf d.root 0x20 4).testBit 3 = false → exec (.drawRetire b.id) s =
        .next ((s.retire b.unit b.node seq false).endBlock b)) ∧
      (s.lastCopy b = true → (fieldOf d.root 0x20 4).testBit 3 = true → s.chainRoom n = true → exec (.drawRetire b.id) s =
        .next (((s.retire b.unit b.node seq false).chain n d.root b.ctx).endBlock b)) ∧
      (s.lastCopy b = true → (fieldOf d.root 0x20 4).testBit 3 = true → s.chainRoom n = false →
        exec (.drawRetire b.id) s = .next s)) ∧
    ∀ (x : Ray) h, b.saved = none → d.rays.find? (fun y => y.id == x.id && y.hit.isNone && y.ret.isNone) = some x →
      s.traverse b x = .hit h →
      let put (r : Ray → Ray) : State :=
        s.putBlock { b with draw := some { d with rays := d.rays.map fun y => if y.id == x.id then r y else y } }
      (d.hasTier 7 = true → exec (.rayTraversal b.id x.id) s = .next (put fun y => { y with hit := some h })) ∧
      (d.hasTier 7 = false → exec (.rayTraversal b.id x.id) s =
        .next ((put fun y => { y with hit := some h, ret := some [0, 0, 0, 0] }).decJoin b.unit x.frame))
end

