-- ==== Sys2Proof/Laws/Maps.lean ====
section
/-! SUPPORT. Laws of sparse arrays: read after write, and that every operation keeps the canonical form. The reading laws
hold of every list, canonical or not, so that no statement about a read needs an invariant. -/

set_option Elab.async false

namespace Sys2Proof.Machine

variable {β : Type}

@[simp] theorem mget_nil (d : β) (k : Nat) : mget d [] k = d := rfl

theorem mget_cons (d : β) (j : Nat) (x : β) (r : Map β) (k : Nat) :
    mget d ((j, x) :: r) k = if j = k then x else mget d r k := rfl

/-- Reading through a concatenation: the first list, where it lists the key. -/
theorem mget_append (d : β) (m n : Map β) (k : Nat) :
    mget d (m ++ n) k = bif m.any (fun e => e.1 == k) then mget d m k else mget d n k := by
  induction m with
  | nil => rfl
  | cons e r ih =>
    obtain ⟨j, x⟩ := e
    rw [List.cons_append, mget_cons, mget_cons, List.any_cons, ih]
    by_cases h : j = k
    · simp [h]
    · have h' : (j == k) = false := by simpa using h
      rw [if_neg h, if_neg h, h', Bool.false_or]

/-- A key that is not listed reads as the default. -/
theorem mget_of_not_any (d : β) (m : Map β) (k : Nat) (h : m.any (fun e => e.1 == k) = false) : mget d m k = d := by
  induction m with
  | nil => rfl
  | cons e r ih =>
    obtain ⟨j, x⟩ := e
    simp only [List.any_cons, Bool.or_eq_false_iff, beq_eq_false_iff_ne] at h
    rw [mget_cons, if_neg h.1, ih h.2]

/-- A filter on keys leaves the keys that it keeps as they were. -/
theorem mget_filter (d : β) (p : Nat → Bool) (m : Map β) (k : Nat) :
    mget d (m.filter fun e => p e.1) k = if p k then mget d m k else d := by
  induction m with
  | nil => simp
  | cons e r ih =>
    obtain ⟨j, x⟩ := e
    by_cases hj : p j
    · rw [List.filter_cons_of_pos (by simpa using hj)]
      simp only [mget_cons, ih]
      by_cases hk : j = k
      · subst hk; simp [hj]
      · simp [hk]
    · rw [List.filter_cons_of_neg (by simpa using hj), ih, mget_cons]
      by_cases hk : j = k
      · subst hk; simp [hj]
      · simp [hk]

theorem any_filter_key (p : Nat → Bool) (m : Map β) (k : Nat) :
    (m.filter fun e => p e.1).any (fun e => e.1 == k) = (p k && m.any fun e => e.1 == k) := by
  induction m with
  | nil => simp
  | cons e r ih =>
    obtain ⟨j, x⟩ := e
    by_cases hj : p j
    · rw [List.filter_cons_of_pos (by simpa using hj)]
      simp only [List.any_cons, ih]
      by_cases hk : j = k
      · subst hk; simp [hj]
      · have h' : (j == k) = false := by simpa using hk
        simp [h']
    · rw [List.filter_cons_of_neg (by simpa using hj), ih]
      by_cases hk : j = k
      · subst hk; simp [hj]
      · have h' : (j == k) = false := by simpa using hk
        simp [h']

/-- Read after write. -/
theorem mget_mset [DecidableEq β] (d : β) (m : Map β) (k j : Nat) (x : β) :
    mget d (mset d m k x) j = if j = k then x else mget d m j := by
  unfold mset
  rw [mget_append, mget_append, List.any_append]
  have a1 : (m.filter fun e => decide (e.1 < k)).any (fun e => e.1 == j) =
      (decide (j < k) && m.any fun e => e.1 == j) := any_filter_key (fun i => decide (i < k)) m j
  have g1 : mget d (m.filter fun e => decide (e.1 < k)) j = if decide (j < k) then mget d m j else d :=
    mget_filter d (fun i => decide (i < k)) m j
  have g2 : mget d (m.filter fun e => decide (k < e.1)) j = if decide (k < j) then mget d m j else d :=
    mget_filter d (fun i => decide (k < i)) m j
  rw [a1, g1, g2]
  by_cases hj : j = k
  · subst hj
    by_cases hx : x = d <;> simp [hx, mget_cons]
  · have hone : (if x = d then [] else [(k, x)] : Map β).any (fun e => e.1 == j) = false := by
      split <;> simp [Ne.symm hj]
    have hget : mget d (if x = d then [] else [(k, x)]) j = d := mget_of_not_any d _ j hone
    rw [hone, hget, if_neg hj, Bool.or_false]
    cases h : (List.any m fun e => e.1 == j)
    · rw [mget_of_not_any d m j h]; simp
    · by_cases hjk : j < k
      · simp [hjk]
      · have hk : k < j := by omega
        simp [hjk, hk]

@[simp] theorem mget_mset_same [DecidableEq β] (d : β) (m : Map β) (k : Nat) (x : β) : mget d (mset d m k x) k = x := by
  rw [mget_mset, if_pos rfl]

theorem mget_mset_other [DecidableEq β] (d : β) (m : Map β) {k j : Nat} (x : β) (h : j ≠ k) :
    mget d (mset d m k x) j = mget d m j := by
  rw [mget_mset, if_neg h]

/-- A slice reads as the array it was cut from. -/
theorem mget_mslice (d : β) (m : Map β) (lo n k : Nat) :
    mget d (mslice m lo n) k = if k < n then mget d m (lo + k) else d := by
  induction m with
  | nil => simp [mslice]
  | cons e r ih =>
    obtain ⟨j, x⟩ := e
    unfold mslice at ih ⊢
    by_cases hj : lo ≤ j ∧ j < lo + n
    · rw [List.filterMap_cons_some (b := (j - lo, x)) (by simp [hj])]
      rw [mget_cons, mget_cons, ih]
      by_cases hk : k < n
      · have : (j - lo = k) ↔ (j = lo + k) := by omega
        simp [hk, this]
      · have : j - lo ≠ k := by omega
        simp [hk, this]
    · rw [List.filterMap_cons_none (by simp only [hj, if_false]), ih, mget_cons]
      by_cases hk : k < n
      · have : j ≠ lo + k := by omega
        simp [hk, this]
      · simp [hk]

theorem mget_map_shift (d : β) (row : Map β) (lo k : Nat) :
    mget d (row.map fun e => (e.1 + lo, e.2)) k = if lo ≤ k then mget d row (k - lo) else d := by
  induction row with
  | nil => simp
  | cons e r ih =>
    obtain ⟨j, x⟩ := e
    rw [List.map_cons, mget_cons, mget_cons, ih]
    by_cases hk : lo ≤ k
    · have : (j + lo = k) ↔ (j = k - lo) := by omega
      simp [hk, this]
    · have : j + lo ≠ k := by omega
      simp [hk, this]

theorem any_map_shift (row : Map β) (lo k : Nat) :
    (row.map fun e => (e.1 + lo, e.2)).any (fun e => e.1 == k) =
      (decide (lo ≤ k) && row.any fun e => e.1 == k - lo) := by
  induction row with
  | nil => simp
  | cons e r ih =>
    obtain ⟨j, x⟩ := e
    rw [List.map_cons, List.any_cons, List.any_cons, ih]
    by_cases hk : lo ≤ k
    · have : (j + lo == k) = (j == k - lo) := by
        rw [Bool.eq_iff_iff]; simp; omega
      simp [hk, this]
    · have : (j + lo == k) = false := by simp; omega
      simp [hk, this]

/-- A replaced range reads as its row, and every other entry as before. -/
theorem mget_mput (d : β) (m : Map β) (lo n : Nat) (row : Map β) (h : ∀ e ∈ row, e.1 < n) (k : Nat) :
    mget d (mput m lo n row) k = if lo ≤ k ∧ k < lo + n then mget d row (k - lo) else mget d m k := by
  unfold mput
  have a1 : (m.filter fun e => decide (e.1 < lo)).any (fun e => e.1 == k) =
      (decide (k < lo) && m.any fun e => e.1 == k) := any_filter_key (fun i => decide (i < lo)) m k
  have g1 : mget d (m.filter fun e => decide (e.1 < lo)) k = if decide (k < lo) then mget d m k else d :=
    mget_filter d (fun i => decide (i < lo)) m k
  have g2 : mget d (m.filter fun e => decide (lo + n ≤ e.1)) k = if decide (lo + n ≤ k) then mget d m k else d :=
    mget_filter d (fun i => decide (lo + n ≤ i)) m k
  rw [mget_append, mget_append, List.any_append, a1, g1, g2, any_map_shift, mget_map_shift]
  by_cases h1 : k < lo
  · have h2 : ¬ lo ≤ k := by omega
    have h3 : ¬ lo + n ≤ k := by omega
    cases h : (List.any m fun e => e.1 == k)
    · rw [mget_of_not_any d m k h]; simp [h2]
    · simp [h1, h2]
  · have h2 : lo ≤ k := by omega
    by_cases h3 : lo + n ≤ k
    · have h4 : ¬ (lo ≤ k ∧ k < lo + n) := by omega
      have h5 : (List.any row fun e => e.1 == k - lo) = false := by
        rw [Bool.eq_false_iff]
        intro hc
        obtain ⟨e, he, hk⟩ := List.any_eq_true.mp hc
        have := h e he
        have : e.1 = k - lo := by simpa using hk
        omega
      rw [if_neg h4, h5]
      simp [h1, h3]
    · have h4 : lo ≤ k ∧ k < lo + n := by omega
      rw [if_pos h4]
      cases h6 : (List.any row fun e => e.1 == k - lo)
      · simp [h1, h3, mget_of_not_any d row _ h6]
      · simp [h1, h2]

/-- Successive keys from `a` that the values of a function fill. -/
theorem mget_filterMap_range' [DecidableEq β] (d : β) (f : Nat → β) (a n k : Nat) :
    mget d ((List.range' a n).filterMap fun k => if f k = d then none else some (k, f k)) k =
      if a ≤ k ∧ k < a + n then f k else d := by
  induction n generalizing a with
  | zero =>
    have : ¬ (a ≤ k ∧ k < a + 0) := by omega
    rw [if_neg this]; rfl
  | succ n ih =>
    rw [List.range'_succ]
    by_cases hf : f a = d
    · rw [List.filterMap_cons_none (by simp [hf]), ih]
      by_cases hk : k = a
      · subst hk; simp [hf]
      · have : (a + 1 ≤ k ∧ k < a + 1 + n) ↔ (a ≤ k ∧ k < a + (n + 1)) := by omega
        rw [if_congr this rfl rfl]
    · rw [List.filterMap_cons_some (b := (a, f a)) (by simp [hf]), mget_cons, ih]
      by_cases hk : a = k
      · subst hk; simp
      · have : (a + 1 ≤ k ∧ k < a + 1 + n) ↔ (a ≤ k ∧ k < a + (n + 1)) := by omega
        rw [if_neg hk, if_congr this rfl rfl]

@[simp] theorem mget_mrow [DecidableEq β] (d : β) (n : Nat) (f : Nat → β) (k : Nat) :
    mget d (mrow d n f) k = if k < n then f k else d := by
  have := mget_filterMap_range' d f 0 n k
  simp only [Nat.zero_le, true_and, Nat.zero_add, ← List.range_eq_range'] at this
  exact this

theorem mrow_keys [DecidableEq β] (d : β) (n : Nat) (f : Nat → β) : ∀ e ∈ mrow d n f, e.1 < n := by
  intro e he
  simp only [mrow, List.mem_filterMap, List.mem_range] at he
  obtain ⟨k, hk, h⟩ := he
  split at h
  · cases h
  · cases h; exact hk

/-! ### The canonical form -/

theorem mwfFrom_mono [DecidableEq β] (d : β) {a b : Nat} (hab : a ≤ b) (m : Map β) (h : mwfFrom d b m = true) :
    mwfFrom d a m = true := by
  cases m with
  | nil => rfl
  | cons e r =>
    obtain ⟨j, x⟩ := e
    simp only [mwfFrom, Bool.and_eq_true, decide_eq_true_eq] at h ⊢
    exact ⟨⟨by omega, h.1.2⟩, h.2⟩

/-- The keys of a canonical array are above its bound. -/
theorem mwfFrom_le [DecidableEq β] (d : β) (a : Nat) (m : Map β) (h : mwfFrom d a m = true) : ∀ e ∈ m, a ≤ e.1 := by
  induction m generalizing a with
  | nil => simp
  | cons e r ih =>
    obtain ⟨j, x⟩ := e
    simp only [mwfFrom, Bool.and_eq_true, decide_eq_true_eq] at h
    intro e he
    rcases List.mem_cons.mp he with rfl | he
    · exact h.1.1
    · have := ih (j + 1) h.2 e he; omega

/-- What canonical means entry by entry: keys strictly rise from the bound, and no value is the default. -/
theorem mwfFrom_iff [DecidableEq β] (d : β) (a : Nat) (m : Map β) :
    mwfFrom d a m = true ↔ (∀ e ∈ m, a ≤ e.1 ∧ e.2 ≠ d) ∧ m.Pairwise fun e f => e.1 < f.1 := by
  induction m generalizing a with
  | nil => simp [mwfFrom]
  | cons e r ih =>
    obtain ⟨j, x⟩ := e
    simp only [mwfFrom, Bool.and_eq_true, decide_eq_true_eq, ih, List.pairwise_cons, List.mem_cons,
      forall_eq_or_imp]
    constructor
    · rintro ⟨⟨h1, h2⟩, h3, h4⟩
      refine ⟨⟨⟨h1, h2⟩, fun e he => ?_⟩, fun e he => ?_, h4⟩
      · have := h3 e he; exact ⟨by omega, this.2⟩
      · have := (h3 e he).1; omega
    · rintro ⟨⟨⟨h1, h2⟩, h3⟩, h4, h5⟩
      exact ⟨⟨h1, h2⟩, fun e he => ⟨h4 e he, (h3 e he).2⟩, h5⟩

theorem mwf_iff [DecidableEq β] (d : β) (m : Map β) :
    mwf d m = true ↔ (∀ e ∈ m, e.2 ≠ d) ∧ m.Pairwise fun e f => e.1 < f.1 := by
  simp [mwf, mwfFrom_iff]

theorem mwf_filter [DecidableEq β] (d : β) (p : Nat × β → Bool) (m : Map β) (h : mwf d m = true) :
    mwf d (m.filter p) = true := by
  rw [mwf_iff] at h ⊢
  exact ⟨fun e he => h.1 e (List.mem_of_mem_filter he), h.2.filter p⟩

/-- Three canonical parts in the order of their keys make a canonical array. -/
theorem mwf_append [DecidableEq β] (d : β) (m n : Map β) (hm : mwf d m = true) (hn : mwf d n = true)
    (h : ∀ e ∈ m, ∀ f ∈ n, e.1 < f.1) : mwf d (m ++ n) = true := by
  rw [mwf_iff] at *
  refine ⟨fun e he => ?_, List.pairwise_append.mpr ⟨hm.2, hn.2, h⟩⟩
  rcases List.mem_append.mp he with he | he
  · exact hm.1 e he
  · exact hn.1 e he

theorem mput_wf [DecidableEq β] (d : β) (m : Map β) (lo n : Nat) (row : Map β) (hm : mwf d m = true)
    (hr : mwf d row = true) (hk : ∀ e ∈ row, e.1 < n) : mwf d (mput m lo n row) = true := by
  have hrow : mwf d (row.map fun e => (e.1 + lo, e.2)) = true := by
    rw [mwf_iff] at hr ⊢
    refine ⟨?_, ?_⟩
    · intro e he
      obtain ⟨f, hf, rfl⟩ := List.mem_map.mp he
      exact hr.1 f hf
    · rw [List.pairwise_map]
      exact hr.2.imp fun h => by simpa using h
  unfold mput
  refine mwf_append d _ _ (mwf_append d _ _ (mwf_filter d _ m hm) hrow ?_) (mwf_filter d _ m hm) ?_
  · intro e he f hf
    obtain ⟨g, hg, rfl⟩ := List.mem_map.mp hf
    have := (List.mem_filter.mp he).2
    simp only [decide_eq_true_eq] at this
    show e.1 < g.1 + lo
    omega
  · intro e he f hf
    have h2 := (List.mem_filter.mp hf).2
    simp only [decide_eq_true_eq] at h2
    rcases List.mem_append.mp he with he | he
    · have := (List.mem_filter.mp he).2
      simp only [decide_eq_true_eq] at this
      omega
    · obtain ⟨g, hg, rfl⟩ := List.mem_map.mp he
      have := hk g hg
      show g.1 + lo < f.1
      omega

theorem mclear_wf [DecidableEq β] (d : β) (m : Map β) (lo n : Nat) (hm : mwf d m = true) :
    mwf d (mclear m lo n) = true :=
  mput_wf d m lo n [] hm rfl (by simp)

theorem mset_wf [DecidableEq β] (d : β) (m : Map β) (k : Nat) (x : β) (hm : mwf d m = true) :
    mwf d (mset d m k x) = true := by
  unfold mset
  have hone : mwf d (if x = d then [] else [(k, x)]) = true := by
    split <;> simp [mwf, mwfFrom, *]
  refine mwf_append d _ _ (mwf_append d _ _ (mwf_filter d _ m hm) hone ?_) (mwf_filter d _ m hm) ?_
  · intro e he f hf
    have := (List.mem_filter.mp he).2
    simp only [decide_eq_true_eq] at this
    split at hf
    · cases hf
    · cases List.mem_singleton.mp hf; exact this
  · intro e he f hf
    have h2 := (List.mem_filter.mp hf).2
    simp only [decide_eq_true_eq] at h2
    rcases List.mem_append.mp he with he | he
    · have := (List.mem_filter.mp he).2
      simp only [decide_eq_true_eq] at this
      omega
    · split at he
      · cases he
      · cases List.mem_singleton.mp he; exact h2

theorem msetList_wf [DecidableEq β] (d : β) (xs : List β) (m : Map β) (k : Nat) (hm : mwf d m = true) :
    mwf d (msetList d m k xs) = true := by
  induction xs generalizing m k with
  | nil => exact hm
  | cons x xs ih => exact ih _ _ (mset_wf d m k x hm)

theorem mslice_wf [DecidableEq β] (d : β) (m : Map β) (lo n : Nat) (hm : mwf d m = true) :
    mwf d (mslice m lo n) = true := by
  have key : ∀ e f : Nat × β, (if lo ≤ e.1 ∧ e.1 < lo + n then some (e.1 - lo, e.2) else none) = some f →
      lo ≤ e.1 ∧ f = (e.1 - lo, e.2) := by
    intro e f h
    split at h
    · rename_i hc; exact ⟨hc.1, (Option.some.inj h).symm⟩
    · cases h
  rw [mwf_iff] at hm ⊢
  unfold mslice
  refine ⟨?_, ?_⟩
  · intro e he
    obtain ⟨f, hf, h⟩ := List.mem_filterMap.mp he
    obtain ⟨-, rfl⟩ := key f e h
    exact hm.1 f hf
  · rw [List.pairwise_filterMap]
    refine hm.2.imp ?_
    intro e f hef a ha b hb
    obtain ⟨h1, rfl⟩ := key e a ha
    obtain ⟨h2, rfl⟩ := key f b hb
    show e.1 - lo < f.1 - lo
    omega

theorem mrow_wf [DecidableEq β] (d : β) (n : Nat) (f : Nat → β) : mwf d (mrow d n f) = true := by
  rw [mwf_iff]
  unfold mrow
  refine ⟨?_, ?_⟩
  · intro e he
    obtain ⟨k, hk, h⟩ := List.mem_filterMap.mp he
    simp only at h
    split at h
    · cases h
    · cases h; assumption
  · rw [List.pairwise_filterMap]
    refine List.pairwise_lt_range.imp ?_
    intro i j hij a ha b hb
    simp only at ha hb
    split at ha
    · cases ha
    · split at hb
      · cases hb
      · cases ha; cases hb; exact hij

/-- Reading a written run of entries. -/
theorem mget_msetList [DecidableEq β] (d : β) (xs : List β) (m : Map β) (k j : Nat) :
    mget d (msetList d m k xs) j = if k ≤ j ∧ j < k + xs.length then xs.getD (j - k) d else mget d m j := by
  induction xs generalizing m k with
  | nil =>
    have : ¬ (k ≤ j ∧ j < k + ([] : List β).length) := by simp
    rw [if_neg this]; rfl
  | cons x xs ih =>
    show mget d (msetList d (mset d m k x) (k + 1) xs) j = _
    rw [ih, mget_mset]
    simp only [List.length_cons]
    by_cases hj : j = k
    · subst hj
      have h1 : ¬ (j + 1 ≤ j ∧ j < j + 1 + xs.length) := by omega
      have h2 : j ≤ j ∧ j < j + (xs.length + 1) := by omega
      simp [h2]
    · by_cases hr : k + 1 ≤ j ∧ j < k + 1 + xs.length
      · have h2 : k ≤ j ∧ j < k + (xs.length + 1) := by omega
        rw [if_pos hr, if_pos h2]
        have : j - k = (j - (k + 1)) + 1 := by omega
        rw [this, List.getD_cons_succ]
      · have h2 : ¬ (k ≤ j ∧ j < k + (xs.length + 1)) := by omega
        rw [if_neg hr, if_neg h2, if_neg hj]

end Sys2Proof.Machine
end

