-- ==== Sys2Proof/Laws/State.lean ====
section
/-! SUPPORT. What each update of the state leaves and sets, field by field, so that no later proof unfolds a record update. -/

set_option Elab.async false

namespace Sys2Proof.Machine

@[simp] theorem State.putCore_inputs (s : State) (n : Nat) (c : CoreSt) : (s.putCore n c).inputs = s.inputs := rfl
@[simp] theorem State.putCore_sel (s : State) (n : Nat) (c : CoreSt) : (s.putCore n c).sel = s.sel := rfl
@[simp] theorem State.putCore_tick (s : State) (n : Nat) (c : CoreSt) : (s.putCore n c).tick = s.tick := rfl
@[simp] theorem State.putCore_clk (s : State) (n : Nat) (c : CoreSt) : (s.putCore n c).clk = s.clk := rfl
@[simp] theorem State.putCore_timeNs (s : State) (n : Nat) (c : CoreSt) : (s.putCore n c).timeNs = s.timeNs := rfl
@[simp] theorem State.putCore_mem (s : State) (n : Nat) (c : CoreSt) : (s.putCore n c).mem = s.mem := rfl
@[simp] theorem State.putCore_host (s : State) (n : Nat) (c : CoreSt) : (s.putCore n c).host = s.host := rfl
@[simp] theorem State.putCore_chip (s : State) (n : Nat) (c : CoreSt) : (s.putCore n c).chip = s.chip := rfl
@[simp] theorem State.putCore_storeQ (s : State) (n : Nat) (c : CoreSt) : (s.putCore n c).storeQ = s.storeQ := rfl
@[simp] theorem State.putCore_loadQ (s : State) (n : Nat) (c : CoreSt) : (s.putCore n c).loadQ = s.loadQ := rfl
@[simp] theorem State.putCore_remoteQ (s : State) (n : Nat) (c : CoreSt) : (s.putCore n c).remoteQ = s.remoteQ := rfl
@[simp] theorem State.putCore_writers (s : State) (n : Nat) (c : CoreSt) : (s.putCore n c).writers = s.writers := rfl
@[simp] theorem State.putCore_tlb (s : State) (n : Nat) (c : CoreSt) : (s.putCore n c).tlb = s.tlb := rfl
@[simp] theorem State.putCore_poison (s : State) (n : Nat) (c : CoreSt) : (s.putCore n c).poison = s.poison := rfl
@[simp] theorem State.putCore_chipPoison (s : State) (n : Nat) (c : CoreSt) : (s.putCore n c).chipPoison = s.chipPoison := rfl
@[simp] theorem State.putCore_spadPoison (s : State) (n : Nat) (c : CoreSt) : (s.putCore n c).spadPoison = s.spadPoison := rfl
@[simp] theorem State.putCore_left (s : State) (n : Nat) (c : CoreSt) : (s.putCore n c).left = s.left := rfl
@[simp] theorem State.putCore_teams (s : State) (n : Nat) (c : CoreSt) : (s.putCore n c).teams = s.teams := rfl
@[simp] theorem State.putCore_blocks (s : State) (n : Nat) (c : CoreSt) : (s.putCore n c).blocks = s.blocks := rfl
@[simp] theorem State.putCore_conts (s : State) (n : Nat) (c : CoreSt) : (s.putCore n c).conts = s.conts := rfl
@[simp] theorem State.putCore_nodes (s : State) (n : Nat) (c : CoreSt) : (s.putCore n c).nodes = s.nodes := rfl
@[simp] theorem State.putCore_parts (s : State) (n : Nat) (c : CoreSt) : (s.putCore n c).parts = s.parts := rfl
@[simp] theorem State.putCore_ctxs (s : State) (n : Nat) (c : CoreSt) : (s.putCore n c).ctxs = s.ctxs := rfl
@[simp] theorem State.putCore_groups (s : State) (n : Nat) (c : CoreSt) : (s.putCore n c).groups = s.groups := rfl
@[simp] theorem State.putCore_pkg (s : State) (n : Nat) (c : CoreSt) : (s.putCore n c).pkg = s.pkg := rfl
@[simp] theorem State.putCore_nextId (s : State) (n : Nat) (c : CoreSt) : (s.putCore n c).nextId = s.nextId := rfl

@[simp] theorem State.putPart_inputs (s : State) (p : Part) : (s.putPart p).inputs = s.inputs := rfl
@[simp] theorem State.putPart_sel (s : State) (p : Part) : (s.putPart p).sel = s.sel := rfl
@[simp] theorem State.putPart_tick (s : State) (p : Part) : (s.putPart p).tick = s.tick := rfl
@[simp] theorem State.putPart_clk (s : State) (p : Part) : (s.putPart p).clk = s.clk := rfl
@[simp] theorem State.putPart_timeNs (s : State) (p : Part) : (s.putPart p).timeNs = s.timeNs := rfl
@[simp] theorem State.putPart_mem (s : State) (p : Part) : (s.putPart p).mem = s.mem := rfl
@[simp] theorem State.putPart_host (s : State) (p : Part) : (s.putPart p).host = s.host := rfl
@[simp] theorem State.putPart_chip (s : State) (p : Part) : (s.putPart p).chip = s.chip := rfl
@[simp] theorem State.putPart_storeQ (s : State) (p : Part) : (s.putPart p).storeQ = s.storeQ := rfl
@[simp] theorem State.putPart_loadQ (s : State) (p : Part) : (s.putPart p).loadQ = s.loadQ := rfl
@[simp] theorem State.putPart_remoteQ (s : State) (p : Part) : (s.putPart p).remoteQ = s.remoteQ := rfl
@[simp] theorem State.putPart_writers (s : State) (p : Part) : (s.putPart p).writers = s.writers := rfl
@[simp] theorem State.putPart_tlb (s : State) (p : Part) : (s.putPart p).tlb = s.tlb := rfl
@[simp] theorem State.putPart_poison (s : State) (p : Part) : (s.putPart p).poison = s.poison := rfl
@[simp] theorem State.putPart_chipPoison (s : State) (p : Part) : (s.putPart p).chipPoison = s.chipPoison := rfl
@[simp] theorem State.putPart_spadPoison (s : State) (p : Part) : (s.putPart p).spadPoison = s.spadPoison := rfl
@[simp] theorem State.putPart_left (s : State) (p : Part) : (s.putPart p).left = s.left := rfl
@[simp] theorem State.putPart_cores (s : State) (p : Part) : (s.putPart p).cores = s.cores := rfl
@[simp] theorem State.putPart_teams (s : State) (p : Part) : (s.putPart p).teams = s.teams := rfl
@[simp] theorem State.putPart_blocks (s : State) (p : Part) : (s.putPart p).blocks = s.blocks := rfl
@[simp] theorem State.putPart_conts (s : State) (p : Part) : (s.putPart p).conts = s.conts := rfl
@[simp] theorem State.putPart_nodes (s : State) (p : Part) : (s.putPart p).nodes = s.nodes := rfl
@[simp] theorem State.putPart_ctxs (s : State) (p : Part) : (s.putPart p).ctxs = s.ctxs := rfl
@[simp] theorem State.putPart_groups (s : State) (p : Part) : (s.putPart p).groups = s.groups := rfl
@[simp] theorem State.putPart_pkg (s : State) (p : Part) : (s.putPart p).pkg = s.pkg := rfl
@[simp] theorem State.putPart_nextId (s : State) (p : Part) : (s.putPart p).nextId = s.nextId := rfl

@[simp] theorem State.putCtx_inputs (s : State) (c : Ctx) : (s.putCtx c).inputs = s.inputs := rfl
@[simp] theorem State.putCtx_sel (s : State) (c : Ctx) : (s.putCtx c).sel = s.sel := rfl
@[simp] theorem State.putCtx_tick (s : State) (c : Ctx) : (s.putCtx c).tick = s.tick := rfl
@[simp] theorem State.putCtx_clk (s : State) (c : Ctx) : (s.putCtx c).clk = s.clk := rfl
@[simp] theorem State.putCtx_timeNs (s : State) (c : Ctx) : (s.putCtx c).timeNs = s.timeNs := rfl
@[simp] theorem State.putCtx_mem (s : State) (c : Ctx) : (s.putCtx c).mem = s.mem := rfl
@[simp] theorem State.putCtx_host (s : State) (c : Ctx) : (s.putCtx c).host = s.host := rfl
@[simp] theorem State.putCtx_chip (s : State) (c : Ctx) : (s.putCtx c).chip = s.chip := rfl
@[simp] theorem State.putCtx_storeQ (s : State) (c : Ctx) : (s.putCtx c).storeQ = s.storeQ := rfl
@[simp] theorem State.putCtx_loadQ (s : State) (c : Ctx) : (s.putCtx c).loadQ = s.loadQ := rfl
@[simp] theorem State.putCtx_remoteQ (s : State) (c : Ctx) : (s.putCtx c).remoteQ = s.remoteQ := rfl
@[simp] theorem State.putCtx_writers (s : State) (c : Ctx) : (s.putCtx c).writers = s.writers := rfl
@[simp] theorem State.putCtx_tlb (s : State) (c : Ctx) : (s.putCtx c).tlb = s.tlb := rfl
@[simp] theorem State.putCtx_poison (s : State) (c : Ctx) : (s.putCtx c).poison = s.poison := rfl
@[simp] theorem State.putCtx_chipPoison (s : State) (c : Ctx) : (s.putCtx c).chipPoison = s.chipPoison := rfl
@[simp] theorem State.putCtx_spadPoison (s : State) (c : Ctx) : (s.putCtx c).spadPoison = s.spadPoison := rfl
@[simp] theorem State.putCtx_left (s : State) (c : Ctx) : (s.putCtx c).left = s.left := rfl
@[simp] theorem State.putCtx_cores (s : State) (c : Ctx) : (s.putCtx c).cores = s.cores := rfl
@[simp] theorem State.putCtx_teams (s : State) (c : Ctx) : (s.putCtx c).teams = s.teams := rfl
@[simp] theorem State.putCtx_blocks (s : State) (c : Ctx) : (s.putCtx c).blocks = s.blocks := rfl
@[simp] theorem State.putCtx_conts (s : State) (c : Ctx) : (s.putCtx c).conts = s.conts := rfl
@[simp] theorem State.putCtx_nodes (s : State) (c : Ctx) : (s.putCtx c).nodes = s.nodes := rfl
@[simp] theorem State.putCtx_parts (s : State) (c : Ctx) : (s.putCtx c).parts = s.parts := rfl
@[simp] theorem State.putCtx_groups (s : State) (c : Ctx) : (s.putCtx c).groups = s.groups := rfl
@[simp] theorem State.putCtx_pkg (s : State) (c : Ctx) : (s.putCtx c).pkg = s.pkg := rfl
@[simp] theorem State.putCtx_nextId (s : State) (c : Ctx) : (s.putCtx c).nextId = s.nextId := rfl

@[simp] theorem State.putTeam_inputs (s : State) (t : Team) : (s.putTeam t).inputs = s.inputs := rfl
@[simp] theorem State.putTeam_sel (s : State) (t : Team) : (s.putTeam t).sel = s.sel := rfl
@[simp] theorem State.putTeam_tick (s : State) (t : Team) : (s.putTeam t).tick = s.tick := rfl
@[simp] theorem State.putTeam_clk (s : State) (t : Team) : (s.putTeam t).clk = s.clk := rfl
@[simp] theorem State.putTeam_timeNs (s : State) (t : Team) : (s.putTeam t).timeNs = s.timeNs := rfl
@[simp] theorem State.putTeam_mem (s : State) (t : Team) : (s.putTeam t).mem = s.mem := rfl
@[simp] theorem State.putTeam_host (s : State) (t : Team) : (s.putTeam t).host = s.host := rfl
@[simp] theorem State.putTeam_chip (s : State) (t : Team) : (s.putTeam t).chip = s.chip := rfl
@[simp] theorem State.putTeam_storeQ (s : State) (t : Team) : (s.putTeam t).storeQ = s.storeQ := rfl
@[simp] theorem State.putTeam_loadQ (s : State) (t : Team) : (s.putTeam t).loadQ = s.loadQ := rfl
@[simp] theorem State.putTeam_remoteQ (s : State) (t : Team) : (s.putTeam t).remoteQ = s.remoteQ := rfl
@[simp] theorem State.putTeam_writers (s : State) (t : Team) : (s.putTeam t).writers = s.writers := rfl
@[simp] theorem State.putTeam_tlb (s : State) (t : Team) : (s.putTeam t).tlb = s.tlb := rfl
@[simp] theorem State.putTeam_poison (s : State) (t : Team) : (s.putTeam t).poison = s.poison := rfl
@[simp] theorem State.putTeam_chipPoison (s : State) (t : Team) : (s.putTeam t).chipPoison = s.chipPoison := rfl
@[simp] theorem State.putTeam_spadPoison (s : State) (t : Team) : (s.putTeam t).spadPoison = s.spadPoison := rfl
@[simp] theorem State.putTeam_left (s : State) (t : Team) : (s.putTeam t).left = s.left := rfl
@[simp] theorem State.putTeam_cores (s : State) (t : Team) : (s.putTeam t).cores = s.cores := rfl
@[simp] theorem State.putTeam_blocks (s : State) (t : Team) : (s.putTeam t).blocks = s.blocks := rfl
@[simp] theorem State.putTeam_conts (s : State) (t : Team) : (s.putTeam t).conts = s.conts := rfl
@[simp] theorem State.putTeam_nodes (s : State) (t : Team) : (s.putTeam t).nodes = s.nodes := rfl
@[simp] theorem State.putTeam_parts (s : State) (t : Team) : (s.putTeam t).parts = s.parts := rfl
@[simp] theorem State.putTeam_ctxs (s : State) (t : Team) : (s.putTeam t).ctxs = s.ctxs := rfl
@[simp] theorem State.putTeam_groups (s : State) (t : Team) : (s.putTeam t).groups = s.groups := rfl
@[simp] theorem State.putTeam_pkg (s : State) (t : Team) : (s.putTeam t).pkg = s.pkg := rfl
@[simp] theorem State.putTeam_nextId (s : State) (t : Team) : (s.putTeam t).nextId = s.nextId := rfl

@[simp] theorem State.putBlock_inputs (s : State) (b : Block) : (s.putBlock b).inputs = s.inputs := rfl
@[simp] theorem State.putBlock_sel (s : State) (b : Block) : (s.putBlock b).sel = s.sel := rfl
@[simp] theorem State.putBlock_tick (s : State) (b : Block) : (s.putBlock b).tick = s.tick := rfl
@[simp] theorem State.putBlock_clk (s : State) (b : Block) : (s.putBlock b).clk = s.clk := rfl
@[simp] theorem State.putBlock_timeNs (s : State) (b : Block) : (s.putBlock b).timeNs = s.timeNs := rfl
@[simp] theorem State.putBlock_mem (s : State) (b : Block) : (s.putBlock b).mem = s.mem := rfl
@[simp] theorem State.putBlock_host (s : State) (b : Block) : (s.putBlock b).host = s.host := rfl
@[simp] theorem State.putBlock_chip (s : State) (b : Block) : (s.putBlock b).chip = s.chip := rfl
@[simp] theorem State.putBlock_storeQ (s : State) (b : Block) : (s.putBlock b).storeQ = s.storeQ := rfl
@[simp] theorem State.putBlock_loadQ (s : State) (b : Block) : (s.putBlock b).loadQ = s.loadQ := rfl
@[simp] theorem State.putBlock_remoteQ (s : State) (b : Block) : (s.putBlock b).remoteQ = s.remoteQ := rfl
@[simp] theorem State.putBlock_writers (s : State) (b : Block) : (s.putBlock b).writers = s.writers := rfl
@[simp] theorem State.putBlock_tlb (s : State) (b : Block) : (s.putBlock b).tlb = s.tlb := rfl
@[simp] theorem State.putBlock_poison (s : State) (b : Block) : (s.putBlock b).poison = s.poison := rfl
@[simp] theorem State.putBlock_chipPoison (s : State) (b : Block) : (s.putBlock b).chipPoison = s.chipPoison := rfl
@[simp] theorem State.putBlock_spadPoison (s : State) (b : Block) : (s.putBlock b).spadPoison = s.spadPoison := rfl
@[simp] theorem State.putBlock_left (s : State) (b : Block) : (s.putBlock b).left = s.left := rfl
@[simp] theorem State.putBlock_cores (s : State) (b : Block) : (s.putBlock b).cores = s.cores := rfl
@[simp] theorem State.putBlock_teams (s : State) (b : Block) : (s.putBlock b).teams = s.teams := rfl
@[simp] theorem State.putBlock_conts (s : State) (b : Block) : (s.putBlock b).conts = s.conts := rfl
@[simp] theorem State.putBlock_nodes (s : State) (b : Block) : (s.putBlock b).nodes = s.nodes := rfl
@[simp] theorem State.putBlock_parts (s : State) (b : Block) : (s.putBlock b).parts = s.parts := rfl
@[simp] theorem State.putBlock_ctxs (s : State) (b : Block) : (s.putBlock b).ctxs = s.ctxs := rfl
@[simp] theorem State.putBlock_groups (s : State) (b : Block) : (s.putBlock b).groups = s.groups := rfl
@[simp] theorem State.putBlock_pkg (s : State) (b : Block) : (s.putBlock b).pkg = s.pkg := rfl
@[simp] theorem State.putBlock_nextId (s : State) (b : Block) : (s.putBlock b).nextId = s.nextId := rfl

@[simp] theorem State.putNode_inputs (s : State) (n : Node) : (s.putNode n).inputs = s.inputs := rfl
@[simp] theorem State.putNode_sel (s : State) (n : Node) : (s.putNode n).sel = s.sel := rfl
@[simp] theorem State.putNode_tick (s : State) (n : Node) : (s.putNode n).tick = s.tick := rfl
@[simp] theorem State.putNode_clk (s : State) (n : Node) : (s.putNode n).clk = s.clk := rfl
@[simp] theorem State.putNode_timeNs (s : State) (n : Node) : (s.putNode n).timeNs = s.timeNs := rfl
@[simp] theorem State.putNode_mem (s : State) (n : Node) : (s.putNode n).mem = s.mem := rfl
@[simp] theorem State.putNode_host (s : State) (n : Node) : (s.putNode n).host = s.host := rfl
@[simp] theorem State.putNode_chip (s : State) (n : Node) : (s.putNode n).chip = s.chip := rfl
@[simp] theorem State.putNode_storeQ (s : State) (n : Node) : (s.putNode n).storeQ = s.storeQ := rfl
@[simp] theorem State.putNode_loadQ (s : State) (n : Node) : (s.putNode n).loadQ = s.loadQ := rfl
@[simp] theorem State.putNode_remoteQ (s : State) (n : Node) : (s.putNode n).remoteQ = s.remoteQ := rfl
@[simp] theorem State.putNode_writers (s : State) (n : Node) : (s.putNode n).writers = s.writers := rfl
@[simp] theorem State.putNode_tlb (s : State) (n : Node) : (s.putNode n).tlb = s.tlb := rfl
@[simp] theorem State.putNode_poison (s : State) (n : Node) : (s.putNode n).poison = s.poison := rfl
@[simp] theorem State.putNode_chipPoison (s : State) (n : Node) : (s.putNode n).chipPoison = s.chipPoison := rfl
@[simp] theorem State.putNode_spadPoison (s : State) (n : Node) : (s.putNode n).spadPoison = s.spadPoison := rfl
@[simp] theorem State.putNode_left (s : State) (n : Node) : (s.putNode n).left = s.left := rfl
@[simp] theorem State.putNode_cores (s : State) (n : Node) : (s.putNode n).cores = s.cores := rfl
@[simp] theorem State.putNode_teams (s : State) (n : Node) : (s.putNode n).teams = s.teams := rfl
@[simp] theorem State.putNode_blocks (s : State) (n : Node) : (s.putNode n).blocks = s.blocks := rfl
@[simp] theorem State.putNode_conts (s : State) (n : Node) : (s.putNode n).conts = s.conts := rfl
@[simp] theorem State.putNode_parts (s : State) (n : Node) : (s.putNode n).parts = s.parts := rfl
@[simp] theorem State.putNode_ctxs (s : State) (n : Node) : (s.putNode n).ctxs = s.ctxs := rfl
@[simp] theorem State.putNode_groups (s : State) (n : Node) : (s.putNode n).groups = s.groups := rfl
@[simp] theorem State.putNode_pkg (s : State) (n : Node) : (s.putNode n).pkg = s.pkg := rfl
@[simp] theorem State.putNode_nextId (s : State) (n : Node) : (s.putNode n).nextId = s.nextId := rfl

@[simp] theorem State.sendRemote_inputs (s : State) (r : Remote) : (s.sendRemote r).inputs = s.inputs := rfl
@[simp] theorem State.sendRemote_sel (s : State) (r : Remote) : (s.sendRemote r).sel = s.sel := rfl
@[simp] theorem State.sendRemote_tick (s : State) (r : Remote) : (s.sendRemote r).tick = s.tick := rfl
@[simp] theorem State.sendRemote_clk (s : State) (r : Remote) : (s.sendRemote r).clk = s.clk := rfl
@[simp] theorem State.sendRemote_timeNs (s : State) (r : Remote) : (s.sendRemote r).timeNs = s.timeNs := rfl
@[simp] theorem State.sendRemote_mem (s : State) (r : Remote) : (s.sendRemote r).mem = s.mem := rfl
@[simp] theorem State.sendRemote_host (s : State) (r : Remote) : (s.sendRemote r).host = s.host := rfl
@[simp] theorem State.sendRemote_chip (s : State) (r : Remote) : (s.sendRemote r).chip = s.chip := rfl
@[simp] theorem State.sendRemote_storeQ (s : State) (r : Remote) : (s.sendRemote r).storeQ = s.storeQ := rfl
@[simp] theorem State.sendRemote_loadQ (s : State) (r : Remote) : (s.sendRemote r).loadQ = s.loadQ := rfl
@[simp] theorem State.sendRemote_writers (s : State) (r : Remote) : (s.sendRemote r).writers = s.writers := rfl
@[simp] theorem State.sendRemote_tlb (s : State) (r : Remote) : (s.sendRemote r).tlb = s.tlb := rfl
@[simp] theorem State.sendRemote_poison (s : State) (r : Remote) : (s.sendRemote r).poison = s.poison := rfl
@[simp] theorem State.sendRemote_chipPoison (s : State) (r : Remote) : (s.sendRemote r).chipPoison = s.chipPoison := rfl
@[simp] theorem State.sendRemote_spadPoison (s : State) (r : Remote) : (s.sendRemote r).spadPoison = s.spadPoison := rfl
@[simp] theorem State.sendRemote_left (s : State) (r : Remote) : (s.sendRemote r).left = s.left := rfl
@[simp] theorem State.sendRemote_cores (s : State) (r : Remote) : (s.sendRemote r).cores = s.cores := rfl
@[simp] theorem State.sendRemote_teams (s : State) (r : Remote) : (s.sendRemote r).teams = s.teams := rfl
@[simp] theorem State.sendRemote_blocks (s : State) (r : Remote) : (s.sendRemote r).blocks = s.blocks := rfl
@[simp] theorem State.sendRemote_conts (s : State) (r : Remote) : (s.sendRemote r).conts = s.conts := rfl
@[simp] theorem State.sendRemote_nodes (s : State) (r : Remote) : (s.sendRemote r).nodes = s.nodes := rfl
@[simp] theorem State.sendRemote_parts (s : State) (r : Remote) : (s.sendRemote r).parts = s.parts := rfl
@[simp] theorem State.sendRemote_ctxs (s : State) (r : Remote) : (s.sendRemote r).ctxs = s.ctxs := rfl
@[simp] theorem State.sendRemote_groups (s : State) (r : Remote) : (s.sendRemote r).groups = s.groups := rfl
@[simp] theorem State.sendRemote_pkg (s : State) (r : Remote) : (s.sendRemote r).pkg = s.pkg := rfl
@[simp] theorem State.sendRemote_nextId (s : State) (r : Remote) : (s.sendRemote r).nextId = s.nextId := rfl

@[simp] theorem State.notify_inputs (s : State) (p : Nat) (c : Cause) : (s.notify p c).inputs = s.inputs := rfl
@[simp] theorem State.notify_sel (s : State) (p : Nat) (c : Cause) : (s.notify p c).sel = s.sel := rfl
@[simp] theorem State.notify_tick (s : State) (p : Nat) (c : Cause) : (s.notify p c).tick = s.tick := rfl
@[simp] theorem State.notify_clk (s : State) (p : Nat) (c : Cause) : (s.notify p c).clk = s.clk := rfl
@[simp] theorem State.notify_timeNs (s : State) (p : Nat) (c : Cause) : (s.notify p c).timeNs = s.timeNs := rfl
@[simp] theorem State.notify_mem (s : State) (p : Nat) (c : Cause) : (s.notify p c).mem = s.mem := rfl
@[simp] theorem State.notify_host (s : State) (p : Nat) (c : Cause) : (s.notify p c).host = s.host := rfl
@[simp] theorem State.notify_chip (s : State) (p : Nat) (c : Cause) : (s.notify p c).chip = s.chip := rfl
@[simp] theorem State.notify_storeQ (s : State) (p : Nat) (c : Cause) : (s.notify p c).storeQ = s.storeQ := rfl
@[simp] theorem State.notify_loadQ (s : State) (p : Nat) (c : Cause) : (s.notify p c).loadQ = s.loadQ := rfl
@[simp] theorem State.notify_remoteQ (s : State) (p : Nat) (c : Cause) : (s.notify p c).remoteQ = s.remoteQ := rfl
@[simp] theorem State.notify_writers (s : State) (p : Nat) (c : Cause) : (s.notify p c).writers = s.writers := rfl
@[simp] theorem State.notify_tlb (s : State) (p : Nat) (c : Cause) : (s.notify p c).tlb = s.tlb := rfl
@[simp] theorem State.notify_poison (s : State) (p : Nat) (c : Cause) : (s.notify p c).poison = s.poison := rfl
@[simp] theorem State.notify_chipPoison (s : State) (p : Nat) (c : Cause) : (s.notify p c).chipPoison = s.chipPoison := rfl
@[simp] theorem State.notify_spadPoison (s : State) (p : Nat) (c : Cause) : (s.notify p c).spadPoison = s.spadPoison := rfl
@[simp] theorem State.notify_left (s : State) (p : Nat) (c : Cause) : (s.notify p c).left = s.left := rfl
@[simp] theorem State.notify_cores (s : State) (p : Nat) (c : Cause) : (s.notify p c).cores = s.cores := rfl
@[simp] theorem State.notify_teams (s : State) (p : Nat) (c : Cause) : (s.notify p c).teams = s.teams := rfl
@[simp] theorem State.notify_blocks (s : State) (p : Nat) (c : Cause) : (s.notify p c).blocks = s.blocks := rfl
@[simp] theorem State.notify_conts (s : State) (p : Nat) (c : Cause) : (s.notify p c).conts = s.conts := rfl
@[simp] theorem State.notify_nodes (s : State) (p : Nat) (c : Cause) : (s.notify p c).nodes = s.nodes := rfl
@[simp] theorem State.notify_parts (s : State) (p : Nat) (c : Cause) : (s.notify p c).parts = s.parts := rfl
@[simp] theorem State.notify_ctxs (s : State) (p : Nat) (c : Cause) : (s.notify p c).ctxs = s.ctxs := rfl
@[simp] theorem State.notify_groups (s : State) (p : Nat) (c : Cause) : (s.notify p c).groups = s.groups := rfl
@[simp] theorem State.notify_nextId (s : State) (p : Nat) (c : Cause) : (s.notify p c).nextId = s.nextId := rfl

@[simp] theorem State.cleanSpad_inputs (s : State) (n a len : Nat) : (s.cleanSpad n a len).inputs = s.inputs := by
  unfold State.cleanSpad; split <;> rfl
@[simp] theorem State.cleanSpad_sel (s : State) (n a len : Nat) : (s.cleanSpad n a len).sel = s.sel := by
  unfold State.cleanSpad; split <;> rfl
@[simp] theorem State.cleanSpad_tick (s : State) (n a len : Nat) : (s.cleanSpad n a len).tick = s.tick := by
  unfold State.cleanSpad; split <;> rfl
@[simp] theorem State.cleanSpad_clk (s : State) (n a len : Nat) : (s.cleanSpad n a len).clk = s.clk := by
  unfold State.cleanSpad; split <;> rfl
@[simp] theorem State.cleanSpad_timeNs (s : State) (n a len : Nat) : (s.cleanSpad n a len).timeNs = s.timeNs := by
  unfold State.cleanSpad; split <;> rfl
@[simp] theorem State.cleanSpad_mem (s : State) (n a len : Nat) : (s.cleanSpad n a len).mem = s.mem := by
  unfold State.cleanSpad; split <;> rfl
@[simp] theorem State.cleanSpad_host (s : State) (n a len : Nat) : (s.cleanSpad n a len).host = s.host := by
  unfold State.cleanSpad; split <;> rfl
@[simp] theorem State.cleanSpad_chip (s : State) (n a len : Nat) : (s.cleanSpad n a len).chip = s.chip := by
  unfold State.cleanSpad; split <;> rfl
@[simp] theorem State.cleanSpad_storeQ (s : State) (n a len : Nat) : (s.cleanSpad n a len).storeQ = s.storeQ := by
  unfold State.cleanSpad; split <;> rfl
@[simp] theorem State.cleanSpad_loadQ (s : State) (n a len : Nat) : (s.cleanSpad n a len).loadQ = s.loadQ := by
  unfold State.cleanSpad; split <;> rfl
@[simp] theorem State.cleanSpad_remoteQ (s : State) (n a len : Nat) : (s.cleanSpad n a len).remoteQ = s.remoteQ := by
  unfold State.cleanSpad; split <;> rfl
@[simp] theorem State.cleanSpad_writers (s : State) (n a len : Nat) : (s.cleanSpad n a len).writers = s.writers := by
  unfold State.cleanSpad; split <;> rfl
@[simp] theorem State.cleanSpad_tlb (s : State) (n a len : Nat) : (s.cleanSpad n a len).tlb = s.tlb := by
  unfold State.cleanSpad; split <;> rfl
@[simp] theorem State.cleanSpad_poison (s : State) (n a len : Nat) : (s.cleanSpad n a len).poison = s.poison := by
  unfold State.cleanSpad; split <;> rfl
@[simp] theorem State.cleanSpad_chipPoison (s : State) (n a len : Nat) : (s.cleanSpad n a len).chipPoison = s.chipPoison := by
  unfold State.cleanSpad; split <;> rfl
@[simp] theorem State.cleanSpad_left (s : State) (n a len : Nat) : (s.cleanSpad n a len).left = s.left := by
  unfold State.cleanSpad; split <;> rfl
@[simp] theorem State.cleanSpad_teams (s : State) (n a len : Nat) : (s.cleanSpad n a len).teams = s.teams := by
  unfold State.cleanSpad; split <;> rfl
@[simp] theorem State.cleanSpad_blocks (s : State) (n a len : Nat) : (s.cleanSpad n a len).blocks = s.blocks := by
  unfold State.cleanSpad; split <;> rfl
@[simp] theorem State.cleanSpad_conts (s : State) (n a len : Nat) : (s.cleanSpad n a len).conts = s.conts := by
  unfold State.cleanSpad; split <;> rfl
@[simp] theorem State.cleanSpad_nodes (s : State) (n a len : Nat) : (s.cleanSpad n a len).nodes = s.nodes := by
  unfold State.cleanSpad; split <;> rfl
@[simp] theorem State.cleanSpad_parts (s : State) (n a len : Nat) : (s.cleanSpad n a len).parts = s.parts := by
  unfold State.cleanSpad; split <;> rfl
@[simp] theorem State.cleanSpad_ctxs (s : State) (n a len : Nat) : (s.cleanSpad n a len).ctxs = s.ctxs := by
  unfold State.cleanSpad; split <;> rfl
@[simp] theorem State.cleanSpad_groups (s : State) (n a len : Nat) : (s.cleanSpad n a len).groups = s.groups := by
  unfold State.cleanSpad; split <;> rfl
@[simp] theorem State.cleanSpad_pkg (s : State) (n a len : Nat) : (s.cleanSpad n a len).pkg = s.pkg := by
  unfold State.cleanSpad; split <;> rfl
@[simp] theorem State.cleanSpad_nextId (s : State) (n a len : Nat) : (s.cleanSpad n a len).nextId = s.nextId := by
  unfold State.cleanSpad; split <;> rfl
@[simp] theorem State.cleanSpad_cores (s : State) (n a len : Nat) : (s.cleanSpad n a len).cores = s.cores := by
  unfold State.cleanSpad; split <;> rfl

@[simp] theorem State.putSpad_inputs (s : State) (n a : Nat) (bs : List Byte) : (s.putSpad n a bs).inputs = s.inputs := by
  simp [State.putSpad]
@[simp] theorem State.putSpad_sel (s : State) (n a : Nat) (bs : List Byte) : (s.putSpad n a bs).sel = s.sel := by
  simp [State.putSpad]
@[simp] theorem State.putSpad_tick (s : State) (n a : Nat) (bs : List Byte) : (s.putSpad n a bs).tick = s.tick := by
  simp [State.putSpad]
@[simp] theorem State.putSpad_clk (s : State) (n a : Nat) (bs : List Byte) : (s.putSpad n a bs).clk = s.clk := by
  simp [State.putSpad]
@[simp] theorem State.putSpad_timeNs (s : State) (n a : Nat) (bs : List Byte) : (s.putSpad n a bs).timeNs = s.timeNs := by
  simp [State.putSpad]
@[simp] theorem State.putSpad_mem (s : State) (n a : Nat) (bs : List Byte) : (s.putSpad n a bs).mem = s.mem := by
  simp [State.putSpad]
@[simp] theorem State.putSpad_host (s : State) (n a : Nat) (bs : List Byte) : (s.putSpad n a bs).host = s.host := by
  simp [State.putSpad]
@[simp] theorem State.putSpad_chip (s : State) (n a : Nat) (bs : List Byte) : (s.putSpad n a bs).chip = s.chip := by
  simp [State.putSpad]
@[simp] theorem State.putSpad_storeQ (s : State) (n a : Nat) (bs : List Byte) : (s.putSpad n a bs).storeQ = s.storeQ := by
  simp [State.putSpad]
@[simp] theorem State.putSpad_loadQ (s : State) (n a : Nat) (bs : List Byte) : (s.putSpad n a bs).loadQ = s.loadQ := by
  simp [State.putSpad]
@[simp] theorem State.putSpad_remoteQ (s : State) (n a : Nat) (bs : List Byte) : (s.putSpad n a bs).remoteQ = s.remoteQ := by
  simp [State.putSpad]
@[simp] theorem State.putSpad_writers (s : State) (n a : Nat) (bs : List Byte) : (s.putSpad n a bs).writers = s.writers := by
  simp [State.putSpad]
@[simp] theorem State.putSpad_tlb (s : State) (n a : Nat) (bs : List Byte) : (s.putSpad n a bs).tlb = s.tlb := by
  simp [State.putSpad]
@[simp] theorem State.putSpad_poison (s : State) (n a : Nat) (bs : List Byte) : (s.putSpad n a bs).poison = s.poison := by
  simp [State.putSpad]
@[simp] theorem State.putSpad_chipPoison (s : State) (n a : Nat) (bs : List Byte) : (s.putSpad n a bs).chipPoison = s.chipPoison := by
  simp [State.putSpad]
@[simp] theorem State.putSpad_left (s : State) (n a : Nat) (bs : List Byte) : (s.putSpad n a bs).left = s.left := by
  simp [State.putSpad]
@[simp] theorem State.putSpad_teams (s : State) (n a : Nat) (bs : List Byte) : (s.putSpad n a bs).teams = s.teams := by
  simp [State.putSpad]
@[simp] theorem State.putSpad_blocks (s : State) (n a : Nat) (bs : List Byte) : (s.putSpad n a bs).blocks = s.blocks := by
  simp [State.putSpad]
@[simp] theorem State.putSpad_conts (s : State) (n a : Nat) (bs : List Byte) : (s.putSpad n a bs).conts = s.conts := by
  simp [State.putSpad]
@[simp] theorem State.putSpad_nodes (s : State) (n a : Nat) (bs : List Byte) : (s.putSpad n a bs).nodes = s.nodes := by
  simp [State.putSpad]
@[simp] theorem State.putSpad_parts (s : State) (n a : Nat) (bs : List Byte) : (s.putSpad n a bs).parts = s.parts := by
  simp [State.putSpad]
@[simp] theorem State.putSpad_ctxs (s : State) (n a : Nat) (bs : List Byte) : (s.putSpad n a bs).ctxs = s.ctxs := by
  simp [State.putSpad]
@[simp] theorem State.putSpad_groups (s : State) (n a : Nat) (bs : List Byte) : (s.putSpad n a bs).groups = s.groups := by
  simp [State.putSpad]
@[simp] theorem State.putSpad_pkg (s : State) (n a : Nat) (bs : List Byte) : (s.putSpad n a bs).pkg = s.pkg := by
  simp [State.putSpad]
@[simp] theorem State.putSpad_nextId (s : State) (n a : Nat) (bs : List Byte) : (s.putSpad n a bs).nextId = s.nextId := by
  simp [State.putSpad]

@[simp] theorem State.putBar_inputs (s : State) (k n : Nat) (b : Bar) : (s.putBar k n b).inputs = s.inputs := by
  simp [State.putBar]
@[simp] theorem State.putBar_sel (s : State) (k n : Nat) (b : Bar) : (s.putBar k n b).sel = s.sel := by
  simp [State.putBar]
@[simp] theorem State.putBar_tick (s : State) (k n : Nat) (b : Bar) : (s.putBar k n b).tick = s.tick := by
  simp [State.putBar]
@[simp] theorem State.putBar_clk (s : State) (k n : Nat) (b : Bar) : (s.putBar k n b).clk = s.clk := by
  simp [State.putBar]
@[simp] theorem State.putBar_timeNs (s : State) (k n : Nat) (b : Bar) : (s.putBar k n b).timeNs = s.timeNs := by
  simp [State.putBar]
@[simp] theorem State.putBar_mem (s : State) (k n : Nat) (b : Bar) : (s.putBar k n b).mem = s.mem := by
  simp [State.putBar]
@[simp] theorem State.putBar_host (s : State) (k n : Nat) (b : Bar) : (s.putBar k n b).host = s.host := by
  simp [State.putBar]
@[simp] theorem State.putBar_chip (s : State) (k n : Nat) (b : Bar) : (s.putBar k n b).chip = s.chip := by
  simp [State.putBar]
@[simp] theorem State.putBar_storeQ (s : State) (k n : Nat) (b : Bar) : (s.putBar k n b).storeQ = s.storeQ := by
  simp [State.putBar]
@[simp] theorem State.putBar_loadQ (s : State) (k n : Nat) (b : Bar) : (s.putBar k n b).loadQ = s.loadQ := by
  simp [State.putBar]
@[simp] theorem State.putBar_remoteQ (s : State) (k n : Nat) (b : Bar) : (s.putBar k n b).remoteQ = s.remoteQ := by
  simp [State.putBar]
@[simp] theorem State.putBar_writers (s : State) (k n : Nat) (b : Bar) : (s.putBar k n b).writers = s.writers := by
  simp [State.putBar]
@[simp] theorem State.putBar_tlb (s : State) (k n : Nat) (b : Bar) : (s.putBar k n b).tlb = s.tlb := by
  simp [State.putBar]
@[simp] theorem State.putBar_poison (s : State) (k n : Nat) (b : Bar) : (s.putBar k n b).poison = s.poison := by
  simp [State.putBar]
@[simp] theorem State.putBar_chipPoison (s : State) (k n : Nat) (b : Bar) : (s.putBar k n b).chipPoison = s.chipPoison := by
  simp [State.putBar]
@[simp] theorem State.putBar_left (s : State) (k n : Nat) (b : Bar) : (s.putBar k n b).left = s.left := by
  simp [State.putBar]
@[simp] theorem State.putBar_teams (s : State) (k n : Nat) (b : Bar) : (s.putBar k n b).teams = s.teams := by
  simp [State.putBar]
@[simp] theorem State.putBar_blocks (s : State) (k n : Nat) (b : Bar) : (s.putBar k n b).blocks = s.blocks := by
  simp [State.putBar]
@[simp] theorem State.putBar_conts (s : State) (k n : Nat) (b : Bar) : (s.putBar k n b).conts = s.conts := by
  simp [State.putBar]
@[simp] theorem State.putBar_nodes (s : State) (k n : Nat) (b : Bar) : (s.putBar k n b).nodes = s.nodes := by
  simp [State.putBar]
@[simp] theorem State.putBar_parts (s : State) (k n : Nat) (b : Bar) : (s.putBar k n b).parts = s.parts := by
  simp [State.putBar]
@[simp] theorem State.putBar_ctxs (s : State) (k n : Nat) (b : Bar) : (s.putBar k n b).ctxs = s.ctxs := by
  simp [State.putBar]
@[simp] theorem State.putBar_groups (s : State) (k n : Nat) (b : Bar) : (s.putBar k n b).groups = s.groups := by
  simp [State.putBar]
@[simp] theorem State.putBar_pkg (s : State) (k n : Nat) (b : Bar) : (s.putBar k n b).pkg = s.pkg := by
  simp [State.putBar]
@[simp] theorem State.putBar_nextId (s : State) (k n : Nat) (b : Bar) : (s.putBar k n b).nextId = s.nextId := by
  simp [State.putBar]

@[simp] theorem State.count_inputs (s : State) (c ev n : Nat) : (s.count c ev n).inputs = s.inputs := by
  simp only [State.count]; split <;> rfl
@[simp] theorem State.count_sel (s : State) (c ev n : Nat) : (s.count c ev n).sel = s.sel := by
  simp only [State.count]; split <;> rfl
@[simp] theorem State.count_tick (s : State) (c ev n : Nat) : (s.count c ev n).tick = s.tick := by
  simp only [State.count]; split <;> rfl
@[simp] theorem State.count_clk (s : State) (c ev n : Nat) : (s.count c ev n).clk = s.clk := by
  simp only [State.count]; split <;> rfl
@[simp] theorem State.count_timeNs (s : State) (c ev n : Nat) : (s.count c ev n).timeNs = s.timeNs := by
  simp only [State.count]; split <;> rfl
@[simp] theorem State.count_mem (s : State) (c ev n : Nat) : (s.count c ev n).mem = s.mem := by
  simp only [State.count]; split <;> rfl
@[simp] theorem State.count_host (s : State) (c ev n : Nat) : (s.count c ev n).host = s.host := by
  simp only [State.count]; split <;> rfl
@[simp] theorem State.count_chip (s : State) (c ev n : Nat) : (s.count c ev n).chip = s.chip := by
  simp only [State.count]; split <;> rfl
@[simp] theorem State.count_storeQ (s : State) (c ev n : Nat) : (s.count c ev n).storeQ = s.storeQ := by
  simp only [State.count]; split <;> rfl
@[simp] theorem State.count_loadQ (s : State) (c ev n : Nat) : (s.count c ev n).loadQ = s.loadQ := by
  simp only [State.count]; split <;> rfl
@[simp] theorem State.count_remoteQ (s : State) (c ev n : Nat) : (s.count c ev n).remoteQ = s.remoteQ := by
  simp only [State.count]; split <;> rfl
@[simp] theorem State.count_writers (s : State) (c ev n : Nat) : (s.count c ev n).writers = s.writers := by
  simp only [State.count]; split <;> rfl
@[simp] theorem State.count_tlb (s : State) (c ev n : Nat) : (s.count c ev n).tlb = s.tlb := by
  simp only [State.count]; split <;> rfl
@[simp] theorem State.count_poison (s : State) (c ev n : Nat) : (s.count c ev n).poison = s.poison := by
  simp only [State.count]; split <;> rfl
@[simp] theorem State.count_chipPoison (s : State) (c ev n : Nat) : (s.count c ev n).chipPoison = s.chipPoison := by
  simp only [State.count]; split <;> rfl
@[simp] theorem State.count_spadPoison (s : State) (c ev n : Nat) : (s.count c ev n).spadPoison = s.spadPoison := by
  simp only [State.count]; split <;> rfl
@[simp] theorem State.count_left (s : State) (c ev n : Nat) : (s.count c ev n).left = s.left := by
  simp only [State.count]; split <;> rfl
@[simp] theorem State.count_cores (s : State) (c ev n : Nat) : (s.count c ev n).cores = s.cores := by
  simp only [State.count]; split <;> rfl
@[simp] theorem State.count_teams (s : State) (c ev n : Nat) : (s.count c ev n).teams = s.teams := by
  simp only [State.count]; split <;> rfl
@[simp] theorem State.count_blocks (s : State) (c ev n : Nat) : (s.count c ev n).blocks = s.blocks := by
  simp only [State.count]; split <;> rfl
@[simp] theorem State.count_conts (s : State) (c ev n : Nat) : (s.count c ev n).conts = s.conts := by
  simp only [State.count]; split <;> rfl
@[simp] theorem State.count_nodes (s : State) (c ev n : Nat) : (s.count c ev n).nodes = s.nodes := by
  simp only [State.count]; split <;> rfl
@[simp] theorem State.count_parts (s : State) (c ev n : Nat) : (s.count c ev n).parts = s.parts := by
  simp only [State.count]; split <;> rfl
@[simp] theorem State.count_groups (s : State) (c ev n : Nat) : (s.count c ev n).groups = s.groups := by
  simp only [State.count]; split <;> rfl
@[simp] theorem State.count_pkg (s : State) (c ev n : Nat) : (s.count c ev n).pkg = s.pkg := by
  simp only [State.count]; split <;> rfl
@[simp] theorem State.count_nextId (s : State) (c ev n : Nat) : (s.count c ev n).nextId = s.nextId := by
  simp only [State.count]; split <;> rfl

@[simp] theorem Env.counted_inputs (e : Env) : (e.counted).inputs = e.s.inputs := by
  unfold Env.counted; dsimp only; split <;> (try split) <;> (try split) <;> simp
@[simp] theorem Env.counted_sel (e : Env) : (e.counted).sel = e.s.sel := by
  unfold Env.counted; dsimp only; split <;> (try split) <;> (try split) <;> simp
@[simp] theorem Env.counted_tick (e : Env) : (e.counted).tick = e.s.tick := by
  unfold Env.counted; dsimp only; split <;> (try split) <;> (try split) <;> simp
@[simp] theorem Env.counted_clk (e : Env) : (e.counted).clk = e.s.clk := by
  unfold Env.counted; dsimp only; split <;> (try split) <;> (try split) <;> simp
@[simp] theorem Env.counted_timeNs (e : Env) : (e.counted).timeNs = e.s.timeNs := by
  unfold Env.counted; dsimp only; split <;> (try split) <;> (try split) <;> simp
@[simp] theorem Env.counted_mem (e : Env) : (e.counted).mem = e.s.mem := by
  unfold Env.counted; dsimp only; split <;> (try split) <;> (try split) <;> simp
@[simp] theorem Env.counted_host (e : Env) : (e.counted).host = e.s.host := by
  unfold Env.counted; dsimp only; split <;> (try split) <;> (try split) <;> simp
@[simp] theorem Env.counted_chip (e : Env) : (e.counted).chip = e.s.chip := by
  unfold Env.counted; dsimp only; split <;> (try split) <;> (try split) <;> simp
@[simp] theorem Env.counted_storeQ (e : Env) : (e.counted).storeQ = e.s.storeQ := by
  unfold Env.counted; dsimp only; split <;> (try split) <;> (try split) <;> simp
@[simp] theorem Env.counted_loadQ (e : Env) : (e.counted).loadQ = e.s.loadQ := by
  unfold Env.counted; dsimp only; split <;> (try split) <;> (try split) <;> simp
@[simp] theorem Env.counted_remoteQ (e : Env) : (e.counted).remoteQ = e.s.remoteQ := by
  unfold Env.counted; dsimp only; split <;> (try split) <;> (try split) <;> simp
@[simp] theorem Env.counted_writers (e : Env) : (e.counted).writers = e.s.writers := by
  unfold Env.counted; dsimp only; split <;> (try split) <;> (try split) <;> simp
@[simp] theorem Env.counted_tlb (e : Env) : (e.counted).tlb = e.s.tlb := by
  unfold Env.counted; dsimp only; split <;> (try split) <;> (try split) <;> simp
@[simp] theorem Env.counted_poison (e : Env) : (e.counted).poison = e.s.poison := by
  unfold Env.counted; dsimp only; split <;> (try split) <;> (try split) <;> simp
@[simp] theorem Env.counted_chipPoison (e : Env) : (e.counted).chipPoison = e.s.chipPoison := by
  unfold Env.counted; dsimp only; split <;> (try split) <;> (try split) <;> simp
@[simp] theorem Env.counted_spadPoison (e : Env) : (e.counted).spadPoison = e.s.spadPoison := by
  unfold Env.counted; dsimp only; split <;> (try split) <;> (try split) <;> simp
@[simp] theorem Env.counted_left (e : Env) : (e.counted).left = e.s.left := by
  unfold Env.counted; dsimp only; split <;> (try split) <;> (try split) <;> simp
@[simp] theorem Env.counted_cores (e : Env) : (e.counted).cores = e.s.cores := by
  unfold Env.counted; dsimp only; split <;> (try split) <;> (try split) <;> simp
@[simp] theorem Env.counted_teams (e : Env) : (e.counted).teams = e.s.teams := by
  unfold Env.counted; dsimp only; split <;> (try split) <;> (try split) <;> simp
@[simp] theorem Env.counted_blocks (e : Env) : (e.counted).blocks = e.s.blocks := by
  unfold Env.counted; dsimp only; split <;> (try split) <;> (try split) <;> simp
@[simp] theorem Env.counted_conts (e : Env) : (e.counted).conts = e.s.conts := by
  unfold Env.counted; dsimp only; split <;> (try split) <;> (try split) <;> simp
@[simp] theorem Env.counted_nodes (e : Env) : (e.counted).nodes = e.s.nodes := by
  unfold Env.counted; dsimp only; split <;> (try split) <;> (try split) <;> simp
@[simp] theorem Env.counted_parts (e : Env) : (e.counted).parts = e.s.parts := by
  unfold Env.counted; dsimp only; split <;> (try split) <;> (try split) <;> simp
@[simp] theorem Env.counted_groups (e : Env) : (e.counted).groups = e.s.groups := by
  unfold Env.counted; dsimp only; split <;> (try split) <;> (try split) <;> simp
@[simp] theorem Env.counted_pkg (e : Env) : (e.counted).pkg = e.s.pkg := by
  unfold Env.counted; dsimp only; split <;> (try split) <;> (try split) <;> simp
@[simp] theorem Env.counted_nextId (e : Env) : (e.counted).nextId = e.s.nextId := by
  unfold Env.counted; dsimp only; split <;> (try split) <;> (try split) <;> simp

@[simp] theorem Team.putPred_tid (t : Team) (p : Nat) (w v : Lanes) : (t.putPred p w v).tid = t.tid := rfl
@[simp] theorem Team.putPred_blk (t : Team) (p : Nat) (w v : Lanes) : (t.putPred p w v).blk = t.blk := rfl
@[simp] theorem Team.putPred_core (t : Team) (p : Nat) (w v : Lanes) : (t.putPred p w v).core = t.core := rfl
@[simp] theorem Team.putPred_slot (t : Team) (p : Nat) (w v : Lanes) : (t.putPred p w v).slot = t.slot := rfl
@[simp] theorem Team.putPred_half (t : Team) (p : Nat) (w v : Lanes) : (t.putPred p w v).half = t.half := rfl
@[simp] theorem Team.putPred_resident (t : Team) (p : Nat) (w v : Lanes) : (t.putPred p w v).resident = t.resident := rfl
@[simp] theorem Team.putPred_fore (t : Team) (p : Nat) (w v : Lanes) : (t.putPred p w v).fore = t.fore := rfl
@[simp] theorem Team.putPred_num (t : Team) (p : Nat) (w v : Lanes) : (t.putPred p w v).num = t.num := rfl
@[simp] theorem Team.putPred_lanes (t : Team) (p : Nat) (w v : Lanes) : (t.putPred p w v).lanes = t.lanes := rfl
@[simp] theorem Team.putPred_pc (t : Team) (p : Nat) (w v : Lanes) : (t.putPred p w v).pc = t.pc := rfl
@[simp] theorem Team.putPred_farEntry (t : Team) (p : Nat) (w v : Lanes) : (t.putPred p w v).farEntry = t.farEntry := rfl
@[simp] theorem Team.putPred_mask (t : Team) (p : Nat) (w v : Lanes) : (t.putPred p w v).mask = t.mask := rfl
@[simp] theorem Team.putPred_helper (t : Team) (p : Nat) (w v : Lanes) : (t.putPred p w v).helper = t.helper := rfl
@[simp] theorem Team.putPred_sregs (t : Team) (p : Nat) (w v : Lanes) : (t.putPred p w v).sregs = t.sregs := rfl
@[simp] theorem Team.putPred_vregs (t : Team) (p : Nat) (w v : Lanes) : (t.putPred p w v).vregs = t.vregs := rfl
@[simp] theorem Team.putPred_chunks (t : Team) (p : Nat) (w v : Lanes) : (t.putPred p w v).chunks = t.chunks := rfl
@[simp] theorem Team.putPred_base (t : Team) (p : Nat) (w v : Lanes) : (t.putPred p w v).base = t.base := rfl
@[simp] theorem Team.putPred_latches (t : Team) (p : Nat) (w v : Lanes) : (t.putPred p w v).latches = t.latches := rfl
@[simp] theorem Team.putPred_region (t : Team) (p : Nat) (w v : Lanes) : (t.putPred p w v).region = t.region := rfl
@[simp] theorem Team.putPred_stack (t : Team) (p : Nat) (w v : Lanes) : (t.putPred p w v).stack = t.stack := rfl
@[simp] theorem Team.putPred_status (t : Team) (p : Nat) (w v : Lanes) : (t.putPred p w v).status = t.status := rfl
@[simp] theorem Team.putPred_stall (t : Team) (p : Nat) (w v : Lanes) : (t.putPred p w v).stall = t.stall := rfl
@[simp] theorem Team.putPred_age (t : Team) (p : Nat) (w v : Lanes) : (t.putPred p w v).age = t.age := rfl
@[simp] theorem Team.putPred_gen (t : Team) (p : Nat) (w v : Lanes) : (t.putPred p w v).gen = t.gen := rfl
@[simp] theorem Team.putPred_pix (t : Team) (p : Nat) (w v : Lanes) : (t.putPred p w v).pix = t.pix := rfl
@[simp] theorem Team.putPred_table (t : Team) (p : Nat) (w v : Lanes) : (t.putPred p w v).table = t.table := rfl
@[simp] theorem Team.putPred_waddr (t : Team) (p : Nat) (w v : Lanes) : (t.putPred p w v).waddr = t.waddr := rfl
@[simp] theorem Team.putPred_last (t : Team) (p : Nat) (w v : Lanes) : (t.putPred p w v).last = t.last := rfl
@[simp] theorem Team.putPred_entered (t : Team) (p : Nat) (w v : Lanes) : (t.putPred p w v).entered = t.entered := rfl
@[simp] theorem Team.putPred_cursor (t : Team) (p : Nat) (w v : Lanes) : (t.putPred p w v).cursor = t.cursor := rfl
@[simp] theorem Team.putPred_flights (t : Team) (p : Nat) (w v : Lanes) : (t.putPred p w v).flights = t.flights := rfl
@[simp] theorem Team.putPred_packets (t : Team) (p : Nat) (w v : Lanes) : (t.putPred p w v).packets = t.packets := rfl
@[simp] theorem Team.putPred_fault (t : Team) (p : Nat) (w v : Lanes) : (t.putPred p w v).fault = t.fault := rfl
@[simp] theorem Team.putPred_trap (t : Team) (p : Nat) (w v : Lanes) : (t.putPred p w v).trap = t.trap := rfl
@[simp] theorem Team.putPred_hold (t : Team) (p : Nat) (w v : Lanes) : (t.putPred p w v).hold = t.hold := rfl
@[simp] theorem Team.putPred_restore (t : Team) (p : Nat) (w v : Lanes) : (t.putPred p w v).restore = t.restore := rfl
@[simp] theorem Team.putPred_async (t : Team) (p : Nat) (w v : Lanes) : (t.putPred p w v).async = t.async := rfl
@[simp] theorem Team.putPred_frame (t : Team) (p : Nat) (w v : Lanes) : (t.putPred p w v).frame = t.frame := rfl
@[simp] theorem Team.putPred_run (t : Team) (p : Nat) (w v : Lanes) : (t.putPred p w v).run = t.run := rfl
@[simp] theorem Team.putPred_counters (t : Team) (p : Nat) (w v : Lanes) : (t.putPred p w v).counters = t.counters := rfl
@[simp] theorem Team.putPred_tier (t : Team) (p : Nat) (w v : Lanes) : (t.putPred p w v).tier = t.tier := rfl
@[simp] theorem Team.putPred_batch (t : Team) (p : Nat) (w v : Lanes) : (t.putPred p w v).batch = t.batch := rfl
@[simp] theorem Team.putPred_elems (t : Team) (p : Nat) (w v : Lanes) : (t.putPred p w v).elems = t.elems := rfl
@[simp] theorem Team.putPred_rays (t : Team) (p : Nat) (w v : Lanes) : (t.putPred p w v).rays = t.rays := rfl
@[simp] theorem Team.putPred_done (t : Team) (p : Nat) (w v : Lanes) : (t.putPred p w v).done = t.done := rfl
@[simp] theorem Team.putPred_mid (t : Team) (p : Nat) (w v : Lanes) : (t.putPred p w v).mid = t.mid := rfl
@[simp] theorem Team.putPred_issued (t : Team) (p : Nat) (w v : Lanes) : (t.putPred p w v).issued = t.issued := rfl
@[simp] theorem Team.putPred_yielded (t : Team) (p : Nat) (w v : Lanes) : (t.putPred p w v).yielded = t.yielded := rfl
@[simp] theorem Team.putPred_fetchWait (t : Team) (p : Nat) (w v : Lanes) : (t.putPred p w v).fetchWait = t.fetchWait := rfl

@[simp] theorem Team.putS_tid (t : Team) (n : Nat) (x : DWord) : (t.putS n x).tid = t.tid := rfl
@[simp] theorem Team.putS_blk (t : Team) (n : Nat) (x : DWord) : (t.putS n x).blk = t.blk := rfl
@[simp] theorem Team.putS_core (t : Team) (n : Nat) (x : DWord) : (t.putS n x).core = t.core := rfl
@[simp] theorem Team.putS_slot (t : Team) (n : Nat) (x : DWord) : (t.putS n x).slot = t.slot := rfl
@[simp] theorem Team.putS_half (t : Team) (n : Nat) (x : DWord) : (t.putS n x).half = t.half := rfl
@[simp] theorem Team.putS_resident (t : Team) (n : Nat) (x : DWord) : (t.putS n x).resident = t.resident := rfl
@[simp] theorem Team.putS_fore (t : Team) (n : Nat) (x : DWord) : (t.putS n x).fore = t.fore := rfl
@[simp] theorem Team.putS_num (t : Team) (n : Nat) (x : DWord) : (t.putS n x).num = t.num := rfl
@[simp] theorem Team.putS_lanes (t : Team) (n : Nat) (x : DWord) : (t.putS n x).lanes = t.lanes := rfl
@[simp] theorem Team.putS_pc (t : Team) (n : Nat) (x : DWord) : (t.putS n x).pc = t.pc := rfl
@[simp] theorem Team.putS_farEntry (t : Team) (n : Nat) (x : DWord) : (t.putS n x).farEntry = t.farEntry := rfl
@[simp] theorem Team.putS_mask (t : Team) (n : Nat) (x : DWord) : (t.putS n x).mask = t.mask := rfl
@[simp] theorem Team.putS_helper (t : Team) (n : Nat) (x : DWord) : (t.putS n x).helper = t.helper := rfl
@[simp] theorem Team.putS_preds (t : Team) (n : Nat) (x : DWord) : (t.putS n x).preds = t.preds := rfl
@[simp] theorem Team.putS_vregs (t : Team) (n : Nat) (x : DWord) : (t.putS n x).vregs = t.vregs := rfl
@[simp] theorem Team.putS_chunks (t : Team) (n : Nat) (x : DWord) : (t.putS n x).chunks = t.chunks := rfl
@[simp] theorem Team.putS_base (t : Team) (n : Nat) (x : DWord) : (t.putS n x).base = t.base := rfl
@[simp] theorem Team.putS_latches (t : Team) (n : Nat) (x : DWord) : (t.putS n x).latches = t.latches := rfl
@[simp] theorem Team.putS_region (t : Team) (n : Nat) (x : DWord) : (t.putS n x).region = t.region := rfl
@[simp] theorem Team.putS_stack (t : Team) (n : Nat) (x : DWord) : (t.putS n x).stack = t.stack := rfl
@[simp] theorem Team.putS_status (t : Team) (n : Nat) (x : DWord) : (t.putS n x).status = t.status := rfl
@[simp] theorem Team.putS_stall (t : Team) (n : Nat) (x : DWord) : (t.putS n x).stall = t.stall := rfl
@[simp] theorem Team.putS_age (t : Team) (n : Nat) (x : DWord) : (t.putS n x).age = t.age := rfl
@[simp] theorem Team.putS_gen (t : Team) (n : Nat) (x : DWord) : (t.putS n x).gen = t.gen := rfl
@[simp] theorem Team.putS_pix (t : Team) (n : Nat) (x : DWord) : (t.putS n x).pix = t.pix := rfl
@[simp] theorem Team.putS_table (t : Team) (n : Nat) (x : DWord) : (t.putS n x).table = t.table := rfl
@[simp] theorem Team.putS_waddr (t : Team) (n : Nat) (x : DWord) : (t.putS n x).waddr = t.waddr := rfl
@[simp] theorem Team.putS_last (t : Team) (n : Nat) (x : DWord) : (t.putS n x).last = t.last := rfl
@[simp] theorem Team.putS_entered (t : Team) (n : Nat) (x : DWord) : (t.putS n x).entered = t.entered := rfl
@[simp] theorem Team.putS_cursor (t : Team) (n : Nat) (x : DWord) : (t.putS n x).cursor = t.cursor := rfl
@[simp] theorem Team.putS_flights (t : Team) (n : Nat) (x : DWord) : (t.putS n x).flights = t.flights := rfl
@[simp] theorem Team.putS_packets (t : Team) (n : Nat) (x : DWord) : (t.putS n x).packets = t.packets := rfl
@[simp] theorem Team.putS_fault (t : Team) (n : Nat) (x : DWord) : (t.putS n x).fault = t.fault := rfl
@[simp] theorem Team.putS_trap (t : Team) (n : Nat) (x : DWord) : (t.putS n x).trap = t.trap := rfl
@[simp] theorem Team.putS_hold (t : Team) (n : Nat) (x : DWord) : (t.putS n x).hold = t.hold := rfl
@[simp] theorem Team.putS_restore (t : Team) (n : Nat) (x : DWord) : (t.putS n x).restore = t.restore := rfl
@[simp] theorem Team.putS_async (t : Team) (n : Nat) (x : DWord) : (t.putS n x).async = t.async := rfl
@[simp] theorem Team.putS_frame (t : Team) (n : Nat) (x : DWord) : (t.putS n x).frame = t.frame := rfl
@[simp] theorem Team.putS_run (t : Team) (n : Nat) (x : DWord) : (t.putS n x).run = t.run := rfl
@[simp] theorem Team.putS_counters (t : Team) (n : Nat) (x : DWord) : (t.putS n x).counters = t.counters := rfl
@[simp] theorem Team.putS_tier (t : Team) (n : Nat) (x : DWord) : (t.putS n x).tier = t.tier := rfl
@[simp] theorem Team.putS_batch (t : Team) (n : Nat) (x : DWord) : (t.putS n x).batch = t.batch := rfl
@[simp] theorem Team.putS_elems (t : Team) (n : Nat) (x : DWord) : (t.putS n x).elems = t.elems := rfl
@[simp] theorem Team.putS_rays (t : Team) (n : Nat) (x : DWord) : (t.putS n x).rays = t.rays := rfl
@[simp] theorem Team.putS_done (t : Team) (n : Nat) (x : DWord) : (t.putS n x).done = t.done := rfl
@[simp] theorem Team.putS_mid (t : Team) (n : Nat) (x : DWord) : (t.putS n x).mid = t.mid := rfl
@[simp] theorem Team.putS_issued (t : Team) (n : Nat) (x : DWord) : (t.putS n x).issued = t.issued := rfl
@[simp] theorem Team.putS_yielded (t : Team) (n : Nat) (x : DWord) : (t.putS n x).yielded = t.yielded := rfl
@[simp] theorem Team.putS_fetchWait (t : Team) (n : Nat) (x : DWord) : (t.putS n x).fetchWait = t.fetchWait := rfl

@[simp] theorem Team.shift_tid (t : Team) (x : Option (Map Word)) : (t.shift x).tid = t.tid := rfl
@[simp] theorem Team.shift_blk (t : Team) (x : Option (Map Word)) : (t.shift x).blk = t.blk := rfl
@[simp] theorem Team.shift_core (t : Team) (x : Option (Map Word)) : (t.shift x).core = t.core := rfl
@[simp] theorem Team.shift_slot (t : Team) (x : Option (Map Word)) : (t.shift x).slot = t.slot := rfl
@[simp] theorem Team.shift_half (t : Team) (x : Option (Map Word)) : (t.shift x).half = t.half := rfl
@[simp] theorem Team.shift_resident (t : Team) (x : Option (Map Word)) : (t.shift x).resident = t.resident := rfl
@[simp] theorem Team.shift_fore (t : Team) (x : Option (Map Word)) : (t.shift x).fore = t.fore := rfl
@[simp] theorem Team.shift_num (t : Team) (x : Option (Map Word)) : (t.shift x).num = t.num := rfl
@[simp] theorem Team.shift_lanes (t : Team) (x : Option (Map Word)) : (t.shift x).lanes = t.lanes := rfl
@[simp] theorem Team.shift_pc (t : Team) (x : Option (Map Word)) : (t.shift x).pc = t.pc := rfl
@[simp] theorem Team.shift_farEntry (t : Team) (x : Option (Map Word)) : (t.shift x).farEntry = t.farEntry := rfl
@[simp] theorem Team.shift_mask (t : Team) (x : Option (Map Word)) : (t.shift x).mask = t.mask := rfl
@[simp] theorem Team.shift_helper (t : Team) (x : Option (Map Word)) : (t.shift x).helper = t.helper := rfl
@[simp] theorem Team.shift_preds (t : Team) (x : Option (Map Word)) : (t.shift x).preds = t.preds := rfl
@[simp] theorem Team.shift_sregs (t : Team) (x : Option (Map Word)) : (t.shift x).sregs = t.sregs := rfl
@[simp] theorem Team.shift_vregs (t : Team) (x : Option (Map Word)) : (t.shift x).vregs = t.vregs := rfl
@[simp] theorem Team.shift_chunks (t : Team) (x : Option (Map Word)) : (t.shift x).chunks = t.chunks := rfl
@[simp] theorem Team.shift_base (t : Team) (x : Option (Map Word)) : (t.shift x).base = t.base := rfl
@[simp] theorem Team.shift_region (t : Team) (x : Option (Map Word)) : (t.shift x).region = t.region := rfl
@[simp] theorem Team.shift_stack (t : Team) (x : Option (Map Word)) : (t.shift x).stack = t.stack := rfl
@[simp] theorem Team.shift_status (t : Team) (x : Option (Map Word)) : (t.shift x).status = t.status := rfl
@[simp] theorem Team.shift_age (t : Team) (x : Option (Map Word)) : (t.shift x).age = t.age := rfl
@[simp] theorem Team.shift_gen (t : Team) (x : Option (Map Word)) : (t.shift x).gen = t.gen := rfl
@[simp] theorem Team.shift_pix (t : Team) (x : Option (Map Word)) : (t.shift x).pix = t.pix := rfl
@[simp] theorem Team.shift_waddr (t : Team) (x : Option (Map Word)) : (t.shift x).waddr = t.waddr := rfl
@[simp] theorem Team.shift_last (t : Team) (x : Option (Map Word)) : (t.shift x).last = t.last := rfl
@[simp] theorem Team.shift_entered (t : Team) (x : Option (Map Word)) : (t.shift x).entered = t.entered := rfl
@[simp] theorem Team.shift_flights (t : Team) (x : Option (Map Word)) : (t.shift x).flights = t.flights := rfl
@[simp] theorem Team.shift_packets (t : Team) (x : Option (Map Word)) : (t.shift x).packets = t.packets := rfl
@[simp] theorem Team.shift_fault (t : Team) (x : Option (Map Word)) : (t.shift x).fault = t.fault := rfl
@[simp] theorem Team.shift_trap (t : Team) (x : Option (Map Word)) : (t.shift x).trap = t.trap := rfl
@[simp] theorem Team.shift_hold (t : Team) (x : Option (Map Word)) : (t.shift x).hold = t.hold := rfl
@[simp] theorem Team.shift_restore (t : Team) (x : Option (Map Word)) : (t.shift x).restore = t.restore := rfl
@[simp] theorem Team.shift_async (t : Team) (x : Option (Map Word)) : (t.shift x).async = t.async := rfl
@[simp] theorem Team.shift_frame (t : Team) (x : Option (Map Word)) : (t.shift x).frame = t.frame := rfl
@[simp] theorem Team.shift_run (t : Team) (x : Option (Map Word)) : (t.shift x).run = t.run := rfl
@[simp] theorem Team.shift_counters (t : Team) (x : Option (Map Word)) : (t.shift x).counters = t.counters := rfl
@[simp] theorem Team.shift_tier (t : Team) (x : Option (Map Word)) : (t.shift x).tier = t.tier := rfl
@[simp] theorem Team.shift_batch (t : Team) (x : Option (Map Word)) : (t.shift x).batch = t.batch := rfl
@[simp] theorem Team.shift_elems (t : Team) (x : Option (Map Word)) : (t.shift x).elems = t.elems := rfl
@[simp] theorem Team.shift_rays (t : Team) (x : Option (Map Word)) : (t.shift x).rays = t.rays := rfl
@[simp] theorem Team.shift_done (t : Team) (x : Option (Map Word)) : (t.shift x).done = t.done := rfl
@[simp] theorem Team.shift_mid (t : Team) (x : Option (Map Word)) : (t.shift x).mid = t.mid := rfl

@[simp] theorem Team.fixLoads_tid (t : Team) (op : Nat) : (t.fixLoads op).tid = t.tid := by unfold Team.fixLoads; split <;> rfl
@[simp] theorem Team.fixLoads_blk (t : Team) (op : Nat) : (t.fixLoads op).blk = t.blk := by unfold Team.fixLoads; split <;> rfl
@[simp] theorem Team.fixLoads_core (t : Team) (op : Nat) : (t.fixLoads op).core = t.core := by unfold Team.fixLoads; split <;> rfl
@[simp] theorem Team.fixLoads_slot (t : Team) (op : Nat) : (t.fixLoads op).slot = t.slot := by unfold Team.fixLoads; split <;> rfl
@[simp] theorem Team.fixLoads_half (t : Team) (op : Nat) : (t.fixLoads op).half = t.half := by unfold Team.fixLoads; split <;> rfl
@[simp] theorem Team.fixLoads_resident (t : Team) (op : Nat) : (t.fixLoads op).resident = t.resident := by unfold Team.fixLoads; split <;> rfl
@[simp] theorem Team.fixLoads_fore (t : Team) (op : Nat) : (t.fixLoads op).fore = t.fore := by unfold Team.fixLoads; split <;> rfl
@[simp] theorem Team.fixLoads_num (t : Team) (op : Nat) : (t.fixLoads op).num = t.num := by unfold Team.fixLoads; split <;> rfl
@[simp] theorem Team.fixLoads_lanes (t : Team) (op : Nat) : (t.fixLoads op).lanes = t.lanes := by unfold Team.fixLoads; split <;> rfl
@[simp] theorem Team.fixLoads_pc (t : Team) (op : Nat) : (t.fixLoads op).pc = t.pc := by unfold Team.fixLoads; split <;> rfl
@[simp] theorem Team.fixLoads_farEntry (t : Team) (op : Nat) : (t.fixLoads op).farEntry = t.farEntry := by unfold Team.fixLoads; split <;> rfl
@[simp] theorem Team.fixLoads_mask (t : Team) (op : Nat) : (t.fixLoads op).mask = t.mask := by unfold Team.fixLoads; split <;> rfl
@[simp] theorem Team.fixLoads_helper (t : Team) (op : Nat) : (t.fixLoads op).helper = t.helper := by unfold Team.fixLoads; split <;> rfl
@[simp] theorem Team.fixLoads_preds (t : Team) (op : Nat) : (t.fixLoads op).preds = t.preds := by unfold Team.fixLoads; split <;> rfl
@[simp] theorem Team.fixLoads_sregs (t : Team) (op : Nat) : (t.fixLoads op).sregs = t.sregs := by unfold Team.fixLoads; split <;> rfl
@[simp] theorem Team.fixLoads_vregs (t : Team) (op : Nat) : (t.fixLoads op).vregs = t.vregs := by unfold Team.fixLoads; split <;> rfl
@[simp] theorem Team.fixLoads_chunks (t : Team) (op : Nat) : (t.fixLoads op).chunks = t.chunks := by unfold Team.fixLoads; split <;> rfl
@[simp] theorem Team.fixLoads_base (t : Team) (op : Nat) : (t.fixLoads op).base = t.base := by unfold Team.fixLoads; split <;> rfl
@[simp] theorem Team.fixLoads_region (t : Team) (op : Nat) : (t.fixLoads op).region = t.region := by unfold Team.fixLoads; split <;> rfl
@[simp] theorem Team.fixLoads_stack (t : Team) (op : Nat) : (t.fixLoads op).stack = t.stack := by unfold Team.fixLoads; split <;> rfl
@[simp] theorem Team.fixLoads_status (t : Team) (op : Nat) : (t.fixLoads op).status = t.status := by unfold Team.fixLoads; split <;> rfl
@[simp] theorem Team.fixLoads_age (t : Team) (op : Nat) : (t.fixLoads op).age = t.age := by unfold Team.fixLoads; split <;> rfl
@[simp] theorem Team.fixLoads_gen (t : Team) (op : Nat) : (t.fixLoads op).gen = t.gen := by unfold Team.fixLoads; split <;> rfl
@[simp] theorem Team.fixLoads_pix (t : Team) (op : Nat) : (t.fixLoads op).pix = t.pix := by unfold Team.fixLoads; split <;> rfl
@[simp] theorem Team.fixLoads_waddr (t : Team) (op : Nat) : (t.fixLoads op).waddr = t.waddr := by unfold Team.fixLoads; split <;> rfl
@[simp] theorem Team.fixLoads_last (t : Team) (op : Nat) : (t.fixLoads op).last = t.last := by unfold Team.fixLoads; split <;> rfl
@[simp] theorem Team.fixLoads_entered (t : Team) (op : Nat) : (t.fixLoads op).entered = t.entered := by unfold Team.fixLoads; split <;> rfl
@[simp] theorem Team.fixLoads_packets (t : Team) (op : Nat) : (t.fixLoads op).packets = t.packets := by unfold Team.fixLoads; split <;> rfl
@[simp] theorem Team.fixLoads_fault (t : Team) (op : Nat) : (t.fixLoads op).fault = t.fault := by unfold Team.fixLoads; split <;> rfl
@[simp] theorem Team.fixLoads_trap (t : Team) (op : Nat) : (t.fixLoads op).trap = t.trap := by unfold Team.fixLoads; split <;> rfl
@[simp] theorem Team.fixLoads_hold (t : Team) (op : Nat) : (t.fixLoads op).hold = t.hold := by unfold Team.fixLoads; split <;> rfl
@[simp] theorem Team.fixLoads_restore (t : Team) (op : Nat) : (t.fixLoads op).restore = t.restore := by unfold Team.fixLoads; split <;> rfl
@[simp] theorem Team.fixLoads_async (t : Team) (op : Nat) : (t.fixLoads op).async = t.async := by unfold Team.fixLoads; split <;> rfl
@[simp] theorem Team.fixLoads_frame (t : Team) (op : Nat) : (t.fixLoads op).frame = t.frame := by unfold Team.fixLoads; split <;> rfl
@[simp] theorem Team.fixLoads_run (t : Team) (op : Nat) : (t.fixLoads op).run = t.run := by unfold Team.fixLoads; split <;> rfl
@[simp] theorem Team.fixLoads_counters (t : Team) (op : Nat) : (t.fixLoads op).counters = t.counters := by unfold Team.fixLoads; split <;> rfl
@[simp] theorem Team.fixLoads_tier (t : Team) (op : Nat) : (t.fixLoads op).tier = t.tier := by unfold Team.fixLoads; split <;> rfl
@[simp] theorem Team.fixLoads_batch (t : Team) (op : Nat) : (t.fixLoads op).batch = t.batch := by unfold Team.fixLoads; split <;> rfl
@[simp] theorem Team.fixLoads_elems (t : Team) (op : Nat) : (t.fixLoads op).elems = t.elems := by unfold Team.fixLoads; split <;> rfl
@[simp] theorem Team.fixLoads_rays (t : Team) (op : Nat) : (t.fixLoads op).rays = t.rays := by unfold Team.fixLoads; split <;> rfl
@[simp] theorem Team.fixLoads_done (t : Team) (op : Nat) : (t.fixLoads op).done = t.done := by unfold Team.fixLoads; split <;> rfl
@[simp] theorem Team.fixLoads_mid (t : Team) (op : Nat) : (t.fixLoads op).mid = t.mid := by unfold Team.fixLoads; split <;> rfl
@[simp] theorem Team.fixLoads_latches (t : Team) (op : Nat) : (t.fixLoads op).latches = t.latches := by unfold Team.fixLoads; split <;> rfl
@[simp] theorem Team.fixLoads_stall (t : Team) (op : Nat) : (t.fixLoads op).stall = t.stall := by unfold Team.fixLoads; split <;> rfl
@[simp] theorem Team.fixLoads_yielded (t : Team) (op : Nat) : (t.fixLoads op).yielded = t.yielded := by unfold Team.fixLoads; split <;> rfl
@[simp] theorem Team.fixLoads_fetchWait (t : Team) (op : Nat) : (t.fixLoads op).fetchWait = t.fetchWait := by unfold Team.fixLoads; split <;> rfl
@[simp] theorem Team.fixLoads_issued (t : Team) (op : Nat) : (t.fixLoads op).issued = t.issued := by unfold Team.fixLoads; split <;> rfl
@[simp] theorem Team.fixLoads_table (t : Team) (op : Nat) : (t.fixLoads op).table = t.table := by unfold Team.fixLoads; split <;> rfl

@[simp] theorem Team.unretry_tid (t : Team) : (t.unretry).tid = t.tid := by
  unfold Team.unretry; split <;> rfl
@[simp] theorem Team.unretry_blk (t : Team) : (t.unretry).blk = t.blk := by
  unfold Team.unretry; split <;> rfl
@[simp] theorem Team.unretry_core (t : Team) : (t.unretry).core = t.core := by
  unfold Team.unretry; split <;> rfl
@[simp] theorem Team.unretry_slot (t : Team) : (t.unretry).slot = t.slot := by
  unfold Team.unretry; split <;> rfl
@[simp] theorem Team.unretry_half (t : Team) : (t.unretry).half = t.half := by
  unfold Team.unretry; split <;> rfl
@[simp] theorem Team.unretry_resident (t : Team) : (t.unretry).resident = t.resident := by
  unfold Team.unretry; split <;> rfl
@[simp] theorem Team.unretry_fore (t : Team) : (t.unretry).fore = t.fore := by
  unfold Team.unretry; split <;> rfl
@[simp] theorem Team.unretry_num (t : Team) : (t.unretry).num = t.num := by
  unfold Team.unretry; split <;> rfl
@[simp] theorem Team.unretry_lanes (t : Team) : (t.unretry).lanes = t.lanes := by
  unfold Team.unretry; split <;> rfl
@[simp] theorem Team.unretry_pc (t : Team) : (t.unretry).pc = t.pc := by
  unfold Team.unretry; split <;> rfl
@[simp] theorem Team.unretry_farEntry (t : Team) : (t.unretry).farEntry = t.farEntry := by
  unfold Team.unretry; split <;> rfl
@[simp] theorem Team.unretry_preds (t : Team) : (t.unretry).preds = t.preds := by
  unfold Team.unretry; split <;> rfl
@[simp] theorem Team.unretry_sregs (t : Team) : (t.unretry).sregs = t.sregs := by
  unfold Team.unretry; split <;> rfl
@[simp] theorem Team.unretry_vregs (t : Team) : (t.unretry).vregs = t.vregs := by
  unfold Team.unretry; split <;> rfl
@[simp] theorem Team.unretry_chunks (t : Team) : (t.unretry).chunks = t.chunks := by
  unfold Team.unretry; split <;> rfl
@[simp] theorem Team.unretry_base (t : Team) : (t.unretry).base = t.base := by
  unfold Team.unretry; split <;> rfl
@[simp] theorem Team.unretry_latches (t : Team) : (t.unretry).latches = t.latches := by
  unfold Team.unretry; split <;> rfl
@[simp] theorem Team.unretry_region (t : Team) : (t.unretry).region = t.region := by
  unfold Team.unretry; split <;> rfl
@[simp] theorem Team.unretry_stack (t : Team) : (t.unretry).stack = t.stack := by
  unfold Team.unretry; split <;> rfl
@[simp] theorem Team.unretry_status (t : Team) : (t.unretry).status = t.status := by
  unfold Team.unretry; split <;> rfl
@[simp] theorem Team.unretry_stall (t : Team) : (t.unretry).stall = t.stall := by
  unfold Team.unretry; split <;> rfl
@[simp] theorem Team.unretry_age (t : Team) : (t.unretry).age = t.age := by
  unfold Team.unretry; split <;> rfl
@[simp] theorem Team.unretry_gen (t : Team) : (t.unretry).gen = t.gen := by
  unfold Team.unretry; split <;> rfl
@[simp] theorem Team.unretry_pix (t : Team) : (t.unretry).pix = t.pix := by
  unfold Team.unretry; split <;> rfl
@[simp] theorem Team.unretry_table (t : Team) : (t.unretry).table = t.table := by
  unfold Team.unretry; split <;> rfl
@[simp] theorem Team.unretry_waddr (t : Team) : (t.unretry).waddr = t.waddr := by
  unfold Team.unretry; split <;> rfl
@[simp] theorem Team.unretry_last (t : Team) : (t.unretry).last = t.last := by
  unfold Team.unretry; split <;> rfl
@[simp] theorem Team.unretry_entered (t : Team) : (t.unretry).entered = t.entered := by
  unfold Team.unretry; split <;> rfl
@[simp] theorem Team.unretry_cursor (t : Team) : (t.unretry).cursor = t.cursor := by
  unfold Team.unretry; split <;> rfl
@[simp] theorem Team.unretry_flights (t : Team) : (t.unretry).flights = t.flights := by
  unfold Team.unretry; split <;> rfl
@[simp] theorem Team.unretry_packets (t : Team) : (t.unretry).packets = t.packets := by
  unfold Team.unretry; split <;> rfl
@[simp] theorem Team.unretry_fault (t : Team) : (t.unretry).fault = t.fault := by
  unfold Team.unretry; split <;> rfl
@[simp] theorem Team.unretry_trap (t : Team) : (t.unretry).trap = t.trap := by
  unfold Team.unretry; split <;> rfl
@[simp] theorem Team.unretry_hold (t : Team) : (t.unretry).hold = t.hold := by
  unfold Team.unretry; split <;> rfl
@[simp] theorem Team.unretry_async (t : Team) : (t.unretry).async = t.async := by
  unfold Team.unretry; split <;> rfl
@[simp] theorem Team.unretry_frame (t : Team) : (t.unretry).frame = t.frame := by
  unfold Team.unretry; split <;> rfl
@[simp] theorem Team.unretry_run (t : Team) : (t.unretry).run = t.run := by
  unfold Team.unretry; split <;> rfl
@[simp] theorem Team.unretry_counters (t : Team) : (t.unretry).counters = t.counters := by
  unfold Team.unretry; split <;> rfl
@[simp] theorem Team.unretry_tier (t : Team) : (t.unretry).tier = t.tier := by
  unfold Team.unretry; split <;> rfl
@[simp] theorem Team.unretry_batch (t : Team) : (t.unretry).batch = t.batch := by
  unfold Team.unretry; split <;> rfl
@[simp] theorem Team.unretry_elems (t : Team) : (t.unretry).elems = t.elems := by
  unfold Team.unretry; split <;> rfl
@[simp] theorem Team.unretry_rays (t : Team) : (t.unretry).rays = t.rays := by
  unfold Team.unretry; split <;> rfl
@[simp] theorem Team.unretry_done (t : Team) : (t.unretry).done = t.done := by
  unfold Team.unretry; split <;> rfl
@[simp] theorem Team.unretry_mid (t : Team) : (t.unretry).mid = t.mid := by
  unfold Team.unretry; split <;> rfl
@[simp] theorem Team.unretry_issued (t : Team) : (t.unretry).issued = t.issued := by
  unfold Team.unretry; split <;> rfl
@[simp] theorem Team.unretry_yielded (t : Team) : (t.unretry).yielded = t.yielded := by
  unfold Team.unretry; split <;> rfl
@[simp] theorem Team.unretry_fetchWait (t : Team) : (t.unretry).fetchWait = t.fetchWait := by
  unfold Team.unretry; split <;> rfl

@[simp] theorem Team.putRow_tid (t : Team) (r : Nat) (m : Map Word) : (t.putRow r m).tid = t.tid := by
  unfold Team.putRow; split <;> (try split) <;> rfl
@[simp] theorem Team.putRow_blk (t : Team) (r : Nat) (m : Map Word) : (t.putRow r m).blk = t.blk := by
  unfold Team.putRow; split <;> (try split) <;> rfl
@[simp] theorem Team.putRow_core (t : Team) (r : Nat) (m : Map Word) : (t.putRow r m).core = t.core := by
  unfold Team.putRow; split <;> (try split) <;> rfl
@[simp] theorem Team.putRow_slot (t : Team) (r : Nat) (m : Map Word) : (t.putRow r m).slot = t.slot := by
  unfold Team.putRow; split <;> (try split) <;> rfl
@[simp] theorem Team.putRow_half (t : Team) (r : Nat) (m : Map Word) : (t.putRow r m).half = t.half := by
  unfold Team.putRow; split <;> (try split) <;> rfl
@[simp] theorem Team.putRow_resident (t : Team) (r : Nat) (m : Map Word) : (t.putRow r m).resident = t.resident := by
  unfold Team.putRow; split <;> (try split) <;> rfl
@[simp] theorem Team.putRow_fore (t : Team) (r : Nat) (m : Map Word) : (t.putRow r m).fore = t.fore := by
  unfold Team.putRow; split <;> (try split) <;> rfl
@[simp] theorem Team.putRow_num (t : Team) (r : Nat) (m : Map Word) : (t.putRow r m).num = t.num := by
  unfold Team.putRow; split <;> (try split) <;> rfl
@[simp] theorem Team.putRow_lanes (t : Team) (r : Nat) (m : Map Word) : (t.putRow r m).lanes = t.lanes := by
  unfold Team.putRow; split <;> (try split) <;> rfl
@[simp] theorem Team.putRow_pc (t : Team) (r : Nat) (m : Map Word) : (t.putRow r m).pc = t.pc := by
  unfold Team.putRow; split <;> (try split) <;> rfl
@[simp] theorem Team.putRow_farEntry (t : Team) (r : Nat) (m : Map Word) : (t.putRow r m).farEntry = t.farEntry := by
  unfold Team.putRow; split <;> (try split) <;> rfl
@[simp] theorem Team.putRow_mask (t : Team) (r : Nat) (m : Map Word) : (t.putRow r m).mask = t.mask := by
  unfold Team.putRow; split <;> (try split) <;> rfl
@[simp] theorem Team.putRow_helper (t : Team) (r : Nat) (m : Map Word) : (t.putRow r m).helper = t.helper := by
  unfold Team.putRow; split <;> (try split) <;> rfl
@[simp] theorem Team.putRow_preds (t : Team) (r : Nat) (m : Map Word) : (t.putRow r m).preds = t.preds := by
  unfold Team.putRow; split <;> (try split) <;> rfl
@[simp] theorem Team.putRow_sregs (t : Team) (r : Nat) (m : Map Word) : (t.putRow r m).sregs = t.sregs := by
  unfold Team.putRow; split <;> (try split) <;> rfl
@[simp] theorem Team.putRow_chunks (t : Team) (r : Nat) (m : Map Word) : (t.putRow r m).chunks = t.chunks := by
  unfold Team.putRow; split <;> (try split) <;> rfl
@[simp] theorem Team.putRow_base (t : Team) (r : Nat) (m : Map Word) : (t.putRow r m).base = t.base := by
  unfold Team.putRow; split <;> (try split) <;> rfl
@[simp] theorem Team.putRow_latches (t : Team) (r : Nat) (m : Map Word) : (t.putRow r m).latches = t.latches := by
  unfold Team.putRow; split <;> (try split) <;> rfl
@[simp] theorem Team.putRow_region (t : Team) (r : Nat) (m : Map Word) : (t.putRow r m).region = t.region := by
  unfold Team.putRow; split <;> (try split) <;> rfl
@[simp] theorem Team.putRow_stack (t : Team) (r : Nat) (m : Map Word) : (t.putRow r m).stack = t.stack := by
  unfold Team.putRow; split <;> (try split) <;> rfl
@[simp] theorem Team.putRow_status (t : Team) (r : Nat) (m : Map Word) : (t.putRow r m).status = t.status := by
  unfold Team.putRow; split <;> (try split) <;> rfl
@[simp] theorem Team.putRow_stall (t : Team) (r : Nat) (m : Map Word) : (t.putRow r m).stall = t.stall := by
  unfold Team.putRow; split <;> (try split) <;> rfl
@[simp] theorem Team.putRow_age (t : Team) (r : Nat) (m : Map Word) : (t.putRow r m).age = t.age := by
  unfold Team.putRow; split <;> (try split) <;> rfl
@[simp] theorem Team.putRow_gen (t : Team) (r : Nat) (m : Map Word) : (t.putRow r m).gen = t.gen := by
  unfold Team.putRow; split <;> (try split) <;> rfl
@[simp] theorem Team.putRow_pix (t : Team) (r : Nat) (m : Map Word) : (t.putRow r m).pix = t.pix := by
  unfold Team.putRow; split <;> (try split) <;> rfl
@[simp] theorem Team.putRow_table (t : Team) (r : Nat) (m : Map Word) : (t.putRow r m).table = t.table := by
  unfold Team.putRow; split <;> (try split) <;> rfl
@[simp] theorem Team.putRow_waddr (t : Team) (r : Nat) (m : Map Word) : (t.putRow r m).waddr = t.waddr := by
  unfold Team.putRow; split <;> (try split) <;> rfl
@[simp] theorem Team.putRow_last (t : Team) (r : Nat) (m : Map Word) : (t.putRow r m).last = t.last := by
  unfold Team.putRow; split <;> (try split) <;> rfl
@[simp] theorem Team.putRow_entered (t : Team) (r : Nat) (m : Map Word) : (t.putRow r m).entered = t.entered := by
  unfold Team.putRow; split <;> (try split) <;> rfl
@[simp] theorem Team.putRow_cursor (t : Team) (r : Nat) (m : Map Word) : (t.putRow r m).cursor = t.cursor := by
  unfold Team.putRow; split <;> (try split) <;> rfl
@[simp] theorem Team.putRow_flights (t : Team) (r : Nat) (m : Map Word) : (t.putRow r m).flights = t.flights := by
  unfold Team.putRow; split <;> (try split) <;> rfl
@[simp] theorem Team.putRow_packets (t : Team) (r : Nat) (m : Map Word) : (t.putRow r m).packets = t.packets := by
  unfold Team.putRow; split <;> (try split) <;> rfl
@[simp] theorem Team.putRow_fault (t : Team) (r : Nat) (m : Map Word) : (t.putRow r m).fault = t.fault := by
  unfold Team.putRow; split <;> (try split) <;> rfl
@[simp] theorem Team.putRow_hold (t : Team) (r : Nat) (m : Map Word) : (t.putRow r m).hold = t.hold := by
  unfold Team.putRow; split <;> (try split) <;> rfl
@[simp] theorem Team.putRow_restore (t : Team) (r : Nat) (m : Map Word) : (t.putRow r m).restore = t.restore := by
  unfold Team.putRow; split <;> (try split) <;> rfl
@[simp] theorem Team.putRow_async (t : Team) (r : Nat) (m : Map Word) : (t.putRow r m).async = t.async := by
  unfold Team.putRow; split <;> (try split) <;> rfl
@[simp] theorem Team.putRow_frame (t : Team) (r : Nat) (m : Map Word) : (t.putRow r m).frame = t.frame := by
  unfold Team.putRow; split <;> (try split) <;> rfl
@[simp] theorem Team.putRow_run (t : Team) (r : Nat) (m : Map Word) : (t.putRow r m).run = t.run := by
  unfold Team.putRow; split <;> (try split) <;> rfl
@[simp] theorem Team.putRow_counters (t : Team) (r : Nat) (m : Map Word) : (t.putRow r m).counters = t.counters := by
  unfold Team.putRow; split <;> (try split) <;> rfl
@[simp] theorem Team.putRow_tier (t : Team) (r : Nat) (m : Map Word) : (t.putRow r m).tier = t.tier := by
  unfold Team.putRow; split <;> (try split) <;> rfl
@[simp] theorem Team.putRow_batch (t : Team) (r : Nat) (m : Map Word) : (t.putRow r m).batch = t.batch := by
  unfold Team.putRow; split <;> (try split) <;> rfl
@[simp] theorem Team.putRow_elems (t : Team) (r : Nat) (m : Map Word) : (t.putRow r m).elems = t.elems := by
  unfold Team.putRow; split <;> (try split) <;> rfl
@[simp] theorem Team.putRow_rays (t : Team) (r : Nat) (m : Map Word) : (t.putRow r m).rays = t.rays := by
  unfold Team.putRow; split <;> (try split) <;> rfl
@[simp] theorem Team.putRow_done (t : Team) (r : Nat) (m : Map Word) : (t.putRow r m).done = t.done := by
  unfold Team.putRow; split <;> (try split) <;> rfl
@[simp] theorem Team.putRow_mid (t : Team) (r : Nat) (m : Map Word) : (t.putRow r m).mid = t.mid := by
  unfold Team.putRow; split <;> (try split) <;> rfl
@[simp] theorem Team.putRow_issued (t : Team) (r : Nat) (m : Map Word) : (t.putRow r m).issued = t.issued := by
  unfold Team.putRow; split <;> (try split) <;> rfl
@[simp] theorem Team.putRow_yielded (t : Team) (r : Nat) (m : Map Word) : (t.putRow r m).yielded = t.yielded := by
  unfold Team.putRow; split <;> (try split) <;> rfl
@[simp] theorem Team.putRow_fetchWait (t : Team) (r : Nat) (m : Map Word) : (t.putRow r m).fetchWait = t.fetchWait := by
  unfold Team.putRow; split <;> (try split) <;> rfl

@[simp] theorem Team.putV_tid (t : Team) (r : Nat) (w : Lanes) (f : Nat → Word) : (t.putV r w f).tid = t.tid := by
  simp [Team.putV]
@[simp] theorem Team.putV_blk (t : Team) (r : Nat) (w : Lanes) (f : Nat → Word) : (t.putV r w f).blk = t.blk := by
  simp [Team.putV]
@[simp] theorem Team.putV_core (t : Team) (r : Nat) (w : Lanes) (f : Nat → Word) : (t.putV r w f).core = t.core := by
  simp [Team.putV]
@[simp] theorem Team.putV_slot (t : Team) (r : Nat) (w : Lanes) (f : Nat → Word) : (t.putV r w f).slot = t.slot := by
  simp [Team.putV]
@[simp] theorem Team.putV_half (t : Team) (r : Nat) (w : Lanes) (f : Nat → Word) : (t.putV r w f).half = t.half := by
  simp [Team.putV]
@[simp] theorem Team.putV_resident (t : Team) (r : Nat) (w : Lanes) (f : Nat → Word) : (t.putV r w f).resident = t.resident := by
  simp [Team.putV]
@[simp] theorem Team.putV_fore (t : Team) (r : Nat) (w : Lanes) (f : Nat → Word) : (t.putV r w f).fore = t.fore := by
  simp [Team.putV]
@[simp] theorem Team.putV_num (t : Team) (r : Nat) (w : Lanes) (f : Nat → Word) : (t.putV r w f).num = t.num := by
  simp [Team.putV]
@[simp] theorem Team.putV_lanes (t : Team) (r : Nat) (w : Lanes) (f : Nat → Word) : (t.putV r w f).lanes = t.lanes := by
  simp [Team.putV]
@[simp] theorem Team.putV_pc (t : Team) (r : Nat) (w : Lanes) (f : Nat → Word) : (t.putV r w f).pc = t.pc := by
  simp [Team.putV]
@[simp] theorem Team.putV_farEntry (t : Team) (r : Nat) (w : Lanes) (f : Nat → Word) : (t.putV r w f).farEntry = t.farEntry := by
  simp [Team.putV]
@[simp] theorem Team.putV_mask (t : Team) (r : Nat) (w : Lanes) (f : Nat → Word) : (t.putV r w f).mask = t.mask := by
  simp [Team.putV]
@[simp] theorem Team.putV_helper (t : Team) (r : Nat) (w : Lanes) (f : Nat → Word) : (t.putV r w f).helper = t.helper := by
  simp [Team.putV]
@[simp] theorem Team.putV_preds (t : Team) (r : Nat) (w : Lanes) (f : Nat → Word) : (t.putV r w f).preds = t.preds := by
  simp [Team.putV]
@[simp] theorem Team.putV_sregs (t : Team) (r : Nat) (w : Lanes) (f : Nat → Word) : (t.putV r w f).sregs = t.sregs := by
  simp [Team.putV]
@[simp] theorem Team.putV_chunks (t : Team) (r : Nat) (w : Lanes) (f : Nat → Word) : (t.putV r w f).chunks = t.chunks := by
  simp [Team.putV]
@[simp] theorem Team.putV_base (t : Team) (r : Nat) (w : Lanes) (f : Nat → Word) : (t.putV r w f).base = t.base := by
  simp [Team.putV]
@[simp] theorem Team.putV_latches (t : Team) (r : Nat) (w : Lanes) (f : Nat → Word) : (t.putV r w f).latches = t.latches := by
  simp [Team.putV]
@[simp] theorem Team.putV_region (t : Team) (r : Nat) (w : Lanes) (f : Nat → Word) : (t.putV r w f).region = t.region := by
  simp [Team.putV]
@[simp] theorem Team.putV_stack (t : Team) (r : Nat) (w : Lanes) (f : Nat → Word) : (t.putV r w f).stack = t.stack := by
  simp [Team.putV]
@[simp] theorem Team.putV_status (t : Team) (r : Nat) (w : Lanes) (f : Nat → Word) : (t.putV r w f).status = t.status := by
  simp [Team.putV]
@[simp] theorem Team.putV_stall (t : Team) (r : Nat) (w : Lanes) (f : Nat → Word) : (t.putV r w f).stall = t.stall := by
  simp [Team.putV]
@[simp] theorem Team.putV_age (t : Team) (r : Nat) (w : Lanes) (f : Nat → Word) : (t.putV r w f).age = t.age := by
  simp [Team.putV]
@[simp] theorem Team.putV_gen (t : Team) (r : Nat) (w : Lanes) (f : Nat → Word) : (t.putV r w f).gen = t.gen := by
  simp [Team.putV]
@[simp] theorem Team.putV_pix (t : Team) (r : Nat) (w : Lanes) (f : Nat → Word) : (t.putV r w f).pix = t.pix := by
  simp [Team.putV]
@[simp] theorem Team.putV_table (t : Team) (r : Nat) (w : Lanes) (f : Nat → Word) : (t.putV r w f).table = t.table := by
  simp [Team.putV]
@[simp] theorem Team.putV_waddr (t : Team) (r : Nat) (w : Lanes) (f : Nat → Word) : (t.putV r w f).waddr = t.waddr := by
  simp [Team.putV]
@[simp] theorem Team.putV_last (t : Team) (r : Nat) (w : Lanes) (f : Nat → Word) : (t.putV r w f).last = t.last := by
  simp [Team.putV]
@[simp] theorem Team.putV_entered (t : Team) (r : Nat) (w : Lanes) (f : Nat → Word) : (t.putV r w f).entered = t.entered := by
  simp [Team.putV]
@[simp] theorem Team.putV_cursor (t : Team) (r : Nat) (w : Lanes) (f : Nat → Word) : (t.putV r w f).cursor = t.cursor := by
  simp [Team.putV]
@[simp] theorem Team.putV_flights (t : Team) (r : Nat) (w : Lanes) (f : Nat → Word) : (t.putV r w f).flights = t.flights := by
  simp [Team.putV]
@[simp] theorem Team.putV_packets (t : Team) (r : Nat) (w : Lanes) (f : Nat → Word) : (t.putV r w f).packets = t.packets := by
  simp [Team.putV]
@[simp] theorem Team.putV_fault (t : Team) (r : Nat) (w : Lanes) (f : Nat → Word) : (t.putV r w f).fault = t.fault := by
  simp [Team.putV]
@[simp] theorem Team.putV_hold (t : Team) (r : Nat) (w : Lanes) (f : Nat → Word) : (t.putV r w f).hold = t.hold := by
  simp [Team.putV]
@[simp] theorem Team.putV_restore (t : Team) (r : Nat) (w : Lanes) (f : Nat → Word) : (t.putV r w f).restore = t.restore := by
  simp [Team.putV]
@[simp] theorem Team.putV_async (t : Team) (r : Nat) (w : Lanes) (f : Nat → Word) : (t.putV r w f).async = t.async := by
  simp [Team.putV]
@[simp] theorem Team.putV_frame (t : Team) (r : Nat) (w : Lanes) (f : Nat → Word) : (t.putV r w f).frame = t.frame := by
  simp [Team.putV]
@[simp] theorem Team.putV_run (t : Team) (r : Nat) (w : Lanes) (f : Nat → Word) : (t.putV r w f).run = t.run := by
  simp [Team.putV]
@[simp] theorem Team.putV_counters (t : Team) (r : Nat) (w : Lanes) (f : Nat → Word) : (t.putV r w f).counters = t.counters := by
  simp [Team.putV]
@[simp] theorem Team.putV_tier (t : Team) (r : Nat) (w : Lanes) (f : Nat → Word) : (t.putV r w f).tier = t.tier := by
  simp [Team.putV]
@[simp] theorem Team.putV_batch (t : Team) (r : Nat) (w : Lanes) (f : Nat → Word) : (t.putV r w f).batch = t.batch := by
  simp [Team.putV]
@[simp] theorem Team.putV_elems (t : Team) (r : Nat) (w : Lanes) (f : Nat → Word) : (t.putV r w f).elems = t.elems := by
  simp [Team.putV]
@[simp] theorem Team.putV_rays (t : Team) (r : Nat) (w : Lanes) (f : Nat → Word) : (t.putV r w f).rays = t.rays := by
  simp [Team.putV]
@[simp] theorem Team.putV_done (t : Team) (r : Nat) (w : Lanes) (f : Nat → Word) : (t.putV r w f).done = t.done := by
  simp [Team.putV]
@[simp] theorem Team.putV_mid (t : Team) (r : Nat) (w : Lanes) (f : Nat → Word) : (t.putV r w f).mid = t.mid := by
  simp [Team.putV]
@[simp] theorem Team.putV_issued (t : Team) (r : Nat) (w : Lanes) (f : Nat → Word) : (t.putV r w f).issued = t.issued := by
  simp [Team.putV]
@[simp] theorem Team.putV_yielded (t : Team) (r : Nat) (w : Lanes) (f : Nat → Word) : (t.putV r w f).yielded = t.yielded := by
  simp [Team.putV]
@[simp] theorem Team.putV_fetchWait (t : Team) (r : Nat) (w : Lanes) (f : Nat → Word) : (t.putV r w f).fetchWait = t.fetchWait := by
  simp [Team.putV]

@[simp] theorem Team.putRun_tid (t : Team) (r : Nat) (w : Lanes) (fs : List (Nat → Word)) : (t.putRun r w fs).tid = t.tid := by
  induction fs generalizing t r with
  | nil => rfl
  | cons f fs ih => simp [Team.putRun, ih]
@[simp] theorem Team.putRun_blk (t : Team) (r : Nat) (w : Lanes) (fs : List (Nat → Word)) : (t.putRun r w fs).blk = t.blk := by
  induction fs generalizing t r with
  | nil => rfl
  | cons f fs ih => simp [Team.putRun, ih]
@[simp] theorem Team.putRun_core (t : Team) (r : Nat) (w : Lanes) (fs : List (Nat → Word)) : (t.putRun r w fs).core = t.core := by
  induction fs generalizing t r with
  | nil => rfl
  | cons f fs ih => simp [Team.putRun, ih]
@[simp] theorem Team.putRun_slot (t : Team) (r : Nat) (w : Lanes) (fs : List (Nat → Word)) : (t.putRun r w fs).slot = t.slot := by
  induction fs generalizing t r with
  | nil => rfl
  | cons f fs ih => simp [Team.putRun, ih]
@[simp] theorem Team.putRun_half (t : Team) (r : Nat) (w : Lanes) (fs : List (Nat → Word)) : (t.putRun r w fs).half = t.half := by
  induction fs generalizing t r with
  | nil => rfl
  | cons f fs ih => simp [Team.putRun, ih]
@[simp] theorem Team.putRun_resident (t : Team) (r : Nat) (w : Lanes) (fs : List (Nat → Word)) : (t.putRun r w fs).resident = t.resident := by
  induction fs generalizing t r with
  | nil => rfl
  | cons f fs ih => simp [Team.putRun, ih]
@[simp] theorem Team.putRun_fore (t : Team) (r : Nat) (w : Lanes) (fs : List (Nat → Word)) : (t.putRun r w fs).fore = t.fore := by
  induction fs generalizing t r with
  | nil => rfl
  | cons f fs ih => simp [Team.putRun, ih]
@[simp] theorem Team.putRun_num (t : Team) (r : Nat) (w : Lanes) (fs : List (Nat → Word)) : (t.putRun r w fs).num = t.num := by
  induction fs generalizing t r with
  | nil => rfl
  | cons f fs ih => simp [Team.putRun, ih]
@[simp] theorem Team.putRun_lanes (t : Team) (r : Nat) (w : Lanes) (fs : List (Nat → Word)) : (t.putRun r w fs).lanes = t.lanes := by
  induction fs generalizing t r with
  | nil => rfl
  | cons f fs ih => simp [Team.putRun, ih]
@[simp] theorem Team.putRun_pc (t : Team) (r : Nat) (w : Lanes) (fs : List (Nat → Word)) : (t.putRun r w fs).pc = t.pc := by
  induction fs generalizing t r with
  | nil => rfl
  | cons f fs ih => simp [Team.putRun, ih]
@[simp] theorem Team.putRun_farEntry (t : Team) (r : Nat) (w : Lanes) (fs : List (Nat → Word)) : (t.putRun r w fs).farEntry = t.farEntry := by
  induction fs generalizing t r with
  | nil => rfl
  | cons f fs ih => simp [Team.putRun, ih]
@[simp] theorem Team.putRun_mask (t : Team) (r : Nat) (w : Lanes) (fs : List (Nat → Word)) : (t.putRun r w fs).mask = t.mask := by
  induction fs generalizing t r with
  | nil => rfl
  | cons f fs ih => simp [Team.putRun, ih]
@[simp] theorem Team.putRun_helper (t : Team) (r : Nat) (w : Lanes) (fs : List (Nat → Word)) : (t.putRun r w fs).helper = t.helper := by
  induction fs generalizing t r with
  | nil => rfl
  | cons f fs ih => simp [Team.putRun, ih]
@[simp] theorem Team.putRun_preds (t : Team) (r : Nat) (w : Lanes) (fs : List (Nat → Word)) : (t.putRun r w fs).preds = t.preds := by
  induction fs generalizing t r with
  | nil => rfl
  | cons f fs ih => simp [Team.putRun, ih]
@[simp] theorem Team.putRun_sregs (t : Team) (r : Nat) (w : Lanes) (fs : List (Nat → Word)) : (t.putRun r w fs).sregs = t.sregs := by
  induction fs generalizing t r with
  | nil => rfl
  | cons f fs ih => simp [Team.putRun, ih]
@[simp] theorem Team.putRun_chunks (t : Team) (r : Nat) (w : Lanes) (fs : List (Nat → Word)) : (t.putRun r w fs).chunks = t.chunks := by
  induction fs generalizing t r with
  | nil => rfl
  | cons f fs ih => simp [Team.putRun, ih]
@[simp] theorem Team.putRun_base (t : Team) (r : Nat) (w : Lanes) (fs : List (Nat → Word)) : (t.putRun r w fs).base = t.base := by
  induction fs generalizing t r with
  | nil => rfl
  | cons f fs ih => simp [Team.putRun, ih]
@[simp] theorem Team.putRun_latches (t : Team) (r : Nat) (w : Lanes) (fs : List (Nat → Word)) : (t.putRun r w fs).latches = t.latches := by
  induction fs generalizing t r with
  | nil => rfl
  | cons f fs ih => simp [Team.putRun, ih]
@[simp] theorem Team.putRun_region (t : Team) (r : Nat) (w : Lanes) (fs : List (Nat → Word)) : (t.putRun r w fs).region = t.region := by
  induction fs generalizing t r with
  | nil => rfl
  | cons f fs ih => simp [Team.putRun, ih]
@[simp] theorem Team.putRun_stack (t : Team) (r : Nat) (w : Lanes) (fs : List (Nat → Word)) : (t.putRun r w fs).stack = t.stack := by
  induction fs generalizing t r with
  | nil => rfl
  | cons f fs ih => simp [Team.putRun, ih]
@[simp] theorem Team.putRun_status (t : Team) (r : Nat) (w : Lanes) (fs : List (Nat → Word)) : (t.putRun r w fs).status = t.status := by
  induction fs generalizing t r with
  | nil => rfl
  | cons f fs ih => simp [Team.putRun, ih]
@[simp] theorem Team.putRun_stall (t : Team) (r : Nat) (w : Lanes) (fs : List (Nat → Word)) : (t.putRun r w fs).stall = t.stall := by
  induction fs generalizing t r with
  | nil => rfl
  | cons f fs ih => simp [Team.putRun, ih]
@[simp] theorem Team.putRun_age (t : Team) (r : Nat) (w : Lanes) (fs : List (Nat → Word)) : (t.putRun r w fs).age = t.age := by
  induction fs generalizing t r with
  | nil => rfl
  | cons f fs ih => simp [Team.putRun, ih]
@[simp] theorem Team.putRun_gen (t : Team) (r : Nat) (w : Lanes) (fs : List (Nat → Word)) : (t.putRun r w fs).gen = t.gen := by
  induction fs generalizing t r with
  | nil => rfl
  | cons f fs ih => simp [Team.putRun, ih]
@[simp] theorem Team.putRun_pix (t : Team) (r : Nat) (w : Lanes) (fs : List (Nat → Word)) : (t.putRun r w fs).pix = t.pix := by
  induction fs generalizing t r with
  | nil => rfl
  | cons f fs ih => simp [Team.putRun, ih]
@[simp] theorem Team.putRun_table (t : Team) (r : Nat) (w : Lanes) (fs : List (Nat → Word)) : (t.putRun r w fs).table = t.table := by
  induction fs generalizing t r with
  | nil => rfl
  | cons f fs ih => simp [Team.putRun, ih]
@[simp] theorem Team.putRun_waddr (t : Team) (r : Nat) (w : Lanes) (fs : List (Nat → Word)) : (t.putRun r w fs).waddr = t.waddr := by
  induction fs generalizing t r with
  | nil => rfl
  | cons f fs ih => simp [Team.putRun, ih]
@[simp] theorem Team.putRun_last (t : Team) (r : Nat) (w : Lanes) (fs : List (Nat → Word)) : (t.putRun r w fs).last = t.last := by
  induction fs generalizing t r with
  | nil => rfl
  | cons f fs ih => simp [Team.putRun, ih]
@[simp] theorem Team.putRun_entered (t : Team) (r : Nat) (w : Lanes) (fs : List (Nat → Word)) : (t.putRun r w fs).entered = t.entered := by
  induction fs generalizing t r with
  | nil => rfl
  | cons f fs ih => simp [Team.putRun, ih]
@[simp] theorem Team.putRun_cursor (t : Team) (r : Nat) (w : Lanes) (fs : List (Nat → Word)) : (t.putRun r w fs).cursor = t.cursor := by
  induction fs generalizing t r with
  | nil => rfl
  | cons f fs ih => simp [Team.putRun, ih]
@[simp] theorem Team.putRun_flights (t : Team) (r : Nat) (w : Lanes) (fs : List (Nat → Word)) : (t.putRun r w fs).flights = t.flights := by
  induction fs generalizing t r with
  | nil => rfl
  | cons f fs ih => simp [Team.putRun, ih]
@[simp] theorem Team.putRun_packets (t : Team) (r : Nat) (w : Lanes) (fs : List (Nat → Word)) : (t.putRun r w fs).packets = t.packets := by
  induction fs generalizing t r with
  | nil => rfl
  | cons f fs ih => simp [Team.putRun, ih]
@[simp] theorem Team.putRun_fault (t : Team) (r : Nat) (w : Lanes) (fs : List (Nat → Word)) : (t.putRun r w fs).fault = t.fault := by
  induction fs generalizing t r with
  | nil => rfl
  | cons f fs ih => simp [Team.putRun, ih]
@[simp] theorem Team.putRun_hold (t : Team) (r : Nat) (w : Lanes) (fs : List (Nat → Word)) : (t.putRun r w fs).hold = t.hold := by
  induction fs generalizing t r with
  | nil => rfl
  | cons f fs ih => simp [Team.putRun, ih]
@[simp] theorem Team.putRun_restore (t : Team) (r : Nat) (w : Lanes) (fs : List (Nat → Word)) : (t.putRun r w fs).restore = t.restore := by
  induction fs generalizing t r with
  | nil => rfl
  | cons f fs ih => simp [Team.putRun, ih]
@[simp] theorem Team.putRun_async (t : Team) (r : Nat) (w : Lanes) (fs : List (Nat → Word)) : (t.putRun r w fs).async = t.async := by
  induction fs generalizing t r with
  | nil => rfl
  | cons f fs ih => simp [Team.putRun, ih]
@[simp] theorem Team.putRun_frame (t : Team) (r : Nat) (w : Lanes) (fs : List (Nat → Word)) : (t.putRun r w fs).frame = t.frame := by
  induction fs generalizing t r with
  | nil => rfl
  | cons f fs ih => simp [Team.putRun, ih]
@[simp] theorem Team.putRun_run (t : Team) (r : Nat) (w : Lanes) (fs : List (Nat → Word)) : (t.putRun r w fs).run = t.run := by
  induction fs generalizing t r with
  | nil => rfl
  | cons f fs ih => simp [Team.putRun, ih]
@[simp] theorem Team.putRun_counters (t : Team) (r : Nat) (w : Lanes) (fs : List (Nat → Word)) : (t.putRun r w fs).counters = t.counters := by
  induction fs generalizing t r with
  | nil => rfl
  | cons f fs ih => simp [Team.putRun, ih]
@[simp] theorem Team.putRun_tier (t : Team) (r : Nat) (w : Lanes) (fs : List (Nat → Word)) : (t.putRun r w fs).tier = t.tier := by
  induction fs generalizing t r with
  | nil => rfl
  | cons f fs ih => simp [Team.putRun, ih]
@[simp] theorem Team.putRun_batch (t : Team) (r : Nat) (w : Lanes) (fs : List (Nat → Word)) : (t.putRun r w fs).batch = t.batch := by
  induction fs generalizing t r with
  | nil => rfl
  | cons f fs ih => simp [Team.putRun, ih]
@[simp] theorem Team.putRun_elems (t : Team) (r : Nat) (w : Lanes) (fs : List (Nat → Word)) : (t.putRun r w fs).elems = t.elems := by
  induction fs generalizing t r with
  | nil => rfl
  | cons f fs ih => simp [Team.putRun, ih]
@[simp] theorem Team.putRun_rays (t : Team) (r : Nat) (w : Lanes) (fs : List (Nat → Word)) : (t.putRun r w fs).rays = t.rays := by
  induction fs generalizing t r with
  | nil => rfl
  | cons f fs ih => simp [Team.putRun, ih]
@[simp] theorem Team.putRun_done (t : Team) (r : Nat) (w : Lanes) (fs : List (Nat → Word)) : (t.putRun r w fs).done = t.done := by
  induction fs generalizing t r with
  | nil => rfl
  | cons f fs ih => simp [Team.putRun, ih]
@[simp] theorem Team.putRun_mid (t : Team) (r : Nat) (w : Lanes) (fs : List (Nat → Word)) : (t.putRun r w fs).mid = t.mid := by
  induction fs generalizing t r with
  | nil => rfl
  | cons f fs ih => simp [Team.putRun, ih]
@[simp] theorem Team.putRun_issued (t : Team) (r : Nat) (w : Lanes) (fs : List (Nat → Word)) : (t.putRun r w fs).issued = t.issued := by
  induction fs generalizing t r with
  | nil => rfl
  | cons f fs ih => simp [Team.putRun, ih]
@[simp] theorem Team.putRun_yielded (t : Team) (r : Nat) (w : Lanes) (fs : List (Nat → Word)) : (t.putRun r w fs).yielded = t.yielded := by
  induction fs generalizing t r with
  | nil => rfl
  | cons f fs ih => simp [Team.putRun, ih]
@[simp] theorem Team.putRun_fetchWait (t : Team) (r : Nat) (w : Lanes) (fs : List (Nat → Word)) : (t.putRun r w fs).fetchWait = t.fetchWait := by
  induction fs generalizing t r with
  | nil => rfl
  | cons f fs ih => simp [Team.putRun, ih]

@[simp] theorem Team.putPair_tid (t : Team) (r : Nat) (w : Lanes) (f : Nat → DWord) : (t.putPair r w f).tid = t.tid := by
  simp [Team.putPair]
@[simp] theorem Team.putPair_blk (t : Team) (r : Nat) (w : Lanes) (f : Nat → DWord) : (t.putPair r w f).blk = t.blk := by
  simp [Team.putPair]
@[simp] theorem Team.putPair_core (t : Team) (r : Nat) (w : Lanes) (f : Nat → DWord) : (t.putPair r w f).core = t.core := by
  simp [Team.putPair]
@[simp] theorem Team.putPair_slot (t : Team) (r : Nat) (w : Lanes) (f : Nat → DWord) : (t.putPair r w f).slot = t.slot := by
  simp [Team.putPair]
@[simp] theorem Team.putPair_half (t : Team) (r : Nat) (w : Lanes) (f : Nat → DWord) : (t.putPair r w f).half = t.half := by
  simp [Team.putPair]
@[simp] theorem Team.putPair_resident (t : Team) (r : Nat) (w : Lanes) (f : Nat → DWord) : (t.putPair r w f).resident = t.resident := by
  simp [Team.putPair]
@[simp] theorem Team.putPair_fore (t : Team) (r : Nat) (w : Lanes) (f : Nat → DWord) : (t.putPair r w f).fore = t.fore := by
  simp [Team.putPair]
@[simp] theorem Team.putPair_num (t : Team) (r : Nat) (w : Lanes) (f : Nat → DWord) : (t.putPair r w f).num = t.num := by
  simp [Team.putPair]
@[simp] theorem Team.putPair_lanes (t : Team) (r : Nat) (w : Lanes) (f : Nat → DWord) : (t.putPair r w f).lanes = t.lanes := by
  simp [Team.putPair]
@[simp] theorem Team.putPair_pc (t : Team) (r : Nat) (w : Lanes) (f : Nat → DWord) : (t.putPair r w f).pc = t.pc := by
  simp [Team.putPair]
@[simp] theorem Team.putPair_farEntry (t : Team) (r : Nat) (w : Lanes) (f : Nat → DWord) : (t.putPair r w f).farEntry = t.farEntry := by
  simp [Team.putPair]
@[simp] theorem Team.putPair_mask (t : Team) (r : Nat) (w : Lanes) (f : Nat → DWord) : (t.putPair r w f).mask = t.mask := by
  simp [Team.putPair]
@[simp] theorem Team.putPair_helper (t : Team) (r : Nat) (w : Lanes) (f : Nat → DWord) : (t.putPair r w f).helper = t.helper := by
  simp [Team.putPair]
@[simp] theorem Team.putPair_preds (t : Team) (r : Nat) (w : Lanes) (f : Nat → DWord) : (t.putPair r w f).preds = t.preds := by
  simp [Team.putPair]
@[simp] theorem Team.putPair_sregs (t : Team) (r : Nat) (w : Lanes) (f : Nat → DWord) : (t.putPair r w f).sregs = t.sregs := by
  simp [Team.putPair]
@[simp] theorem Team.putPair_chunks (t : Team) (r : Nat) (w : Lanes) (f : Nat → DWord) : (t.putPair r w f).chunks = t.chunks := by
  simp [Team.putPair]
@[simp] theorem Team.putPair_base (t : Team) (r : Nat) (w : Lanes) (f : Nat → DWord) : (t.putPair r w f).base = t.base := by
  simp [Team.putPair]
@[simp] theorem Team.putPair_latches (t : Team) (r : Nat) (w : Lanes) (f : Nat → DWord) : (t.putPair r w f).latches = t.latches := by
  simp [Team.putPair]
@[simp] theorem Team.putPair_region (t : Team) (r : Nat) (w : Lanes) (f : Nat → DWord) : (t.putPair r w f).region = t.region := by
  simp [Team.putPair]
@[simp] theorem Team.putPair_stack (t : Team) (r : Nat) (w : Lanes) (f : Nat → DWord) : (t.putPair r w f).stack = t.stack := by
  simp [Team.putPair]
@[simp] theorem Team.putPair_status (t : Team) (r : Nat) (w : Lanes) (f : Nat → DWord) : (t.putPair r w f).status = t.status := by
  simp [Team.putPair]
@[simp] theorem Team.putPair_stall (t : Team) (r : Nat) (w : Lanes) (f : Nat → DWord) : (t.putPair r w f).stall = t.stall := by
  simp [Team.putPair]
@[simp] theorem Team.putPair_age (t : Team) (r : Nat) (w : Lanes) (f : Nat → DWord) : (t.putPair r w f).age = t.age := by
  simp [Team.putPair]
@[simp] theorem Team.putPair_gen (t : Team) (r : Nat) (w : Lanes) (f : Nat → DWord) : (t.putPair r w f).gen = t.gen := by
  simp [Team.putPair]
@[simp] theorem Team.putPair_pix (t : Team) (r : Nat) (w : Lanes) (f : Nat → DWord) : (t.putPair r w f).pix = t.pix := by
  simp [Team.putPair]
@[simp] theorem Team.putPair_table (t : Team) (r : Nat) (w : Lanes) (f : Nat → DWord) : (t.putPair r w f).table = t.table := by
  simp [Team.putPair]
@[simp] theorem Team.putPair_waddr (t : Team) (r : Nat) (w : Lanes) (f : Nat → DWord) : (t.putPair r w f).waddr = t.waddr := by
  simp [Team.putPair]
@[simp] theorem Team.putPair_last (t : Team) (r : Nat) (w : Lanes) (f : Nat → DWord) : (t.putPair r w f).last = t.last := by
  simp [Team.putPair]
@[simp] theorem Team.putPair_entered (t : Team) (r : Nat) (w : Lanes) (f : Nat → DWord) : (t.putPair r w f).entered = t.entered := by
  simp [Team.putPair]
@[simp] theorem Team.putPair_cursor (t : Team) (r : Nat) (w : Lanes) (f : Nat → DWord) : (t.putPair r w f).cursor = t.cursor := by
  simp [Team.putPair]
@[simp] theorem Team.putPair_flights (t : Team) (r : Nat) (w : Lanes) (f : Nat → DWord) : (t.putPair r w f).flights = t.flights := by
  simp [Team.putPair]
@[simp] theorem Team.putPair_packets (t : Team) (r : Nat) (w : Lanes) (f : Nat → DWord) : (t.putPair r w f).packets = t.packets := by
  simp [Team.putPair]
@[simp] theorem Team.putPair_fault (t : Team) (r : Nat) (w : Lanes) (f : Nat → DWord) : (t.putPair r w f).fault = t.fault := by
  simp [Team.putPair]
@[simp] theorem Team.putPair_hold (t : Team) (r : Nat) (w : Lanes) (f : Nat → DWord) : (t.putPair r w f).hold = t.hold := by
  simp [Team.putPair]
@[simp] theorem Team.putPair_restore (t : Team) (r : Nat) (w : Lanes) (f : Nat → DWord) : (t.putPair r w f).restore = t.restore := by
  simp [Team.putPair]
@[simp] theorem Team.putPair_async (t : Team) (r : Nat) (w : Lanes) (f : Nat → DWord) : (t.putPair r w f).async = t.async := by
  simp [Team.putPair]
@[simp] theorem Team.putPair_frame (t : Team) (r : Nat) (w : Lanes) (f : Nat → DWord) : (t.putPair r w f).frame = t.frame := by
  simp [Team.putPair]
@[simp] theorem Team.putPair_run (t : Team) (r : Nat) (w : Lanes) (f : Nat → DWord) : (t.putPair r w f).run = t.run := by
  simp [Team.putPair]
@[simp] theorem Team.putPair_counters (t : Team) (r : Nat) (w : Lanes) (f : Nat → DWord) : (t.putPair r w f).counters = t.counters := by
  simp [Team.putPair]
@[simp] theorem Team.putPair_tier (t : Team) (r : Nat) (w : Lanes) (f : Nat → DWord) : (t.putPair r w f).tier = t.tier := by
  simp [Team.putPair]
@[simp] theorem Team.putPair_batch (t : Team) (r : Nat) (w : Lanes) (f : Nat → DWord) : (t.putPair r w f).batch = t.batch := by
  simp [Team.putPair]
@[simp] theorem Team.putPair_elems (t : Team) (r : Nat) (w : Lanes) (f : Nat → DWord) : (t.putPair r w f).elems = t.elems := by
  simp [Team.putPair]
@[simp] theorem Team.putPair_rays (t : Team) (r : Nat) (w : Lanes) (f : Nat → DWord) : (t.putPair r w f).rays = t.rays := by
  simp [Team.putPair]
@[simp] theorem Team.putPair_done (t : Team) (r : Nat) (w : Lanes) (f : Nat → DWord) : (t.putPair r w f).done = t.done := by
  simp [Team.putPair]
@[simp] theorem Team.putPair_mid (t : Team) (r : Nat) (w : Lanes) (f : Nat → DWord) : (t.putPair r w f).mid = t.mid := by
  simp [Team.putPair]
@[simp] theorem Team.putPair_issued (t : Team) (r : Nat) (w : Lanes) (f : Nat → DWord) : (t.putPair r w f).issued = t.issued := by
  simp [Team.putPair]
@[simp] theorem Team.putPair_yielded (t : Team) (r : Nat) (w : Lanes) (f : Nat → DWord) : (t.putPair r w f).yielded = t.yielded := by
  simp [Team.putPair]
@[simp] theorem Team.putPair_fetchWait (t : Team) (r : Nat) (w : Lanes) (f : Nat → DWord) : (t.putPair r w f).fetchWait = t.fetchWait := by
  simp [Team.putPair]

@[simp] theorem Team.openRegion_tid (t : Team) (i : Instr) (rt : Nat) : (t.openRegion i rt).tid = t.tid := by
  simp only [Team.openRegion]; split <;> (try split) <;> rfl
@[simp] theorem Team.openRegion_blk (t : Team) (i : Instr) (rt : Nat) : (t.openRegion i rt).blk = t.blk := by
  simp only [Team.openRegion]; split <;> (try split) <;> rfl
@[simp] theorem Team.openRegion_core (t : Team) (i : Instr) (rt : Nat) : (t.openRegion i rt).core = t.core := by
  simp only [Team.openRegion]; split <;> (try split) <;> rfl
@[simp] theorem Team.openRegion_slot (t : Team) (i : Instr) (rt : Nat) : (t.openRegion i rt).slot = t.slot := by
  simp only [Team.openRegion]; split <;> (try split) <;> rfl
@[simp] theorem Team.openRegion_half (t : Team) (i : Instr) (rt : Nat) : (t.openRegion i rt).half = t.half := by
  simp only [Team.openRegion]; split <;> (try split) <;> rfl
@[simp] theorem Team.openRegion_resident (t : Team) (i : Instr) (rt : Nat) : (t.openRegion i rt).resident = t.resident := by
  simp only [Team.openRegion]; split <;> (try split) <;> rfl
@[simp] theorem Team.openRegion_fore (t : Team) (i : Instr) (rt : Nat) : (t.openRegion i rt).fore = t.fore := by
  simp only [Team.openRegion]; split <;> (try split) <;> rfl
@[simp] theorem Team.openRegion_num (t : Team) (i : Instr) (rt : Nat) : (t.openRegion i rt).num = t.num := by
  simp only [Team.openRegion]; split <;> (try split) <;> rfl
@[simp] theorem Team.openRegion_lanes (t : Team) (i : Instr) (rt : Nat) : (t.openRegion i rt).lanes = t.lanes := by
  simp only [Team.openRegion]; split <;> (try split) <;> rfl
@[simp] theorem Team.openRegion_pc (t : Team) (i : Instr) (rt : Nat) : (t.openRegion i rt).pc = t.pc := by
  simp only [Team.openRegion]; split <;> (try split) <;> rfl
@[simp] theorem Team.openRegion_farEntry (t : Team) (i : Instr) (rt : Nat) : (t.openRegion i rt).farEntry = t.farEntry := by
  simp only [Team.openRegion]; split <;> (try split) <;> rfl
@[simp] theorem Team.openRegion_mask (t : Team) (i : Instr) (rt : Nat) : (t.openRegion i rt).mask = t.mask := by
  simp only [Team.openRegion]; split <;> (try split) <;> rfl
@[simp] theorem Team.openRegion_helper (t : Team) (i : Instr) (rt : Nat) : (t.openRegion i rt).helper = t.helper := by
  simp only [Team.openRegion]; split <;> (try split) <;> rfl
@[simp] theorem Team.openRegion_preds (t : Team) (i : Instr) (rt : Nat) : (t.openRegion i rt).preds = t.preds := by
  simp only [Team.openRegion]; split <;> (try split) <;> rfl
@[simp] theorem Team.openRegion_sregs (t : Team) (i : Instr) (rt : Nat) : (t.openRegion i rt).sregs = t.sregs := by
  simp only [Team.openRegion]; split <;> (try split) <;> rfl
@[simp] theorem Team.openRegion_vregs (t : Team) (i : Instr) (rt : Nat) : (t.openRegion i rt).vregs = t.vregs := by
  simp only [Team.openRegion]; split <;> (try split) <;> rfl
@[simp] theorem Team.openRegion_chunks (t : Team) (i : Instr) (rt : Nat) : (t.openRegion i rt).chunks = t.chunks := by
  simp only [Team.openRegion]; split <;> (try split) <;> rfl
@[simp] theorem Team.openRegion_base (t : Team) (i : Instr) (rt : Nat) : (t.openRegion i rt).base = t.base := by
  simp only [Team.openRegion]; split <;> (try split) <;> rfl
@[simp] theorem Team.openRegion_latches (t : Team) (i : Instr) (rt : Nat) : (t.openRegion i rt).latches = t.latches := by
  simp only [Team.openRegion]; split <;> (try split) <;> rfl
@[simp] theorem Team.openRegion_stack (t : Team) (i : Instr) (rt : Nat) : (t.openRegion i rt).stack = t.stack := by
  simp only [Team.openRegion]; split <;> (try split) <;> rfl
@[simp] theorem Team.openRegion_status (t : Team) (i : Instr) (rt : Nat) : (t.openRegion i rt).status = t.status := by
  simp only [Team.openRegion]; split <;> (try split) <;> rfl
@[simp] theorem Team.openRegion_stall (t : Team) (i : Instr) (rt : Nat) : (t.openRegion i rt).stall = t.stall := by
  simp only [Team.openRegion]; split <;> (try split) <;> rfl
@[simp] theorem Team.openRegion_age (t : Team) (i : Instr) (rt : Nat) : (t.openRegion i rt).age = t.age := by
  simp only [Team.openRegion]; split <;> (try split) <;> rfl
@[simp] theorem Team.openRegion_gen (t : Team) (i : Instr) (rt : Nat) : (t.openRegion i rt).gen = t.gen := by
  simp only [Team.openRegion]; split <;> (try split) <;> rfl
@[simp] theorem Team.openRegion_pix (t : Team) (i : Instr) (rt : Nat) : (t.openRegion i rt).pix = t.pix := by
  simp only [Team.openRegion]; split <;> (try split) <;> rfl
@[simp] theorem Team.openRegion_table (t : Team) (i : Instr) (rt : Nat) : (t.openRegion i rt).table = t.table := by
  simp only [Team.openRegion]; split <;> (try split) <;> rfl
@[simp] theorem Team.openRegion_waddr (t : Team) (i : Instr) (rt : Nat) : (t.openRegion i rt).waddr = t.waddr := by
  simp only [Team.openRegion]; split <;> (try split) <;> rfl
@[simp] theorem Team.openRegion_last (t : Team) (i : Instr) (rt : Nat) : (t.openRegion i rt).last = t.last := by
  simp only [Team.openRegion]; split <;> (try split) <;> rfl
@[simp] theorem Team.openRegion_entered (t : Team) (i : Instr) (rt : Nat) : (t.openRegion i rt).entered = t.entered := by
  simp only [Team.openRegion]; split <;> (try split) <;> rfl
@[simp] theorem Team.openRegion_cursor (t : Team) (i : Instr) (rt : Nat) : (t.openRegion i rt).cursor = t.cursor := by
  simp only [Team.openRegion]; split <;> (try split) <;> rfl
@[simp] theorem Team.openRegion_flights (t : Team) (i : Instr) (rt : Nat) : (t.openRegion i rt).flights = t.flights := by
  simp only [Team.openRegion]; split <;> (try split) <;> rfl
@[simp] theorem Team.openRegion_packets (t : Team) (i : Instr) (rt : Nat) : (t.openRegion i rt).packets = t.packets := by
  simp only [Team.openRegion]; split <;> (try split) <;> rfl
@[simp] theorem Team.openRegion_fault (t : Team) (i : Instr) (rt : Nat) : (t.openRegion i rt).fault = t.fault := by
  simp only [Team.openRegion]; split <;> (try split) <;> rfl
@[simp] theorem Team.openRegion_trap (t : Team) (i : Instr) (rt : Nat) : (t.openRegion i rt).trap = t.trap := by
  simp only [Team.openRegion]; split <;> (try split) <;> rfl
@[simp] theorem Team.openRegion_hold (t : Team) (i : Instr) (rt : Nat) : (t.openRegion i rt).hold = t.hold := by
  simp only [Team.openRegion]; split <;> (try split) <;> rfl
@[simp] theorem Team.openRegion_restore (t : Team) (i : Instr) (rt : Nat) : (t.openRegion i rt).restore = t.restore := by
  simp only [Team.openRegion]; split <;> (try split) <;> rfl
@[simp] theorem Team.openRegion_async (t : Team) (i : Instr) (rt : Nat) : (t.openRegion i rt).async = t.async := by
  simp only [Team.openRegion]; split <;> (try split) <;> rfl
@[simp] theorem Team.openRegion_frame (t : Team) (i : Instr) (rt : Nat) : (t.openRegion i rt).frame = t.frame := by
  simp only [Team.openRegion]; split <;> (try split) <;> rfl
@[simp] theorem Team.openRegion_run (t : Team) (i : Instr) (rt : Nat) : (t.openRegion i rt).run = t.run := by
  simp only [Team.openRegion]; split <;> (try split) <;> rfl
@[simp] theorem Team.openRegion_counters (t : Team) (i : Instr) (rt : Nat) : (t.openRegion i rt).counters = t.counters := by
  simp only [Team.openRegion]; split <;> (try split) <;> rfl
@[simp] theorem Team.openRegion_tier (t : Team) (i : Instr) (rt : Nat) : (t.openRegion i rt).tier = t.tier := by
  simp only [Team.openRegion]; split <;> (try split) <;> rfl
@[simp] theorem Team.openRegion_batch (t : Team) (i : Instr) (rt : Nat) : (t.openRegion i rt).batch = t.batch := by
  simp only [Team.openRegion]; split <;> (try split) <;> rfl
@[simp] theorem Team.openRegion_elems (t : Team) (i : Instr) (rt : Nat) : (t.openRegion i rt).elems = t.elems := by
  simp only [Team.openRegion]; split <;> (try split) <;> rfl
@[simp] theorem Team.openRegion_rays (t : Team) (i : Instr) (rt : Nat) : (t.openRegion i rt).rays = t.rays := by
  simp only [Team.openRegion]; split <;> (try split) <;> rfl
@[simp] theorem Team.openRegion_done (t : Team) (i : Instr) (rt : Nat) : (t.openRegion i rt).done = t.done := by
  simp only [Team.openRegion]; split <;> (try split) <;> rfl
@[simp] theorem Team.openRegion_mid (t : Team) (i : Instr) (rt : Nat) : (t.openRegion i rt).mid = t.mid := by
  simp only [Team.openRegion]; split <;> (try split) <;> rfl
@[simp] theorem Team.openRegion_issued (t : Team) (i : Instr) (rt : Nat) : (t.openRegion i rt).issued = t.issued := by
  simp only [Team.openRegion]; split <;> (try split) <;> rfl
@[simp] theorem Team.openRegion_yielded (t : Team) (i : Instr) (rt : Nat) : (t.openRegion i rt).yielded = t.yielded := by
  simp only [Team.openRegion]; split <;> (try split) <;> rfl
@[simp] theorem Team.openRegion_fetchWait (t : Team) (i : Instr) (rt : Nat) : (t.openRegion i rt).fetchWait = t.fetchWait := by
  simp only [Team.openRegion]; split <;> (try split) <;> rfl

@[simp] theorem Team.closeRegion_tid (t : Team) (i : Instr) : (t.closeRegion i).tid = t.tid := by
  unfold Team.closeRegion; split <;> rfl
@[simp] theorem Team.closeRegion_blk (t : Team) (i : Instr) : (t.closeRegion i).blk = t.blk := by
  unfold Team.closeRegion; split <;> rfl
@[simp] theorem Team.closeRegion_core (t : Team) (i : Instr) : (t.closeRegion i).core = t.core := by
  unfold Team.closeRegion; split <;> rfl
@[simp] theorem Team.closeRegion_slot (t : Team) (i : Instr) : (t.closeRegion i).slot = t.slot := by
  unfold Team.closeRegion; split <;> rfl
@[simp] theorem Team.closeRegion_half (t : Team) (i : Instr) : (t.closeRegion i).half = t.half := by
  unfold Team.closeRegion; split <;> rfl
@[simp] theorem Team.closeRegion_resident (t : Team) (i : Instr) : (t.closeRegion i).resident = t.resident := by
  unfold Team.closeRegion; split <;> rfl
@[simp] theorem Team.closeRegion_fore (t : Team) (i : Instr) : (t.closeRegion i).fore = t.fore := by
  unfold Team.closeRegion; split <;> rfl
@[simp] theorem Team.closeRegion_num (t : Team) (i : Instr) : (t.closeRegion i).num = t.num := by
  unfold Team.closeRegion; split <;> rfl
@[simp] theorem Team.closeRegion_lanes (t : Team) (i : Instr) : (t.closeRegion i).lanes = t.lanes := by
  unfold Team.closeRegion; split <;> rfl
@[simp] theorem Team.closeRegion_pc (t : Team) (i : Instr) : (t.closeRegion i).pc = t.pc := by
  unfold Team.closeRegion; split <;> rfl
@[simp] theorem Team.closeRegion_farEntry (t : Team) (i : Instr) : (t.closeRegion i).farEntry = t.farEntry := by
  unfold Team.closeRegion; split <;> rfl
@[simp] theorem Team.closeRegion_mask (t : Team) (i : Instr) : (t.closeRegion i).mask = t.mask := by
  unfold Team.closeRegion; split <;> rfl
@[simp] theorem Team.closeRegion_helper (t : Team) (i : Instr) : (t.closeRegion i).helper = t.helper := by
  unfold Team.closeRegion; split <;> rfl
@[simp] theorem Team.closeRegion_preds (t : Team) (i : Instr) : (t.closeRegion i).preds = t.preds := by
  unfold Team.closeRegion; split <;> rfl
@[simp] theorem Team.closeRegion_sregs (t : Team) (i : Instr) : (t.closeRegion i).sregs = t.sregs := by
  unfold Team.closeRegion; split <;> rfl
@[simp] theorem Team.closeRegion_vregs (t : Team) (i : Instr) : (t.closeRegion i).vregs = t.vregs := by
  unfold Team.closeRegion; split <;> rfl
@[simp] theorem Team.closeRegion_chunks (t : Team) (i : Instr) : (t.closeRegion i).chunks = t.chunks := by
  unfold Team.closeRegion; split <;> rfl
@[simp] theorem Team.closeRegion_base (t : Team) (i : Instr) : (t.closeRegion i).base = t.base := by
  unfold Team.closeRegion; split <;> rfl
@[simp] theorem Team.closeRegion_latches (t : Team) (i : Instr) : (t.closeRegion i).latches = t.latches := by
  unfold Team.closeRegion; split <;> rfl
@[simp] theorem Team.closeRegion_stack (t : Team) (i : Instr) : (t.closeRegion i).stack = t.stack := by
  unfold Team.closeRegion; split <;> rfl
@[simp] theorem Team.closeRegion_status (t : Team) (i : Instr) : (t.closeRegion i).status = t.status := by
  unfold Team.closeRegion; split <;> rfl
@[simp] theorem Team.closeRegion_stall (t : Team) (i : Instr) : (t.closeRegion i).stall = t.stall := by
  unfold Team.closeRegion; split <;> rfl
@[simp] theorem Team.closeRegion_age (t : Team) (i : Instr) : (t.closeRegion i).age = t.age := by
  unfold Team.closeRegion; split <;> rfl
@[simp] theorem Team.closeRegion_gen (t : Team) (i : Instr) : (t.closeRegion i).gen = t.gen := by
  unfold Team.closeRegion; split <;> rfl
@[simp] theorem Team.closeRegion_pix (t : Team) (i : Instr) : (t.closeRegion i).pix = t.pix := by
  unfold Team.closeRegion; split <;> rfl
@[simp] theorem Team.closeRegion_table (t : Team) (i : Instr) : (t.closeRegion i).table = t.table := by
  unfold Team.closeRegion; split <;> rfl
@[simp] theorem Team.closeRegion_waddr (t : Team) (i : Instr) : (t.closeRegion i).waddr = t.waddr := by
  unfold Team.closeRegion; split <;> rfl
@[simp] theorem Team.closeRegion_last (t : Team) (i : Instr) : (t.closeRegion i).last = t.last := by
  unfold Team.closeRegion; split <;> rfl
@[simp] theorem Team.closeRegion_entered (t : Team) (i : Instr) : (t.closeRegion i).entered = t.entered := by
  unfold Team.closeRegion; split <;> rfl
@[simp] theorem Team.closeRegion_cursor (t : Team) (i : Instr) : (t.closeRegion i).cursor = t.cursor := by
  unfold Team.closeRegion; split <;> rfl
@[simp] theorem Team.closeRegion_flights (t : Team) (i : Instr) : (t.closeRegion i).flights = t.flights := by
  unfold Team.closeRegion; split <;> rfl
@[simp] theorem Team.closeRegion_packets (t : Team) (i : Instr) : (t.closeRegion i).packets = t.packets := by
  unfold Team.closeRegion; split <;> rfl
@[simp] theorem Team.closeRegion_fault (t : Team) (i : Instr) : (t.closeRegion i).fault = t.fault := by
  unfold Team.closeRegion; split <;> rfl
@[simp] theorem Team.closeRegion_trap (t : Team) (i : Instr) : (t.closeRegion i).trap = t.trap := by
  unfold Team.closeRegion; split <;> rfl
@[simp] theorem Team.closeRegion_hold (t : Team) (i : Instr) : (t.closeRegion i).hold = t.hold := by
  unfold Team.closeRegion; split <;> rfl
@[simp] theorem Team.closeRegion_restore (t : Team) (i : Instr) : (t.closeRegion i).restore = t.restore := by
  unfold Team.closeRegion; split <;> rfl
@[simp] theorem Team.closeRegion_async (t : Team) (i : Instr) : (t.closeRegion i).async = t.async := by
  unfold Team.closeRegion; split <;> rfl
@[simp] theorem Team.closeRegion_frame (t : Team) (i : Instr) : (t.closeRegion i).frame = t.frame := by
  unfold Team.closeRegion; split <;> rfl
@[simp] theorem Team.closeRegion_run (t : Team) (i : Instr) : (t.closeRegion i).run = t.run := by
  unfold Team.closeRegion; split <;> rfl
@[simp] theorem Team.closeRegion_counters (t : Team) (i : Instr) : (t.closeRegion i).counters = t.counters := by
  unfold Team.closeRegion; split <;> rfl
@[simp] theorem Team.closeRegion_tier (t : Team) (i : Instr) : (t.closeRegion i).tier = t.tier := by
  unfold Team.closeRegion; split <;> rfl
@[simp] theorem Team.closeRegion_batch (t : Team) (i : Instr) : (t.closeRegion i).batch = t.batch := by
  unfold Team.closeRegion; split <;> rfl
@[simp] theorem Team.closeRegion_elems (t : Team) (i : Instr) : (t.closeRegion i).elems = t.elems := by
  unfold Team.closeRegion; split <;> rfl
@[simp] theorem Team.closeRegion_rays (t : Team) (i : Instr) : (t.closeRegion i).rays = t.rays := by
  unfold Team.closeRegion; split <;> rfl
@[simp] theorem Team.closeRegion_done (t : Team) (i : Instr) : (t.closeRegion i).done = t.done := by
  unfold Team.closeRegion; split <;> rfl
@[simp] theorem Team.closeRegion_mid (t : Team) (i : Instr) : (t.closeRegion i).mid = t.mid := by
  unfold Team.closeRegion; split <;> rfl
@[simp] theorem Team.closeRegion_issued (t : Team) (i : Instr) : (t.closeRegion i).issued = t.issued := by
  unfold Team.closeRegion; split <;> rfl
@[simp] theorem Team.closeRegion_yielded (t : Team) (i : Instr) : (t.closeRegion i).yielded = t.yielded := by
  unfold Team.closeRegion; split <;> rfl
@[simp] theorem Team.closeRegion_fetchWait (t : Team) (i : Instr) : (t.closeRegion i).fetchWait = t.fetchWait := by
  unfold Team.closeRegion; split <;> rfl

@[simp] theorem Team.mergeGo_tid (n : Nat) (t : Team) : (t.mergeGo n).tid = t.tid := by
  induction n generalizing t with
  | zero => rfl
  | succ n ih => unfold Team.mergeGo; split <;> (try split) <;> simp [ih]
@[simp] theorem Team.mergeGo_blk (n : Nat) (t : Team) : (t.mergeGo n).blk = t.blk := by
  induction n generalizing t with
  | zero => rfl
  | succ n ih => unfold Team.mergeGo; split <;> (try split) <;> simp [ih]
@[simp] theorem Team.mergeGo_core (n : Nat) (t : Team) : (t.mergeGo n).core = t.core := by
  induction n generalizing t with
  | zero => rfl
  | succ n ih => unfold Team.mergeGo; split <;> (try split) <;> simp [ih]
@[simp] theorem Team.mergeGo_slot (n : Nat) (t : Team) : (t.mergeGo n).slot = t.slot := by
  induction n generalizing t with
  | zero => rfl
  | succ n ih => unfold Team.mergeGo; split <;> (try split) <;> simp [ih]
@[simp] theorem Team.mergeGo_half (n : Nat) (t : Team) : (t.mergeGo n).half = t.half := by
  induction n generalizing t with
  | zero => rfl
  | succ n ih => unfold Team.mergeGo; split <;> (try split) <;> simp [ih]
@[simp] theorem Team.mergeGo_resident (n : Nat) (t : Team) : (t.mergeGo n).resident = t.resident := by
  induction n generalizing t with
  | zero => rfl
  | succ n ih => unfold Team.mergeGo; split <;> (try split) <;> simp [ih]
@[simp] theorem Team.mergeGo_fore (n : Nat) (t : Team) : (t.mergeGo n).fore = t.fore := by
  induction n generalizing t with
  | zero => rfl
  | succ n ih => unfold Team.mergeGo; split <;> (try split) <;> simp [ih]
@[simp] theorem Team.mergeGo_num (n : Nat) (t : Team) : (t.mergeGo n).num = t.num := by
  induction n generalizing t with
  | zero => rfl
  | succ n ih => unfold Team.mergeGo; split <;> (try split) <;> simp [ih]
@[simp] theorem Team.mergeGo_lanes (n : Nat) (t : Team) : (t.mergeGo n).lanes = t.lanes := by
  induction n generalizing t with
  | zero => rfl
  | succ n ih => unfold Team.mergeGo; split <;> (try split) <;> simp [ih]
@[simp] theorem Team.mergeGo_pc (n : Nat) (t : Team) : (t.mergeGo n).pc = t.pc := by
  induction n generalizing t with
  | zero => rfl
  | succ n ih => unfold Team.mergeGo; split <;> (try split) <;> simp [ih]
@[simp] theorem Team.mergeGo_farEntry (n : Nat) (t : Team) : (t.mergeGo n).farEntry = t.farEntry := by
  induction n generalizing t with
  | zero => rfl
  | succ n ih => unfold Team.mergeGo; split <;> (try split) <;> simp [ih]
@[simp] theorem Team.mergeGo_helper (n : Nat) (t : Team) : (t.mergeGo n).helper = t.helper := by
  induction n generalizing t with
  | zero => rfl
  | succ n ih => unfold Team.mergeGo; split <;> (try split) <;> simp [ih]
@[simp] theorem Team.mergeGo_preds (n : Nat) (t : Team) : (t.mergeGo n).preds = t.preds := by
  induction n generalizing t with
  | zero => rfl
  | succ n ih => unfold Team.mergeGo; split <;> (try split) <;> simp [ih]
@[simp] theorem Team.mergeGo_sregs (n : Nat) (t : Team) : (t.mergeGo n).sregs = t.sregs := by
  induction n generalizing t with
  | zero => rfl
  | succ n ih => unfold Team.mergeGo; split <;> (try split) <;> simp [ih]
@[simp] theorem Team.mergeGo_chunks (n : Nat) (t : Team) : (t.mergeGo n).chunks = t.chunks := by
  induction n generalizing t with
  | zero => rfl
  | succ n ih => unfold Team.mergeGo; split <;> (try split) <;> simp [ih]
@[simp] theorem Team.mergeGo_base (n : Nat) (t : Team) : (t.mergeGo n).base = t.base := by
  induction n generalizing t with
  | zero => rfl
  | succ n ih => unfold Team.mergeGo; split <;> (try split) <;> simp [ih]
@[simp] theorem Team.mergeGo_latches (n : Nat) (t : Team) : (t.mergeGo n).latches = t.latches := by
  induction n generalizing t with
  | zero => rfl
  | succ n ih => unfold Team.mergeGo; split <;> (try split) <;> simp [ih]
@[simp] theorem Team.mergeGo_region (n : Nat) (t : Team) : (t.mergeGo n).region = t.region := by
  induction n generalizing t with
  | zero => rfl
  | succ n ih => unfold Team.mergeGo; split <;> (try split) <;> simp [ih]
@[simp] theorem Team.mergeGo_status (n : Nat) (t : Team) : (t.mergeGo n).status = t.status := by
  induction n generalizing t with
  | zero => rfl
  | succ n ih => unfold Team.mergeGo; split <;> (try split) <;> simp [ih]
@[simp] theorem Team.mergeGo_stall (n : Nat) (t : Team) : (t.mergeGo n).stall = t.stall := by
  induction n generalizing t with
  | zero => rfl
  | succ n ih => unfold Team.mergeGo; split <;> (try split) <;> simp [ih]
@[simp] theorem Team.mergeGo_age (n : Nat) (t : Team) : (t.mergeGo n).age = t.age := by
  induction n generalizing t with
  | zero => rfl
  | succ n ih => unfold Team.mergeGo; split <;> (try split) <;> simp [ih]
@[simp] theorem Team.mergeGo_gen (n : Nat) (t : Team) : (t.mergeGo n).gen = t.gen := by
  induction n generalizing t with
  | zero => rfl
  | succ n ih => unfold Team.mergeGo; split <;> (try split) <;> simp [ih]
@[simp] theorem Team.mergeGo_pix (n : Nat) (t : Team) : (t.mergeGo n).pix = t.pix := by
  induction n generalizing t with
  | zero => rfl
  | succ n ih => unfold Team.mergeGo; split <;> (try split) <;> simp [ih]
@[simp] theorem Team.mergeGo_table (n : Nat) (t : Team) : (t.mergeGo n).table = t.table := by
  induction n generalizing t with
  | zero => rfl
  | succ n ih => unfold Team.mergeGo; split <;> (try split) <;> simp [ih]
@[simp] theorem Team.mergeGo_waddr (n : Nat) (t : Team) : (t.mergeGo n).waddr = t.waddr := by
  induction n generalizing t with
  | zero => rfl
  | succ n ih => unfold Team.mergeGo; split <;> (try split) <;> simp [ih]
@[simp] theorem Team.mergeGo_last (n : Nat) (t : Team) : (t.mergeGo n).last = t.last := by
  induction n generalizing t with
  | zero => rfl
  | succ n ih => unfold Team.mergeGo; split <;> (try split) <;> simp [ih]
@[simp] theorem Team.mergeGo_entered (n : Nat) (t : Team) : (t.mergeGo n).entered = t.entered := by
  induction n generalizing t with
  | zero => rfl
  | succ n ih => unfold Team.mergeGo; split <;> (try split) <;> simp [ih]
@[simp] theorem Team.mergeGo_cursor (n : Nat) (t : Team) : (t.mergeGo n).cursor = t.cursor := by
  induction n generalizing t with
  | zero => rfl
  | succ n ih => unfold Team.mergeGo; split <;> (try split) <;> simp [ih]
@[simp] theorem Team.mergeGo_flights (n : Nat) (t : Team) : (t.mergeGo n).flights = t.flights := by
  induction n generalizing t with
  | zero => rfl
  | succ n ih => unfold Team.mergeGo; split <;> (try split) <;> simp [ih]
@[simp] theorem Team.mergeGo_packets (n : Nat) (t : Team) : (t.mergeGo n).packets = t.packets := by
  induction n generalizing t with
  | zero => rfl
  | succ n ih => unfold Team.mergeGo; split <;> (try split) <;> simp [ih]
@[simp] theorem Team.mergeGo_fault (n : Nat) (t : Team) : (t.mergeGo n).fault = t.fault := by
  induction n generalizing t with
  | zero => rfl
  | succ n ih => unfold Team.mergeGo; split <;> (try split) <;> simp [ih]
@[simp] theorem Team.mergeGo_hold (n : Nat) (t : Team) : (t.mergeGo n).hold = t.hold := by
  induction n generalizing t with
  | zero => rfl
  | succ n ih => unfold Team.mergeGo; split <;> (try split) <;> simp [ih]
@[simp] theorem Team.mergeGo_restore (n : Nat) (t : Team) : (t.mergeGo n).restore = t.restore := by
  induction n generalizing t with
  | zero => rfl
  | succ n ih => unfold Team.mergeGo; split <;> (try split) <;> simp [ih]
@[simp] theorem Team.mergeGo_async (n : Nat) (t : Team) : (t.mergeGo n).async = t.async := by
  induction n generalizing t with
  | zero => rfl
  | succ n ih => unfold Team.mergeGo; split <;> (try split) <;> simp [ih]
@[simp] theorem Team.mergeGo_frame (n : Nat) (t : Team) : (t.mergeGo n).frame = t.frame := by
  induction n generalizing t with
  | zero => rfl
  | succ n ih => unfold Team.mergeGo; split <;> (try split) <;> simp [ih]
@[simp] theorem Team.mergeGo_run (n : Nat) (t : Team) : (t.mergeGo n).run = t.run := by
  induction n generalizing t with
  | zero => rfl
  | succ n ih => unfold Team.mergeGo; split <;> (try split) <;> simp [ih]
@[simp] theorem Team.mergeGo_counters (n : Nat) (t : Team) : (t.mergeGo n).counters = t.counters := by
  induction n generalizing t with
  | zero => rfl
  | succ n ih => unfold Team.mergeGo; split <;> (try split) <;> simp [ih]
@[simp] theorem Team.mergeGo_tier (n : Nat) (t : Team) : (t.mergeGo n).tier = t.tier := by
  induction n generalizing t with
  | zero => rfl
  | succ n ih => unfold Team.mergeGo; split <;> (try split) <;> simp [ih]
@[simp] theorem Team.mergeGo_batch (n : Nat) (t : Team) : (t.mergeGo n).batch = t.batch := by
  induction n generalizing t with
  | zero => rfl
  | succ n ih => unfold Team.mergeGo; split <;> (try split) <;> simp [ih]
@[simp] theorem Team.mergeGo_elems (n : Nat) (t : Team) : (t.mergeGo n).elems = t.elems := by
  induction n generalizing t with
  | zero => rfl
  | succ n ih => unfold Team.mergeGo; split <;> (try split) <;> simp [ih]
@[simp] theorem Team.mergeGo_rays (n : Nat) (t : Team) : (t.mergeGo n).rays = t.rays := by
  induction n generalizing t with
  | zero => rfl
  | succ n ih => unfold Team.mergeGo; split <;> (try split) <;> simp [ih]
@[simp] theorem Team.mergeGo_done (n : Nat) (t : Team) : (t.mergeGo n).done = t.done := by
  induction n generalizing t with
  | zero => rfl
  | succ n ih => unfold Team.mergeGo; split <;> (try split) <;> simp [ih]
@[simp] theorem Team.mergeGo_mid (n : Nat) (t : Team) : (t.mergeGo n).mid = t.mid := by
  induction n generalizing t with
  | zero => rfl
  | succ n ih => unfold Team.mergeGo; split <;> (try split) <;> simp [ih]
@[simp] theorem Team.mergeGo_issued (n : Nat) (t : Team) : (t.mergeGo n).issued = t.issued := by
  induction n generalizing t with
  | zero => rfl
  | succ n ih => unfold Team.mergeGo; split <;> (try split) <;> simp [ih]
@[simp] theorem Team.mergeGo_yielded (n : Nat) (t : Team) : (t.mergeGo n).yielded = t.yielded := by
  induction n generalizing t with
  | zero => rfl
  | succ n ih => unfold Team.mergeGo; split <;> (try split) <;> simp [ih]
@[simp] theorem Team.mergeGo_fetchWait (n : Nat) (t : Team) : (t.mergeGo n).fetchWait = t.fetchWait := by
  induction n generalizing t with
  | zero => rfl
  | succ n ih => unfold Team.mergeGo; split <;> (try split) <;> simp [ih]

@[simp] theorem Team.merge_tid (t : Team) : (t.merge).tid = t.tid := by
  simp [Team.merge]
@[simp] theorem Team.merge_blk (t : Team) : (t.merge).blk = t.blk := by
  simp [Team.merge]
@[simp] theorem Team.merge_core (t : Team) : (t.merge).core = t.core := by
  simp [Team.merge]
@[simp] theorem Team.merge_slot (t : Team) : (t.merge).slot = t.slot := by
  simp [Team.merge]
@[simp] theorem Team.merge_half (t : Team) : (t.merge).half = t.half := by
  simp [Team.merge]
@[simp] theorem Team.merge_resident (t : Team) : (t.merge).resident = t.resident := by
  simp [Team.merge]
@[simp] theorem Team.merge_fore (t : Team) : (t.merge).fore = t.fore := by
  simp [Team.merge]
@[simp] theorem Team.merge_num (t : Team) : (t.merge).num = t.num := by
  simp [Team.merge]
@[simp] theorem Team.merge_lanes (t : Team) : (t.merge).lanes = t.lanes := by
  simp [Team.merge]
@[simp] theorem Team.merge_pc (t : Team) : (t.merge).pc = t.pc := by
  simp [Team.merge]
@[simp] theorem Team.merge_farEntry (t : Team) : (t.merge).farEntry = t.farEntry := by
  simp [Team.merge]
@[simp] theorem Team.merge_helper (t : Team) : (t.merge).helper = t.helper := by
  simp [Team.merge]
@[simp] theorem Team.merge_preds (t : Team) : (t.merge).preds = t.preds := by
  simp [Team.merge]
@[simp] theorem Team.merge_sregs (t : Team) : (t.merge).sregs = t.sregs := by
  simp [Team.merge]
@[simp] theorem Team.merge_chunks (t : Team) : (t.merge).chunks = t.chunks := by
  simp [Team.merge]
@[simp] theorem Team.merge_base (t : Team) : (t.merge).base = t.base := by
  simp [Team.merge]
@[simp] theorem Team.merge_latches (t : Team) : (t.merge).latches = t.latches := by
  simp [Team.merge]
@[simp] theorem Team.merge_region (t : Team) : (t.merge).region = t.region := by
  simp [Team.merge]
@[simp] theorem Team.merge_status (t : Team) : (t.merge).status = t.status := by
  simp [Team.merge]
@[simp] theorem Team.merge_stall (t : Team) : (t.merge).stall = t.stall := by
  simp [Team.merge]
@[simp] theorem Team.merge_age (t : Team) : (t.merge).age = t.age := by
  simp [Team.merge]
@[simp] theorem Team.merge_gen (t : Team) : (t.merge).gen = t.gen := by
  simp [Team.merge]
@[simp] theorem Team.merge_pix (t : Team) : (t.merge).pix = t.pix := by
  simp [Team.merge]
@[simp] theorem Team.merge_table (t : Team) : (t.merge).table = t.table := by
  simp [Team.merge]
@[simp] theorem Team.merge_waddr (t : Team) : (t.merge).waddr = t.waddr := by
  simp [Team.merge]
@[simp] theorem Team.merge_last (t : Team) : (t.merge).last = t.last := by
  simp [Team.merge]
@[simp] theorem Team.merge_entered (t : Team) : (t.merge).entered = t.entered := by
  simp [Team.merge]
@[simp] theorem Team.merge_cursor (t : Team) : (t.merge).cursor = t.cursor := by
  simp [Team.merge]
@[simp] theorem Team.merge_flights (t : Team) : (t.merge).flights = t.flights := by
  simp [Team.merge]
@[simp] theorem Team.merge_packets (t : Team) : (t.merge).packets = t.packets := by
  simp [Team.merge]
@[simp] theorem Team.merge_fault (t : Team) : (t.merge).fault = t.fault := by
  simp [Team.merge]
@[simp] theorem Team.merge_hold (t : Team) : (t.merge).hold = t.hold := by
  simp [Team.merge]
@[simp] theorem Team.merge_restore (t : Team) : (t.merge).restore = t.restore := by
  simp [Team.merge]
@[simp] theorem Team.merge_async (t : Team) : (t.merge).async = t.async := by
  simp [Team.merge]
@[simp] theorem Team.merge_frame (t : Team) : (t.merge).frame = t.frame := by
  simp [Team.merge]
@[simp] theorem Team.merge_run (t : Team) : (t.merge).run = t.run := by
  simp [Team.merge]
@[simp] theorem Team.merge_counters (t : Team) : (t.merge).counters = t.counters := by
  simp [Team.merge]
@[simp] theorem Team.merge_tier (t : Team) : (t.merge).tier = t.tier := by
  simp [Team.merge]
@[simp] theorem Team.merge_batch (t : Team) : (t.merge).batch = t.batch := by
  simp [Team.merge]
@[simp] theorem Team.merge_elems (t : Team) : (t.merge).elems = t.elems := by
  simp [Team.merge]
@[simp] theorem Team.merge_rays (t : Team) : (t.merge).rays = t.rays := by
  simp [Team.merge]
@[simp] theorem Team.merge_done (t : Team) : (t.merge).done = t.done := by
  simp [Team.merge]
@[simp] theorem Team.merge_mid (t : Team) : (t.merge).mid = t.mid := by
  simp [Team.merge]
@[simp] theorem Team.merge_issued (t : Team) : (t.merge).issued = t.issued := by
  simp [Team.merge]
@[simp] theorem Team.merge_yielded (t : Team) : (t.merge).yielded = t.yielded := by
  simp [Team.merge]
@[simp] theorem Team.merge_fetchWait (t : Team) : (t.merge).fetchWait = t.fetchWait := by
  simp [Team.merge]

end Sys2Proof.Machine
end

