-- ==== Sys2Proof/Laws/Issue.lean ====
section
/-! SUPPORT. Issue and completion: what `ready` says of an instruction's meaning, where the team stands afterwards, and what
each way of completing writes. -/

set_option Elab.async false

namespace Sys2Proof.Machine

/-- An instruction that is ready runs its meaning. -/
theorem issue_of_ready {i : Instr} {s : State} {e : Env} (h : s.ready i = some e) (k : Env → Out) : issue i s k = k e := by
  unfold State.ready at h
  unfold issue
  cases hc : s.curTeam with
  | none => rw [hc] at h; cases h
  | some t0 =>
    simp only [hc] at h ⊢
    split at h
    · rename_i hd
      simp only [hd]
      exact congrArg k (Option.some.inj h)
    · cases h

/-- An instruction that meets a cause of decode traps with it and does nothing else: it has not issued. -/
theorem issue_of_cause {i : Instr} {s : State} {t0 : Team} {c : Cause} (h : s.curTeam = some t0)
    (hc : ({ s := s.putTeam t0.merge, t := t0.merge.closeRegion i,
             b := (s.putTeam t0.merge).blockOf (t0.merge.closeRegion i), op := i.opcode } : Env).decodeCause i = some c)
    (k : Env → Out) :
    issue i s k = Env.teamTrap { s := s.putTeam t0.merge, t := t0.merge.closeRegion i,
                                 b := (s.putTeam t0.merge).blockOf (t0.merge.closeRegion i), op := i.opcode }
      (s.putTeam t0.merge) i c := by
  unfold issue
  simp only [h, hc]

/-! ### The selected team after a step -/

theorem find?_map_replace {α : Type} (p q : α → Bool) (u t : α) (hu : p u = true) (hq : q t = true) (l : List α)
    (h : l.find? p = some t) : (l.map fun x => if q x then u else x).find? p = some u := by
  induction l with
  | nil => cases h
  | cons x xs ih =>
    rw [List.map_cons]
    by_cases hx : p x = true
    · rw [List.find?_cons_of_pos hx] at h
      cases h
      rw [if_pos hq, List.find?_cons_of_pos hu]
    · rw [List.find?_cons_of_neg hx] at h
      by_cases hxt : q x = true
      · rw [if_pos hxt, List.find?_cons_of_pos hu]
      · rw [if_neg hxt, List.find?_cons_of_neg hx]
        exact ih h

/-- A team that takes the place of the selected one is the selected one. -/
theorem curTeam_putTeam {s : State} {t u : Team} (h : s.curTeam = some t) (hid : u.tid = t.tid)
    (hr : u.resident = true) (hc : u.core = t.core) (hs : u.slot = t.slot) (hh : u.half = t.half) :
    (s.putTeam u).curTeam = some u := by
  have ht := List.find?_some (show List.find? _ s.teams = some t from h)
  simp only [Bool.and_eq_true, beq_iff_eq] at ht
  exact find?_map_replace _ (fun x => x.tid == u.tid) u t (by simp [hr, hc, hs, hh, ht.1.1.2, ht.1.2, ht.2])
    (by simp [hid]) s.teams h

/-- What is known of the environment of an instruction that is ready. -/
theorem ready_spec {i : Instr} {s : State} {e : Env} (h : s.ready i = some e) :
    ∃ t0, s.curTeam = some t0 ∧ e.t = (t0.merge.closeRegion i).openRegion i e.b.rtRun ∧
      e.s = s.putTeam t0.merge ∧ e.b = s.blockOf t0 ∧ encCheck i = none := by
  unfold State.ready at h
  cases hc : s.curTeam with
  | none => rw [hc] at h; cases h
  | some t0 =>
    simp only [hc] at h
    split at h
    · rename_i hd
      cases Option.some.inj h
      have hb : (s.putTeam t0.merge).blockOf (t0.merge.closeRegion i) = s.blockOf t0 := by
        simp [State.blockOf, State.block?]
      refine ⟨t0, rfl, rfl, rfl, hb, ?_⟩
      unfold Env.decodeCause at hd
      cases he : encCheck i with
      | none => rfl
      | some r =>
        rw [he] at hd
        cases r with
        | illegal => simp at hd
        | reserved =>
          split at hd
          · cases hd
          · simp at hd
    · cases h

/-- Where an instruction is ready, the team it leaves behind is the selected one. -/
theorem ready_curTeam {i : Instr} {s : State} {e : Env} (h : s.ready i = some e) (s' : State) (u : Team)
    (hs' : s'.teams = e.s.teams) (hsel : s'.sel = e.s.sel)
    (hid : u.tid = e.t.tid) (hr : u.resident = e.t.resident) (hc : u.core = e.t.core) (hs : u.slot = e.t.slot)
    (hh : u.half = e.t.half) : (s'.putTeam u).curTeam = some u := by
  obtain ⟨t0, h0, ht, hes, -, -⟩ := ready_spec h
  have hres : t0.resident = true := by
    have := List.find?_some (show List.find? _ s.teams = some t0 from h0)
    simp only [Bool.and_eq_true] at this
    exact this.1.1.1
  have h1 : e.s.curTeam = some t0.merge := by
    rw [hes]
    exact curTeam_putTeam h0 (by simp) (by simp [hres]) (by simp) (by simp) (by simp)
  have h2 : s'.curTeam = some t0.merge := by
    unfold State.curTeam State.teamAt at *
    rw [hs', hsel]
    exact h1
  exact curTeam_putTeam h2 (by rw [hid, ht]; simp) (by rw [hr, ht]; simp [hres]) (by rw [hc, ht]; simp)
    (by rw [hs, ht]; simp) (by rw [hh, ht]; simp)

/-! ### Vector registers -/

@[simp] theorem vname_shift (t : Team) (x : Option (Map Word)) (r : Nat) : (t.shift x).vname r = t.vname r := rfl
@[simp] theorem vname_fixLoads (t : Team) (op r : Nat) : (t.fixLoads op).vname r = t.vname r := by
  unfold Team.fixLoads; split <;> rfl
@[simp] theorem getV_fixLoads (t : Team) (op r l : Nat) : (t.fixLoads op).getV r l = t.getV r l := by
  unfold Team.fixLoads; split <;> rfl
@[simp] theorem vname_pc (t : Team) (x : CodeOff) (r : Nat) : ({ t with pc := x } : Team).vname r = t.vname r := rfl
@[simp] theorem getV_shift (t : Team) (x : Option (Map Word)) (r l : Nat) : (t.shift x).getV r l = t.getV r l := rfl
@[simp] theorem getV_pc (t : Team) (x : CodeOff) (r l : Nat) : ({ t with pc := x } : Team).getV r l = t.getV r l := rfl
@[simp] theorem getV_unretry (t : Team) (r l : Nat) : t.unretry.getV r l = t.getV r l := by
  unfold Team.unretry; split <;> rfl
@[simp] theorem vname_unretry (t : Team) (r : Nat) : t.unretry.vname r = t.vname r := by
  unfold Team.unretry; split <;> rfl

/-- A row replaced in a register leads every name where it led before. -/
@[simp] theorem vname_putRow (t : Team) (r : Nat) (m : Map Word) (q : Nat) : (t.putRow r m).vname q = t.vname q := by
  unfold Team.putRow
  cases h : t.vname r with
  | inr r' => rfl
  | inl j =>
    cases ht : t.trap with
    | none => rfl
    | some tr =>
      unfold Team.vname
      simp only [ht]
      unfold Team.vname at h
      simp only [ht] at h
      split at h
      · cases hw : tr.window with
        | granules g => rfl
        | spill => rw [hw] at h; cases h
      · cases h

@[simp] theorem vname_putV (t : Team) (r : Nat) (w : Lanes) (f : Nat → Word) (q : Nat) :
    (t.putV r w f).vname q = t.vname q := by
  simp [Team.putV]

/-- Reading a register through a replaced row. -/
theorem getV_putRow (t : Team) (r : Nat) (m : Map Word) (hm : ∀ e ∈ m, e.1 < 1024) (q l : Nat) (hl : l < 1024) :
    (t.putRow r m).getV q l = if t.vname q = t.vname r then mget 0 m l else t.getV q l := by
  unfold Team.getV
  rw [vname_putRow]
  unfold Team.putRow
  cases hr : t.vname r with
  | inr r' =>
    cases hq : t.vname q with
    | inl j => simp; rfl
    | inr q' =>
      simp only
      rw [mget_mput 0 _ _ _ _ hm]
      by_cases hqr : q' = r'
      · subst hqr
        have h1 : 1024 * q' ≤ 1024 * q' + l ∧ 1024 * q' + l < 1024 * q' + 1024 := by omega
        have h2 : 1024 * q' + l - 1024 * q' = l := by omega
        rw [if_pos h1, if_pos rfl, h2]
      · have h1 : ¬ (1024 * r' ≤ 1024 * q' + l ∧ 1024 * q' + l < 1024 * r' + 1024) := by omega
        have h2 : ¬ ((Sum.inr q' : Nat ⊕ Nat) = Sum.inr r') := by simpa using hqr
        rw [if_neg h1, if_neg h2]
  | inl j =>
    have hn : ∃ tr g, t.trap = some tr ∧ tr.window = .granules g := by
      unfold Team.vname at hr
      cases ht : t.trap with
      | none => rw [ht] at hr; cases hr
      | some tr =>
        simp only [ht] at hr
        split at hr
        · cases hw : tr.window with
          | granules g => exact ⟨tr, g, rfl, hw⟩
          | spill => rw [hw] at hr; cases hr
        · cases hr
    obtain ⟨tr, g, ht, hw⟩ := hn
    simp only [ht]
    cases hq : t.vname q with
    | inr q' => simp
    | inl k =>
      simp only [Team.winRegs, ht, hw]
      rw [mget_mput 0 _ _ _ _ hm]
      by_cases hqr : k = j
      · subst hqr
        have h1 : 1024 * k ≤ 1024 * k + l ∧ 1024 * k + l < 1024 * k + 1024 := by omega
        have h2 : 1024 * k + l - 1024 * k = l := by omega
        rw [if_pos h1, if_pos rfl, h2]
      · have h1 : ¬ (1024 * j ≤ 1024 * k + l ∧ 1024 * k + l < 1024 * j + 1024) := by omega
        have h2 : ¬ ((Sum.inl k : Nat ⊕ Nat) = Sum.inl j) := by simpa using hqr
        rw [if_neg h1, if_neg h2]

/-- A register's row holds its lanes. -/
theorem mget_row (t : Team) (r l : Nat) (hl : l < 1024) : mget 0 (t.row r) l = t.getV r l := by
  unfold Team.row Team.getV
  cases t.vname r <;> simp [mget_mslice, hl]

/-- Read after write of a vector register, in every state: the written lanes of every name of the register, and nothing
else. -/
theorem getV_putV (t : Team) (r : Nat) (w : Lanes) (f : Nat → Word) (q l : Nat) (hl : l < 1024) :
    (t.putV r w f).getV q l =
      if t.vname q = t.vname r ∧ w.getLsbD l = true ∧ l < t.lanes then f l else t.getV q l := by
  unfold Team.putV
  rw [getV_putRow _ _ _ (mrow_keys _ _ _) _ _ hl, mget_mrow, if_pos hl]
  by_cases hv : t.vname q = t.vname r
  · have hg : t.getV q l = t.getV r l := by unfold Team.getV; rw [hv]
    rw [if_pos hv, mget_row _ _ _ hl, hg]
    by_cases hw : w.getLsbD l = true <;> by_cases hlt : l < t.lanes <;> simp [hv, hw, hlt]
  · simp [hv]

@[simp] theorem vname_putRun (fs : List (Nat → Word)) (t : Team) (r : Nat) (w : Lanes) (q : Nat) :
    (t.putRun r w fs).vname q = t.vname q := by
  induction fs generalizing t r with
  | nil => rfl
  | cons f fs ih => simp [Team.putRun, ih]

/-- A run of registers leaves every other register, and every lane outside `w`, as it was. -/
theorem getV_putRun_other (fs : List (Nat → Word)) (t : Team) (r : Nat) (w : Lanes) (q l : Nat) (hl : l < 1024)
    (h : (∀ k < fs.length, t.vname q ≠ t.vname (r + k)) ∨ w.getLsbD l = false) :
    (t.putRun r w fs).getV q l = t.getV q l := by
  induction fs generalizing t r with
  | nil => rfl
  | cons f fs ih =>
    rw [Team.putRun, ih]
    · rw [getV_putV _ _ _ _ _ _ hl, if_neg]
      rintro ⟨h1, h2, -⟩
      rcases h with h | h
      · exact h 0 (by simp) h1
      · rw [h] at h2; cases h2
    · rcases h with h | h
      · left
        intro k hk
        simp only [vname_putV]
        have := h (k + 1) (by simpa using hk)
        rwa [show r + 1 + k = r + (k + 1) by omega]
      · exact .inr h

/-! ### Ways of completing -/

/-- The team that completing an instruction leaves (R132, R214). -/
theorem doneAt_eq (e : Env) (t : Team) (lat : Option (Map Word)) (pc : CodeOff) :
    e.doneAt t lat pc = .next (e.counted.putTeam { ((t.fixLoads e.op).shift lat).unretry with pc := pc }) := rfl

theorem skip_eq (e : Env) (i : Instr) :
    e.skip i = .next (e.counted.putTeam { ((e.t.fixLoads e.op).shift none).unretry with pc := e.nextPc i }) := rfl

theorem vec_eq (e : Env) (i : Instr) (d : Nat) (w : Lanes) (f : Nat → Word) :
    e.vec i d w f = if i.hdr.ws == 1 then
        e.done i e.t (some (mrow 0 e.t.lanes fun l => if w.getLsbD l then f l else 0))
      else e.done i (e.t.putV d w f) (some ((e.t.putV d w f).row d)) := rfl

/-- Read after write of a predicate. -/
theorem pred_putPred (t : Team) (p q : Nat) (w v : Lanes) (hq : q ≠ 7) :
    (t.putPred p w v).pred q = if q = p then (t.pred p &&& ~~~w) ||| (v &&& w) else t.pred q := by
  unfold Team.pred Team.putPred
  simp only [hq, if_false, mget_mset]
  by_cases h : q = p
  · subst h; simp [Team.pred, hq]
  · simp [h]

/-- Read after write of an s register. -/
theorem sreg_putS (t : Team) (n m : Nat) (x : DWord) : (t.putS n x).sreg m = if m = n then x else t.sreg m := by
  simp [Team.sreg, Team.putS, mget_mset]

end Sys2Proof.Machine
end

