-- ==== Sys2Proof/Laws/Registers.lean ====
section
/-! SUPPORT. What each way of completing leaves of the team: the frame of a vector, pair, run, predicate and s result. -/

set_option Elab.async false

namespace Sys2Proof.Machine

/-- A completion that only replaces the team is a step of the team. -/
theorem teamStep_put {i : Instr} {s : State} {e : Env} (h : s.ready i = some e) (t : Team)
    (hid : t.tid = e.t.tid) (hr : t.resident = e.t.resident) (hc : t.core = e.t.core) (hs : t.slot = e.t.slot)
    (hh : t.half = e.t.half) : TeamStep e e (e.counted.putTeam t) t where
  state := rfl
  current := ready_curTeam h e.counted t (by simp) (by simp) hid hr hc hs hh
  cores := by simp
  bytes := by intro chip a n; simp [State.homeRead, State.homeByte]

/-- Where a register-only completion leads. -/
def Completes (i : Instr) (e : Env) (o : Out) : Prop :=
  ∃ s' t, o = .next s' ∧ TeamStep e e s' t ∧ RegFrame i e t ∧ t.pc = e.t.pc + BitVec.ofNat 48 i.size

/-! ### Teams that differ in registers alone -/

/-- `u` is `t` with other register contents: the names of its registers lead where they led. -/
structure Team.SameButRegs (t u : Team) : Prop where
  eq : ∃ v p r w, u = { t with vregs := v, preds := p, sregs := r, trap := w }
  trap : u.trap.map (fun x => ({ x with window := .granules [] } : TrapState)) =
    t.trap.map fun x => ({ x with window := .granules [] } : TrapState)
  names : ∀ q, u.vname q = t.vname q

theorem Team.SameButRegs.refl (t : Team) : t.SameButRegs t := ⟨⟨_, _, _, _, rfl⟩, rfl, fun _ => rfl⟩

theorem Team.SameButRegs.trans {t u v : Team} (a : t.SameButRegs u) (b : u.SameButRegs v) : t.SameButRegs v := by
  obtain ⟨⟨_, _, _, _, hu⟩, h1, h2⟩ := a
  obtain ⟨⟨v', p', r', w', hv⟩, h3, h4⟩ := b
  subst hu
  exact ⟨⟨v', p', r', w', hv⟩, h3.trans h1, fun q => (h4 q).trans (h2 q)⟩

theorem sameButRegs_putRow (t : Team) (r : Nat) (m : Map Word) : t.SameButRegs (t.putRow r m) := by
  refine ⟨?_, ?_, vname_putRow t r m⟩ <;> unfold Team.putRow
  · cases t.vname r with
    | inr r' => exact ⟨_, _, _, _, rfl⟩
    | inl j => cases ht : t.trap <;> exact ⟨_, _, _, _, rfl⟩
  · cases t.vname r with
    | inr r' => rfl
    | inl j => cases ht : t.trap <;> simp [ht]

theorem sameButRegs_putV (t : Team) (r : Nat) (w : Lanes) (f : Nat → Word) : t.SameButRegs (t.putV r w f) :=
  sameButRegs_putRow _ _ _

theorem sameButRegs_putRun (fs : List (Nat → Word)) (t : Team) (r : Nat) (w : Lanes) :
    t.SameButRegs (t.putRun r w fs) := by
  induction fs generalizing t r with
  | nil => exact .refl t
  | cons f fs ih => exact (sameButRegs_putV t r w f).trans (ih _ _)

theorem sameButRegs_putPred (t : Team) (p : Nat) (w v : Lanes) : t.SameButRegs (t.putPred p w v) :=
  ⟨⟨_, _, _, _, rfl⟩, rfl, fun _ => rfl⟩

theorem sameButRegs_putS (t : Team) (n : Nat) (x : DWord) : t.SameButRegs (t.putS n x) :=
  ⟨⟨_, _, _, _, rfl⟩, rfl, fun _ => rfl⟩

/-! ### Reading through the completion -/

@[simp] theorem pred_shift (t : Team) (x : Option (Map Word)) (p : Nat) : (t.shift x).pred p = t.pred p := rfl
@[simp] theorem pred_fixLoads (t : Team) (op p : Nat) : (t.fixLoads op).pred p = t.pred p := by
  unfold Team.fixLoads; split <;> rfl
@[simp] theorem sreg_fixLoads (t : Team) (op n : Nat) : (t.fixLoads op).sreg n = t.sreg n := by
  unfold Team.fixLoads; split <;> rfl
@[simp] theorem pred_pc (t : Team) (x : CodeOff) (p : Nat) : ({ t with pc := x } : Team).pred p = t.pred p := rfl
@[simp] theorem pred_unretry (t : Team) (p : Nat) : t.unretry.pred p = t.pred p := by
  unfold Team.unretry; split <;> rfl
@[simp] theorem sreg_shift (t : Team) (x : Option (Map Word)) (n : Nat) : (t.shift x).sreg n = t.sreg n := rfl
@[simp] theorem sreg_pc (t : Team) (x : CodeOff) (n : Nat) : ({ t with pc := x } : Team).sreg n = t.sreg n := rfl
@[simp] theorem sreg_unretry (t : Team) (n : Nat) : t.unretry.sreg n = t.sreg n := by
  unfold Team.unretry; split <;> rfl
@[simp] theorem sreg_putRow (t : Team) (r : Nat) (m : Map Word) (n : Nat) : (t.putRow r m).sreg n = t.sreg n := by
  unfold Team.putRow; split <;> [split; skip] <;> rfl
@[simp] theorem sreg_putV (t : Team) (r : Nat) (w : Lanes) (f : Nat → Word) (n : Nat) :
    (t.putV r w f).sreg n = t.sreg n := sreg_putRow _ _ _ _
@[simp] theorem pred_putRow (t : Team) (r : Nat) (m : Map Word) (n : Nat) : (t.putRow r m).pred n = t.pred n := by
  unfold Team.putRow; split <;> [split; skip] <;> rfl
@[simp] theorem pred_putV (t : Team) (r : Nat) (w : Lanes) (f : Nat → Word) (n : Nat) :
    (t.putV r w f).pred n = t.pred n := pred_putRow _ _ _ _
@[simp] theorem sreg_putRun (fs : List (Nat → Word)) (t : Team) (r : Nat) (w : Lanes) (n : Nat) :
    (t.putRun r w fs).sreg n = t.sreg n := by
  induction fs generalizing t r with
  | nil => rfl
  | cons f fs ih => rw [Team.putRun, ih, sreg_putV]
@[simp] theorem pred_putRun (fs : List (Nat → Word)) (t : Team) (r : Nat) (w : Lanes) (n : Nat) :
    (t.putRun r w fs).pred n = t.pred n := by
  induction fs generalizing t r with
  | nil => rfl
  | cons f fs ih => rw [Team.putRun, ih, pred_putV]
@[simp] theorem getV_putPred (t : Team) (p : Nat) (w v : Lanes) (r l : Nat) : (t.putPred p w v).getV r l = t.getV r l := rfl
@[simp] theorem sreg_putPred (t : Team) (p : Nat) (w v : Lanes) (n : Nat) : (t.putPred p w v).sreg n = t.sreg n := rfl
@[simp] theorem getV_putS (t : Team) (n : Nat) (x : DWord) (r l : Nat) : (t.putS n x).getV r l = t.getV r l := rfl
@[simp] theorem pred_putS (t : Team) (n : Nat) (x : DWord) (p : Nat) : (t.putS n x).pred p = t.pred p := rfl

/-- Completing with a team that differs in registers alone: the state, and the frame where the registers have theirs. -/
theorem completes_doneAt {i : Instr} {s : State} {e : Env} (h : s.ready i = some e) (t : Team)
    (lat : Option (Map Word)) (same : e.t.SameButRegs t)
    (hv : ∀ r l, l < 1024 → ((∀ d ∈ e.writes i, d < 1024 → e.t.vname r ≠ e.t.vname d) ∨
      (e.t.act i.hdr).getLsbD l = false) → t.getV r l = e.t.getV r l)
    (hp : ∀ p l, p < 7 → (2048 + p ∉ e.writes i ∨ (e.t.act i.hdr).getLsbD l = false) →
      (t.pred p).getLsbD l = (e.t.pred p).getLsbD l)
    (hs : ∀ n, 1024 + n ∉ e.writes i → t.sreg n = e.t.sreg n) :
    Completes i e (e.done i t lat) := by
  obtain ⟨⟨v, p, r, w, rfl⟩, htr, -⟩ := same
  refine ⟨_, _, rfl, teamStep_put h _ (by simp) (by simp) (by simp) (by simp) (by simp), ?_, rfl⟩
  refine ⟨fun r l hl hh => ?_, fun p l hl hh => ?_, fun n hn => ?_, ?_, by simp, by simp, ?_,
    by simp; unfold Team.fixLoads; split <;> rfl⟩
  · exact (getV_pc _ _ _ _).trans ((getV_unretry _ _ _).trans ((getV_shift _ _ _ _).trans
      ((getV_fixLoads _ _ _ _).trans (hv r l hl hh))))
  · rw [pred_pc, pred_unretry, pred_shift, pred_fixLoads]; exact hp p l hl hh
  · rw [sreg_pc, sreg_unretry, sreg_shift, sreg_fixLoads]; exact hs n hn
  · unfold Team.unretry
    cases hr : e.t.restore with
    | none => simp [Team.shift]
    | some m => simp [Team.shift]
  · simpa using htr

/-- An instruction with one vector result, in lanes of its guard. -/
theorem completes_vec {i : Instr} {s : State} {e : Env} (h : s.ready i = some e) (d : Nat) (w : Lanes) (f : Nat → Word)
    (hd : i.hdr.ws ≠ 1 → d < 1024 → d ∈ e.writes i) (hd' : d < 1024)
    (hw : ∀ l, (e.t.act i.hdr).getLsbD l = false → w.getLsbD l = false) : Completes i e (e.vec i d w f) := by
  rw [vec_eq]
  split
  · exact completes_doneAt h _ _ (.refl _) (fun _ _ _ _ => rfl) (fun _ _ _ _ => rfl) (fun _ _ => rfl)
  · rename_i hws
    refine completes_doneAt h _ _ (sameButRegs_putV _ _ _ _) (fun r l hl hh => ?_) (fun p l _ _ => by simp)
      (fun n _ => by simp)
    rw [getV_putV _ _ _ _ _ _ hl, if_neg]
    rintro ⟨h1, h2, -⟩
    rcases hh with hh | hh
    · exact hh d (hd (by simpa using hws) hd') hd' h1
    · rw [hw l hh] at h2; cases h2

/-- An instruction with a run of vector results. -/
theorem completes_run {i : Instr} {s : State} {e : Env} (h : s.ready i = some e) (d : Nat) (w : Lanes)
    (fs : List (Nat → Word)) (hd : ∀ k < fs.length, d + k < 1024 ∧ d + k ∈ e.writes i)
    (hw : ∀ l, (e.t.act i.hdr).getLsbD l = false → w.getLsbD l = false) :
    Completes i e (e.done i (e.t.putRun d w fs) none) := by
  refine completes_doneAt h _ _ (sameButRegs_putRun _ _ _ _) (fun r l hl hh => ?_) (fun p l _ _ => by simp)
    (fun n _ => by simp)
  refine getV_putRun_other _ _ _ _ _ _ hl (hh.imp (fun hh k hk => ?_) (hw l))
  exact hh _ (hd k hk).2 (hd k hk).1

/-- An instruction with a predicate result. -/
theorem completes_pred {i : Instr} {s : State} {e : Env} (h : s.ready i = some e) (d : Nat) (w : Lanes) (f : Nat → Bool)
    (hd : 2048 + d ∈ e.writes i) (hw : ∀ l, (e.t.act i.hdr).getLsbD l = false → w.getLsbD l = false) :
    Completes i e (e.predOut i d w f) := by
  refine completes_doneAt h _ _ (sameButRegs_putPred _ _ _ _) (fun _ _ _ _ => by simp) (fun p l hp hh => ?_)
    (fun _ _ => by simp)
  rw [pred_putPred _ _ _ _ _ (by omega)]
  split
  · rename_i hpd
    subst hpd
    rcases hh with hh | hh
    · exact absurd hd hh
    · have := hw l hh
      simp [this]
      intro hpl
      by_contra hlt
      rw [BitVec.getLsbD_of_ge _ _ (by omega)] at hpl
      cases hpl
  · rfl

/-- An instruction with an s result. -/
theorem completes_s {i : Instr} {s : State} {e : Env} (h : s.ready i = some e) (d : Nat) (x : DWord)
    (hd : 1024 + d ∈ e.writes i) : Completes i e (e.sOut i d x) := by
  refine completes_doneAt h _ _ (sameButRegs_putS _ _ _) (fun _ _ _ _ => by simp) (fun _ _ _ _ => by simp)
    (fun n hn => ?_)
  rw [sreg_putS, if_neg]
  rintro rfl
  exact hn hd

/-- The meaning of an instruction that is ready completes where its body does. -/
theorem completes_issue {i : Instr} {s : State} {e : Env} (h : s.ready i = some e) (k : Env → Out)
    (hk : Completes i e (k e)) : Completes i e (issue i s k) := by rwa [issue_of_ready h]

/-! ### By the shape of the encoding -/

/-- An instruction that is ready breaks no rule of its encoding. -/
theorem ready_enc {i : Instr} {s : State} {e : Env} (h : s.ready i = some e) : encCheck i = none := by
  obtain ⟨_, _, _, _, _, h⟩ := ready_spec h; exact h

/-- The participants without helpers are lanes of the guard. -/
theorem actNH_low (e : Env) (i : Instr) : ∀ l, (e.t.act i.hdr).getLsbD l = false → (e.t.actNH i.hdr).getLsbD l = false := by
  intro l h; unfold Team.actNH; simp [h]

/-- WS is 0 where a V instruction's destination is no single vector register -/
theorem ws_of_enc {i : Instr} {f : FV} (hb : i.body = .v f) (h : encCheck i = none)
    (hs : (shapeV i.opcode f.fn.toNat ((i.second.map BitVec.toNat).getD 0)).d.takesWs = false) : f.h.ws ≠ 1 := by
  unfold encCheck at h
  rw [hb] at h
  simp only [encCheckV] at h
  split at h
  · cases h
  · split at h
    · rename_i h2
      simp only [hs, Bool.and_eq_true, Bool.or_eq_true, beq_iff_eq, Bool.false_and] at h2
      have := h2.1.1.1.1.1.2
      intro h3
      rw [h3] at this
      simp at this
    · cases h

/-- What a format V instruction writes. -/
theorem writes_v {e : Env} {i : Instr} {f : FV} (hb : i.body = .v f) (h8 : i.opcode ≠ 0x8B) (hw : i.hdr.ws ≠ 1) :
    e.writes i = dstRegs (shapeV i.opcode f.fn.toNat ((i.second.map BitVec.toNat).getD 0)).d f.d.toNat := by
  have hw' : (i.hdr.ws == 1) = false := by simpa using hw
  unfold Env.writes regsWritten
  rw [hw']
  simp [hb, h8]

/-- One vector result. -/
theorem vec_v {i : Instr} {s : State} {e : Env} {f : FV} (h : s.ready i = some e) (hb : i.body = .v f)
    (h8 : i.opcode ≠ 0x8B) (hd : f.d.toNat ∈ dstRegs (shapeV i.opcode f.fn.toNat ((i.second.map BitVec.toNat).getD 0)).d f.d.toNat)
    (w : Lanes) (hw : ∀ l, (e.t.act i.hdr).getLsbD l = false → w.getLsbD l = false) (g : Nat → Word) :
    Completes i e (e.vec i f.d.toNat w g) :=
  completes_vec h _ _ _ (fun hws _ => by rw [writes_v hb h8 hws]; exact hd) (by omega) hw

/-- A 64-bit result. -/
theorem pair_v {i : Instr} {s : State} {e : Env} {f : FV} (h : s.ready i = some e) (hb : i.body = .v f) (hh : i.hdr = f.h)
    (h8 : i.opcode ≠ 0x8B) (hd : (shapeV i.opcode f.fn.toNat ((i.second.map BitVec.toNat).getD 0)).d = .vec 2)
    (w : Lanes) (hw : ∀ l, (e.t.act i.hdr).getLsbD l = false → w.getLsbD l = false) (g : Nat → DWord) :
    Completes i e (e.pair i f.d.toNat w g) := by
  have hws := ws_of_enc hb (ready_enc h) (by rw [hd]; rfl)
  rw [← hh] at hws
  refine completes_run h _ _ _ (fun k hk => ⟨?_, ?_⟩) hw
  · have := f.d.isLt; simp at hk; omega
  · rw [writes_v hb h8 hws, hd]
    simp at hk
    simp [dstRegs]; omega

/-- An integer result of either width. -/
theorem int_v {i : Instr} {s : State} {e : Env} {f : FV} (h : s.ready i = some e) (hb : i.body = .v f) (hh : i.hdr = f.h)
    (h8 : i.opcode ≠ 0x8B) (long : Bool) (hd : (shapeV i.opcode f.fn.toNat ((i.second.map BitVec.toNat).getD 0)).d =
      if long then .vec 2 else .vec 1) (g : Nat → Nat) :
    Completes i e (e.intOut i f.d.toNat long g) := by
  unfold Env.intOut
  cases long
  · exact vec_v h hb h8 (by simp only [hd]; simp [dstRegs]) _ (fun _ h => h) _
  · exact pair_v h hb hh h8 (by simpa using hd) _ (fun _ h => h) _

/-- A predicate result. -/
theorem pred_v {i : Instr} {s : State} {e : Env} {f : FV} (h : s.ready i = some e) (hb : i.body = .v f) (hh : i.hdr = f.h)
    (h8 : i.opcode ≠ 0x8B) (hd : (shapeV i.opcode f.fn.toNat ((i.second.map BitVec.toNat).getD 0)).d = .pred)
    (w : Lanes) (hw : ∀ l, (e.t.act i.hdr).getLsbD l = false → w.getLsbD l = false) (g : Nat → Bool) :
    Completes i e (e.predOut i f.d.toNat w g) := by
  have hws := ws_of_enc hb (ready_enc h) (by rw [hd]; rfl)
  rw [← hh] at hws
  refine completes_pred h _ _ _ ?_ hw
  rw [writes_v hb h8 hws, hd]
  simp [dstRegs]

/-- An s result of a format V instruction. -/
theorem s_v {i : Instr} {s : State} {e : Env} {f : FV} (h : s.ready i = some e) (hb : i.body = .v f) (hh : i.hdr = f.h)
    (h8 : i.opcode ≠ 0x8B) (hd : (shapeV i.opcode f.fn.toNat ((i.second.map BitVec.toNat).getD 0)).d = .sreg)
    (x : DWord) : Completes i e (e.sOut i f.d.toNat x) := by
  have hws := ws_of_enc hb (ready_enc h) (by rw [hd]; rfl)
  rw [← hh] at hws
  refine completes_s h _ _ ?_
  rw [writes_v hb h8 hws, hd]
  simp [dstRegs]

/-- A uniform instruction completes with one s register. -/
theorem s_u {i : Instr} {s : State} {e : Env} {f : FU} (h : s.ready i = some e) (hb : i.body = .u f) (hh : i.hdr = f.h)
    (x : DWord) : Completes i e (e.sOut i f.d.toNat x) := by
  have hws : f.h.ws ≠ 1 := by
    intro hw
    have := ready_enc h
    unfold encCheck at this
    rw [hb] at this
    simp [encCheckU, hw] at this
    split at this <;> cases this
  rw [← hh] at hws
  have hws' : (i.hdr.ws == 1) = false := by simpa using hws
  refine completes_s h _ _ ?_
  unfold Env.writes regsWritten
  rw [hws']
  simp [hb]

/-! ### Results -/

/-- The newest latch. -/
theorem latch_one (t : Team) (x : Option (Map Word)) (r) (h : t.latches = x :: r) (l : Nat) : t.latch 1 l = mget 0 (x.getD []) l := by
  unfold Team.latch; simp [h]

/-- A single vector result stands in the newest latch and, without WS, in its register. -/
theorem vec_gives {i : Instr} (e : Env) (d : Nat) (x : Nat → Word) :
    e.gives32 i d x (e.vec i d (e.t.act i.hdr) x) := by
  rw [vec_eq]
  split
  · rename_i hw
    refine ⟨_, rfl, rfl, by simp [Team.unretry, Team.shift]; split <;> simp, fun l hl hl' ha => ⟨?_, ?_⟩⟩
    · rw [latch_one (x := some (mrow 0 e.t.lanes fun l => if (e.t.act i.hdr).getLsbD l then x l else 0)) (r := e.t.latches.take 7)]
      · simp [ha, hl']
      · simp [Team.unretry, Team.shift]; split <;> simp
    · intro h; rw [h] at hw; exact absurd hw (by decide)
  · rename_i hw
    refine ⟨_, rfl, rfl, by simp [Team.unretry, Team.shift]; split <;> simp, fun l hl hl' ha => ⟨?_, ?_⟩⟩
    · rw [latch_one (x := some ((e.t.putV d (e.t.act i.hdr) x).row d)) (r := e.t.latches.take 7)]
      · simp only [Option.getD_some]
        rw [mget_row _ _ _ hl, getV_putV _ _ _ _ _ _ hl]
        simp [ha, hl']
      · simp [Team.unretry, Team.shift]; split <;> simp
    · intro _
      rw [getV_pc, getV_unretry, getV_shift, getV_fixLoads, getV_putV _ _ _ _ _ _ hl]
      simp [ha, hl']

/-- Two registers in a row never lead to one place. -/
theorem vname_succ (t : Team) (d : Nat) : t.vname d ≠ t.vname (d + 1) := by
  unfold Team.vname
  split
  · rename_i tr _
    split <;> split <;> first | (split <;> simp <;> omega) | simp
  · simp

/-- Reading a vector register of a team that has completed an instruction. -/
theorem getV_after (t : Team) (op : Nat) (x : Option (Map Word)) (pc : CodeOff) (r l : Nat) :
    ({ ((t.fixLoads op).shift x).unretry with pc := pc } : Team).getV r l = t.getV r l :=
  (getV_pc _ _ _ _).trans ((getV_unretry _ _ _).trans ((getV_shift _ _ _ _).trans (getV_fixLoads _ _ _ _)))

/-- A set given by a test holds the lanes of the team that pass it. -/
theorem getLsbD_lanesOf (t : Team) (f : Nat → Bool) (l : Nat) (hl : l < 1024) :
    (t.lanesOf f).getLsbD l = (decide (l < t.lanes) && f l) := by
  have key : ∀ n k, ((List.range n).foldl (fun a l => if f l then a + 2 ^ l else a) 0).testBit k = (decide (k < n) && f k) ∧
      (List.range n).foldl (fun a l => if f l then a + 2 ^ l else a) 0 < 2 ^ n := by
    intro n
    induction n with
    | zero => intro k; simp
    | succ n ih =>
      intro k
      rw [List.range_succ, List.foldl_append]
      simp only [List.foldl_cons, List.foldl_nil]
      have hlt := (ih 0).2
      generalize hx : (List.range n).foldl (fun a l => if f l then a + 2 ^ l else a) 0 = x at *
      split
      · rename_i hf
        refine ⟨?_, by rw [Nat.pow_succ]; omega⟩
        rw [Nat.add_comm]
        by_cases hk : k = n
        · subst hk
          rw [Nat.testBit_two_pow_add_eq, Nat.testBit_lt_two_pow hlt]
          simp [hf]
        · rcases Nat.lt_or_gt_of_ne hk with hk | hk
          · rw [Nat.testBit_two_pow_add_gt hk, (ih k).1]
            simp [hk, Nat.lt_succ_of_lt hk]
          · rw [Nat.testBit_lt_two_pow]
            · simp; omega
            · calc 2 ^ n + x < 2 ^ n + 2 ^ n := by omega
                _ = 2 ^ (n + 1) := by rw [Nat.pow_succ]; omega
                _ ≤ 2 ^ k := Nat.pow_le_pow_right (by omega) hk
      · rename_i hf
        refine ⟨?_, by rw [Nat.pow_succ]; omega⟩
        rw [(ih k).1]
        by_cases hk : k = n
        · subst hk; simp [hf]
        · have : (k < n + 1) = (k < n) := by simp; omega
          simp [this]
  unfold Team.lanesOf
  rw [BitVec.getLsbD_ofNat]
  simp [hl, (key t.lanes l).1]

/-- A 64-bit result stands in its pair. -/
theorem pair_gives {i : Instr} (e : Env) (d : Nat) (x : Nat → DWord) :
    e.gives64 i d x (e.pair i d (e.t.act i.hdr) x) := by
  refine ⟨_, rfl, rfl, by simp [Team.putPair, Team.putRun, Team.unretry, Team.shift]; split <;> simp,
    fun l hl hl' ha => ?_⟩
  refine (congrArg₂ (· ++ ·) (getV_after _ _ _ _ _ _) (getV_after _ _ _ _ _ _)).trans ?_
  unfold Team.putPair Team.putRun Team.putRun Team.putRun
  rw [getV_putV _ (d + 1) _ _ (d + 1) _ hl, getV_putV _ (d + 1) _ _ d _ hl, getV_putV e.t d _ _ d _ hl]
  simp only [vname_putV]
  rw [if_pos ⟨trivial, ha, by simpa using hl'⟩, if_neg fun h => vname_succ e.t d h.1, if_pos ⟨trivial, ha, hl'⟩]
  apply BitVec.eq_of_getLsbD_eq
  intro k hk
  rw [BitVec.getLsbD_append]
  by_cases h : k < 32
  · simp [h]
  · rw [if_neg h]
    have h1 : k - 32 < 32 := by omega
    have h2 : 32 + (k - 32) = k := by omega
    simp [h1, h2]

/-- An s register result stands in its register. -/
theorem sOut_gives {i : Instr} (e : Env) (d : Nat) (x : DWord) : e.givesS i d x (e.sOut i d x) := by
  refine ⟨_, rfl, rfl, by simp [Team.putS, Team.unretry, Team.shift]; split <;> simp, ?_⟩
  rw [sreg_pc, sreg_unretry, sreg_shift, sreg_fixLoads, sreg_putS, if_pos rfl]

/-- A predicate result stands in its predicate. -/
theorem predOut_gives {i : Instr} (e : Env) (d : Nat) (x : Nat → Bool) (hd : d < 7) :
    e.givesPred i d x (e.predOut i d (e.t.act i.hdr) x) := by
  refine ⟨_, rfl, rfl, by simp [Team.putPred, Team.unretry, Team.shift]; split <;> simp, fun l hl hl' ha => ?_⟩
  rw [pred_pc, pred_unretry, pred_shift, pred_fixLoads, pred_putPred _ _ _ _ _ (by omega), if_pos rfl]
  simp [ha, getLsbD_lanesOf _ _ _ hl, hl']

end Sys2Proof.Machine
end

