-- ==== Sys2Proof/Machine/Cowslip.lean ====
section
/-! DEFINITION. What Cowslip, the on-device debugger, shows of a stopped team (R9, R432). -/

namespace Sys2Proof.Machine

/-- How a stop line of a pair slot ends: both halves stand at its PC, or only one, and then where the other stands (R432). -/
inductive StopHalf where
  | pair
  | lo (other : CodeOff)
  | hi (other : CodeOff)
  deriving DecidableEq, Repr

/-- A stop line: core, slot, code-segment offset and clk since launch (R9). -/
structure StopLine where
  core : Nat
  slot : Nat
  pc : CodeOff
  clk : Nat
  half : Option StopHalf
  deriving DecidableEq, Repr

/-- The other half of a team's pair, while it has not ended. -/
def State.otherHalf (s : State) (t : Team) : Option Team := if t.fore then s.teamAt t.core t.slot (1 - t.half) else none

/-- The stop line of a team. -/
def State.stopLine (s : State) (t : Team) : StopLine :=
  { core := t.core, slot := t.slot, pc := t.pc, clk := s.clk - (s.blockOf t).launch,
    half := (s.otherHalf t).map fun u => if u.pc = t.pc then .pair else if t.half = 0 then .lo u.pc else .hi u.pc }

/-- A vector register as it is printed: one word per lane, lane 0 first, each with whether the lane is inactive. The register of a
pair slot is one word of 32 lanes, the lower half first (R9, R432). -/
def State.printVector (s : State) (t : Team) (r : Nat) : List (Word × Bool) :=
  let row (t : Team) (n : Nat) : List (Word × Bool) := (List.range n).map fun l => (t.getV r l, !t.mask.getLsbD l)
  if t.fore then
    (List.range 2).flatMap fun h =>
      match s.teamAt t.core t.slot h with
      | some u => row u 16
      | none => List.replicate 16 (0, true)
  else row t t.lanes

/-- A mask or predicate as it is printed: one word per mask word. -/
def Team.printLanes (t : Team) (w : Lanes) : List Word := (List.range t.words).map fun j => BitVec.ofNat 32 (w.toNat >>> (32 * j))

end Sys2Proof.Machine
end

