-- ==== Sys2Proof/Safety.lean ====
section
/-! DEFINITION. What counts as a safe run. -/

namespace Sys2Proof.Machine

/-- A step is safe when the machine goes on: it neither stops nor lacks a meaning. -/
def Out.safe : Host.Outcome State Fault Refusal → Prop
  | .next _ => True
  | .fault _ => False
  | .refused _ => False

/-- A state from which the next step is safe. -/
def State.safe (s : State) : Prop := Out.safe (step s)

end Sys2Proof.Machine
end

