-- ==== Sys2Proof/Tests/Slice0.lean ====
section
/-! SUPPORT. Tests of the model: ill-formed terms, words written out from the encoding chapters, single steps against values
worked out by hand from the spec, and for every statement a state and operands that meet its hypotheses. -/

set_option Elab.async false

namespace Sys2Proof.Tests

open Sys2Proof Sys2Proof.Machine

/-! ### Well-formedness (R275, R289, R293) -/

/-- A word of format V with the fields that a test names. -/
def fv (d sa sb sc : BitVec 9) (fn : BitVec 9 := 0) (h : Hdr := {}) : FV :=
  { h := h, d := d.truncate 8, sa := sa, sb := sb, sc := sc, fn := fn }

/-- A guard that R271 reserves: GN = 1 with GP = 7. -/
theorem test_wf_guard_reserved : encCheck (.add (fv 1 2 3 0 0 { gn := 1 })) = some .reserved := by decide
/-- SREAD takes no guard (R271). -/
theorem test_wf_unguarded : encCheck (.sread (fv 1 0x123 0 0 0 { gp := 0 })) = some .reserved := by decide
/-- WS on an instruction whose result is no single vector register (R132). -/
theorem test_wf_ws : encCheck (.dadd (fv 2 4 6 0 0 { ws := 1 })) = some .reserved := by decide
/-- A field that the instruction does not read must be 0 (R275). -/
theorem test_wf_unused_source : encCheck (.add (fv 1 2 3 4)) = some .reserved := by decide
/-- Source codes 0x130 to 0x13F are unassigned (R273). -/
theorem test_wf_unassigned_code : encCheck (.mov (fv 1 0x130 0 0)) = some .reserved := by decide
/-- A latch is no 64-bit operand (R320). -/
theorem test_wf_latch_pair : encCheck (.add (fv 2 0x100 4 0 4)) = some .reserved := by decide
/-- An s destination is below 24 (R324). -/
theorem test_wf_s_destination : encCheck (.sfromv (fv 24 3 0 0)) = some .reserved := by decide
/-- p7 is no destination (R317). -/
theorem test_wf_pred_destination : encCheck (.pcmpi (fv 7 2 3 0)) = some .reserved := by decide
/-- A tile number is below 16 (R371). -/
theorem test_wf_tile : encCheck (.mzero (fv 16 0 0 0)) = some .reserved := by decide
/-- SREAD takes no special that differs between lanes (R324). -/
theorem test_wf_special : encCheck (.sread (fv 1 0x120 0 0)) = some .reserved := by decide
/-- A predicate source is below 8 (R317). -/
theorem test_wf_pred_source : encCheck (.plut (fv 0 8 0 0)) = some .reserved := by decide
/-- PACK reads a run of vector registers (R326). -/
theorem test_wf_run : encCheck (.pack (fv 1 0x108 3 0x108 12)) = some .reserved := by decide
/-- An unassigned value of an enumeration is illegal, before any reserved field (R293). -/
theorem test_wf_illegal_first : encCheck (.pcmpi (fv 7 2 3 4 6)) = some .illegal := by decide
/-- A bit of FN in no field is reserved. -/
theorem test_wf_fn_bit : encCheck (.add (fv 1 2 3 0 8)) = some .reserved := by decide
/-- Reserved bits of a second word (R322). -/
theorem test_wf_second_word : encCheck (.seti (fv 1 0 0 0) 0x1_0000_0000) = some .reserved := by decide
/-- CVT to its own type (R330). -/
theorem test_wf_cvt_types : encCheck (.cvt { h := {}, d := 1, sa := 2, imm := 0, fn := 0x11 }) = some .illegal := by decide
/-- The immediate of CVT is reserved. -/
theorem test_wf_cvt_imm : encCheck (.cvt { h := {}, d := 1, sa := 2, imm := 1, fn := 0x21 }) = some .reserved := by decide
/-- s24 to s30 do not exist (R278). -/
theorem test_wf_uniform_register :
    encCheck (.sadd { h := {}, d := 1, sa := 24, sb := 0, i := 0, fn := 0, imm := 0 }) = some .reserved := by decide
/-- SLOP's operations are 0 to 3 (R296). -/
theorem test_wf_uniform_fn :
    encCheck (.slop { h := {}, d := 1, sa := 2, sb := 3, i := 0, fn := 4, imm := 0 }) = some .illegal := by decide
/-- SIZE 7 (R281). -/
theorem test_wf_size :
    encCheck (.ld { h := {}, data := 1, addr := 2, seg := 0, off := 0, pol := 0, size := 7, space := 0 }) = some .reserved := by
  decide
/-- SEG is 0 outside SPACE 0 (R279). -/
theorem test_wf_seg :
    encCheck (.ld { h := {}, data := 1, addr := 2, seg := 1, off := 0, pol := 0, size := 2, space := 1 }) = some .reserved := by
  decide
/-- JOIN takes no guard (R271). -/
theorem test_wf_control_guard : encCheck (.join { h := { gp := 0 }, off := 0, fn := 0 }) = some .reserved := by decide
/-- EXIT has no offset (R310). -/
theorem test_wf_control_offset : encCheck (.exit { h := {}, off := 1, fn := 0 }) = some .reserved := by decide
/-- The word of AWAIT is not that of AWAIT.steal (R303). -/
theorem test_wf_row : ¬WellFormed (.await (fv 0 0 0 0 1)) := by decide

/-! ### Words of the encoding chapters -/

/-- ADD v1 = v2 + v3 (R276). -/
theorem test_decode_add : decode 0x1000_7010_100C_0000 0 = some (.add (fv 1 2 3 0)) := by decide
/-- BRA back by one word (R277). -/
theorem test_decode_bra : decode 0x0100_7FFF_FF80_0000 0 = some (.bra { h := {}, off := 0xFF_FFF8, fn := 0 }) := by decide
/-- (!p0) BRA (R271). -/
theorem test_decode_guarded_bra :
    decode 0x0100_8000_0030_0000 0 = some (.bra { h := { gn := 1, gp := 0 }, off := 3, fn := 0 }) := by decide
/-- (!p2) FFMA.f32.rz v4!wb, b1, v5, -1 ~3 (R276). -/
theorem test_decode_ffma : decode 0x4287_A048_0016_9E80 0 =
    some (.ffma (fv 4 0x100 5 0x14F 0x080 { rate := 4, stall := 3, ws := 1, gn := 1, gp := 2 })) := by decide
/-- A load with a segment (R279). -/
theorem test_decode_ld : decode 0x8000_7070_2180_2028 0 =
    some (.ld { h := {}, data := 7, addr := 4, seg := 3, off := 64, pol := 1, size := 2, space := 0 }) := by decide
/-- A store of a latch (R281). -/
theorem test_decode_st : decode 0x8100_7068_0180_0008 0 =
    some (.st { h := {}, data := 6, addr := 0x100, seg := 3, off := 0, pol := 0, size := 2, space := 0 }) := by decide
/-- ATOM.add.f32.pub, both words (R301). -/
theorem test_decode_atom : decode 0xA000_7030_4024_00C0 0x0000_0010_2000_0000 =
    some (.atom (fv 3 8 9 0 0x0C0) 0x0000_0010_2000_0000) := by decide
/-- LOOP s2, back by three words (R313). -/
theorem test_decode_loop :
    decode 0x0900_7FFF_FFD1_0000 0 = some (.loop { h := {}, off := 0xFF_FFFD, fn := 0x10000 }) := by decide
/-- MARK. -/
theorem test_decode_mark : decode 0x0600_7000_0060_0000 0 = some (.mark { h := {}, off := 6, fn := 0 }) := by decide
/-- SADD of an immediate (R278). -/
theorem test_decode_sadd : decode 0x3000_718C_10FF_FFC0 0 =
    some (.sadd { h := {}, d := 3, sa := 3, sb := 0, i := 1, fn := 0, imm := 0xFF_FFC0 }) := by decide
/-- SMOV of an immediate. -/
theorem test_decode_smov : decode 0x3500_7100_1000_03E8 0 =
    some (.smov { h := {}, d := 2, sa := 0, sb := 0, i := 1, fn := 0, imm := 1000 }) := by decide
/-- SFROMV.chk s5, v9. -/
theorem test_decode_sfromv : decode 0x3A00_7050_4800_0001 0 = some (.sfromv (fv 5 9 0 0 1)) := by decide
/-- PCMPI.lt p0, %lane, 5. -/
theorem test_decode_pcmpi : decode 0x7800_7009_0554_0002 0 = some (.pcmpi (fv 0 0x120 0x155 0 2)) := by decide
/-- CVT (R298). -/
theorem test_decode_cvt :
    decode 0x6000_70C0_1800_02C1 0 = some (.cvt { h := {}, d := 12, sa := 3, imm := 0, fn := 0x2C1 }) := by decide
/-- DOT4.q8e4 v20, v1, v2, v21. -/
theorem test_decode_dot4 : decode 0x6700_7140_0808_2A0C 0 = some (.dot4 (fv 0x14 1 2 0x15 0x00C)) := by decide
/-- HFMA2.bf16x2.ru v6, v7, v8, v9. -/
theorem test_decode_hfma2 : decode 0x5700_7060_3820_1301 0 = some (.hfma2 (fv 6 7 8 9 0x101)) := by decide
/-- XLANE.xor v4, v4, 1. -/
theorem test_decode_xlane : decode 0x7400_7040_2544_0003 0 = some (.xlane (fv 4 4 0x151 0 3)) := by decide
/-- BART 3, s7. -/
theorem test_decode_bart : decode 0xB400_700A_9C3C_0000 0 = some (.bart (fv 0 0x153 0x10F 0)) := by decide
/-- CPY s4, s5, s6, k1, both words (R364). -/
theorem test_decode_cpy : decode 0xB800_7008_6436_1C01 0x200A_0C00_0000_0000 =
    some (.cpy (fv 0 0x10C 0x10D 0x10E 1) 0x200A_0C00_0000_0000) := by decide
/-- MMAL.k1 m0, s4, s5, s6, both words (R380). -/
theorem test_decode_mmal : decode 0xC100_7008_6436_1C01 0x2403_0030_0300_C004 =
    some (.mmal (fv 0 0x10C 0x10D 0x10E 1) 0x2403_0030_0300_C004) := by decide
/-- MRD.consume v10, s3, 0, m1. -/
theorem test_decode_mrd : decode 0xC400_70A8_5D40_0208 0 = some (.mrd (fv 10 0x10B 0x150 1 8)) := by decide
/-- SPAWN s4, v16. -/
theorem test_decode_spawn : decode 0xD000_7008_6040_0000 0 = some (.spawn (fv 0 0x10C 0x010 0)) := by decide
/-- AWAIT.steal, a row of its own on the word of AWAIT (R303). -/
theorem test_decode_await_steal : decode 0xD200_7000_0000_0001 0 = some (.awaitSteal (fv 0 0 0 0 1)) := by decide
/-- RGET v12, object, 3 in the vertex tier. -/
theorem test_decode_rget : decode 0xD880_70C0_0000_001A 0 = some (.rget (fv 12 0 0 0 0x01A { rate := 4 })) := by decide
/-- RTT.skip. -/
theorem test_decode_rtt_skip : decode 0xE100_7000_0000_0001 0 = some (.rttSkip (fv 0 0 0 0 1)) := by decide
/-- CSRR v6, 16. -/
theorem test_decode_csrr : decode 0xE300_706B_0000_0000 0 = some (.csrr (fv 6 0x160 0 0)) := by decide
/-- COLL.allreduce.sum s8, s9, s10, both words (R415). -/
theorem test_decode_coll : decode 0xE900_7008_8446_2400 0x321C_0000_0000_0400 =
    some (.coll (fv 0 0x110 0x111 0x112) 0x321C_0000_0000_0400) := by decide
/-- The zero word is a NOP with guard p0 (R304). -/
theorem test_decode_zero : decode 0 0 = some (.nop { h := { gp := 0 }, off := 0, fn := 0 }) := by decide
/-- An opcode that R291 leaves unassigned. -/
theorem test_decode_unassigned : decode 0x0E00_7000_0000_0000 0 = none := by decide

/-! ### A small machine -/

/-- A block of one team over the placed memory. -/
def blk : Block := placedBlock State.reset
/-- Its team: four lanes, all active, with 64 registers. -/
def tm : Team := { placedTeam State.reset with lanes := 4, mask := 0xF, chunks := 2, base := 2 }
/-- The machine with one team. -/
def st (t : Team := tm) (b : Block := blk) : State := { State.reset.placeCode 0 with teams := [t], blocks := [b] }
/-- Whether the selected team may execute an instruction and what it reaches there meets `p`. -/
def meets (s : State) (i : Instr) (p : Env → Bool := fun _ => true) : Bool :=
  match s.ready i with | some e => p e | none => false
/-- Whether what the selected team has before the decode of an instruction meets `p`. -/
def decodes (s : State) (i : Instr) (p : Env → Bool) : Bool :=
  match s.curTeam with | some t => p (s.atDecode t i) | none => false
/-- A vector register's value in lanes 0 to 3. -/
def vreg (r : Nat) (xs : List Word) : Map Word := xs.zipIdx.map fun x => (1024 * r + x.2, x.1)
/-- Lanes 0 to 3 of a register after one instruction. -/
def after (s : State) (i : Instr) (r : Nat) : List Word :=
  match exec i s with
  | .next s' => match s'.curTeam with | some t => (List.range 4).map (t.getV r) | none => []
  | _ => []

/-! ### Single steps -/

/-- The worked DOT4: 3.0 + 0.5 - 2.0 + 0.9375 on 2^24, rounded once. -/
theorem test_dot4 : after (st { tm with vregs := vreg 1 [0x7FB0_4038] ++ vreg 2 [0x0148_2844] ++ vreg 21 [0x4B80_0000] })
    (.dot4 (fv 20 1 2 21 0x00C)) 20 = [0x4B80_0001, 0, 0, 0] := by decide +kernel
/-- The worked quad of R336, fine differences. -/
theorem test_qddx_fine : after (st { tm with vregs := vreg 5 [0x3F80_0000, 0x4080_0000, 0x4000_0000, 0x4120_0000], helper := 8 })
    (.qddx (fv 6 5 0 0 0)) 6 = [0x4040_0000, 0x4040_0000, 0x4100_0000, 0x4100_0000] := by decide +kernel
/-- The worked quad of R336, coarse differences of rows. -/
theorem test_qddy_coarse : after (st { tm with vregs := vreg 5 [0x3F80_0000, 0x4080_0000, 0x4000_0000, 0x4120_0000], helper := 8 })
    (.qddy (fv 6 5 0 0 1)) 6 = [0x3F80_0000, 0x3F80_0000, 0x3F80_0000, 0x3F80_0000] := by decide +kernel
/-- ADD wraps at 2^32 (R320). -/
theorem test_add_wraps : after (st { tm with vregs := vreg 2 [0xFFFF_FFFF] ++ vreg 3 [2] }) (.add (fv 1 2 3 0)) 1 =
    [1, 0, 0, 0] := by decide +kernel
/-- A signed ADD with SAT clamps (R295). -/
theorem test_add_saturates : after (st { tm with vregs := vreg 2 [0x7FFF_FFFF] ++ vreg 3 [2] }) (.add (fv 1 2 3 0 2)) 1 =
    [0x7FFF_FFFF, 0, 0, 0] := by decide +kernel
/-- A guarded lane alone is written. -/
theorem test_mov_guarded : after (st { tm with vregs := vreg 2 [1, 2, 3, 4], preds := [(1, 0x6)] })
    (.mov (fv 1 2 0 0 0 { gp := 1 })) 1 = [0, 2, 3, 0] := by decide +kernel
/-- XLANE.back reads the lane itself where b passes the word's start (R337). -/
theorem test_xlane_back : after (st { tm with vregs := vreg 2 [10, 20, 30, 40] }) (.xlane (fv 1 2 0x151 0 1)) 1 =
    [10, 10, 20, 30] := by decide +kernel
/-- The first source is the destination too: operands are read first. -/
theorem test_sub_same_register : after (st { tm with vregs := vreg 1 [5] ++ vreg 2 [7] }) (.sub (fv 1 2 1 0)) 1 =
    [2, 0, 0, 0] := by decide +kernel
/-- A store to the scratchpad reads back (R137). -/
theorem test_scratchpad_store : (match exec (.st { h := {}, data := 2, addr := 3, seg := 0, off := 4, pol := 0, size := 2, space := 1 })
      (st { tm with mask := 1, vregs := vreg 2 [8] ++ vreg 3 [0x1234_5678] }) with
    | .next s => mgetList 0 (s.coreSt 0).spad 12 4
    | _ => []) = [0x78, 0x56, 0x34, 0x12] := by decide +kernel


/-! ### Witnesses: for every statement, states and operands that meet its hypotheses -/

def fc (off : BitVec 24 := 0) (fn : BitVec 20 := 0) (h : Hdr := {}) : FC := { h := h, off := off, fn := fn }
/-- What the selected team of a state that may issue fetches. -/
def fetches (s : State) (p : Fetched → Bool) : Bool :=
  match s.curTeam with
  | some t => s.inputs == [] && s.pkg.powered && t.flights == [] && s.canIssue t && t.packets == [] && t.async == [] &&
    p (s.fetched t).2
  | none => false
/-- Whether the instruction that the selected team of a state fetches meets `p`, with the team as it issues. -/
def issues (s : State) (p : State → Team → Instr → Bool) : Bool :=
  match s.curTeam with
  | some t => match s.fetched t with | (s', .instr i) => p s' t.merge i | _ => false
  | none => false
/-- The machine over other bytes at an address. -/
def withMem0 (a : Nat) (bs : List Byte) (t : Team) : State :=
  let s := (st t).homeWrite false a bs
  { s with blocks := s.blocks.map fun b => { b with mem0 := s.mem, host0 := s.host } }
/-- Whether the two-word flag of the word at the PC is `two`, with both words read and no store to them. -/
def fetchesWords (s : State) (two : Bool) : Bool :=
  match s.curTeam with
  | none => false
  | some t =>
    let e := s.envAt t
    match e.fetchWord e.t.pc, e.codeVa e.t.pc with
    | (s1, .ok w), some va =>
      (isTwoWord w == two) && (match (({ e with s := s1 } : Env).fetchWord (e.t.pc + 8)).2 with | .ok _ => true | _ => false) &&
      (match e.s.translateAll e.who .fetch (pieces va 9 8) with
        | (s1, .ok _) => e.b.mem0 == s1.mem && e.b.host0 == s1.host
        | _ => false)
    | _, _ => false

/-- An operation of the team in an engine's queue. -/
def anOp : EngOp :=
  { id := 1, tid := tm.tid, blk := tm.blk, eng := .copy, kind := .cpy, k := 0, a := 0, b := 0, c := 0, w2 := 0, fn := 0, tile := 0,
    fmt := [], tabA := [], tabB := [], cursor := 0, taken := [], released := [], tcells := [], smode := false, badFmt := false }

theorem test_witness_StepRunsFetchedInstruction :
    (fetches (State.reset.withFetchWord 64 0x1000_7010_100C_0000) fun x => x == .instr (.add (fv 1 2 3 0))) ∧
    (fetches (State.reset.withFetchWord 64 0xFFFF_FFFF_FFFF_FFFF) fun x => match x with | .bad _ _ => true | _ => false) ∧
    (fetches (st { tm with pc := 0x1000 }) fun x => match x with | .fault 0 _ => true | _ => false) ∧
    (fetches (withMem0 0x1FF8 [0, 0, 0, 0, 0x10, 0x70, 0, 0x29] { tm with pc := 0xFF8 }) fun x => match x with
      | .fault w _ => isTwoWord w | _ => false) ∧
    (let add := State.reset.withFetchWord 64 0x1000_7010_100C_0000
     issues add (fun s' t i => t.blocker (s'.blockOf t).rtRun i == none && s'.joins t i == none) ∧
     let fl : Flight :=
      { gen := 0, seq := 0, pc := 0, dst := 2, word := 0, size := 2, space := 0, pol := 0, lanes := 1, addr := [], vals := [],
        latchOnly := false, inRegion := false }
     issues { add with teams := [{ tm with flights := [fl] }] } (fun s' t i => t.blocker (s'.blockOf t).rtRun i == some 0) ∧
     issues { add with teams := [{ tm with fore := true }, { tm with fore := true, half := 1, tid := 9 }] } (fun s' t i =>
       match s'.joins t i, exec i s' with
       | some u, .next s1 => (match s1.team? t.tid, s1.team? u.tid with
         | some t1, some u1 => t1.issued != t.issued && s1.canIssue u1
         | _, _ => false)
       | _, _ => false)) ∧
    fetchesWords (State.reset.withFetchWord 64 0x1000_7010_100C_0000) false ∧
    fetchesWords (State.reset.withFetchWord 128 0x2900_7010_0000_0000) true := by decide +kernel

/-- The lower and the upper half of a pair of 32 lanes, and a state that holds the two. -/
def loHalf : Team := { tm with fore := true }
def upHalf : Team := { tm with fore := true, half := 1, tid := 9 }
def pairSt (s : State) (lo : Team) : State := { s with sel := { s.sel with half := 1 }, teams := [lo, upHalf] }

/-- The lower half is ready for its instruction, and its issue keeps it back, so the upper half may issue. -/
def keptBack (s : State) : Bool :=
  match s.fetched loHalf with
  | (s1, .instr i) => s1.readyFor loHalf i &&
    match ({ s with sel := { s.sel with half := 0 } } : State).issueTeam loHalf exec with
    | .next s2 => (s2.team? loHalf.tid).any fun v => v.issued == loHalf.issued && v.status == .ready && v.stall != 0
    | _ => false
  | _ => false

/-- The lower half is not ready for its instruction. -/
def waitsFor (s : State) (lo : Team) : Bool :=
  match s.fetched lo with
  | (s1, .instr i) => !s1.readyFor lo i
  | _ => false

theorem test_witness_StepRunsFetchedInstruction_pair :
    let exit := State.reset.withFetchWord 64 0x0A00_7000_0000_0000
    let add := pairSt (State.reset.withFetchWord 64 0x1000_7010_100C_0000) loHalf
    let fl : Flight :=
      { gen := 0, seq := 0, pc := 0, dst := 2, word := 0, size := 2, space := 0, pol := 0, lanes := 1, addr := [], vals := [],
        latchOnly := false, inRegion := false }
    let busy := { loHalf with flights := [fl] }
    add.curTeam = some upHalf ∧ (add.lowerFirst upHalf exec).isSome = true ∧ keptBack add = false ∧
    keptBack (pairSt { exit with cores := [(0, { exit.coreSt 0 with ops := [anOp] })] } loHalf) = true ∧
    waitsFor (pairSt exit busy) busy = true ∧
    (match (add.fetched { loHalf with pc := 0x1000 }).2 with | .instr _ => false | _ => true) = true := by decide +kernel

theorem test_witness_StepTakesOldestEvent :
    let im : Image := { bytes := [], sig := [] }
    let slot : BootSlot := { island := im, sched := im, leaf := im, sorrel := im }
    let boot : BootArgs := { key := [], slot0 := slot, slot1 := slot, guests := [] }
    let s := { State.reset with inputs := [Instr.heartbeatSend] }
    let off := { s.pkg with powered := false }
    (Instr.heartbeatSend.isEvent ∧ s.pkg.powered) ∧ (∃ s : State, s.inputs = [.packagePowerOn boot]) ∧
    (powersOn .heartbeatSend = false ∧ ({ s with pkg := off } : State).pkg.powered = false) ∧
    ((({ State.reset with pkg := off } : State).inputs = [] ∧ ({ State.reset with pkg := off } : State).pkg.powered = false)) ∧
    (State.reset.inputs = [] ∧ State.reset.pkg.powered ∧ State.reset.curTeam = none) :=
  ⟨by decide +kernel, ⟨{ State.reset with inputs := [_] }, rfl⟩, by decide +kernel, by decide +kernel, by decide +kernel⟩

theorem test_witness_PlacedInstructionRuns : decodeTableWord 64 0x1000_7010_100C_0000 = some (.add (fv 1 2 3 0)) := by
  decide +kernel

/-- A second team of the core in slot 1. -/
def tm2 : Team := { tm with slot := 1, tid := 9 }
theorem test_witness_SelectedTeamIsResident :
    let s := { st with teams := [tm, tm2] }
    (s.teams.any Team.resident && (match s.curTeam with | some t => t.resident | none => false) &&
      match step s with | .next s' => s'.teams.any Team.resident | _ => false) = true := by decide +kernel

theorem test_witness_EncodeDecodeRoundTrip :
    WellFormed (.add (fv 1 2 3 0)) ∧ WellFormed (.seti (fv 1 0 0 0) 5) ∧ Instr.isEvent (.add (fv 1 2 3 0)) = false := by decide
theorem test_witness_DecodeEncodeRoundTrip :
    decode 0x2900_7010_0000_0000 5 = some (.seti (fv 1 0 0 0) 5) ∧ isTwoWord 0x2900_7010_0000_0000 ∧
    decode 0x1000_7010_100C_0000 7 = some (.add (fv 1 2 3 0)) ∧ isTwoWord 0x1000_7010_100C_0000 = false := by decide
theorem test_witness_WorkedWordsDecode :
    ((0x0E00_0000_0000_0000 : DWord).extractLsb' 56 8).toNat = 0x0E ∧ (0xFF00_0000_0000_0000 : DWord).extractLsb' 56 8 = 0xFF := by
  decide

/-! #### Traps -/

/-- The cause that the selected team meets at the decode of an instruction. -/
def causeOf (s : State) (i : Instr) : Option Cause :=
  match s.curTeam with | some t => (s.atDecode t i).decodeCause i | none => none
/-- A trap entered from the team. -/
def trapOf : TrapState :=
  { resume := 0x40, size := 8, mask := 0xF, helper := 0, pending := 3, full := false, s20 := [1, 2, 3, 4], p6 := 5, depth := 0,
    window := .granules [], words := [0], mid := none, packets := [] }
/-- A raised TRAP. -/
def raiseOf (c : Cause) : Raise :=
  { cause := c, lanes := 0xF, pending := 0xF, full := true, pc := 0, insn := 0, resume := 0, size := 8 }
/-- The machine with a handler. -/
def hv (s : State) : State := { s with ctxs := s.ctxs.map fun c => { c with hvec := 0x8001 } }
def callEntry : Rejoin := { pc := 0x80, kind := .call }
def regionEntry : Rejoin := { pc := 0x88, kind := .region }
def pendingEntry : Rejoin := { pc := 0x90, kind := .pending }

theorem test_witness_DecodeCauseTrapsBeforeEffect : causeOf st (.add (fv 1 2 3 4)) = some .reservedField := by decide +kernel
theorem test_witness_DecodeCausesByPriority :
    let inTrap := { tm with trap := some trapOf }
    causeOf st (.pcmpi (fv 7 2 3 4 6)) = some .illegalOpcode ∧
    causeOf (st { tm with fore := true }) (.mma (fv 0 0x10C 0x10D 0x10E) 0) = some .illegalOpcode ∧
    causeOf st (.add (fv 1 2 3 4)) = some .reservedField ∧
    causeOf st (.add (fv 1 2 3 0 0 { rate := 1 })) = some .rateMismatch ∧
    causeOf st (.add (fv 1 200 3 0)) = some .regLimit ∧
    causeOf (st { tm with stack := [callEntry] }) (.sread (fv 1 0x123 0 0)) = some .divergedUniform ∧
    causeOf st (.add (fv 1 0x100 3 0)) = some .latchRegion ∧
    causeOf st (.rttSkip (fv 0 0 0 0 1)) = some .privilege ∧ causeOf st (.add (fv 1 2 3 0)) = none ∧
    causeOf (st inTrap) (.rttSkip (fv 0 0 0 0 1)) = none ∧
    causeOf (st { tm with sregs := [(4, 0x10)] }) (.csrw (fv 0 0x10C 0x10D 0)) = some .privilege ∧
    (raiseOf .trap).k < 4 ∧ (raiseOf .linkLost).k < 4 ∧ { raiseOf .engineFault with k := 2 }.k < 4 := by decide +kernel
theorem test_witness_TrapEntryRunsHandler :
    let s := hv st
    let few (s : State) : State := { s with parts := [{ placedPart with quotas := [(0, { slots := 16, granules := 0, rows := 982, bars := 2048 })] }] }
    let fits (s : State) (t : Team) : Bool := decide (s.granulesUsed t.core (s.blockOf t).part + s.reserve t.core (s.blockOf t).part +
      (t.wordsOf 0xF).length ≤ ((s.part (s.blockOf t).part).quota t.core).granules)
    (s.ctx (s.blockOf tm).ctx).hvec.getLsbD 0 ∧ tm.trap = none ∧ fits s tm ∧ fits (few s) tm = false ∧
    (let r := hv (st tm { blk with saveRows := 3 })
     fits (few r) tm = false ∧ 1024 * (tm.wordsOf 0xF).length ≤ 384 * (r.blockOf tm).saveRows) ∧
    384 * (s.blockOf tm).saveRows < 1024 * (tm.wordsOf 0xF).length := by decide +kernel
theorem test_witness_TrapsWithoutHandler :
    (st.ctx (st.blockOf tm).ctx).hvec.getLsbD 0 = false ∧ tm.trap = none ∧ ({ tm with trap := some trapOf } : Team).trap.isSome ∧
    (raiseOf .guestPageFault).cause = .guestPageFault ∧ (raiseOf .doubleTrap).cause = .doubleTrap := by decide +kernel
theorem test_witness_TrapInstructionsTrap :
    meets st (.trap (fv 0 0x10C 0 0)) ∧ meets st (.syscall (fv 0 0x10C 0 0)) ∧ meets st (.bkpt (fv 0 0x10C 0 0)) := by decide +kernel
theorem test_witness_RttReturns :
    let s := st { tm with trap := some trapOf }
    let d := st { tm with trap := some trapOf, stack := [callEntry] }
    let ok (n : Nat) (e : Env) : Bool := e.t.trap == some trapOf && e.t.mask &&& ~~~e.t.helper != 0 && e.t.stack.length == n
    meets s (.rttRetry (fv 0 0 0 0 0)) (ok 0) ∧ meets s (.rttSkip (fv 0 0 0 0 1)) (ok 0) ∧ meets s (.rttKill (fv 0 0 0 0 2)) (ok 0) ∧
    meets d (.rttRetry (fv 0 0 0 0 0)) (ok 1) ∧ meets d (.rttSkip (fv 0 0 0 0 1)) (ok 1) ∧
    meets d (.rttKill (fv 0 0 0 0 2)) (ok 1) ∧
    (meets (st { tm with trap := some { trapOf with full := true } }) (.rttRetry (fv 0 0 0 0 0)) fun e =>
      e.t.trap == some { trapOf with full := true } && e.t.stack.length == 0) := by decide +kernel
theorem test_witness_RttRestoresSpilledRegisters :
    let tr := { trapOf with window := .spill 2, words := [2, 0] }
    tr.window = .spill 2 ∧ tr.words.Nodup ∧ (∀ j ∈ tr.words, j < 32) ∧ 1 ≤ 2 ∧ tr.words[1]? = some 0 ∧
      55 < 32 * 2 - 8 ∧ 32 * 2 ≤ 64 ∧ 32 / 32 ∉ tr.words := by decide +kernel

/-! #### Control flow -/

/-- A stack with as many entries. -/
def deep (n : Nat) : Team := { tm with stack := List.replicate n callEntry }
theorem test_witness_StraightControlCompletes :
    meets st (.nop (fc)) ∧ meets st (.yield (fc)) ∧
    (let t := { tm with yielded := some 2 }
     t.yielded = some 2 ∧ ({ st t with clk := 4 } : State).canIssue t) ∧
    meets (st (deep 31)) (.mark (fc 6)) (fun e => e.t.stack.length < 32 && !e.t.fore) ∧
    meets (st (deep 32)) (.mark (fc 6)) (fun e => 32 ≤ e.t.stack.length && !e.t.fore) ∧
    meets (st { deep 15 with fore := true }) (.mark (fc 6)) ∧
    meets (st { deep 16 with fore := true }) (.mark (fc 6)) := by decide +kernel
theorem test_witness_LoopCountsDown :
    meets (st { tm with sregs := [(2, 1)] }) (.loop (fc 0xFF_FFFD 0x10000)) (fun e => e.t.sreg 2 - 1 == 0) ∧
    meets st (.loop (fc 0xFF_FFFD 0x10000)) (fun e => e.t.sreg 2 == 0) ∧
    24 ≤ bits (fc 0 0xC0000).fn.toNat 19 15 ∧ encCheck (.loop (fc 0 0xC0000)) = some .reserved ∧
    st.curTeam = some tm ∧
    (let s := st (deep 1)
     let i := Instr.loop (fc 0 0x10000)
     s.curTeam = some (deep 1) ∧ encCheck i = none ∧ (s.atDecode (deep 1) i).rateBad i = false ∧
     (s.atDecode (deep 1) i).regBad i = false ∧ (s.atDecode (deep 1) i).t.stack ≠ [] ∧
     (s.atDecode (deep 1) i).t.trap = none) := by decide +kernel
theorem test_witness_MergeJoinsPendingLanes :
    ({ tm with stack := [callEntry, { pc := tm.pc, kind := .pending }] } : Team).stack =
      [callEntry] ++ [{ pc := tm.pc, kind := .pending }] ∧
    (deep 1).stack.getLast? ≠ some { pc := tm.pc, kind := .pending } ∧ meets st (.nop fc) := by decide +kernel
/-- Predicate p1 holds in lanes 0 and 1, p2 in none, p3 in all. -/
def tp : Team := { tm with preds := [(1, 3), (3, 0xF)] }
def g (p : BitVec 3) : Hdr := { gp := p }
def lanesGo (e : Env) (h : Hdr) : List Bool := (List.range 4).map (e.t.act h).getLsbD
theorem test_witness_BranchTakesLaneGroups :
    meets (st tp) (.bra (fc 3 0 (g 3))) (fun e => lanesGo e (g 3) == [true, true, true, true]) ∧
    meets (st tp) (.bra (fc 3 0 (g 2))) (fun e => lanesGo e (g 2) == [false, false, false, false]) ∧
    meets (st tp) (.bra (fc 1 0 (g 1))) ∧
    meets (st tp) (.bra (fc 3 0 (g 1))) (fun e => lanesGo e (g 1) == [true, true, false, false]) ∧
    meets (st { tp with pc := 0x80 }) (.bra (fc (-3) 0 (g 1))) (fun e => lanesGo e (g 1) == [true, true, false, false]) ∧
    decodes (st { deep 31 with preds := [(1, 3)] }) (.bra (fc 3 0 (g 1))) (fun e => !e.transferOver (.bra (fc 3 0 (g 1)))) ∧
    decodes (st { deep 32 with preds := [(1, 3)] }) (.bra (fc 3 0 (g 1))) (fun e => e.transferOver (.bra (fc 3 0 (g 1)))) := by decide +kernel
theorem test_witness_CallTakesLaneGroups :
    meets (st tp) (.call (fc 3 0 (g 2))) (fun e => lanesGo e (g 2) == [false, false, false, false]) ∧
    meets (st tp) (.call (fc 3 0 (g 1))) (fun e => lanesGo e (g 1) == [true, true, false, false]) ∧
    meets (st tp) (.call (fc 3)) ∧ decodes (st (deep 31)) (.call (fc 3)) (fun e => !e.transferOver (.call (fc 3))) ∧
    decodes (st (deep 32)) (.call (fc 3)) (fun e => e.transferOver (.call (fc 3))) := by decide +kernel
theorem test_witness_IndirectTransferToOneTarget :
    let s := st { tp with vregs := vreg 5 [0x100, 0x104, 0x107, 0x100] }
    let one (e : Env) : Bool := (List.range 4).all fun l => (e.src32 5 l).toNat / 8 * 8 == 0x100
    let none (e : Env) : Bool := lanesGo e (g 2) == [false, false, false, false]
    meets s (.brx (fv 0 5 0 0 0 (g 2))) none ∧ meets s (.brx (fv 0 5 0 0)) one ∧
    meets (st { tp with mask := 0 }) (.callx (fv 6 5 0 0)) ∧ meets s (.callx (fv 6 5 0 0 0 (g 2))) none ∧
    meets s (.callx (fv 6 5 0 0)) one ∧ decodes (st { tm with mask := 0 }) (.callx (fv 6 5 0 0)) (fun e => e.t.act {} == 0) ∧
    decodes (st (deep 32)) (.callx (fv 6 5 0 0)) (fun e => e.transferOver (.callx (fv 6 5 0 0)) && !e.transferOver (.brx (fv 0 5 0 0))) ∧
    decodes (st (deep 31)) (.callx (fv 6 5 0 0)) (fun e => !e.transferOver (.callx (fv 6 5 0 0))) := by decide +kernel
theorem test_witness_DivergentTransferRunsLowestTarget :
    meets (st { tp with vregs := vreg 5 [0x100, 0x200, 0x80, 0x100] }) (.brx (fv 0 5 0 0)) (fun e => e.t.mask == 0xF) ∧
    meets (st { tp with vregs := vreg 5 [0x100, 0x200, 0x80, 0x100] }) (.callx (fv 6 5 0 0 0 (g 1))) (fun e =>
      lanesGo e (g 1) == [true, true, false, false]) ∧
    decodes (st { deep 31 with vregs := vreg 5 [0x100, 0x200, 0x80, 0x100] }) (.brx (fv 0 5 0 0)) (fun e => e.transferOver (.brx (fv 0 5 0 0))) := by decide +kernel
theorem test_witness_PushesSetWaitNumbers :
    ({ tm with stack := [callEntry, pendingEntry] } : Team).stack.getLast? = some { pc := 0x90, kind := .pending } ∧
    tm.stack.getLast? ≠ some { pc := 0x90, kind := .pending } := by decide +kernel
theorem test_witness_ArrivalResumesTopEntry :
    let c := st { tm with stack := [callEntry] }
    let r := st { tp with stack := [callEntry, regionEntry] }
    let ok (k : RejoinKind) (n : Nat) (e : Env) : Bool := e.t.restore == none && e.t.mask == 0xF && nearest k e.t.stack == some n &&
      e.t.stack.length == n + 1
    meets c (.ret fc) (ok .call 0) ∧ meets r (.join fc) (ok .region 1) ∧
    meets r (.brk fc) (fun e => ok .region 1 e && e.t.act {} == e.t.mask) ∧
    meets r (.brk (fc 0 0 (g 2))) (fun e => ok .region 1 e && e.t.act (g 2) == 0) ∧
    meets r (.brk (fc 0 0 (g 1))) (fun e => ok .region 1 e && e.t.act (g 1) != 0 && e.t.mask &&& ~~~(e.t.act (g 1)) != 0) ∧
    meets st (.ret fc) (fun e => nearest .call e.t.stack == none) ∧ meets c (.join fc) (fun e => nearest .region e.t.stack == none) ∧
    meets c (.brk fc) (fun e => nearest .region e.t.stack == none) := by decide +kernel
theorem test_witness_NearestEntry :
    RejoinKind.call ≠ .pending ∧ nearest .call [callEntry, pendingEntry] = some 0 ∧
    nearest .call [callEntry, regionEntry] = none := by decide
/-- The machine with operations in its core. -/
def stOps (os : List EngOp) (t : Team := tm) (b : Block := blk) : State :=
  (st t b).putCore 0 { (st t b).coreSt 0 with ops := os }
theorem test_witness_ExitFinishesLanes :
    let ok (p : Env → Bool) (e : Env) : Bool := e.t.restore == none && p e
    let all (e : Env) : Bool := e.t.mask &&& ~~~(e.t.act {}) == 0 && e.t.stack == []
    let calm (e : Env) : Bool := !e.busy && e.t.takeFailure true [0, 1, 2, 3] == none
    meets (st tp) (.exit (fc 0 0 (g 1))) (ok fun e => e.t.mask &&& ~~~(e.t.act (g 1)) != 0) ∧
    meets st (.exit fc) (ok fun e => all e && calm e && e.t.batch == none) ∧
    meets (st { tm with batch := some 0, tier := 1 }) (.exit (fc 0 0 {})) (ok fun e => all e && calm e && e.t.batch.isSome) ∧
    meets (stOps [anOp]) (.exit fc) (ok fun e => all e && e.busy) ∧
    (let d (x : DWord) : Block :=
      { blk with draw := some { root := [], target := [], tiers := [x], rs := 1, recs := [], tris := [],
                                batches := [], rays := [], objWait := [], meshWait := [], vertWait := [], setupWait := [],
                                cpixWait := [], framed := true, sampWait := [], next := 1 } }
     let f (x : DWord) (bad : Bool) : Bool := meets (st { tm with batch := some 0, tier := 1 } (d x)) (.exit fc)
       (ok fun e => all e && !e.busy && e.b.draw.isSome && e.exportBad == bad)
     f 0x3E02_0000_0000_0000 false ∧ f 0x3F02_0000_0000_0000 true) ∧
    (let bad : Batch := { num := 1, ops := [], all := [1], failed := true, fault := 0, eaddr := 0 }
     let t (x : Option TrapState) : Team := { tm with trap := x, counters := [{ batches := [bad] }] }
     meets (st (t none)) (.exit fc) (ok fun e => all e && !e.busy && (e.t.takeFailure true [0, 1, 2, 3]).isSome) ∧
     meets (st (t (some trapOf))) (.exit fc) (ok fun e => all e && !e.busy && e.t.trap.isSome && e.t.batch == none)) := by decide +kernel
/-- A quota of granules. -/
def gran (s : State) (n : Nat) : State :=
  { s with parts := [{ placedPart with quotas := [(0, { slots := 16, granules := n, rows := 982, bars := 2048 })] }] }
theorem test_witness_RegisterChunks :
    let room (e : Env) : Bool := e.t.chunks != 8 &&
      decide (e.t.words * (e.t.chunks + 1) ≤ ((e.s.part e.b.part).quota e.t.core).granules)
    meets (st { tm with chunks := 8 }) (.vgrow fc) (fun e => e.t.chunks == 8) ∧
    meets (gran st 2) (.vgrow fc) (fun e => !room e) ∧
    meets st (.vgrow fc) (fun e => room e && e.s.canGrow e.t) ∧
    meets (gran { st with teams := [tm, tm2] } 4) (.vgrow fc) (fun e => room e && !e.s.canGrow e.t) ∧
    meets st (.vshrink fc) (fun e => e.t.chunks ≤ e.t.base) ∧
    meets (st { tm with chunks := 3 }) (.vshrink fc) (fun e => e.t.base < e.t.chunks) := by decide +kernel

/-! #### Instructions of registers -/

def fu (d sa sb : BitVec 5) (fn : BitVec 4 := 0) (i : BitVec 1 := 0) (imm : BitVec 24 := 0) : FU :=
  { h := {}, d := d, sa := sa, sb := sb, i := i, fn := fn, imm := imm }
/-- Instructions of registers with three, two and one vector sources. -/
def regs3 : List Instr := let f := fv 1 2 4 6; [.tadd f, .madl f, .madw f, .adif f, .tlut f, .funl f, .fext f, .fdep f,
  .pick f, .scad f, .bshuf f, .ffma f, .dot2 (fv 1 2 4 6 2), .dot4 (fv 1 2 4 6 12), .dot8 (fv 1 2 4 6 15),
  .dfma (fv 2 4 6 8), .hfma2 f]
def regs2 : List Instr := let f := fv 1 2 4 0; [.add f, .sub f, .mull f, .mulh f, .min f, .max f, .shl f, .shr f, .sar f, .rot f,
  .fadd f, .fmul f, .fmin f, .fmax f, .fscale f, .dadd (fv 2 4 6 0), .dmul (fv 2 4 6 0), .dmin (fv 2 4 6 0), .dmax (fv 2 4 6 0),
  .hadd2 f, .hmul2 f, .hmax2 f, .qscale f, .xlane f, .pcmpi f, .pcmpf f, .pcmpd f]
def regs1 : List Instr := let f := fv 1 2 0 0; [.neg f, .abs f, .ones f, .clz f, .bitr f, .mov f, .frnd f, .fclass f, .frcp f,
  .frsq f, .fsqrt f, .fexp2 f, .flog2 f, .fsin f, .fcos f, .ftanh f, .cvt { h := {}, d := 1, sa := 2, imm := 0, fn := 0x21 },
  .qswap f, .qbcast f, .qddx f, .qddy f, .pscan f, .treduce f, .vtop f, .seti (fv 1 0 0 0) 7, .ptov (fv 1 0 0 0),
  .plut (fv 1 2 3 4), .pagree (fv 1 2 0 0)]
def regsU : List Instr := let f := fu 1 2 3; [.sadd f, .ssub f, .smul f, .slop f, .sshf f, .smov (fu 1 2 0), .smovi (fu 1 0 0) 9,
  .scmp f, .slea f, .ssel f, .sread (fv 1 0x123 0 0)]
/-- A record of the rate store. -/
def rec_ (k t : Nat) (up : Option Nat) : RsRec :=
  { id := k, tier := t, elem := 0, retain := 0, up := up, vals := [5, 6], bytes := 8, key := (0, 0, 0) }
def tri1 : Tri :=
  { id := 1, key := (0, 0, 0), meshlet := 1, verts := [2, 3, 4], x := [0, 0, 256], y := [0, 256, 0],
    w := [0x3F80_0000, 0x3F80_0000, 0x3F80_0000], swap := false, open_ := 0, finished := false }
def ray1 : Ray :=
  { id := 1, team := tm.tid, lane := 0, frame := 0, dst := 0, vals := List.replicate 8 0, up := some 1, desc := [],
    hit := some { t := 0x3F80_0000, prim := 2 }, batch := some 0, ret := none }
/-- A draw with every tier, an object record, three vertices, a triangle and a ray that hit. -/
def dr : Draw :=
  { root := [], target := List.replicate 64 0, tiers := List.replicate 7 0x0008_0000_0000_0000, rs := 1,
    recs := [rec_ 1 1 none, rec_ 2 4 (some 1), rec_ 3 4 (some 1), rec_ 4 4 (some 1)], tris := [tri1], batches := [],
    rays := [ray1], objWait := [], meshWait := [], vertWait := [], setupWait := [], cpixWait := [], framed := false,
    sampWait := [], next := 5 }
def bdr (d : Draw := dr) : Block := { blk with header := 0x0020_0000_0000_0000, draw := some d }
/-- Every lane with an element of triangle or ray 1. -/
def tier (n : Nat) (t : Team := tm) : Team :=
  { t with tier := n, batch := some 0, elems := (List.range 32).map fun l => (l, { live := true, up := some 1, tri := some 1, cov := 1 }) }
def rate (n : BitVec 3) : Hdr := { rate := n }
/-- Instructions of a tier batch, with the state of each. -/
def regsT : List (State × Instr) :=
  [(st (tier 5) bdr, .rget (fv 1 0 0 0 0x009 (rate 5))), (st (tier 5) bdr, .rflat (fv 1 0 0 0 0x008 (rate 5))),
   (st (tier 5) bdr, .rbary (fv 1 0 0 0 0x008 (rate 5))), (st (tier 5) bdr, .rcov (fv 1 0 0 0 0 (rate 5))),
   (st (tier 7) bdr, .rhit (fv 1 0 0 0 0 (rate 7)))]
theorem test_witness_RegisterInstructionsComplete :
    (regs3 ++ regs2 ++ regs1 ++ regsU).all (fun i => registerOnly i && meets st i) ∧
    regsT.all (fun x => registerOnly x.2 && meets x.1 x.2) := by decide +kernel
/-- Whether every instruction of a list may execute. -/
def rdy (l : List Instr) : Bool := l.all (meets st ·)
theorem test_witness_IntegerArithmeticResults :
    let i (x : FV) : List Instr := [.add x, .sub x, .min x, .max x]
    let f : FV := fv 2 4 6 0
    rdy (i f ++ i { f with fn := 4 } ++ [.neg (fv 2 4 0 0), .abs (fv 2 4 0 0), .neg (fv 2 4 0 0 4), .abs (fv 2 4 0 0 4), .mull f, .mulh f,
      .tadd { f with sc := 8 }, .madl { f with sc := 8 }, .madw { f with sc := 8 }, .adif { f with sc := 8 }]) := by decide +kernel
theorem test_witness_IntegerBitResults :
    let i (x : FV) : List Instr := [.shl x, .shr x, .sar x, .rot x]
    let u (x : FV) : List Instr := [.mov x, .bitr x, .ones x, .clz x]
    let t (x : FV) : List Instr := [.tlut x, .funl x, .fext x, .fdep x, .scad x, .bshuf x, .pick x]
    let f : FV := fv 2 4 6 0
    rdy (i f ++ i { f with fn := 4 } ++ u (fv 2 4 0 0) ++ u (fv 2 4 0 0 4) ++ t { f with sc := 8 } ++
      [.pick { f with sc := 8, fn := 4 }, .seti (fv 1 0 0 0) 7]) := by decide +kernel
theorem test_witness_UniformAndPredicateResults :
    rdy (regsU ++ [.sadd (fu 1 2 0 0 1 5), .sshf (fu 1 2 3 3), .pcmpi (fv 1 2 4 0), .pcmpi (fv 1 2 4 0 0x10), .pcmpf (fv 1 2 4 0),
      .pcmpd (fv 1 2 4 0), .plut (fv 1 2 3 4), .pagree (fv 1 2 0 0), .vtop (fv 1 2 0 0), .ptov (fv 1 0 0 0)]) ∧
    (fu 1 2 3 3).fn.toNat < 4 ∧
    (let s := st { tm with helper := 1, vregs := vreg 5 [1, 7, 7, 7] }
     let d := st { tm with helper := 1, vregs := vreg 5 [1, 7, 7, 8] }
     let low (e : Env) : Bool := (List.range 4).map (e.t.mask &&& ~~~e.t.helper).getLsbD == [false, true, true, true]
     meets s (.sfromv (fv 1 5 0 0 1)) low ∧ meets d (.sfromv (fv 1 5 0 0)) low ∧ meets d (.sfromv (fv 1 5 0 0 1)) low ∧
     meets (st { tm with mask := 3, helper := 3 }) (.sfromv (fv 1 5 0 0)) (fun e => e.t.mask &&& ~~~e.t.helper == 0)) := by
  decide +kernel
theorem test_witness_FloatResults :
    let f : FV := fv 2 4 6 8
    rdy ([.fadd { f with sc := 0 }, .fmul { f with sc := 0 }, .ffma f, .fmin { f with sc := 0 }, .fmax { f with sc := 0 },
      .frnd (fv 1 2 0 0), .fclass (fv 1 2 0 0), .fscale (fv 1 2 3 0), .frcp (fv 1 2 0 0), .fsqrt (fv 1 2 0 0), .frsq (fv 1 2 0 0),
      .fexp2 (fv 1 2 0 0), .flog2 (fv 1 2 0 0), .fsin (fv 1 2 0 0), .fcos (fv 1 2 0 0), .ftanh (fv 1 2 0 0)]) ∧
    rdy ([.dadd { f with sc := 0 }, .dmul { f with sc := 0 }, .dfma f, .dmin { f with sc := 0 }, .dmax { f with sc := 0 },
      .hadd2 { f with sc := 0 }, .hmul2 { f with sc := 0 }, .hfma2 f, .hmax2 { f with sc := 0 }, .hadd2 { f with sc := 0, fn := 1 },
      .qscale { f with sc := 0 }]) := by decide +kernel
theorem test_witness_ArithmeticIsExactThenRoundedOnce :
    f32.rnd .rz (.fin false 3 (-1)) < f32.infCode - 1 ∧ f32.rnd .rn (.fin false 0 0) < f32.infCode - 1 ∧
    bf16.rnd .ru (.fin false 255 0) < bf16.infCode := by decide +kernel
theorem test_witness_LaneExchangeResults :
    rdy ([.qswap (fv 1 2 0 0 2), .qbcast (fv 1 2 0 0 3), .qddx (fv 1 2 0 0), .qddy (fv 1 2 0 0 1), .xlane (fv 1 2 3 0 2),
      .pscan (fv 1 2 0 0 8), .pscan (fv 1 2 0 0 3), .treduce (fv 1 2 0 0 5)]) := by decide +kernel
theorem test_witness_LatchesShift : meets st (.add (fv 1 2 3 0 0 { ws := 1 })) ∧ meets st (.add (fv 1 2 3 0)) := by decide +kernel
/-- The machine over other memory, its old words with it. -/
def withMem (m : List (Nat × List Byte)) (t : Team := tm) (b : Block := blk) : State :=
  let s := m.foldl (fun (s : State) x => s.homeWrite false x.1 x.2) (st t b)
  { s with blocks := s.blocks.map fun b => { b with mem0 := s.mem, host0 := s.host } }
/-- A valid companding table: rising points with positive slopes. -/
def table : List Byte := (List.range 16).flatMap fun k =>
  let x := if k = 0 then 0 else 0x3F80_0000 + 2 ^ 20 * k
  [x, x, 0x3F80_0000, 0x3F80_0000].flatMap (leBytes 4)
/-- Registers s0 and s1 as addresses. -/
def ts (a : DWord) (b : DWord := 0) (c : DWord := 0) (d : DWord := 0) : Team := { tm with sregs := [(0, a), (1, b), (2, c), (3, d)] }
/-- Whether the s register of a code names a valid table (`n = 256`) or descriptor that passes `p`. -/
def reads (c : BitVec 9) (n : Nat) (p : List Byte → Bool) (e : Env) : Bool :=
  match e.readOnce e.s (e.uval c.toNat).toNat n with | (_, .ok bs) => p bs | _ => false
theorem test_witness_ConversionAndTableResults :
    let c (fn : BitVec 11) : Instr := .cvt { h := {}, d := 2, sa := 4, imm := 0, fn := fn }
    let tab : State := withMem [(0x10000, table)] (ts 0x10000)
    let ok (e : Env) : Bool := reads 0x108 256 tableOk e && (e.uval 0x108).toNat % 64 == 0 && e.t.mask != 0
    let no (e : Env) : Bool := (e.uval 0x108).toNat == 0
    let bad (e : Env) : Bool := (e.uval 0x108).toNat % 64 != 0 && e.t.mask &&& ~~~e.t.helper != 0
    let is : List Instr := [.cmpd (fv 1 2 0x108 0), .icmpd (fv 1 2 0x108 0), .pack (fv 1 2 10 0x108 12), .unpack (fv 2 10 0x108 0 12)]
    rdy ([c 0x21, c 0x12, c 0x02, c 0x60, c 0x71, .dot2 (fv 1 2 4 6 2), .dot2 (fv 1 2 4 6 8), .dot4 (fv 1 2 4 6 12), .dot4 (fv 1 2 4 6 10),
      .dot8 (fv 1 2 4 6 15)]) ∧
    is.all (fun i => meets (st (ts 0)) i no) ∧
    is.all (fun i => [[], table].all fun x => meets (st { ts 0x10000 with table := some x }) i fun e => (e.uval 0x108).toNat != 0) ∧ meets tab (.cmpd (fv 1 2 0x108 0)) ok ∧ is.all (meets tab ·) ∧
    is.all (fun i => meets (st (ts 0x10020)) i bad) := by decide +kernel

/-! #### Memory -/

def fm (data : BitVec 8) (addr : BitVec 9) (off : BitVec 16 := 0) (size : BitVec 3 := 2) (space : BitVec 2 := 0)
    (seg : BitVec 4 := 3) (pol : BitVec 2 := 0) (ws : BitVec 1 := 0) : FM :=
  { h := { ws := ws }, data := data, addr := addr, seg := if space = 0 then seg else 0, off := off, pol := pol, size := size, space := space }
/-- The four lanes with addresses in v4 and values in v5; lane 3 is a helper. -/
def ta (xs : List Word := [0x100, 0x104, 0x108, 0x10C]) : Team := { tm with vregs := vreg 4 xs ++ vreg 5 [1, 2, 3, 4] }
/-- A lock on an extent of segment space 0. -/
def locked (s : State) (l : Lock) : State := s.putCore 0 { s.coreSt 0 with locks := [l] }
theorem test_witness_AccessChecks :
    let e := (st).envAt tm
    let g := e.b.seg 3
    0 < 4 ∧ segAddr g 3 0xFFFF_FFFF 0 4 true false = none ∧ segAddr g 3 0xFFFF_FFFC 0 4 true false = some 0xFFFF_FFFC ∧
    segAddr g 3 0 (-1) 4 true false = none ∧
    (segAddr g 3 2 0 4 false false = some 2 ∧ 2 % 4 ≠ 0) ∧ e.s.locked e.t.core e.b.ctx 0 0 4 4 true = false ∧
    (match e.s.translateAll e.who .atomic (pieces 4 5 4) with | (_, .ok _) => true | _ => false) = true ∧
    384 * e.b.rows = 24576 ∧ (¬(24576 - 2 + 4 ≤ 384 * e.b.rows)) ∧ 24572 + 4 ≤ 384 * e.b.rows ∧
    e.s.member e.b (-1) = none ∧ (e.s.member e.b 0).map Block.id = some e.b.id ∧
    (e.s.part e.b.part).sliceList = [] ∧ ¬(0 + 4 ≤ 524288 * (e.s.part e.b.part).sliceList.length) ∧
    (let s := { e.s with parts := [{ placedPart with slices := 1 }] }
     (s.part e.b.part).sliceList = [0] ∧ 524284 + 4 ≤ 524288 * (s.part e.b.part).sliceList.length) ∧
    (let l : Lock := { op := 1, blk := 1, tid := 1, ctx := 1, space := 0, owner := 0, base := 0, len := 64, dest := true }
     (locked st l).locked 0 1 0 0 4 4 true = true) ∧
    (let s : State := { e.s with spadPoison := [(0, 5)], poison := [5] }
     s.remoteQ = [] ∧ (0, 5) ∈ s.spadPoison ∧ 20 < 4 * 5 + 4 ∧ 4 * 5 < 20 + 4 ∧ s.dataBad e.who .read false 20 4 = true) ∧
    (let s : State := { e.s with parts := [{ placedPart with oldSlices := 1 }] }
     0 + 4 ≤ 524288 * (setBits 128 (s.part 0).oldSlices.toNat).length ∧ (s.part 0).sliceList = [] ∧
     (s.part 0).chipAt 0 4 = some (.gone 0)) := by decide +kernel
/-- The faults of a load's, store's or private access's checks. -/
def faults (f : FM) (k : AccKind) (v own : Bool) (e : Env) : List LaneFault :=
  let n := sizeBytes f.size.toNat
  let off (l : Nat) : Int := f.off.toInt + (if v then (n * l : Nat) else 0)
  let base (l : Nat) : Int := if k == .read then e.addrVal f.addr.toNat l else (e.t.getV f.data.toNat l).toNat
  let chk (s : State) (l : Nat) : State × Except MFault Target :=
    if own then e.check s k 0 14 0 ((2 ^ 26 * e.t.pix + 2 ^ 16 * l : Nat) + off l) n
    else e.check s k f.space.toNat f.seg.toNat (base l) (off l) n
  (e.checkLanes chk (fun _ => 0) e.s (e.t.list (if k == .read then e.t.act f.h else e.t.actNH f.h))).2.2
/-- Loads and stores that meet no cause. -/
def fine (f : FM) (k : AccKind) (v own : Bool) (e : Env) : Bool := faults f k v own e == []
/-- The placed machine with a second block of a gang of two, on core 1. -/
def gang (t : Team := tm) : State :=
  let a : Block := { blk with gangN := 2, gangId := 1, gang := 0, core := 0 }
  { st t a with blocks := [a, { a with id := a.id + 1, gang := 1, core := 1 }] }
/-- The same with the second block halted by a MIGRATE. -/
def away (t : Team := tm) : State :=
  let v : SaveArea :=
    { spad := [], bars := [], cells := [], tagV := 0, tagC := 0, locks := [], ops := [], remote := [], replay := [], smpRes := 0,
      clk := 0, halted := 0, migrating := true }
  { gang t with blocks := (gang t).blocks.map fun b => if b.gang = 1 then { b with saved := some v } else b }
theorem test_witness_LoadsAndStoresComplete :
    meets (st (ta)) (.ld (fm 6 4)) (fine (fm 6 4) .read false false) ∧
    meets (st (ta)) (.ld (fm 6 4 0 3)) (fine (fm 6 4 0 3) .read false false) ∧
    meets (st (ta [0, 4, 8, 12])) (.ld (fm 6 4 0 2 1)) (fine (fm 6 4 0 2 1) .read false false) ∧
    meets (gang (ta [0, 393216, 8, 12])) (.ld (fm 6 4 0 2 2))
      (fun e => fine (fm 6 4 0 2 2) .read false false e && e.mustWait 2 (e.t.act {}) (fun l => e.addrVal 4 l) == false) ∧
    meets { st (ta [0, 4, 8, 12]) with parts := [{ placedPart with slices := 1 }] } (.ld (fm 6 4 0 2 3))
      (fine (fm 6 4 0 2 3) .read false false) ∧
    meets (st (ta)) (.ldv (fm 6 4)) (fine (fm 6 4) .read true false) ∧
    meets (st) (.ldl { fm 6 0x1FF with seg := 0, addr := 0 }) (fine { fm 6 0 with seg := 0 } .read false true) ∧
    meets (st (ta)) (.st (fm 4 5)) (fine (fm 4 5) .write false false) ∧
    meets (st (ta)) (.stv (fm 4 5)) (fine (fm 4 5) .write true false) ∧
    meets (st) (.stl { fm 0 5 with seg := 0 }) (fine { fm 0 5 with seg := 0 } .write false true) ∧
    meets (away (ta [0, 393216, 8, 12])) (.ld (fm 6 4 0 2 2)) (fun e => e.mustWait 2 (e.t.act {}) (fun l => e.addrVal 4 l)) ∧
    meets (away (ta [0, 8, 8, 12])) (.ldv (fm 6 4 0 2 2)) (fun e => e.mustWait 2 (e.t.act {}) (fun l => e.addrVal 4 l + (4 * l : Nat)) == false) ∧
    meets (away (ta [393216, 8, 8, 12])) (.st (fm 4 5 0 2 2)) (fun e => e.mustWait 2 (e.t.actNH {}) (fun l => (e.t.getV 4 l).toNat)) ∧
    meets (st (ta)) (.pfetch (fm 0 4 0 0)) := by decide +kernel
/-- Three of four lanes beyond a segment's end. -/
def tf : Team := ta [0x100, 0xFFFF_FFFD, 0xFFFF_FFFF, 0xFFFF_FFFE]
/-- Loads and stores that meet causes. -/
def foul (f : FM) (k : AccKind) (v own : Bool) (e : Env) : Bool := faults f k v own e != []
theorem test_witness_LaneCausesTrap :
    let fs : List LaneFault := [{ lane := 0, f := { cause := .segLimit } }, { lane := 2, f := { cause := .pageFault, va := 4 } }]
    fs ≠ [] ∧ (∀ x ∈ fs, x.lane < 1024) ∧ fs.Pairwise (fun x y => x.lane ≠ y.lane) ∧
    (∀ size ∈ [(2 : BitVec 3), 4], meets (st tf) (.ld (fm 8 4 0 size)) (foul (fm 8 4 0 size) .read false false) ∧
      meets (st tf) (.ldv (fm 8 4 0 size)) (foul (fm 8 4 0 size) .read true false) ∧
      meets (st tf) (.st (fm 4 8 0 size)) (foul (fm 4 8 0 size) .write false false) ∧
      meets (st tf) (.stv (fm 4 8 0 size)) (foul (fm 4 8 0 size) .write true false)) ∧
    meets (st tf) (.ld (fm 8 4 0 2 0 3 0 1)) (fun e => foul (fm 8 4 0 2 0 3 0 1) .read false false e && e.t.region.isSome) ∧
    meets (st tm) (.ldl { fm 8 0 0xFFFC 3 with seg := 0 }) (fun e => !decide (0 ≤ e.addrVal 0 0 + (0xFFFC : BitVec 16).toInt)) ∧
    meets (st tm) (.stl { fm 0 8 0xFFFC 3 with seg := 0 }) (fun e => !decide (0 ≤ ((e.t.getV 0 0).toNat : Int) + (0xFFFC : BitVec 16).toInt)) ∧
    (let bad (f : FV) (w2 : DWord) (e : Env) : Bool :=
       let a := atomF f w2
       (e.checkLanes (fun s l => e.check s .atomic a.space a.seg (e.addrVal f.sa.toNat l) a.off a.bytes) (fun _ => 0) e.s
         (e.t.list (e.t.actNH f.h))).2.2 != []
     let f : FV := fv 6 4 5 0 0
     let u : FV := fv 3 0x108 0x109 0 0
     let w : DWord := 0x3000_0000
     let far := { ts 0x102 9 with mask := 0xF }
     meets (st tf) (.atom f w) (bad f w) ∧ meets (st tf) (.acas { f with sc := 6 } w) (bad { f with sc := 6 } w) ∧
     meets (st tf) (.red { f with d := 0 } w) (bad { f with d := 0 } w) ∧ meets (st far) (.atoms u w) (bad u w) ∧
     meets (st far) (.awaitv { u with d := 6 } w) (fun e => bad { u with d := 6 } w e && e.t.actNH {} != 0)) := by decide +kernel
theorem test_witness_ScratchpadAccesses :
    let ok (off : Nat) (w : Bool) (e : Env) : Bool := [0, 4, 8, 24572].all fun a =>
      e.s.targetBad e.who .read (.spad 0 (a + off)) 4 == false && e.s.storeQ == [] && e.s.remoteQ == [] &&
      e.b.spadOk ((a + off : Nat) : Int) 4 && e.s.locked e.t.core e.b.ctx 1 e.b.id (a + off) 4 w == false
    (fm 6 4 0 2 1).space = 1 ∧
    meets (st (ta [0, 4, 8, 24572])) (.ld (fm 6 4 0 2 1)) (ok 0 false) ∧
    meets (st (ta [0, 4, 8, 24572])) (.st (fm 4 5 0 2 1)) (ok 0 true) ∧
    meets (st { ta [0, 4, 8, 24576] with helper := 8 }) (.ld (fm 6 4 0 2 1))
      (fun e => e.b.spadOk 24576 4 == false && e.t.helper.getLsbD 3) := by decide +kernel
def fl0 : Flight :=
  { gen := 0, seq := 0, pc := 0, dst := 6, word := 0, size := 2, space := 0, pol := 0, lanes := 3, addr := [],
    vals := [(6144, 9), (6145, 8)], latchOnly := false, inRegion := false }
theorem test_witness_LoadReturnLands :
    fl0.gen = tm.gen ∧ { fl0 with gen := 1 }.gen ≠ tm.gen ∧ fl0.latchOnly = false ∧ sizeRegs fl0.size = 1 ∧
    (let t := { tm with latches := [some [], none], issued := 1 }
     t.latches[0]? = some (some []) ∧ fl0.regs = 1 ∧ fl0.fmt = 0 ∧ fl0.seq + 1 + 0 = t.issued ∧ t.latches[1]? = some none ∧
       t.latches[2]? = none) ∧ tm.vname 5 ≠ tm.vname 6 := by decide +kernel
theorem test_witness_DefStoreReachesHome :
    Memory.wf State.reset.mem ∧ Memory.wf State.reset.host ∧ Memory.wf State.reset.chip ∧ 15 < 16 ∧
    120 % 128 + [1, 2, 3, 4, 5, 6, 7, (8 : Byte)].length ≤ 128 ∧ ((st).coreSt 0).l1 = [] := by decide +kernel
/-- An atomic on SEG 3 and one on SPACE 1, in v4 with source v5. -/
def fa (fn : BitVec 9) (d : BitVec 9 := 6) (sb : BitVec 9 := 5) (sc : BitVec 9 := 0) : FV := fv d 4 sb sc fn
theorem test_witness_AtomicsComplete :
    let fine (f : FV) (w2 : DWord) (e : Env) : Bool :=
      let a := atomF f w2
      e.mustWait a.space (e.t.actNH f.h) (fun l => e.addrVal f.sa.toNat l + a.off) == false &&
      (e.checkLanes (fun s l => e.check s .atomic a.space a.seg (e.addrVal f.sa.toNat l) a.off a.bytes) (fun _ => 0) e.s
        (e.t.list (e.t.actNH f.h))).2.2 == []
    let g : DWord := 0x3000_0000
    let sp : DWord := 0x0400_0000
    let t := ta [0x100, 0x100, 0x108, 0x10C]
    let one := { ts 0x100 9 with mask := 0xF }
    meets (st t) (.atom (fa 0) g) (fine (fa 0) g) ∧ meets (st t) (.atom (fa 0x0C0) sp) (fine (fa 0x0C0) sp) ∧
    meets (st t) (.acas (fa 0 6 5 6) g) (fine (fa 0 6 5 6) g) ∧ meets (st t) (.red (fa 0 0) g) (fine (fa 0 0) g) ∧
    meets (st one) (.atoms (fv 3 0x108 0x109 0) g) (fine (fv 3 0x108 0x109 0) g) ∧
    let far := { ta [0x60000, 8, 8, 12] with sregs := [(0, 0x60000), (1, 9)] }
    let g2 : DWord := 0x0800_0000
    let held (f : FV) (e : Env) : Bool := e.mustWait (atomF f g2).space (e.t.actNH f.h) fun l => e.addrVal f.sa.toNat l + (atomF f g2).off
    let word (e : Env) (eq_ : Bool) : Bool :=
      let f := fv 6 0x108 0x109 0
      let a := atomF f g
      e.t.actNH f.h != 0 && e.mustWait a.space (e.t.actNH f.h) (fun _ => e.addrVal f.sa.toNat 0 + a.off) == false &&
      match e.check e.s .atomic a.space a.seg (e.addrVal f.sa.toNat 0) a.off a.bytes with
      | (s1, .ok tgt) =>
        let s2 := (e.precede s1 a.obt (tgt.ranges a.bytes)).toHome e.who tgt a.bytes
        (leNat (s2.homeLoad tgt a.bytes) == (e.uval f.sb.toNat).toNat % 2 ^ (8 * a.bytes)) == eq_
      | _ => false
    meets (away far) (.atom (fa 0) g2) (held (fa 0)) ∧ meets (away far) (.acas (fa 0 6 5 6) g2) (held (fa 0 6 5 6)) ∧
    meets (away far) (.red (fa 0 0) g2) (held (fa 0 0)) ∧ meets (away far) (.atoms (fv 3 0x108 0x109 0) g2) (held (fv 3 0x108 0x109 0)) ∧
    meets (away far) (.awaitv (fv 6 0x108 0x109 0) g2) (fun e => e.t.actNH {} != 0 && held (fv 6 0x108 0x109 0) e) ∧
    meets (st one) (.awaitv (fv 6 0x108 0x109 0) g) (word · false) ∧
    meets (st { one with sregs := [(0, 0x100)] }) (.awaitv (fv 6 0x108 0x109 0) g) (word · true) ∧
    meets (st { one with helper := 0xF }) (.awaitv (fv 6 0x108 0x109 0) g) (fun e => e.t.actNH {} == 0 && e.t.act {} != 0) ∧
    meets (st { one with preds := [] }) (.awaitv (fv 6 0x108 0x109 0 0 (Tests.g 2)) g) (fun e => e.t.act (Tests.g 2) == 0) ∧
    (∀ x ∈ [({ lane := 0, addr := 0x100, tgt := some (.spad 0 0x100) } : LaneAcc)], x.tgt = some (.spad 0 0x100)) := by
  decide +kernel
theorem test_witness_BarrierInstructions :
    let b : Bar := { phase := false, txb := -(2 ^ 20), expect := 1023, pending := 1, init := true }
    let s (b : Bar) : State := (st (ts 3 2)).putBar 0 3 b
    let is (f : FV) : List Instr := [.bari f, .bara { f with sb := 0 }, .barw f, .baraw f, .bart f, .barx f]
    (-(2 ^ 20) ≤ b.txb ∧ b.txb < 2 ^ 20 ∧ b.expect < 1024 ∧ b.pending ≠ 0 ∧ { b with pending := 0 }.pending = 0) ∧
    (is (fv 0 0x108 0x109 0)).all (fun i => meets (s b) i fun e => e.t.actNH {} != 0) ∧
    (is { fv 0 0x108 0x109 0 with h := g 2 }).all (fun i => meets (s b) i fun e => e.t.actNH (g 2) == 0) ∧
    meets (st (ts 3 2)) (.barw (fv 0 0x108 0x109 0)) (fun e => (e.s.bar 0 3).init == false) ∧
    meets (gang (ts 3 0)) (.barx (fv 0 0x108 0x109 0)) (fun e => (e.s.member e.b 0).map Block.id == some e.b.id) ∧
    meets (gang (ts 3 1)) (.barx (fv 0 0x108 0x109 0)) (fun e => match e.s.member e.b 1 with
      | some m => m.id != e.b.id && m.saved == none && ((e.s.landArrivals m 3).bar m.core (m.bar0 + 3)).pending == 0
      | none => false) ∧
    meets (away (ts 3 1)) (.barx (fv 0 0x108 0x109 0)) (fun e => match e.s.member e.b 1 with
      | some m => m.id != e.b.id && m.saved != none
      | none => false) ∧
    meets (gang (ts 3 2)) (.barx (fv 0 0x108 0x109 0)) (fun e => e.s.member e.b 2 == none && e.t.list (e.t.actNH {}) != []) ∧
    meets ((gang (ts 3 1)).putBar 1 3 b) (.barx (fv 0 0x108 0x109 0)) (fun e => match e.s.member e.b 1 with
      | some m => m.id != e.b.id && m.saved == none && ((e.s.landArrivals m 3).bar m.core (m.bar0 + 3)).pending != 0
      | none => false) := by decide +kernel

/-! #### Engines -/

/-- The format block of bf16 operands. -/
def fmtB (b3 : Byte := 0) (afmt : Byte := 3) : List Byte := [0, afmt, afmt, b3] ++ List.replicate 28 0
def f3 (d : BitVec 9 := 0) (fn : BitVec 9 := 0) : FV := fv d 0x108 0x109 0x10A fn
/-- Whether an operation fits no room in its engine. -/
def fullOps (g : Engine) (t : Team) : State := stOps (List.replicate (queueRoom g) { anOp with eng := g }) t
/-- The spaces of A and B are 1. -/
def mmaW : DWord := 0x2400_0000_0000_0000
/-- Whether an operation of MMA, MMAL or MDRAIN reads a format block that `bad` accepts or not, with valid tables. -/
def fromBlk (o : Env → EngOp) (bad : EngOp → Bool) (want : Bool) (e : Env) : Bool :=
  let o := o e
  o.c.toNat % 32 == 0 && o.aTile.all (· < e.b.tiles.length) &&
    match e.readOnce e.s o.c.toNat 32 with
    | (s1, .ok bs) =>
      let o := { o with fmt := bs }
      bad o == want && (!o.pair || o.tile + 1 < e.b.tiles.length) &&
        [o.tabAt false, o.tabAt true].all fun va => va == 0 ||
          match e.readOnce s1 va 256 with | (_, .ok t) => va % 64 == 0 && tableOk t | _ => false
    | _ => false
theorem test_witness_EngineInstructionsIssue :
    let w : DWord := 0x200A_0C00_0000_0000
    let wg : DWord := w ||| 0x20_0010_0000
    let t := ts 0x100 0x10000 64
    let op (g : Engine) (k : EngKind) (w : DWord) (e : Env) : EngOp := e.newOp (f3) w g k
    let good (g : Engine) (k : EngKind) (w : DWord) (e : Env) : Bool := e.engBad (op g k w e) == false &&
      ((e.s.coreSt 0).ops.filter fun x => sameQueue x.eng g).length < queueRoom g
    let full (g : Engine) (k : EngKind) (w : DWord) (e : Env) : Bool := e.engBad (op g k w e) == false &&
      !((e.s.coreSt 0).ops.filter fun x => sameQueue x.eng g).length < queueRoom g
    let bad (g : Engine) (k : EngKind) (w : DWord) (e : Env) : Bool := e.engBad (op g k w e)
    let each (s : State) (p : Engine → EngKind → DWord → Env → Bool) (tw : DWord) : Bool :=
      meets s (.cpy f3 w) (p .copy .cpy w) && meets s (.cpyt f3 w) (p .copy .cpyt tw) &&
        meets s (.gath f3 wg) (p .gather .gath wg) && meets s (.scat f3 wg) (p .gather .scat wg)
    let ct := ts 0x100 0x10000 0x1004
    each (st t) (fun g k w e => k == .cpyt || good g k w e) w ∧ meets (st ct) (.cpyt f3 w) (good .copy .cpyt w) ∧
    each (st (ts 0x108 0x10000 64)) bad w ∧
    each (fullOps .copy t) (fun g k w e => k == .cpyt || g != .copy || full g k w e) w ∧
    meets (fullOps .copy ct) (.cpyt f3 w) (full .copy .cpyt w) ∧
    each (fullOps .gather t) (fun g k w e => g != .gather || full g k w e) w := by decide +kernel
theorem test_witness_EngineInstructionsIssue_matrix :
    let t := ts 0 0x1000 0x20000
    let s (m : List Byte) : State := withMem [(0x20000, m)] t
    let mma (w2 : DWord) (many : Bool) (e : Env) : EngOp :=
      { e.newOp (f3 0 0) w2 .step .mma with tile := 0, fn := if many then 256 else 0 }
    let dr (fn : BitVec 9) (w2 : DWord) (e : Env) : EngOp := { e.newOp (f3 0 fn) w2 .move .mdrain with tile := 0 }
    meets (s fmtB) (.mma f3 mmaW) (fromBlk (mma mmaW false) EngOp.mmaBad false) ∧
    meets (s (fmtB 0x80)) (.mma f3 mmaW) (fromBlk (mma mmaW false) EngOp.mmaBad true) ∧
    meets (s fmtB) (.mmal f3 (mmaW + 2)) (fromBlk (mma (mmaW + 2) true) EngOp.mmaBad false) ∧
    meets (s fmtB) (.mmal f3 mmaW) (fromBlk (mma mmaW true) EngOp.mmaBad true) ∧
    meets (st (ts 5 0x1000 0x20000)) (.mma f3 0x8400_0000_0000_0000) (fun e =>
      (mma 0x8400_0000_0000_0000 false e).aTile.any (e.b.tiles.length ≤ ·) && e.t.actNH {} != 0) ∧
    meets (s (fmtB 0 0)) (.mma (f3 1) mmaW) (fun e =>
      let o := { mma mmaW false e with tile := 1, fmt := fmtB 0 0 }
      o.c.toNat % 32 == 0 && reads 0x10A 32 (· == fmtB 0 0) e && o.pair && decide (e.b.tiles.length ≤ o.tile + 1)) ∧
    meets (s ((fmtB 0 13).set 0x12 3)) (.mma f3 mmaW) (fun e =>
      let o := { mma mmaW false e with fmt := (fmtB 0 13).set 0x12 3 }
      reads 0x10A 32 (· == o.fmt) e && !o.pair && !o.mmaBad && o.tabAt false == 0x30000 &&
        match e.readOnce e.s 0x30000 256 with | (_, .ok t) => !tableOk t | _ => false) ∧
    meets (st (ts 0 0x1000 0x20010)) (.mma f3 mmaW) (fun e => (mma mmaW false e).c.toNat % 32 != 0) ∧
    meets (s fmtB) (.mdrain { f3 with sb := 0 } 0x2000_0000_0000_0000) (fromBlk (dr 0 0x2000_0000_0000_0000) EngOp.mdrainBad false) ∧
    meets (s (fmtB 0 3 |>.set 0 1)) (.mdrain { f3 with sb := 0 } 0x2000_0000_0000_0000)
      (fromBlk (dr 0 0x2000_0000_0000_0000) EngOp.mdrainBad true) ∧
    meets (s fmtB) (.mdrain (f3 0 0x10) 0x2400_0000_0000_0000) (fromBlk (dr 0x10 0x2400_0000_0000_0000) EngOp.mdrainBad false) ∧
    rdy [.mzero (fv 1 0 0 0)] ∧ meets (fullOps .move tm) (.mzero (fv 1 0 0 0))
      (fun e => !((e.s.coreSt 0).ops.filter fun x => sameQueue x.eng .move).length < queueRoom .move) ∧
    meets (st t) (.mldt { fv 0 0x108 0 0 with h := g 2 } 0x2000_0000_0000_0000) (fun e => e.t.act (g 2) == 0) ∧
    meets (st t) (.mldt (fv 0 0x108 0 0) 0x2000_0000_0000_0000) (fun e => (e.uval 0x108).toNat % 16 == 0) ∧
    meets (st (ts 8)) (.mldt (fv 0 0x108 0 0) 0x2000_0000_0000_0000) (fun e => (e.uval 0x108).toNat % 16 != 0) := by
  decide +kernel
/-- A batch of counter 0. -/
def bat (n : BitVec 32) (ops : List Nat) (failed : Bool := false) : Batch :=
  { num := n, ops := ops, all := [1], failed := failed, fault := 0, eaddr := 0 }
/-- A team with counter 0, and s0. -/
def tk (c : Counter) (s0 : DWord := 0) : Team := { ts s0 with counters := [c, {}, {}, {}] }
theorem test_witness_BatchesAndWaits :
    let wait (most : Bool) (n : Nat) (want : Bool) (e : Env) : Bool := (e.t.counters.getD 0 {}).waitOver most n == want
    let fail (want : Bool) (e : Env) : Bool := ((e.t.counters.getD 0 {}).batches.find? fun b => b.failed && b.ops.isEmpty).isSome == want
    let f := fv 0 0x108 0 0
    let open_ : Counter := { opened := [1] }
    let run : Counter := { closed := 1, batches := [bat 0 [1]] }
    let bad : Counter := { closed := 1, batches := [bat 0 [] true] }
    rdy [.eclose (fv 0 0 0 0)] ∧ meets (stOps [anOp] (tk open_)) (.eclose (fv 0 0 0 0)) (fun e => e.s.opLive 0 1) ∧
    meets st (.eclose { fv 0 0 0 0 with h := g 2 }) (fun e => e.t.act (g 2) == 0) ∧
    meets (st (tk {})) (.ewait f) (fun e => wait false 0 true e && fail false e) ∧
    meets (st (tk run)) (.ewait f) (wait false 0 false) ∧ meets (st (tk run)) (.ewaito f) (wait true 0 false) ∧
    meets (st (tk run 1)) (.ewaito f) (wait true 1 true) ∧ meets (st (tk bad)) (.ewait f) (fun e => wait false 0 true e && fail true e) ∧
    meets (st { tk bad with trap := some trapOf }) (.ewait f) (fun e => wait false 0 true e && fail true e && e.t.trap.isSome) ∧
    (let t := { tk {} with status := .engine 0 false 0 }
     (st t).teamAt 0 0 0 = some t ∧ (t.counters.getD 0 {}).waitOver false 0 = true ∧
      (t.counters.getD 0 {}).batches.find? (fun b => b.failed && b.ops.isEmpty) = none) ∧
    (∀ x ∈ [none, some trapOf], let t := { tk bad with status := .engine 0 false 0, trap := x }
     (st t).teamAt 0 0 0 = some t ∧ (t.counters.getD 0 {}).waitOver false 0 = true ∧
      (t.counters.getD 0 {}).batches.find? (fun b => b.failed && b.ops.isEmpty) = some (bat 0 [] true)) := by decide +kernel
theorem test_witness_MatrixCellInstructions :
    let tags (v c : BitVec 128) (t : Team) : State := (st t).putCore 0 { (st t).coreSt 0 with tagV := v, tagC := c }
    let free (e : Env) : Bool := (List.range 8).all fun b => (e.s.coreSt 0).bandTaken e.b.id 0 b == false
    meets (tags (-1) 0 (ts 0 3)) (.mrd (fv 6 0x108 0x109 0)) (fun e => free e && tagAt (e.s.coreSt 0).tagV 0 0 && e.t.mid == none) ∧
    meets (tags (-1) 0 (ts 0xFFE)) (.mrd (fv 6 0x108 0x109 0)) (fun e => e.t.mid == none) ∧
    meets (st (ts 0 4)) (.mrd (fv 6 0x108 0x109 0)) (fun e => (e.uval 0x109).toNat == 4) ∧
    meets (tags 0 (-1) (ts 0xFFC 3)) (.mwr (fv 0 6 0x108 0x109)) (fun e => free e && tagAt (e.s.coreSt 0).tagC 0 7 && e.t.mid == none) ∧
    meets (st (ts 0 4)) (.mwr (fv 0 6 0x108 0x109)) ∧
    meets (st (ts 0xFF 3)) (.mtag (fv 1 0x108 0x109 0)) (fun e => free e && e.t.mid == none) ∧
    meets (st (ts 0x100 3)) (.mtag (fv 1 0x108 0x109 0)) ∧ meets (st (ts 1 4)) (.mtag (fv 1 0x108 0x109 0)) ∧
    meets (st (ts 1 4)) (.mtag { fv 1 0x108 0x109 0 with h := g 2 }) (fun e => e.t.act (g 2) == 0) := by decide +kernel
/-- The environment of the first operation of the core. -/
def ops (s : State) (p : EngOp → Env → Bool) : Bool :=
  match (s.coreSt 0).ops.head? with
  | some o => match s.opEnv o with | some e => p o e | none => false
  | none => false
def copyOp : EngOp := { anOp with a := 0x100, b := 0x10000, c := 64, w2 := 0x200A_0C00_0000_0000 }
def gathOp : EngOp := { anOp with eng := .gather, kind := .gath, a := 0x1000, b := 0x10000, c := 0x100, w2 := 0x2008_0020_0021_2000 }
def stepOp : EngOp := { anOp with eng := .step, kind := .mma, a := 0, b := 0x1000, w2 := mmaW, fmt := fmtB,
                                  taken := (List.range 8) }
def loadOp : EngOp := { anOp with eng := .move, kind := .mldt, tile := 0, w2 := 0x2000_0000_0000_0000 }
def drainOp : EngOp := { anOp with eng := .move, kind := .mdrain, tile := 0, w2 := 0x2000_0000_0000_0000, fmt := fmtB }
def zeroOp : EngOp := { anOp with eng := .move, kind := .mzero, tile := 1 }
theorem test_witness_EngineProgress :
    let place (o : EngOp) (e : Env) (space seg : Nat) (v : DWord) (d : Int) (n : Nat) : Bool :=
      match (e.place (e.opWho o) false space seg v d n).2 with | .ok _ => true | _ => false
    let put (o : EngOp) (e : Env) (d : Int) (n : Nat) : Bool :=
      match (e.deliverAt o d (List.replicate n 0)).2 with | .ok _ => true | _ => false
    let copyAway (o : EngOp) (e : Env) : Bool := e.awayAt o.sspace o.b.toInt || e.destAway o 0
    let indexAway (o : EngOp) (e : Env) : Bool := e.awayAt o.ispace o.c.toInt
    ops (stOps [copyOp]) (fun o e => (e.s.coreSt 0).head .copy == some o && copyAway o e == false &&
      place o e o.sspace o.sseg o.b 0 64 && put o e 0 64) ∧
    ops (stOps [{ copyOp with b := 0x1_0000_0000 }]) (fun o e => (e.s.coreSt 0).head .copy == some o && copyAway o e == false &&
      !place o e o.sspace o.sseg o.b 0 64) ∧
    ops ((away).putCore 0 { (away).coreSt 0 with ops := [{ copyOp with a := 0x60000, w2 := 0x400A_0C00_0000_0000 }] }) (fun o e =>
      (e.s.coreSt 0).head .copy == some o && copyAway o e) ∧
    ops ((away).putCore 0 { (away).coreSt 0 with ops := [{ gathOp with a := 0x60000, w2 := 0x4008_0020_0021_2000 }] }) (fun o e =>
      (e.s.coreSt 0).head .gather == some o && indexAway o e == false && place o e o.ispace o.iseg o.c 0 4 && e.destAway o 0) ∧
    ops ((away).putCore 0 { (away).coreSt 0 with ops := [{ loadOp with a := 0x60000, w2 := 0x4000_0000_0000_0000 }], tagC := -1 }) (fun o e =>
      e.s.served 0 o && (e.s.coreSt 0).canTake e.b o 0 && e.passAway o 0) ∧
    ops ((st).putCore 0 { (st).coreSt 0 with ops := [loadOp], tagC := -1 }) (fun o e => e.s.served 0 o && (e.s.coreSt 0).canTake e.b o 0 &&
      e.passAway o o.cursor == false && (e.loadRows o ((List.range 8).map (8 * o.cursor + ·))).2.2 == none) ∧
    ops ((st).putCore 0 { (st).coreSt 0 with ops := [drainOp], tagV := -1 }) (fun o e => e.s.served 0 o && (e.s.coreSt 0).canTake e.b o 0 &&
      e.passAway o o.cursor == false &&
      let o1 := e.capture o 0
      let ws := e.drainWrites o1 0
      e.firstFault o1 ws == none && (e.writeRows o1 ws).2 == none) ∧
    ops (stOps [copyOp, { copyOp with id := 2 }]) (fun o e => (e.s.coreSt 0).head .copy == some o && o.id != 2) ∧
    ops (stOps [gathOp]) (fun o e => (e.s.coreSt 0).head .gather == some o && indexAway o e == false && e.awayAt o.sspace o.b.toInt == false && e.destAway o 0 == false &&
      place o e o.ispace o.iseg o.c 0 4 && place o e o.sspace o.sseg o.b 0 o.esize && put o e 0 o.esize) ∧
    ops (stOps [stepOp]) (fun o e =>
      let o1 := (e.s.coreSt 0).takeBands e.b o
      (e.s.coreSt 0).ops.find? (fun x => x.id == 1 && x.eng == .step) == some o && o1.untaken == [] && e.s.served 0 o &&
        decide (mget 0 e.s.pkg.pause 0 ≤ e.s.timeNs) && e.stepAway o == false && (e.s.coreSt 0).aReady e.b o &&
        match ({ e with s := e.s.putOp 0 o1 } : Env).step o1 with | .ok _ => true | _ => false) ∧
    ops (stOps [{ stepOp with taken := [] }, { zeroOp with id := 2, tile := 0 }])
      (fun o e => (e.s.coreSt 0).ops.find? (fun x => x.id == 1 && x.eng == .step) == some o) ∧
    ops ((st).putCore 0 { (st).coreSt 0 with ops := [zeroOp], tagC := -1 }) (fun o e => e.s.served 0 o && (e.s.coreSt 0).canTake e.b o 0) ∧
    ops (stOps [zeroOp, { zeroOp with id := 2 }]) (fun o e => o.kind == .mzero && (e.s.coreSt 0).canTake e.b { zeroOp with id := 2 } 0 == false) := by
  decide +kernel

/-! #### Spawning, records, system, textures and rays -/

/-- A record in a queue. -/
def rec0 (seq : Nat) (block : Option Nat := none) : QEntry :=
  { seq := seq, bytes := List.replicate 64 1, link := 0, arrived := 0, block := block, taken := false, clients := [], live := 1,
    cores := [], pctx := 1, bad := false }
/-- A node with room for 8 records. -/
def node1 (q : List QEntry := []) : Node := { num := 1, status := .valid, descBytes := leBytes 4 0 ++ leBytes 4 8 ++ List.replicate 56 0, queue := q, count := q.length }
/-- The machine with node 1, and a frame pool of one frame if there is one. -/
def sn (t : Team) (n : Node := node1) (pool : Bool := true) (b : Block := blk) : State :=
  { withMem (if pool then [(0, leBytes 8 0x1000 ++ leBytes 4 1)] else []) t { b with node := 1 } with nodes := [n] }
theorem test_witness_SpawnEnqueuesRecords :
    let named (room : Bool) (e : Env) : Bool := match e.nodeNamed (e.uval 0x108), ({ e with s := e.source e.s } : Env).nodeNamed (e.uval 0x108) with
      | some _, some m => decide (4 ≤ m.free) == room
      | _, _ => false
    let framed (some_ : Bool) (e : Env) : Bool := (e.s.takeFrame e.owner (e.b.seg 13) e.b.node).2.isSome == some_
    let full := node1 ((List.range 6).map fun k => rec0 k)
    let f := fv 0 0x108 16 0
    let i : List Instr := [.spawn f, .spawnd f]
    i.all (fun i => meets (sn (ts 1)) i (fun e => named true e && framed true e && e.t.frame == none)) ∧
    i.all (fun i => meets (sn (ts 1) full) i (fun e => named false e && framed true e)) ∧
    meets (sn (ts 1) node1 false) (.spawn f) (fun e => named true e && framed false e) ∧
    meets (sn { ts 1 with frame := some 0x1000 }) (.spawn f) (fun e => named true e && e.t.frame == some 0x1000) ∧
    meets (sn (ts 2)) (.spawn f) (fun e => e.nodeNamed (e.uval 0x108) == none) ∧
    meets (sn (ts 1)) (.spawnd { f with h := g 2 }) (fun e => e.t.actNH (g 2) == 0) ∧
    meets (sn (ts 1)) (.nodeq (fv 6 0x108 0 0)) (named true) ∧
    meets (sn (ts 0x1000)) (.nodeq (fv 6 0x108 0 0)) (fun e => e.nodeNamed (e.uval 0x108) == none) := by decide +kernel
theorem test_witness_RecordsReceivedAndAwaited :
    let q (n : Nat) : Node := node1 ((List.range n).map fun k => rec0 (7 + k))
    let fr (n : Nat) : State := { withMem [(0x1008, leBytes 4 n)] { tm with frame := some 0x1000 } { blk with node := 1 } with nodes := [node1] }
    let join (n : Nat) (e : Env) : Bool := e.t.frame == some 0x1000 && e.s.join e.owner 0x1000 == n
    let recg : Instr := .recg (fv 16 0 0 0)
    let plain (e : Env) : Bool := e.b.ratep || e.b.gangN != 0 || e.b.roles || (e.t.stack != [] && e.b.live == 0)
    let held (n : Nat) (p : Env → Bool) : Bool :=
      let t := { tm with frame := some 0x1000, run := some { first := 7, len := 1, shared := false } }
      meets { withMem [(0, leBytes 8 0x2000 ++ leBytes 4 1), (0x1008, leBytes 4 n)] t { blk with node := 1 } with nodes := [q 2] } recg p
    (∀ n ∈ [0, 2, 6], meets (sn tm (q n)) recg (fun e => e.b.shared == none && e.t.run == none &&
      ((e.s.node? 1).map fun m => (m.recgRun e.b.id 4).length) == some (min n 4))) ∧
    meets (sn tm node1 true { blk with shared := some 7, record := List.replicate 64 1 }) recg (fun e => e.b.shared.isSome) ∧
    meets (sn tp (q 0)) (.recg { fv 16 0 0 0 with h := g 1 }) (fun e => e.t.mask != e.t.act (g 1)) ∧
    meets (sn tp (q 0)) (.recg { fv 16 0 0 0 with h := g 2 }) (fun e => e.t.act (g 2) == 0) ∧
    ([.done (fv 0 0 0 0), .await (fv 0 0 0 0), .awaitSteal (fv 0 0 0 0 1)] : List Instr).all
      (fun i => meets (fr 0) i (join 0) && meets (fr 2) i (join 2) && meets (sn tm node1 false) i fun e => e.t.frame == none) ∧
    meets (sn tm node1 false { blk with roles := true }) (.awaitSteal (fv 0 0 0 0 1)) (fun e => plain e && e.t.frame == none) ∧
    meets ({ fr 2 with blocks := (fr 2).blocks.map fun b => { b with roles := true } }) (.awaitSteal (fv 0 0 0 0 1)) (fun e => plain e && join 2 e) ∧
    meets (sn tm node1 false) (.awaitSteal (fv 0 0 0 0 1)) (fun e => (e.s.takeFrame e.owner (e.b.seg 13) e.b.node).2 == none && !plain e) ∧
    meets (sn tm) (.awaitSteal (fv 0 0 0 0 1)) (fun e => (e.s.takeFrame e.owner (e.b.seg 13) e.b.node).2.isSome && !plain e) ∧
    meets ((fr 2).putCore 0 { ((fr 2).coreSt 0) with ops := [anOp] }) (.awaitSteal (fv 0 0 0 0 1)) (fun e => join 2 e && e.engBusy && !plain e) ∧
    held 0 (fun e => (e.doneNow.bind fun e1 => e1.s.node? e1.b.node).isSome) ∧ held 2 (fun e => e.doneNow.isNone) ∧
    meets (sn tm node1 true { blk with shared := some 7, record := List.replicate 64 1 }) (.recg { fv 16 0 0 0 with h := g 2 })
      (fun e => e.b.shared.isSome && e.t.actNH (g 2) == 0) ∧
    meets (sn tm (q 0)) (.recg { fv 16 0 0 0 with h := g 2 }) (fun e => e.b.shared == none && e.t.actNH (g 2) == 0 && e.t.run == none) := by
  decide +kernel
theorem test_witness_SystemInstructionsComplete :
    let h (a b : DWord) : State := st { ts a b with trap := some trapOf }
    let w : Instr := .csrw (fv 0 0x108 0x109 0)
    ([0, 8, 0x10, 0x11, 0x12, 0x13, 0x18] : List DWord).all (fun n => meets (h n 5) w) ∧
    ([0, 8, 0x14, 0x1B] : List DWord).all (fun n => meets (h n 5) (.csrr (fv 6 0x108 0 0)) && meets (st (ts n)) (.csrr (fv 6 0x108 0 0))) ∧
    meets (st (ts 0x18 5)) w (fun e => e.t.trap.isNone) ∧ meets (st tm) (.clock (fv 6 0 0 0)) ∧
    ([0, 4, 8, 11, 255] : List DWord).all (fun n => meets (h n 0) (.frec (fv 6 0x108 0 0))) ∧ meets (st tm) (.pmark (fv 0 0 0 0 5)) ∧
    meets (h 0x1000 0) (.tlbi (fv 0 0x108 0 0 1)) ∧ meets (h 0 0) (.tlbi (fv 0 0 0 0)) ∧
    meets (st { tm with mask := 0 }) (.clock (fv 6 0 0 0)) (fun e => e.t.mask &&& ~~~e.t.helper == 0) := by decide +kernel
theorem test_witness_SystemInstructionsComplete_coll :
    (let f := fv 0 0x108 0x109 0x10A
     let w2 : DWord := 0x3300_0000_0000_0004
     let gr : Group := { handle := 7, part := 0, ranks := 2, members := [], complete := true, since := 0, insts := [] }
     meets { st (ts 0x1000 0x2000 7) with groups := [gr] } (.coll f w2)
       (fun e => match e.collGroup f (e.collInst f w2) with | some x => e.s.cutOff x == false && x.lostTo == 0 | none => false) ∧
     meets { st (ts 0x1000 0x2000 7) with groups := [{ gr with lostTo := 1 }] } (.coll f w2)
       (fun e => match e.collGroup f (e.collInst f w2) with | some x => e.s.cutOff x == false && mget 0 x.issued (e.collInst f w2).rank < x.lostTo | none => false) ∧
     meets { st (ts 0x1000 0x2000 8) with groups := [gr] } (.coll f w2) (fun e => e.collGroup f (e.collInst f w2) == none)) := by
  decide +kernel
/-- A group with a rank on a package that no port reaches; PKG_ID of this package is a value of the part (log 7). -/
theorem test_witness_SystemInstructionsComplete_cutOff : ∃ v : BitVec 64,
    let far : Group := { handle := 7, part := 0, ranks := 2, members := [(1, v, 0)], complete := false, since := 0, insts := [] }
    meets { st (ts 0x1000 0x2000 7) with groups := [far] } (.coll (fv 0 0x108 0x109 0x10A) 0x3300_0000_0000_0004)
      (fun e => (e.collGroup (fv 0 0x108 0x109 0x10A) (e.collInst (fv 0 0x108 0x109 0x10A) 0x3300_0000_0000_0004)).isSome) = true ∧
    ({ st with groups := [far] } : State).cutOff far = true := by
  have h : ∀ v : BitVec 64, (st).pkg.reaches v = false := fun v => rfl
  have c (v : BitVec 64) (hv : v ≠ ownId) (g : Group) (hg : g.members = [(1, v, 0)]) : ({ st with groups := [g] } : State).cutOff g = true := by
    simp [State.cutOff, hg, hv, h]
  by_cases hv : (99 : BitVec 64) = ownId
  · exact ⟨98, by decide +kernel, c 98 (by rw [← hv]; decide) _ rfl⟩
  · exact ⟨99, by decide +kernel, c 99 hv _ rfl⟩
/-- A texture descriptor of 4 by 4 texels of format `f` at 0x30000, with the given pitch. -/
def texD (f : Byte) (pitch : Nat := 256) : List Byte :=
  leBytes 8 0x30000 ++ leBytes 2 4 ++ leBytes 2 4 ++ leBytes 4 pitch ++ [f, 1, 0, 0] ++ List.replicate 12 0
/-- A target descriptor: colour at `c`, depth at `z`. -/
def tgt (c z : Nat) (f : Byte := 1) (zf : Byte := 2) : List Byte :=
  leBytes 8 c ++ leBytes 8 z ++ leBytes 4 256 ++ leBytes 4 256 ++ List.replicate 4 0 ++ [f, 0, zf, 0] ++ List.replicate 32 0
theorem test_witness_TextureAndTargetAccesses :
    let s (d : List Byte) : State := withMem [(0x20000, d)] (ts 0x20000)
    let read (want : Bool) (e : Env) : Bool := match e.readOnce e.s (e.uval 0x108).toNat 32 with
      | (s1, .ok d) => texOk d == want && (!want || (({ e with s := s1 } : Env).sampleLanes (fieldOf d 0x10 1)
          (fun l => ({ e with s := s1 } : Env).texPlan (fv 8 4 0x108 0) d l) s1 (e.t.list e.t.mask)).2.2 == [])
      | _ => false
    let is : List Instr := [.tex (fv 8 4 0x108 0), .texg (fv 8 4 0x108 0)]
    let at_ (c z : Nat) : State := st (tier 5) (bdr { dr with target := tgt c z })
    let rt : List Instr := [.rtw (fv 0 4 0 0 0 (rate 5)), .rtz (fv 6 4 0 0 0 (rate 5)), .rtr (fv 6 0 0 0 0 (rate 5))]
    let free (e : Env) : Bool := match e.b.draw with | some d => e.targetWait d (e.t.actNH {}) == false | none => false
    let spots (off : Nat) (e : Env) : Bool := match e.b.draw with
      | some d => (e.spotLanes .write (spotAddr (fieldOf d.target off 8) 256 4) 4 id e.s (e.t.list (e.t.actNH {}))).2.2 == []
      | none => false
    is.all (fun i => meets (s (texD 1)) i (read true)) ∧ is.all (fun i => meets (s (texD 4)) i (read false)) ∧
    is.all (fun i => meets (st { ts 0x20000 with mask := 0 }) i (fun e => e.t.mask == 0)) ∧
    rt.all (fun i => meets (at_ 0 0) i free) ∧ rt.all (fun i => meets (at_ 0x40000 0x50000) i (fun e => free e && spots 0 e && spots 8 e)) ∧
    rt.all (fun i => meets (st { tier 5 with tier := 5 } { bdr with draw := none }) i (fun e => e.b.draw == none)) ∧
    zTest 6 (.fin false 1 0) .nan = true ∧ Fl.fin false 1 0 ≠ .nan := by decide +kernel
/-- An element of an earlier triangle at the same place makes the later one wait (R165). -/
theorem test_witness_TextureAndTargetAccesses_wait :
    let early : Tri := { tri1 with id := 0, open_ := 1 }
    let el : LaneElem := { live := true, up := some 1, tri := some 0, cov := 1 }
    meets (st (tier 5) (bdr { dr with tris := [early, { tri1 with key := (0, 0, 1) }], sampWait := [el] })) (.rtw (fv 0 4 0 0 0 (rate 5)))
      (fun e => match e.b.draw with | some d => e.targetWait d (e.t.actNH {}) | none => false) := by decide +kernel
theorem test_witness_RayAndKillInstructions :
    let kill : Instr := .rkill (fv 0 0 0 0 0 (rate 5))
    let tr : Instr := .trace (fv 8 0x108 16 0 0 (rate 5))
    let rret : Instr := .rret (fv 0 4 0 0 0 (rate 7))
    let bvh (x : Byte) : List Byte := leBytes 8 0x60000 ++ leBytes 8 0x70000 ++ leBytes 4 0 ++ [x] ++ List.replicate 11 0
    let tt : Team := { tier 5 (ts 0x20000) with frame := some 0x1000 }
    let s (x : Byte) (d : Draw := dr) : State := withMem [(0x20000, bvh x)] tt (bdr d)
    let fine (ok : Bool) (room : Bool) (e : Env) : Bool :=
      (e.uval 0x108).toNat % 32 == 0 && e.t.frame == some 0x1000 && reads 0x108 32 (fun bs => (fieldOf bs 0x14 12 == 0) == ok) e &&
        decide ((e.drawOf.rays.filter fun (r : Ray) => r.ret.isNone).length + 4 ≤ 1024) == room
    meets (st (tier 5) bdr) kill (fun e => e.t.actNH {} != 0) ∧
    meets (st { tier 5 with preds := [(1, 1)] } bdr) (.rkill (fv 0 0 0 0 0 { rate := 5, gp := 1 }))
      (fun e => (e.t.kill 1).unretry.mask != 0 && e.t.actNH { gp := 1 } == 1) ∧
    meets (st { tier 5 with mask := 0 } bdr) kill (fun e => e.t.actNH {} == 0) ∧
    meets (s 0) tr (fine true true) ∧ meets (s 1) tr (fine false true) ∧
    meets (s 0 { dr with rays := (List.range 1021).map fun k => { ray1 with id := k } }) tr (fine true false) ∧
    meets (st { tier 7 with preds := [(1, 1)] } bdr) (.rret (fv 0 4 0 0 0 { rate := 7, gp := 1 }))
      (fun e => e.t.actNH { gp := 1 } == 1 && (e.t.finish 1).unretry.mask != 0 && (e.rayOf 0).isSome) ∧
    meets (st { tier 7 with mask := 0 } bdr) rret (fun e => e.t.actNH {} == 0) ∧
    meets (st { tier 7 with tier := 7, preds := [(1, 1)] } { bdr with draw := none }) (.rret (fv 0 4 0 0 0 { rate := 7, gp := 1 }))
      (fun e => e.b.draw == none && e.t.actNH { gp := 1 } != 0 && (e.t.finish 1).unretry.mask != 0) ∧
    regsT.all (fun x => meets x.1 x.2 fun e => (e.elemOf 3).live && (e.rayOf 3).isSome &&
      (e.drawOf.ancestor 1 8 (e.elemOf 3).up).isSome && ((e.elemOf 3).tri.bind e.drawOf.tri?).isSome) := by decide +kernel

/-! #### Events -/

/-- The placed machine with a G-stage that maps the first 2^39 bytes onto themselves, over some bytes of memory. -/
def gm (m : List (Nat × Byte) := []) : State :=
  { st with mem := m ++ [(0x80000, 0xDF)], parts := [{ placedPart with groot := 0x80000, pool := 0x90000, ctxPage := 0xA0000 }] }
/-- Reset with the package state changed, at a package time. -/
def pk (f : Pkg → Pkg) (now : Nat := 0) : State := { State.reset with pkg := f State.reset.pkg, timeNs := now }
def im : Image := { bytes := [], sig := [] }
def slot0 : BootSlot := { island := im, sched := im, leaf := im, sorrel := im }
/-- Images without a signature start nothing, whatever key the ROM holds (R78). -/
theorem test_witness_PowerAndRegisterEvents_noBoot :
    bootFrom { key := [], slot0 := slot0, slot1 := slot0, guests := [] } = none := by
  have h : slotOk [] slot0 = false := by decide +kernel
  simp [bootFrom, h]
/-- The ROM's digest is a value of the part (log 7): images signed under a key of that digest start. -/
theorem test_witness_PowerAndRegisterEvents_boot (key : List Byte) (x : BootSlot) (h : sha512 key = Config.romKeyDigest)
    (hx : slotOk key x = true) : bootFrom { key := key, slot0 := x, slot1 := x, guests := [] } = some x := by
  simp [bootFrom, h, hx]
theorem test_witness_PowerAndRegisterEvents :
    let r := State.reset
    (r.pkg.controls ∧ r.pkg.capWait ≤ r.timeNs ∧ r.pkg.capW.toNat < Nat.min 2601 0xFFFF) ∧
    (let s := pk (fun p => { p with lowSince := some 0, th := [(0, 2), (1, 2)] }) 10000000
     s.pkg.controls ∧ s.pkg.capWait ≤ s.timeNs ∧ s.pkg.lowSince = some 0 ∧ 0 + 10000000 ≤ s.timeNs ∧
     100 * 2443 < 94 * s.pkg.capW.toNat ∧ 2443 < 0x10000) ∧
    (let s := pk fun p => p.putCore 22 { p.core 22 with restarting := true }
     s.pkg.controls = false ∧ s.pkg.fallback = false) ∧ 0 ∈ railDies .cmp0 ∧ 1 ∈ railDies .mem ∧ railDies .aon = [] ∧
    0 ∈ (pk fun p => { p with hot := [0] }).pkg.hot ∧ mget 0 (pk fun p => { p with pend := [(0, 3)] }).pkg.pend 0 = 2 + 1 ∧
    (let p := (pk fun p => { p with pend := [(1, 3)] }).pkg
     p.islandUp ∧ mget 0 p.pend 0 = 0 ∧ mget 0 p.pend 1 = 2 + 1) ∧
    mget 0 (pk fun p => { p with pend := [(0, 1), (1, 3)] }).pkg.pend 0 ≠ 0 ∧
    (pk fun p => p.putCore 22 { p.core 22 with restarting := true }).pkg.islandUp = false ∧
    r.pkg.islandUp ∧ (60 : Nat) < (61 : BitVec 8).toNat ∧
    (let s := pk (fun p => { p with fallback := true }) 10000000000
     s.pkg.fallback ∧ s.pkg.islandUp ∧ (s.pkg.core 22).upSince + 10000000000 ≤ s.timeNs) ∧
    (2 : DWord).getLsbD 1 ∧ (st).ctxs.find? (fun x => x.id == 1) = some { id := 1, part := 0 } ∧
    r.node? (2 ^ 20 * 15 + 4095) = none := by decide +kernel
/-- A message about node 1. -/
def msg (seq : BitVec 32) (b : LinkBody := .announce) : LinkMsg := { node := 1, seq := seq, body := b }
theorem test_witness_FirmwareEvents :
    let s := { State.reset with nodes := [node1] }
    let inbox (l : LinkId) (m : LinkMsg) (n : Node := node1) : State := { State.reset with nodes := [n] }.sendLink l m
    let has (l : LinkId) (m : LinkMsg) (s : State) : Bool := (s.pkg.link l).inbox == [m]
    let core (c : FwCore → FwCore) (t : Nat) : State := pk (fun p => p.putCore 2 (c (p.core 2))) t
    (s.node? (msg 1).node = some node1 ∧ s.pkg.schedUp ∧ s.pkg.leafUp 19 ∧ (s.pkg.core 21).mute = false) ∧
    (let first (n : Node) := n.due.find? fun x => x.1 == 3
     first { node1 with due := [(2, .announce), (3, .age 7 2)] } = some (3, .age 7 2) ∧ first node1 ≠ some (3, .age 7 2) ∧
      first { node1 with due := [(3, .announce), (3, .age 7 2)] } ≠ some (3, .age 7 2)) ∧ node1.lastSeq.toNat < 1 ∧
    (let h := node1 [rec0 7]
     h.queue.head?.map QEntry.seq = some 7 ∧ h.queue.head?.map QEntry.seq ≠ some 6 ∧ node1.queue.head?.map QEntry.seq ≠ some 7) ∧
    has .sorrel (msg 1) (inbox .sorrel (msg 1)) ∧
    ((s.pkg.link .sorrel).permits ≠ 0 ∧ (((List.range 16).foldl (fun (s : State) _ => s.sendLink .sorrel (msg 1)) s).pkg.link .sorrel).permits = 0) ∧
    has (.up 3) (msg 1 (.age 7 2)) (inbox (.up 3) (msg 1 (.age 7 2))) ∧ (inbox (.up 3) (msg 1)).pkg.receiverUp (.up 3) ∧
    mget 0 node1.leafSeq 3 < 1 ∧ (0 : BitVec 32) ≤ mget 0 node1.leafSeq 3 ∧
    has .sorrel (msg 1 (.setShare 4 [1])) (inbox .sorrel (msg 1 (.setShare 4 [1]))) ∧ node1.lastSeq < 1 ∧
    has (.down 3) (msg 1 (.setShare 4 [1])) (inbox (.down 3) (msg 1 (.setShare 4 [1]))) ∧
    newer 1 (mget 0 node1.leafGen 3) ∧ newer 0 (mget 0 node1.leafGen 3) = false ∧
    has .sorrel (msg 1 (.restore 0x1000 4 [1])) (inbox .sorrel (msg 1 (.restore 0x1000 4 [1])) { node1 with lost := true }) ∧
    node1.lost = false ∧
    (s.pkg.core 2).up ∧ 1000 * (s.pkg.core 2).openUs.toNat < 1000 * (s.pkg.core 2).close ∧
    (let t := 1000 * (s.pkg.core 2).openUs.toNat
     1000 * (s.pkg.core 2).openUs.toNat ≤ (core id t).timeNs - ((core id t).pkg.core 2).kicked ∧
      (core id t).timeNs < 1000 * ((core id t).pkg.core 2).close) ∧
    ((s.pkg.core 2).tripTimes.filter fun t => decide (s.timeNs < t + 1000000000)).length < 2 ∧
    (let s := core (fun c => { c with restarting := true }) 0
     (s.pkg.core 2).restarting ∧ s.pkg.restartDue 2 s.timeNs) := by decide +kernel
theorem test_witness_FirmwareEvents_other : (∀ share q, (msg 1).body ≠ .setShare share q) ∧ (∀ d share q, (msg 1).body ≠ .restore d share q) := by
  simp [msg]
/-- Reset with port 5 changed. -/
def po (q : Port) (now : Nat := 0) : State := pk (fun p => { p with ports := [(5, q)] }) now
/-- A flit of KIND 1, SEQ 0, with its CRC. -/
def flit0 : BitVec 256 := let f : BitVec 256 := (1 : BitVec 256) <<< 252; f + BitVec.ofNat 256 (flitCrc f)
theorem test_witness_PortAndHeartbeatEvents :
    let up : Port := { state := 3, lanes := 0xF }
    (((po up).pkg.port 5).carries ∧ flitOk flit0 ∧ flitOk 1 = false ∧ flitKind flit0 ≠ 0 ∧
      flitSeq flit0 = ((po up).pkg.port 5).rxSeq + 1 ∧ flitSeq flit0 ≠ ((po { up with rxSeq := 0 }).pkg.port 5).rxSeq + 1) ∧
    (let q := (po { up with unacked := [0], replays := 7 }).pkg.port 5
     q.unacked ≠ [] ∧ Nat.max 1 q.retryLimit.toNat ≤ q.replays + 1 ∧ 6 + 1 < Nat.max 1 q.retryLimit.toNat) ∧
    (State.reset.pkg.port 5).state = 1 ∧ (State.reset.pkg.port 5).locked = false ∧ ((po { up with state := 2 }).pkg.port 5).state = 2 ∧
    ((po { up with state := 4 }).pkg.port 5).state = 4 ∧ up.lanes.getLsbD 3 ∧ ((po { up with state := 5 }).pkg.port 5).state = 5 ∧
    (State.reset.pkg.port 5).carries = false ∧ (State.reset.pkg.port 5).downs = [] ∧
    (let s := po { up with state := 4, downs := [1, 2] } 10
     (s.pkg.port 5).carries = false ∧ 2 ≤ ((s.pkg.port 5).downs.filter fun t => decide (s.timeNs < t + 1000000000)).length ∧
      (s.pkg.port 5).waiting = []) ∧
    (let s := pk (fun p => { p with hbEnable := true, ports := [(5, { up with neighbour := some 9 })] }) 0
     s.pkg.hbEnable ∧ s.pkg.schedUp ∧ s.pkg.islandUp ∧ 9 ∈ s.pkg.neighbourIds s.timeNs ∧ (List.replicate 26 (0 : Byte)).length = 26 ∧
      (s.pkg.neighbour 9).missed + 1 ≠ 3) ∧
    (let nb : Neighbour := { pkg := 9, beatAt := 1 }
     let s := pk (fun p => { p with hbEnable := true, ports := [(5, { up with neighbour := some 9 })], neighbours := [nb] }) 15000001
     let at_ := (s.pkg.neighbour 9).beatAt
     at_ ≠ 0 ∧ 2 * at_ + 3 * (1000000 * Nat.max 1 (Nat.min 1000 s.pkg.hbForce.toNat)) ≤ 2 * s.timeNs ∧ s.pkg.hbEnable ∧ s.pkg.islandUp ∧
      9 ∈ s.pkg.neighbourIds s.timeNs) := by decide +kernel
/-- Function 1 with a pair 0, and the machine that holds it. -/
def ep (q : Pair) (f : Func → Func := id) (m : State := { State.reset with nodes := [node1] }) (now : Nat := 0) : State :=
  { m with pkg := { m.pkg with vfEnable := true, funcs := [(1, f { part := 0, pairs := [(0, q)], exported := [1] })] }, timeNs := now }
/-- A command entry with OPC, NREC and PTR0, naming exported node `node`. -/
def cmd (opc nrec ptr : Nat) (node : Nat := 0) : Cmd :=
  { idx := 0, entry := leBytes 1 opc ++ leBytes 1 0 ++ leBytes 2 7 ++ leBytes 4 node ++ leBytes 8 ptr ++ leBytes 4 nrec ++ List.replicate 44 0 }
/-- An active pair of 8 SQ and 8 CQ entries. -/
def act (f : Pair → Pair := id) : Pair := f { state := 1, enabled := true, cfg := 0x0000_0303 }
theorem test_witness_EndpointEvents :
    let at_ (s : State) : Pair := s.pairAt 1 0
    let one (s : State) : Bool := s.pairReady 1 0
    let start (c : Cmd) : State := ep (act fun p => { p with fetched := [c] })
    let next (c : Cmd) : Bool := one (start c) && (at_ (start c)).nextCmd (fun _ => true) == some c && (at_ (start c)).flight == []
    let named (c : Cmd) : Bool := match (start c).clientNode 1 c with | some n => decide (c.nrec ≤ n.free) && decide (0 < n.free) | none => false
    one (ep {}) ∧ (at_ (ep {})).state = 0 ∧ (at_ (ep { state := 2 })).state = 2 ∧
    ((0x0000_0C02 : BitVec 32).extractLsb' 8 4).toNat = 12 ∧ ((0x0000_0302 : BitVec 32).extractLsb' 0 4).toNat = 2 ∧
    (at_ (ep {})).sqBase.toNat % 4096 = 0 ∧ (at_ (ep { cqBase := 64 })).cqBase.toNat % 4096 ≠ 0 ∧
    ((ep {}).pkg.func 1).bound ∧ ((ep {} fun f => { f with part := 0xFF }).pkg.func 1).bound = false ∧
    (at_ (ep (act))).state = 1 ∧
    (let p := at_ (ep { state := 3 })
     p.state = 3 ∧ p.ahead = 0 ∧ p.fetched = [] ∧ p.flight = [] ∧ p.due = []) ∧
    (at_ (ep { state := 2 })).enabled = false ∧ 7 < (at_ (ep (act))).sqSize ∧ (at_ (ep (act))).sqSize ≤ 8 ∧ (at_ (ep (act))).cqSize ≤ 8 ∧
    (let q : Node := node1 [{ rec0 0 (some 1) with clients := [{ fn := 1, q := 0, idx := 0 }] }]
     let s := ep { state := 2 } (fun f => { f with cancelled := [(0, 0)] }) { st with nodes := [q], blocks := [{ blk with node := 1, reserved := [0] }] }
     let e := ep { state := 2, enabled := true }
     let hits (s : State) := s.blocks.filter fun b => (s.blockClients b).any fun c => c.fn == 1 && c.q == 0 && (s.pkg.func 1).cancelled.contains (c.q, c.idx)
     hits s = s.blocks ∧ s.blocks.map Block.id = [blk.id] ∧ (at_ s).state = 2 ∧ ((s.stopCancelled 1 (· == 0)).pairAt 1 0).enabled = false ∧
     hits e = [] ∧ ((e.stopCancelled 1 (· == 0)).pairAt 1 0).enabled = true ∧
     (ep { state := 2 }).cancelledRuns 1 (· == 0) = false ∧ (((ep { state := 2 }).stopCancelled 1 (· == 0)).pairAt 1 0).enabled = false ∧
     ((ep { state := 2 }).stopCancelled 1 (· == 0)).cancelledRuns 1 (· == 0) = false) ∧
    ((ep (act)).pkg.func 1).masked 0 ∧ ((ep (act) fun f => { f with msixTab := [(12, 1)] }).pkg.func 1).masked 0 = false ∧
    (let s := ep (act fun p => { p with sqTail := 1, ahead := 1 })
     (at_ s).ahead ≠ 0 ∧ s.intakeRoom (s.pkg.func 1) ∧ (at_ s).fetched = [] ∧
      (let c : Cmd := { idx := (at_ s).count, entry := s.hostRead ((at_ s).sqBase.toNat + 64 * (at_ s).sqHead) 64 }
       c.flags % 4 = 0 ∧ c.fieldBad = false ∧ c.reservedOp = false)) ∧
    (let x : Compl := { idx := 0, cid := 7, status := 0, result := 1 }
     let p := at_ (ep (act fun p => { p with due := [x] }))
     p.slotFree ∧ p.due.find? (fun x => x.cid == 7) = some x) ∧
    [cmd 0 0 0, cmd 0 1 0, cmd 4 0 0, cmd 4 0 0 3, cmd 4 1 0, cmd 3 0 0, cmd 3 0 8, cmd 0x80 0 0, cmd 1 0 0, cmd 1 4097 0, cmd 1 1 32,
      cmd 1 1 0 3, cmd 1 4 0, cmd 2 4 0].all next ∧
    named (cmd 4 0 0) ∧ (start (cmd 4 0 0 3)).clientNode 1 (cmd 4 0 0 3) = none ∧ named (cmd 3 0 0) ∧ named (cmd 1 4 0) ∧
    (start (cmd 1 1 0 3)).clientNode 1 (cmd 1 1 0 3) = none ∧ (cmd 0x80 0 0).opc = 0x80 ∧
    (let c := { cmd 2 4 0 with sent := 4 }
     (at_ (ep (act fun p => { p with flight := [c] }))).flight.find?
      (fun x => x.opc == 2 && x.cid == 7 && x.recs.isEmpty && x.live == 0) = some c) ∧
    ((ep (act)).pkg.func 1).resetting = false := by decide +kernel
theorem test_witness_EndpointEvents_reset :
    let f (f : Func) : Func := { f with resetting := true, cancelled := [(0, 0)] }
    let q : Node := node1 [{ rec0 0 (some 1) with clients := [{ fn := 1, q := 0, idx := 0 }] }]
    let s := ep (act) f { st with nodes := [q], blocks := [{ blk with node := 1, reserved := [0] }] } 50000000
    (s.pkg.func 1).resetting ∧ (s.pkg.func 1).resetAt + 50000000 ≤ s.timeNs ∧
    (s.blocks.filter fun b => (s.blockClients b).any fun c => c.fn == 1 && (s.pkg.func 1).cancelled.contains (c.q, c.idx)) = s.blocks ∧
    s.cancelledRuns 1 (fun _ => true) ∧ (ep (act) f).cancelledRuns 1 (fun _ => true) = false ∧ s.pkg.vfEnable ∧
    s.blocks.map Block.id = [blk.id] ∧ (ep (act) f).timeNs < ((ep (act) f).pkg.func 1).resetAt + 50000000 := by decide +kernel
/-- Partition 0 with targets. -/
def part0 : Part := { placedPart with slices := 1, tQuotas := placedPart.quotas, tSlices := 1, tGroups := 0xFFFF_FFFF }
/-- The registers of call `n` of version `maj`.`min`. -/
def rg (n : Nat) (maj : Nat := 1) (min : Nat := 0) (a0 a1 a2 : DWord := 0) : CallRegs :=
  { a7 := 0x0955_5A01, a6 := BitVec.ofNat 64 (65536 * n + 256 * maj + min), a0 := a0, a1 := a1, a2 := a2, a3 := 0 }
theorem test_witness_SorrelCallEvents :
    let m := gm [(0x1000, 1), (0x2000, 0x10)]
    let m := { m with nodes := [node1] }
    let vf (part : BitVec 8) : State := ep (act) (fun f => { f with part := part }) m
    let call (r : CallRegs) (n maj min : Nat) : Bool := r.a7 == 0x0955_5A01 && r.a6.toNat == 65536 * n + 256 * maj + min
    callVersion 9 = none ∧ { rg 0 with a6 := 0x1_0000_0000 }.a6.toNat = 2 ^ 32 ∧ sbiServed ≠ [] ∧
    { rg 0 with a7 := 0x1234 }.a7.toNat ∉ sbiServed ∧ 0x0955_5A01 ∉ sbiServed ∧
    (0x10 ∈ sbiServed ∧ { rg 0 with a7 := 0x10, a6 := 3 }.a6.toNat < sbiFunctions 0x10 ∧ sbiFunctions 0x10 ≤ 7) ∧
    ((part0.maskHarts 0 (BitVec.allOnes 64)).isSome ∧ part0.hart.toNat ∈ part0.hartIds ∧ (m.gpa? 0 0x1000).isSome ∧ (part0.hartOf 0).stopped ∧
      (0 : DWord).toNat % 2 ^ 32 = 0 ∧ (1 : DWord).toNat % 2 ^ 32 ≤ 1 ∧ 0x53525354 ∈ sbiServed) ∧
    call (rg 1) 1 1 0 ∧ call (rg 1 1 1) 1 1 1 ∧ call (rg 2 1 0 0x20) 2 1 0 ∧
    (call (rg 0x10 1 0 0x2000) 0x10 1 0 && (m.gpaWrite 0 0x2000 (m.partInfoBytes 0 1)).isSome) ∧
    (call (rg 0x10 2 0 0x2000) 0x10 2 0 && (m.gpaWrite 0 0x2000 (m.partInfoBytes 0 2)).isSome) ∧ call (rg 0x11) 0x11 1 0 ∧
    call (rg 0x20 1 1 1 0x1000 1) 0x20 1 1 ∧ (1 : DWord).toNat < 64 ∧
    (((vf 3).pkg.func 1).bound ∧ ((vf 3).pkg.func 1).part.toNat ≠ 0) ∧ ((vf 0xFF).pkg.func 1).bound = false ∧
    ((vf 0).pkg.func 1).part.toNat = 0 ∧ (match (vf 0).exportSet 0 0x1000 1 with | .ok _ => true | _ => false) = true ∧
    call (rg 0x21 1 0 1) 0x21 1 0 ∧
    (call (rg 0x30 2 0 0x40000000 3 2) 0x30 2 0 && (0x40000000 : DWord).toNat % frameBytes 2 == 0 &&
      decide ((0x40000000 : DWord).toNat + frameBytes 2 * 3 ≤ 2 ^ 50)) ∧ call (rg 0x31 2 0 3 0 2) 0x31 2 0 ∧
    (call (rg 0x40 1 0 0x3000) 0x40 1 0 ∧ (0x3000 : DWord).toNat % 4096 = 0 ∧ (∀ c ∈ m.ctxs, c.id ≠ 2) ∧
      ∀ j, 1 ≤ j → j < 2 → ∃ c ∈ m.ctxs, c.id = j) ∧ (∀ c ∈ State.reset.ctxs, c.id ≠ 1) ∧
    (call (rg 0x41 1 0 1) 0x41 1 0 && (m.ctxs.find? (fun c => c.id == 1)).isSome && m.ctxAtWork 1 &&
      !({ m with blocks := [], teams := [] } : State).ctxAtWork 1) ∧ (m.ctx 1).part ≠ 5 ∧
    call (rg 0x70) 0x70 1 0 := by
  decide +kernel
/-- Bytes at 0x1000 that name a package and a partition. -/
def rankMem (v : BitVec 64) (p : Byte) : List (Nat × Byte) :=
  ((List.range 8).map fun i => (0x1000 + i, BitVec.ofNat 8 (v.toNat / 256 ^ i))) ++ [(0x1008, p)]
theorem mapM_all_some {α β : Type} (f : α → Option β) (h : α → β) (l : List α) (hf : ∀ x ∈ l, f x = some (h x)) :
    l.mapM f = some (l.map h) := by
  induction l with
  | nil => rfl
  | cons x r ih => simp [hf x (by simp), ih fun y hy => hf y (by simp [hy])]
theorem rankMem_list (v : BitVec 64) (p : Byte)
    (ht : ∀ i ∈ List.range 16, (gm (rankMem v p)).gpa? 0 (0x1000 + i) = some (0x1000 + i)) :
    ∃ bs, (gm (rankMem v p)).guestRead 0 0x1000 (16 * 1) = some bs ∧ rankList bs 1 = [(v, p.toNat, 0)] := by
  have h : (gm (rankMem v p)).guestRead 0 0x1000 (16 * 1) = some ((List.range 16).map fun i => (gm (rankMem v p)).homeByte false (0x1000 + i)) :=
    mapM_all_some _ _ _ fun i hi => by
      have h16 : i < 16 := by simpa using hi
      have hn : ¬pkgBase ≤ 0x1000 + i := by unfold pkgBase; omega
      rw [ht i hi, Option.map_some, State.guestByte, if_neg hn]
  refine ⟨_, h, ?_⟩
  have hb : (List.range 16).map (fun i => (gm (rankMem v p)).homeByte false (0x1000 + i)) =
      (List.range 8).map (fun i => BitVec.ofNat 8 (v.toNat / 256 ^ i)) ++ [p, 0, 0, 0, 0, 0, 0, 0] := rfl
  rw [hb]
  have hv := v.isLt
  simp [rankList, fieldOf, leNat, List.range_succ]
  apply BitVec.eq_of_toNat_eq
  simp
  omega
/-- Rank lists of one entry, this package with partition 0 and with partition 5, for the calls of partition 0. -/
theorem test_witness_SorrelCallEvents_ranks (p : Byte) (hp : p = 0 ∨ p = 5) :
    ∃ bs, (gm (rankMem ownId p)).guestRead 0 0x1000 (16 * 1) = some bs ∧ rankList bs 1 = [(ownId, p.toNat, 0)] :=
  rankMem_list ownId p (by rcases hp with rfl | rfl <;> decide +kernel)
theorem test_witness_SorrelCallEvents_attest :
    let m := gm
    (m.guestRead 0 0x1000 32).isSome ∧ (m.gpaWrite 0 0x3000 (m.reportBody 0 (List.replicate 32 0) ++
      edSign Config.identitySeed (m.reportBody 0 (List.replicate 32 0)))).isSome ∧ (rg 0x60).a6.toNat = 65536 * 0x60 + 256 := by
  decide +kernel
/-- An instance of rank `r` with `n` elements, and a group of two local ranks. -/
def inst (r n : Nat) : CollInst :=
  { rank := r, tid := tm.tid, blk := tm.blk, op := 1 + r, part := 0, ctx := 1, kind := 0, opn := 0, ty := 0, count := BitVec.ofNat 32 n,
    k := 0, dseg := blk.segs.getD 3 0, sseg := blk.segs.getD 3 0, doff := 0x1000, soff := 0x2000, dnum := 3, snum := 3, smode := false }
def grp (is : List CollInst) (c : Bool := true) : Group :=
  { handle := 7, part := 0, ranks := 2, members := [(0, ownId, 0), (1, ownId, 0)], complete := c, since := 0, insts := is }
theorem test_witness_SorrelCallEvents_groups (is : List CollInst) (his : is = [inst 0 4, inst 1 4] ∨ is = [inst 0 4, inst 1 5]) :
    (∀ m ∈ (grp is).members, m.2.1 = ownId) ∧ (grp is).heads = some is ∧ is ≠ [] ∧ (grp is false).complete = false := by
  refine ⟨by simp [grp], ?_, by rcases his with rfl | rfl <;> simp, rfl⟩
  have h : (grp is).localRanks = [0, 1] := by simp [grp, Group.localRanks]
  unfold Group.heads; rw [h]
  rcases his with rfl | rfl <;> rfl
theorem test_witness_SorrelCallEvents_collect :
    ((st.collReads 2 [inst 0 4, inst 1 4]).2.all fun l => l.bad == none) ∧ (inst 0 4).shape = (inst 1 4).shape ∧
    (inst 0 4).shape ≠ (inst 1 5).shape ∧ 0 + 1000000000 ≤ ({ st with timeNs := 1000000000 } : State).timeNs := by decide +kernel
/-- A launch packet of context 1, core 0: one team of 32 lanes and two chunks, one row. -/
def pkt0 : List Byte :=
  ((((List.replicate 128 (0 : Byte)).set 2 1).set 0x24 1).set 0x38 1 |>.set 0x50 0x21).set 0x51 0x10
def nPkt (q : List QEntry) : Node := { node1 q with pkt := pkt0, leafQuota := [(0, 5)] }
/-- The placed machine with the partition changed, its package booted. -/
def pa (f : Part → Part := id) (n : List Node := []) (now : Nat := 0) : State :=
  { st with parts := [f part0], nodes := n, timeNs := now, pkg := { (st).pkg with booted := true } }
/-- A saved block in place of the placed one. -/
def saved (s : State) : State := match s.blocks with | b :: _ => s.haltBlock b false [] | [] => s
theorem test_witness_PartitionAndPlacementEvents :
    let in_ (x : ResizeState) : Part := (pa fun p => { p with state := x }).part 0
    (pa.startCause (pa.part 0) = 0 ∧ pa.affectedLeaves (pa.part 0) ≠ [] ∧ (pa fun p => { p with tSlices := 0 }).startCause ((pa fun p => { p with tSlices := 0 }).part 0) ≠ 0) ∧
    [ResizeState.prepare, .migrate, .rehash, .drain, .release, .scrub].all (fun x => (in_ x).state == x) ∧
    (let s := pa fun p => { p with state := .prepare, acks := [0] }
     s.pkg.leafUp 0 ∧ (s.part 0).state = .prepare ∧ 0 ∈ (s.part 0).acks) ∧
    (let s := pa (fun p => { p with state := .migrate }) [] 64000000
     (s.part 0).state = .migrate ∧ (s.part 0).phaseAt + 1000000 * 2 ^ (s.part 0).migTmo.toNat ≤ s.timeNs) ∧
    (let p (f : Part → Part) := (pa fun p => f { p with state := .drain, groups := 3, tGroups := 2 }).part 0
     (p id).drnBusy = false ∧ (p id).drainFault ∧
      (p fun p => { p with drnSrc := 0x1000, drnDst := 0x4_0000_0000 }).drainFault = false ∧
      (p fun p => { p with drnBusy := true }).drnBusy) ∧
    ((pa fun p => { p with acks := [1, 2] }).part 0).acks = 1 :: 2 :: [] ∧ (in_ .release).acks.length ≤ 1 ∧
    .core 0 ∈ ((pa fun p => { p with state := .scrub, units := [.core 0] }).part 0).units ∧
    (let s := pa fun p => { p with state := .migrate, tQuotas := [(8, { slots := 16, granules := 192, rows := 982, bars := 2048 })] }
     s.block? blk.id = some blk ∧ blk.part = 0 ∧ s.pkg.leafUp (blk.core / 8) ∧ blk.id ∈ s.toMigrate (s.part 0) ∧
      s.mayMigrate (s.part 0) blk ∧
      (let t : State := { s with blocks := (s.haltMigrating blk).blocks }
       (t.block? blk.id).isSome ∧ (t.block? blk.id).all fun b => b.saved.isSome && t.mayMigrate (t.part 0) b && (t.toMigrate (t.part 0)).contains b.id)) := by
  decide +kernel
theorem test_witness_PartitionAndPlacementEvents_place :
    let n := nPkt [rec0 0]
    let s := pa id [n]
    (s.pkg.booted ∧ s.pkg.schedUp ∧ n.part = 0 ∧ n.status = .valid ∧ n.held = false ∧ n.blkHeld = false ∧ n.lost = false ∧ n.queue ≠ [] ∧ s.heldNow n = false) ∧
    (let t := targetShare 16 (n.weight * n.occupancy) (n.weight * n.occupancy) n.occupancy (pktSlots n.pkt)
     t ≠ n.share ∧ n.share = 0 ∧ t = { n with share := 16 }.share ∧ t < { n with share := 17 }.share + 16 ∧ { n with share := 17 }.share < t + 16) ∧
    (s.pkg.takeTurn 0).2 = true ∧ (s.pkg.takeTurn 1).2 = false ∧ s.pkg.leafUp 0 ∧ s.node? n.num = some n ∧ n.quotaIn 0 = some 4 ∧
    (let s0 : State := { s with blocks := [], teams := [] }
     (s0.startNext n (clusterCores 0) (4 - s0.slotsHeld 1 0)).isSome) ∧
    (n.waiting = [rec0 0] ∧ (rec0 0).arrived + n.coalT ≤ s.timeNs) ∧
    (s.nextSlice 0 0 (s.sliceNow 0 0) = none ∧
     (let s2 : State := { s with ctxs := s.ctxs ++ [{ id := 2, part := 0 }], conts := [], nodes := [{ n with pkt := pkt0.set 0x24 2 }] }
      s2.nextSlice 0 0 (s2.sliceNow 0 0) = some 2 ∧
      (s2.onCore 0).filter (fun b => b.part == 0 && b.ctx == s2.sliceNow 0 0) = [blk] ∧ s2.block? blk.id = some blk ∧ blk.gangN = 0 ∧
      (let s3 : State := { s2 with blocks := [], teams := [] }
       s3.sliceNow 0 0 = 0 ∧ s3.nextSlice 0 0 0 = some 2 ∧ (s3.onCore 0).filter (fun b => b.part == 0 && b.ctx == 0) = []))) ∧
    (let g := gang
     (g.gangBlocks 1).map Block.saved = [none, none]) ∧
    (let s := saved (pa)
     match s.blocks with
     | b :: _ => s.block? b.id == some b && b.saved.isSome && b.gangN == 0 &&
        ((s.firstRoom b.part b.ctx (s.needOf b) (clusterCores 0)).map Prod.fst) == some 0 && s.pkg.leafUp 0 && !s.pkg.leafFailed.contains 0 &&
        (match s.resumeFirst 0 [] (s.resumeList 0) with
         | some (x, t) => x.what == .block b.id && (t.block? b.id).map Block.core == some 0
         | none => false)
     | [] => false) = true ∧
    s.resumeFirst 0 [] (s.resumeList 0) = none ∧
    (let x : SavedItem := { what := .block 99, part := 0, age := 0, first := true }
     s.resumeItem 0 x = (s, false) ∧ ∀ y ∈ [{ x with first := false }], y.part = x.part ∧ y.first = false) ∧
    (pk fun p => p.putCore 2 { p.core 2 with restarting := true }).pkg.leafUp 0 = false := by decide +kernel
theorem test_witness_PartitionAndPlacementEvents_teams :
    let t : Team := { tm with status := .window (raiseOf .trap) 0 }
    let s := { st t with blocks := [blk, { blk with id := 9 }], timeNs := 10000 }
    (s.teamAt 0 0 0 = some t ∧ 0 + 10000 ≤ s.timeNs ∧ (s.latestBlock 0 0 (fun b => b.id != t.blk && !(s.protected b && b.node == (s.blockOf t).node))).isSome) ∧
    (let t := { tm with hold := some trapOf }
     (st t).teamAt 0 0 0 = some t ∧ t.hold = some trapOf) ∧ (∀ r n, tm.status ≠ .window r n) := by
  refine ⟨by decide +kernel, by decide +kernel, fun r n => by simp [tm, placedTeam]⟩
/-- The placed machine whose team waits with a status, over an instruction at its PC. -/
def waits (x : Status) (i : Instr := .nop fc) (t : Team := tm) : State :=
  let s := State.reset.placeCode i.word.toNat
  { s with teams := [{ t with status := x }], blocks := s.blocks.map fun b => { b with node := 1 }, nodes := [node1] }
def mesh : MeshWait := { key := (0, 0, 0), obj := 1, idx := 0, entry := List.replicate 16 0, rec_ := 1, verts := [some 2, some 3, some 4] }
theorem test_witness_MemoryAndWaitEvents :
    let ent : StoreEnt := { tid := 1, core := 0, part := 0, chip := false, pa := 0x100, bytes := [1, 2] }
    let q := { State.reset with storeQ := [{ ent with tid := 2 }, { ent with pa := 0x200 }] }
    let ln : Line := { ctx := 1, chip := false, line := 2, data := [(5, 9)], dirty := 0x20, slots := 0, priv := false }
    let c : Ctx := { id := 1, part := 0 }
    let at_ (s : State) (p : Team → Bool) : Bool := match s.teamAt 0 0 0 with | some t => p t | none => false
    q.storeQ[1]? = some { ent with pa := 0x200 } ∧ (∀ x ∈ q.storeQ.take 1, q.storeAfter x { ent with pa := 0x200 } = false) ∧
    (((st).putCore 0 { (st).coreSt 0 with l1 := [ln] }).coreSt 0).l1[0]? = some ln ∧
    (st.ctx 1 = c ∧ c.tlbiBusy = false ∧ c.tlbiScope.toNat < 2 ∧ st.ctxAtWork 1 ∧ c.smpEn = false) ∧
    ({ st with teams := [], ctxs := [c] } : State).heapRefusal c false = 0 ∧
    at_ (st { tm with flights := [fl0] }) (fun t => t.flights[0]? == some fl0 && fl0.gen == t.gen) ∧ (st { tm with flights := [fl0] }).loadQ = [] ∧
    ((stOps [anOp]).coreSt 0).ops.filter (fun o => o.tid == tm.tid) = [anOp] ∧
    (let t := { tm with status := .awaitv 0 0x100 4 7 6 0xF false }
     at_ (st t) (fun u => u == t) ∧ (st t).watched 0 0x100 4 ≠ (7 : DWord).toNat ∧ (st t).watched 0 0x100 4 = (0 : DWord).toNat) ∧
    (at_ (waits (.barrier 3 true)) (fun t => t.status == .barrier 3 true) ∧ ((waits (.barrier 3 true)).bar 0 3).phase ≠ true ∧
      ((waits (.barrier 3 false)).bar 0 3).phase = false) ∧
    (let s (n : Nat) : State := { withMem [(0x1008, leBytes 4 n)] { tm with status := .await, frame := some 0x1000 } with nodes := [node1] }
     at_ (s 1) (fun t => t.status == .await && (s 1).join ((s 1).whoOf t) 0x1000 == 1) ∧
     at_ (s 0) (fun t => (s 0).join ((s 0).whoOf t) 0x1000 == 0 && ((s 0).blockOf t).draw == none)) ∧
    (let s (n : Nat) : State := gran (waits (.vgrow 0)) n
     at_ (s 192) (fun t => (s 192).vgrowQueue 0 0 == [t] && !(s 192).protected ((s 192).blockOf t) && (s 192).canGrow t) ∧
     at_ (s 2) (fun t => (s 2).vgrowQueue 0 0 == [t] && (s 2).canGrow t == false)) ∧
    (let f := fv 0 0x108 16 0
     let s (n : Node) : State := { waits (.spawn []) (.spawn f) { ts 1 with frame := some 0x1000 } with nodes := [n] }
     let ok (n : Node) (want : Bool) : Bool := at_ (s n) fun t =>
       ((s n).envOf t).fetch.2 == .instr (.spawn f) && (((s n).envOf t).spawnNow f true).isSome == want
     ok node1 true ∧ ok (node1 ((List.range 8).map fun k => rec0 k)) false ∧
     (let s : State := { s node1 with teams := [{ ts 2 with status := .spawn [] }] }
      at_ s fun t => t.frame == none && (s.envOf t).nodeNamed ((s.envOf t).uval 0x108) == none)) ∧
    at_ (waits .cowslip) Team.byCowslip := by decide +kernel
theorem test_witness_MemoryAndWaitEvents_draws :
    let d := { dr with objWait := [1], recs := [rec_ 1 1 none], tris := [], rays := [] }
    let b := bdr d
    (let s := st tm b
     (s.teamAt 0 0 0 = some tm ∧ b.draw = some d ∧ tm.batch = none ∧ tm.status = .ready) ∧ d.hasTier 7 ∧
     ((s.teams.filter fun u => u.blk == b.id).map Team.num).foldl Nat.max 0 = tm.num ∧
     (d.choose tm.lanes tm.tid [6, 5, 4, 3, 2, 1]).isSome ∧ ({ dr with rays := [{ ray1 with batch := none }] }.choose tm.lanes tm.tid [7]).isSome) ∧
    (let c : Ctx := { id := 1, part := 0, smpEn := true }
     let s (n : Nat) : State := { (st).putCore 0 { (st).coreSt 0 with smpLeft := [(1, n)] } with ctxs := [c], clk := 5 }
     (s 9).teams = [tm] ∧ tm.entered ≠ (s 9).clk ∧ { tm with entered := 5 }.entered = (s 9).clk ∧ (s 9).left = [] ∧ tm.resident ∧ tm.core = 0 ∧ ((s 9).blockOf tm).ctx = c.id ∧ (s 9).ctx 1 = c ∧ tm.fore = false ∧
      tm.half = mget 0 c.smpHalf (16 * 0 + tm.slot) ∧ mget 0 ((s 9).coreSt 0).smpLeft 1 < c.period ∧
      c.period ≤ mget 0 ((s 4096).coreSt 0).smpLeft 1) ∧
    (let s := st tm (bdr { dr with setupWait := [mesh], framed := true })
     (s.block? blk.id).map Block.draw = some (some { dr with setupWait := [mesh], framed := true }) ∧ blk.saved = none ∧
      (s.setupNext (bdr { dr with setupWait := [mesh], framed := true }) { dr with setupWait := [mesh], framed := true }).isSome) ∧
    (let b : Block := { bdr { dr with recs := [], root := List.replicate 64 0 } with node := 1, shared := some 7 }
     let c : Block := { bdr { dr with recs := [], root := (List.replicate 64 0).set 0x20 8 } with node := 1, shared := some 7 }
     let s (b : Block) : State := { st tm b with teams := [], nodes := [node1] }
     (s b).lastCopy b ∧ (s c).lastCopy c ∧ ({ s b with blocks := [b, { b with id := 99 }] } : State).lastCopy b = false ∧
     (s b).drawOver b ∧ (s c).drawOver c ∧ (s b).node? b.node = some node1 ∧ (s c).chainRoom node1) ∧
    (let r : Ray := { ray1 with hit := none, desc := leBytes 8 0x60000 ++ leBytes 8 0x70000 ++ List.replicate 16 0 }
     let b := bdr { dr with rays := [r] }
     dr.hasTier 7 ∧ { dr with tiers := dr.tiers.take 6 }.hasTier 7 = false ∧
     [r].find? (fun y => y.id == r.id && y.hit.isNone && y.ret.isNone) = some r ∧
     (match (st tm b).traverse b r with | .hit _ => true | _ => false) = true) := by decide +kernel
/-- The neutral point in any coordinates: the tests' key, under which every message has the signature (neutral point, 0). -/
def IsNeutral (p : EdPt) : Prop := p.x = 0 ∧ p.t = 0 ∧ p.y = p.z
theorem isNeutral_add {p q : EdPt} (hp : IsNeutral p) (hq : IsNeutral q) : IsNeutral (p.add q) := by
  obtain ⟨hx, ht, hy⟩ := hp
  obtain ⟨hx', ht', hy'⟩ := hq
  have hab : (p.y + edP) * (q.y + edP) % edP = p.y * q.y % edP := by
    rw [Nat.mul_mod, Nat.add_mod_right, Nat.add_mod_right, ← Nat.mul_mod]
  have hd : 2 * (p.y * q.y % edP) % edP = 2 * p.z * q.z % edP := by
    rw [← hy, ← hy', Nat.mul_mod, Nat.mod_mod, ← Nat.mul_mod, Nat.mul_assoc]
  refine ⟨?_, ?_, ?_⟩ <;> simp only [EdPt.add, hx, hx', ht, Nat.sub_zero, Nat.add_zero, Nat.mul_zero, Nat.zero_mul, Nat.zero_mod, hab]
  · simp
  · simp
  · simp only [← two_mul]
    rw [Nat.mul_mod, hd, Nat.mod_mod, Nat.mul_comm (2 * p.z * q.z % edP + edP), Nat.mul_mod _ (_ + edP), Nat.add_mod_right, Nat.mod_mod]
theorem isNeutral_mul (k : Nat) : ∀ (p : EdPt) (n : Nat), IsNeutral p → IsNeutral (p.mul n k) := by
  induction k with
  | zero => intro p n _; exact ⟨rfl, rfl, rfl⟩
  | succ k ih =>
    intro p n hp
    unfold EdPt.mul
    split
    · exact isNeutral_add (ih _ _ (isNeutral_add hp hp)) hp
    · exact ih _ _ (isNeutral_add hp hp)
theorem mul_zero_neutral (k : Nat) : ∀ p : EdPt, p.mul 0 k = { x := 0, y := 1, z := 1, t := 0 } := by
  induction k with
  | zero => intro p; rfl
  | succ k ih => intro p; simp [EdPt.mul, ih]
def key0 : List Byte := 1 :: List.replicate 31 0
theorem key0_signs (m : List Byte) : edVerify key0 m (key0 ++ List.replicate 32 0) = true := by
  have hk : edDecode key0 = some { x := 0, y := 1, z := 1, t := 0 } := by decide +kernel
  have ht : (key0 ++ List.replicate 32 0).take 32 = key0 := by decide
  have hs : leNat ((key0 ++ List.replicate 32 0).drop 32) = 0 := by decide
  have hl : ¬((key0 ++ List.replicate 32 (0 : Byte)).length ≠ 64 ∨ edL ≤ 0) := by decide +kernel
  unfold edVerify
  simp only [hs, ht, hk, if_neg hl, Nat.mul_zero, mul_zero_neutral]
  generalize leNat _ % edL = k
  have h : IsNeutral ((EdPt.mul { x := 0, y := 1, z := 1, t := 0 } 8 4).add (EdPt.mul { x := 0, y := 1, z := 1, t := 0 } (8 * k) 256)) :=
    isNeutral_add (isNeutral_mul _ _ _ ⟨rfl, rfl, rfl⟩) (isNeutral_mul _ _ _ ⟨rfl, rfl, rfl⟩)
  simp [h.1, h.2.2]
/-- A reset request of package 9, with counter 1, for package `v`. -/
def resetMsg (v : BitVec 64) : List Byte :=
  [1, 0, 108, 0] ++ leBytes 8 9 ++ leBytes 8 v.toNat ++ leBytes 8 0 ++ leBytes 8 1 ++ leBytes 8 0 ++ (key0 ++ List.replicate 32 0)
/-- Heartbeats with package 9 at port 5, and `n` further neighbours. -/
def hbSt (n : Nat) : State :=
  pk fun p => { p with
    hbEnable := true, neighbours := [{ pkg := 9, key := key0 }],
    ports := (5, { state := 3, neighbour := some 9 }) :: (List.range n).map fun k =>
      (6 + k, { state := 3, neighbour := some (BitVec.ofNat 64 (10 + k)) }) }
theorem test_witness_PortAndHeartbeatEvents_reset (n : Nat) (hn : n = 0 ∨ n = 2) :
    (hbSt n).pkg.accepts (resetMsg ownId) = true ∧ (hbSt n).pkg.islandUp = true ∧ (hbSt n).pkg.hbEnable = true ∧
    ((hbSt n).pkg.putNeighbour { (hbSt n).pkg.neighbour 9 with ctr := 1, reset := some 0 }).quorum 0 = decide (n = 0) := by
  have h1 : ∀ v : BitVec 64, fieldOf (resetMsg v) 12 8 = v.toNat := by
    intro v
    have hv := v.isLt
    simp [resetMsg, fieldOf, leBytes, leNat]
    omega
  have h2 : ∀ v : BitVec 64, fieldOf (resetMsg v) 4 8 = 9 ∧ fieldOf (resetMsg v) 0 2 = 1 ∧ fieldOf (resetMsg v) 2 2 = 108 ∧
      fieldOf (resetMsg v) 20 8 = 0 ∧ fieldOf (resetMsg v) 28 8 = 1 ∧ (resetMsg v).length = 108 ∧
      (resetMsg v).drop 44 = key0 ++ List.replicate 32 0 := by
    intro v
    simp [resetMsg, fieldOf, leBytes, leNat, key0]
  have h3 : (hbSt n).pkg.neighbour 9 = { pkg := 9, key := key0 } ∧ (hbSt n).pkg.hbEpoch = 0 := by
    rcases hn with rfl | rfl <;> decide +kernel
  refine ⟨?_, by rcases hn with rfl | rfl <;> decide +kernel, by rcases hn with rfl | rfl <;> rfl,
    by rcases hn with rfl | rfl <;> decide +kernel⟩
  obtain ⟨a, b, c, d, e, f, k⟩ := h2 ownId
  have h4 := h3.1
  rw [show (9 : BitVec 64) = BitVec.ofNat 64 9 from rfl] at h4
  simp only [Pkg.accepts, a, b, c, d, e, f, k, h1, h4, h3.2, key0_signs]
  simp

/-! ### Digests, signatures and check codes: vectors of FIPS 180-4, RFC 8032 and RFC 3720 -/

theorem test_sha512_abc : sha512 [0x61, 0x62, 0x63] = beBytes 64
    0xDDAF35A193617ABACC417349AE20413112E6FA4E89A97EA20A9EEEE64B55D39A2192992A274FC1A836BA3C23A3FEEBBD454D4423643CE80E2A9AC94FA54CA49F := by
  decide +kernel
theorem test_ed25519_vector : edVerify (beBytes 32 0xD75A980182B10AB7D54BFED3C964073A0EE172F3DAA62325AF021A68F707511A) []
    (beBytes 64 0xE5564300C360AC729086E2CC806E828A84877F1EB8E5D974D873E065224901555FB8821590A33BACC61E39701CF9B46BD25BF5F0595BBE24655141438E7A100B) =
    true := by decide +kernel
theorem test_crc32c_digits : crc32c ((List.range 9).map fun k => BitVec.ofNat 8 (0x31 + k)) = 0xE306_9283 := by decide +kernel

end Sys2Proof.Tests
end

section
/-! Encodings: memory's bytes, the fields of a word, and the round trip of decode and encode. -/

namespace Sys2Proof

/-! ### Little-endian bytes (R3) -/

@[simp] theorem leBytes_length (n x : Nat) : (leBytes n x).length = n := by
  induction n generalizing x with
  | zero => rfl
  | succ n ih => simp [leBytes, ih]

/-- The low bytes of a number come first, then those of what is above them. -/
theorem leBytes_add (m n x : Nat) : leBytes (m + n) x = leBytes m x ++ leBytes n (x / 256 ^ m) := by
  induction m generalizing x with
  | zero => simp [leBytes]
  | succ m ih => rw [Nat.succ_add, leBytes, ih, leBytes, List.cons_append, Nat.div_div_eq_div_mul, Nat.pow_succ']

theorem leNat_leBytes (n x : Nat) : leNat (leBytes n x) = x % 256 ^ n := by
  induction n generalizing x with
  | zero => simp [leBytes, leNat, Nat.mod_one]
  | succ n ih =>
    have hb : (BitVec.ofNat 8 x).toNat = x % 256 := BitVec.toNat_ofNat x 8
    rw [leBytes, leNat, ih, hb, Nat.pow_succ', Nat.mod_mul]

/-- Eight bytes of a number are its low 64 bits. -/
@[simp] theorem ofNat_leNat_leBytes_eight (x : Nat) : BitVec.ofNat 64 (leNat (leBytes 8 x)) = BitVec.ofNat 64 x := by
  rw [leNat_leBytes]
  exact BitVec.eq_of_toNat_eq (by simp)

/-! ### Decoding from memory's bytes (R3, R283) -/

/-- Bytes that start with the word of an instruction of one word. -/
theorem decodeBytes_of_one_word {x : Nat} (rest : List Byte) (h : isTwoWord (BitVec.ofNat 64 x) = false) :
    decodeBytes (leBytes 8 x ++ rest) = (decode (BitVec.ofNat 64 x) 0).map fun i => (i, rest) := by
  simp [decodeBytes, h]

/-- Bytes that start with the two words of an instruction of two. -/
theorem decodeBytes_of_two_words {x : Nat} (y : Nat) (rest : List Byte) (h : isTwoWord (BitVec.ofNat 64 x) = true) :
    decodeBytes (leBytes 8 x ++ (leBytes 8 y ++ rest)) =
      (decode (BitVec.ofNat 64 x) (BitVec.ofNat 64 y)).map fun i => (i, rest) := by
  have hlen : ¬ 8 + (8 + rest.length) < 16 := by omega
  have hrest : (leBytes 8 x ++ (leBytes 8 y ++ rest)).drop 16 = rest := by
    rw [← List.append_assoc]
    exact List.drop_left' (by simp)
  simp [decodeBytes, h, hlen, hrest]

/-! ### What a word shows of the instruction that it encodes (R270, R276 to R283) -/

/-- The upper of two fields, cut out at its place. -/
theorem extractLsb'_append_top {v w start : Nat} {x : BitVec v} {y : BitVec w} (h : start = w) :
    (x ++ y).extractLsb' start v = x := by
  subst h
  exact BitVec.extractLsb'_append_eq_left

/-- A first word of whatever format: opcode, header, and the `n` bits of the format's own fields (R270). -/
def Hdr.above {n : Nat} (op : BitVec 8) (h : Hdr) (r : BitVec n) : BitVec (8 + (12 + n)) := op ++ (h.toBits ++ r)

theorem Hdr.above_opcode (op : BitVec 8) (h : Hdr) (r : BitVec 44) : (h.above op r).extractLsb' 56 8 = op :=
  BitVec.extractLsb'_append_eq_left

theorem Hdr.ofWord_above (op : BitVec 8) (h : Hdr) (r : BitVec 44) : Hdr.ofWord (h.above op r) = h := by
  have hdr {start len : Nat} (h1 : 44 ≤ start) (h2 : start - 44 + len ≤ 12) :
      (h.above op r).extractLsb' start len = h.toBits.extractLsb' (start - 44) len :=
    (BitVec.extractLsb'_append_eq_of_add_le (by omega)).trans (BitVec.extractLsb'_append_eq_of_le h1)
  have split {start len : Nat} : h.toBits.extractLsb' start len =
      BitVec.extractLsb' (n := 3 + (4 + (1 + (1 + 3)))) start len (h.rate ++ (h.stall ++ (h.ws ++ (h.gn ++ h.gp)))) := rfl
  simp (disch := decide) only [Hdr.ofWord, hdr, split, Nat.reduceSub, extractLsb'_append_top,
    BitVec.extractLsb'_append_eq_of_add_le, BitVec.extractLsb'_eq_self]

/-- The bits below the header are those of the format's own fields. -/
theorem Hdr.above_fields (op : BitVec 8) (h : Hdr) {n start len : Nat} (r : BitVec n) (hl : start + len ≤ n) :
    (h.above op r).extractLsb' start len = r.extractLsb' start len :=
  (BitVec.extractLsb'_append_eq_of_add_le (by omega)).trans (BitVec.extractLsb'_append_eq_of_add_le hl)

theorem FC.ofWord_toWord (op : BitVec 8) (f : FC) : FC.ofWord (f.toWord op) = f := by
  have hh : Hdr.ofWord (f.toWord op) = f.h := Hdr.ofWord_above op f.h _
  have hr {start len : Nat} (hl : start + len ≤ 24 + 20) : (f.toWord op).extractLsb' start len =
      (f.off ++ f.fn).extractLsb' start len := Hdr.above_fields op f.h _ hl
  simp (disch := decide) only [FC.ofWord, hh, hr, extractLsb'_append_top,
    BitVec.extractLsb'_append_eq_of_add_le, BitVec.extractLsb'_eq_self]

theorem FV.ofWord_toWord (op : BitVec 8) (f : FV) : FV.ofWord (f.toWord op) = f := by
  have hh : Hdr.ofWord (f.toWord op) = f.h := Hdr.ofWord_above op f.h _
  have hr {start len : Nat} (hl : start + len ≤ 8 + (9 + (9 + (9 + 9)))) : (f.toWord op).extractLsb' start len =
      (f.d ++ (f.sa ++ (f.sb ++ (f.sc ++ f.fn)))).extractLsb' start len := Hdr.above_fields op f.h _ hl
  simp (disch := decide) only [FV.ofWord, hh, hr, extractLsb'_append_top,
    BitVec.extractLsb'_append_eq_of_add_le, BitVec.extractLsb'_eq_self]

theorem FVI.ofWord_toWord (op : BitVec 8) (f : FVI) : FVI.ofWord (f.toWord op) = f := by
  have hh : Hdr.ofWord (f.toWord op) = f.h := Hdr.ofWord_above op f.h _
  have hr {start len : Nat} (hl : start + len ≤ 8 + (9 + (16 + 11))) : (f.toWord op).extractLsb' start len =
      (f.d ++ (f.sa ++ (f.imm ++ f.fn))).extractLsb' start len := Hdr.above_fields op f.h _ hl
  simp (disch := decide) only [FVI.ofWord, hh, hr, extractLsb'_append_top,
    BitVec.extractLsb'_append_eq_of_add_le, BitVec.extractLsb'_eq_self]

theorem FU.ofWord_toWord (op : BitVec 8) (f : FU) : FU.ofWord (f.toWord op) = f := by
  have hh : Hdr.ofWord (f.toWord op) = f.h := Hdr.ofWord_above op f.h _
  have hr {start len : Nat} (hl : start + len ≤ 5 + (5 + (5 + (1 + (4 + 24))))) : (f.toWord op).extractLsb' start len =
      (f.d ++ (f.sa ++ (f.sb ++ (f.i ++ (f.fn ++ f.imm))))).extractLsb' start len := Hdr.above_fields op f.h _ hl
  simp (disch := decide) only [FU.ofWord, hh, hr, extractLsb'_append_top,
    BitVec.extractLsb'_append_eq_of_add_le, BitVec.extractLsb'_eq_self]

theorem FM.ofWord_toWord (op : BitVec 8) (f : FM) : FM.ofWord (f.toWord op) = f := by
  have hh : Hdr.ofWord (f.toWord op) = f.h := Hdr.ofWord_above op f.h _
  have hr {start len : Nat} (hl : start + len ≤ 8 + (9 + (4 + (16 + (2 + (3 + 2)))))) :
      (f.toWord op).extractLsb' start len =
        (f.data ++ (f.addr ++ (f.seg ++ (f.off ++ (f.pol ++ (f.size ++ f.space)))))).extractLsb' start len :=
    Hdr.above_fields op f.h _ hl
  simp (disch := decide) only [FM.ofWord, hh, hr, extractLsb'_append_top,
    BitVec.extractLsb'_append_eq_of_add_le, BitVec.extractLsb'_eq_self]

/-! ### From the words of an instruction back to it (R291) -/

/-- What the decoder answers for an opcode over the fields of each format. -/
def decodeFields (op : Nat) (c : FC) (v : FV) (vi : FVI) (u : FU) (m : FM) (w2 : BitVec 64) : Option Instr :=
  mkC op c <|> mkV op v <|> mkVI op vi <|> mkU op u <|> mkM op m <|> mkV2 op v w2 <|> mkU2 op u w2

theorem decode_eq_decodeFields (w w2 : BitVec 64) : decode w w2 = decodeFields (w.extractLsb' 56 8).toNat
    (FC.ofWord w) (FV.ofWord w) (FVI.ofWord w) (FU.ofWord w) (FM.ofWord w) w2 := rfl

/-- Whether a body is, in its own format, the fields given for that format. -/
def Body.Reads (c : FC) (v : FV) (vi : FVI) (u : FU) (m : FM) : Body → Prop
  | .c f => c = f
  | .v f => v = f
  | .vi f => vi = f
  | .u f => u = f
  | .m f => m = f
  | .event => False

/-- The word of an instruction shows its opcode, and its fields when read in its format. -/
theorem Instr.word_reads {i : Instr} (he : i.body ≠ .event) :
    i.word.extractLsb' 56 8 = BitVec.ofNat 8 i.opcode ∧
      i.body.Reads (FC.ofWord i.word) (FV.ofWord i.word) (FVI.ofWord i.word) (FU.ofWord i.word) (FM.ofWord i.word) := by
  unfold Instr.word
  cases hb : i.body with
  | c f => exact ⟨Hdr.above_opcode _ f.h _, FC.ofWord_toWord _ f⟩
  | v f => exact ⟨Hdr.above_opcode _ f.h _, FV.ofWord_toWord _ f⟩
  | vi f => exact ⟨Hdr.above_opcode _ f.h _, FVI.ofWord_toWord _ f⟩
  | u f => exact ⟨Hdr.above_opcode _ f.h _, FU.ofWord_toWord _ f⟩
  | m f => exact ⟨Hdr.above_opcode _ f.h _, FM.ofWord_toWord _ f⟩
  | event => exact absurd hb he

/-- The RTT that FN[1:0] names (R303). -/
def rttRow (f : FV) : Nat → Option Instr
  | 0 => some (.rttRetry f)
  | 1 => some (.rttSkip f)
  | 2 => some (.rttKill f)
  | _ => none

theorem mkV_rtt {f : FV} {n : Nat} (h : f.fn.toNat % 4 = n) : mkV 0xE1 f = rttRow f n := by
  subst h
  rfl

/-- The rows of format V are looked up after those of format C. -/
theorem decodeFields_of_mkV {op : Nat} {i : Instr} {c v vi u m w2} (hc : mkC op c = none) (hv : mkV op v = some i) :
    decodeFields op c v vi u m w2 = some i := by
  simp [decodeFields, hc, hv]

/-- Every row of the opcode map: its opcode over its own fields is the row. FN tells AWAIT from AWAIT.steal and the three RTTs
apart (R303). -/
theorem decodeFields_of_reads {i : Instr} {c v vi u m} (hr : i.body.Reads c v vi u m) (hf : rowFnOk i = true) :
    decodeFields i.opcode c v vi u m (i.second.getD 0) = some i := by
  cases i
  case await f =>
    have hfn : ¬ f.fn.getLsbD 0 = true := by simpa [rowFnOk] using hf
    exact decodeFields_of_mkV rfl (by rw [show v = f from hr]; exact congrArg some (if_neg hfn))
  case awaitSteal f =>
    exact decodeFields_of_mkV rfl (by rw [show v = f from hr]; exact congrArg some (if_pos hf))
  case rttRetry f | rttSkip f | rttKill f =>
    exact decodeFields_of_mkV rfl (by rw [show v = f from hr]; exact mkV_rtt (beq_iff_eq.mp hf))
  all_goals cases hr
  all_goals rfl

/-- Only an event has no body. -/
theorem Instr.body_ne_event {i : Instr} (he : i.isEvent = false) : i.body ≠ .event := by
  intro hb
  cases i <;> cases hb <;> cases he

theorem Instr.opcode_lt {i : Instr} (he : i.isEvent = false) : i.opcode < 256 := by
  have hle : i.opcode ≤ 256 := by cases i <;> exact Nat.le_of_ble_eq_true rfl
  have hne : i.opcode ≠ 256 := by simpa [Instr.isEvent] using he
  omega

/-- The rows with a second word are those whose opcode R291 marks. -/
theorem Instr.twoWordOps_contains_opcode (i : Instr) : twoWordOps.contains i.opcode = i.second.isSome := by
  cases i <;> rfl

/-- The word of an instruction shows its opcode. -/
theorem Instr.word_opcode {i : Instr} (he : i.isEvent = false) : (i.word.extractLsb' 56 8).toNat = i.opcode := by
  rw [(Instr.word_reads (Instr.body_ne_event he)).1, BitVec.toNat_ofNat, Nat.mod_eq_of_lt (Instr.opcode_lt he)]

theorem Instr.isTwoWord_word {i : Instr} (he : i.isEvent = false) : isTwoWord i.word = i.second.isSome := by
  rw [isTwoWord, Instr.word_opcode he, Instr.twoWordOps_contains_opcode]

/-- The words of an instruction decode to it, the second read as 0 where there is none. -/
theorem Instr.decode_word {i : Instr} (he : i.isEvent = false) (hf : rowFnOk i = true) :
    decode i.word (i.second.getD 0) = some i := by
  rw [decode_eq_decodeFields, Instr.word_opcode he]
  exact decodeFields_of_reads (Instr.word_reads (Instr.body_ne_event he)).2 hf

/-- Memory's bytes of an instruction decode to it and to what stands behind them. -/
theorem decodeBytes_encodeBytes {i : Instr} (rest : List Byte) (he : i.isEvent = false) (hf : rowFnOk i = true) :
    decodeBytes (encodeBytes i ++ rest) = some (i, rest) := by
  have hd := Instr.decode_word he hf
  have ht := Instr.isTwoWord_word he
  cases hs : i.second with
  | none =>
    rw [hs] at hd ht
    have hb : encodeBytes i = leBytes 8 i.word.toNat := by simp [encodeBytes, encode, hs]
    rw [hb, decodeBytes_of_one_word rest (by simpa using ht), BitVec.ofNat_toNat, BitVec.setWidth_eq]
    simpa using hd
  | some w2 =>
    rw [hs] at hd ht
    have hb : encodeBytes i = leBytes 8 i.word.toNat ++ leBytes 8 w2.toNat := by simp [encodeBytes, encode, hs]
    rw [hb, List.append_assoc, decodeBytes_of_two_words _ rest (by simpa using ht), BitVec.ofNat_toNat, BitVec.ofNat_toNat,
      BitVec.setWidth_eq, BitVec.setWidth_eq]
    simpa using hd

/-- Settles O2: by the row of the instruction, whose word shows its opcode and the fields of its format. -/
theorem encodeDecodeRoundTrip : Obligations.EncodeDecodeRoundTrip := by
  intro i rest he hwf
  have hf : rowFnOk i = true := (Bool.and_eq_true_iff.mp hwf).2
  exact decodeBytes_encodeBytes rest he hf

end Sys2Proof
end

section
/-! A step that runs an instruction: fetch through translation, issue, and the placing of a program. -/

namespace Sys2Proof.Machine

/-! ### Bytes at their home -/

/-- Bytes written to memory below the host window. -/
theorem homeWrite_memory (bs : List Byte) (s : State) (a : Nat) (h : a + bs.length ≤ hostBase) :
    s.homeWrite false a bs =
      { s with mem := msetList memDefault s.mem a bs, poison := (s.homeWrite false a bs).poison } := by
  induction bs generalizing s a with
  | nil => rfl
  | cons b bs ih =>
    rw [List.length_cons] at h
    have ha : ¬ hostBase ≤ a := by omega
    have hb : a + 1 + bs.length ≤ hostBase := by omega
    rw [State.homeWrite, ih _ _ hb]
    simp [State.setHomeByte, ha, msetList]

theorem homeWrite_no_poison (bs : List Byte) (s : State) (chip : Bool) (a : Nat) (h : s.poison = []) :
    (s.homeWrite chip a bs).poison = [] := by
  induction bs generalizing s a with
  | nil => exact h
  | cons b bs ih =>
    have hb : (s.setHomeByte chip a b).poison = [] := by
      unfold State.setHomeByte
      split
      · exact h
      · split <;> simp [h]
    exact ih _ _ hb

theorem homeRead_add {s : State} (chip : Bool) (a m n : Nat) :
    s.homeRead chip a (m + n) = s.homeRead chip a m ++ s.homeRead chip (a + m) n := by
  simp [State.homeRead, List.range_add, Nat.add_assoc]

/-- A part of a written run of entries reads as that part. -/
theorem mget_msetList_range [DecidableEq β] (d : β) (m : Map β) (a : Nat) (xs : List β) (k n : Nat)
    (h : k + n ≤ xs.length) :
    (List.range n).map (fun i => mget d (msetList d m a xs) (a + k + i)) = (xs.drop k).take n := by
  refine List.ext_getElem (by simp; omega) fun i h1 h2 => ?_
  have hi : i < n := by simpa using h1
  have hin : a ≤ a + k + i ∧ a + k + i < a + xs.length := by omega
  have hsub : a + k + i - a = k + i := by omega
  have hlt : k + i < xs.length := by omega
  simp [mget_msetList, hin, hsub, hlt]

/-! ### Fetch (R182) -/

/-- A word to which nothing was stored during the block's life is fetched as its home holds it. -/
theorem fetchWord_of_unwritten {e : Env} {pc : CodeOff} {va : Nat} {s1 : State} {ps : List (Phys × Nat)}
    (hva : e.codeVa pc = some va) (htr : e.s.translateAll e.who .fetch (pieces va 9 8) = (s1, .ok ps))
    (hm : e.b.mem0 = s1.mem) (hh : e.b.host0 = s1.host) :
    e.fetchWord pc = (s1, .ok (BitVec.ofNat 64 (leNat (ps.flatMap fun (p, k) => s1.homeRead false p.pa k)))) := by
  have hold : ({ s1 with mem := e.b.mem0, host := e.b.host0 } : State) = s1 := by rw [hm, hh]
  unfold Env.fetchWord
  simp only [hva, htr, hold, if_pos]

/-- Lane code is fetched through g15 (R182). -/
theorem codeVa_of_lane_code {e : Env} (pc : CodeOff) (ht : e.t.trap = none) (hf : e.t.farEntry = false) :
    e.codeVa pc = segAddr (e.b.seg 15) 15 0 pc.toNat 8 false true := by
  simp [Env.codeVa, ht, hf]

/-- A cached translation serves a fetch (R180). -/
theorem translate_fetch_of_hit {s : State} {w : Who} {va : Nat} {x : Tlb}
    (h : s.tlb.find? (fun e => e.covers w.core w.ctx va && flagsGrant e.gflags .fetch w.user &&
      flagsGrant e.hflags .fetch true) = some x) :
    s.translate w .fetch va = (s, s.finalCheck w .fetch va { pa := x.pa + (va - x.va), pbmt := x.pbmt }) := by
  unfold State.translate
  simp [h]

/-- A fetch reads no data, so it meets no error in it (R207). -/
theorem dataBad_fetch (s : State) (w : Who) (chip : Bool) (a n : Nat) : s.dataBad w .fetch chip a n = false := rfl

/-- A fetch whose pieces all translate, and change nothing in the state. -/
theorem translateAll_fetch {s : State} {w : Who} {f : Nat → Phys} (ps : List (Nat × Nat))
    (h : ∀ p ∈ ps, s.translate w .fetch (p.1 % 2 ^ 48) = (s, .ok (f p.1))) :
    s.translateAll w .fetch ps = (s, .ok (ps.map fun p => (f p.1, p.2))) := by
  induction ps with
  | nil => rfl
  | cons p ps ih =>
    have hp := h p (by simp)
    have hps := ih fun q hq => h q (by simp [hq])
    unfold State.translateAll
    simp only [hp, dataBad_fetch, hps, Bool.false_eq_true, if_false, List.map_cons]

/-- An aligned 8-byte access has two pieces (R173). -/
theorem pieces_of_aligned {a : Nat} (h : a % 4 = 0) : pieces a 9 8 = [(a, 4), (a + 4, 4)] := by
  have h4 : (a + 4) % 4 = 0 := by omega
  simp [pieces, h, h4]

/-- What is fetched where the word at PC opens no second one. -/
theorem fetch_of_one_word {e : Env} {s1 : State} {w : DWord} {i : Instr} (hf : e.fetchWord e.t.pc = (s1, .ok w))
    (h1 : isTwoWord w = false) (hd : decode w 0 = some i) : e.fetch = (s1, .instr i) := by
  unfold Env.fetch
  simp only [hf, h1, Bool.false_eq_true, if_false, hd]

/-- What is fetched where the word at PC opens a second one. -/
theorem fetch_of_two_words {e : Env} {s1 s2 : State} {w w2 : DWord} {i : Instr} (hf : e.fetchWord e.t.pc = (s1, .ok w))
    (h2 : isTwoWord w = true) (hf2 : ({ e with s := s1 } : Env).fetchWord (e.t.pc + 8) = (s2, .ok w2))
    (hd : decode w w2 = some i) : e.fetch = (s2, .instr i) := by
  unfold Env.fetch
  simp only [hf, h2, if_true, hf2, hd]

/-! ### Issue -/

/-- A team that may issue and has nothing to do before its instruction runs what it has fetched. -/
theorem issueTeam_of_fetched {s s' : State} {t : Team} {i : Instr} (ex : Instr → State → Out) (hc : s.canIssue t = true)
    (hp : t.packets = []) (ha : t.async = [] ∨ t.trap.isSome = true ∨ t.cursor ≠ 0) (hf : s.fetched t = (s', .instr i))
    (hb : t.merge.blocker (s'.blockOf t.merge).rtRun i = none) :
    s.issueTeam t ex = s'.jointly t.merge i ex (noted i s' (ex i s')) := by
  have hs : t.status = .ready := by simp [State.canIssue] at hc; tauto
  have hasync : (!t.async.isEmpty && t.trap.isNone && t.cursor == 0) = false := by
    rcases ha with h | h | h <;> simp +contextual [h, Option.isSome_iff_ne_none.mp]
  have ht : (s'.envAt t).t = t.merge := rfl
  unfold State.issueTeam
  simp [hs, hc, hp, hasync, hf, ht, hb]

theorem jointly_of_no_joins {s : State} {t : Team} {i : Instr} (ex : Instr → State → Out) (o : Out)
    (h : s.joins t i = none) : s.jointly t i ex o = o := by
  unfold State.jointly
  cases o <;> simp [h]

/-- A team of a slot that holds no pair does not wait for a lower half. -/
theorem lowerFirst_of_not_fore {s : State} {t : Team} (ex : Instr → State → Out) (h : t.fore = false) :
    s.lowerFirst t ex = none := by
  simp [State.lowerFirst, h]

theorem joins_of_not_fore {s : State} {t : Team} {i : Instr} (h : t.fore = false) : s.joins t i = none := by
  simp [State.joins, h]

/-- With no event to come, a step issues the selected team. -/
theorem step_of_issue {s : State} {t : Team} (hi : s.inputs = []) (hp : s.pkg.powered = true) (ht : s.curTeam = some t)
    (hl : s.lowerFirst t exec = none) : step s = passed s (s.issueTeam t exec) := by
  simp [step, State.advanceWith, hi, hp, ht, hl]

/-! ### A program placed in memory (log 23) -/

/-- The part at reset with `m` in memory and one launched team over it. -/
def placedOver (m : Map Byte) : State :=
  { State.reset with
    mem := m, teams := [placedTeam State.reset], blocks := [{ placedBlock State.reset with mem0 := m }], tlb := [placedTlb],
    ctxs := [{ id := 1, part := 0 }], parts := [placedPart], nextId := State.reset.nextId + 1 }

/-- Memory that holds the words of a number at the placed address. -/
def placedMem (x : Nat) : Map Byte := msetList memDefault [] placeAt (leBytes 16 x)

theorem placeCode_reset (x : Nat) : State.reset.placeCode x = placedOver (placedMem x) := by
  have hw : State.reset.homeWrite false placeAt (leBytes 16 x) = { State.reset with mem := placedMem x } := by
    rw [homeWrite_memory _ _ _ (by simp [placeAt, hostBase]), homeWrite_no_poison _ _ _ _ rfl]
    rfl
  unfold State.placeCode
  rw [hw]
  generalize placedMem x = m
  rfl

theorem placedOver_curTeam (m : Map Byte) : (placedOver m).curTeam = some (placedTeam State.reset) := rfl

theorem placedOver_canIssue (m : Map Byte) : (placedOver m).canIssue (placedTeam State.reset) = true := rfl

/-- The placed team at issue. -/
def placedEnv (m : Map Byte) : Env :=
  { s := placedOver m, t := placedTeam State.reset, b := { placedBlock State.reset with mem0 := m } }

theorem placedOver_envAt (m : Map Byte) : (placedOver m).envAt (placedTeam State.reset) = placedEnv m := rfl

theorem placedEnv_who (m : Map Byte) : (placedEnv m).who =
    { tid := 1, core := 0, slot := 0, ctx := 1, part := 0, user := true } := rfl

theorem placedEnv_seg (m : Map Byte) (k : Nat) : (placedEnv m).b.seg k = (placedBlock State.reset).seg k := rfl

theorem placedOver_physCheck (m : Map Byte) {a : Nat} (ha : a < 2 ^ 38) : (placedOver m).physCheck 0 a = none := by
  have hlt : a < 0x80_0000_0000 := by omega
  have hbit : ((placedOver m).part 0).groups.getLsbD (bits a 38 34) = true := by
    have hb : bits a 38 34 < 32 := by simp [bits]; omega
    exact (BitVec.getLsbD_allOnes (v := 32)).trans (decide_eq_true hb)
  simp [State.physCheck, hlt, hbit]

/-- The placed translation leads every address that it covers to itself. -/
theorem placedOver_translate (m : Map Byte) {w : Who} {a : Nat} (hc : w.core = 0) (hx : w.ctx = 1) (hp : w.part = 0)
    (hu : w.user = true) (ha : a < 2 ^ 38) :
    (placedOver m).translate w .fetch a = (placedOver m, .ok { pa := a, pbmt := 0 }) := by
  have hhit : (placedOver m).tlb.find? (fun e => e.covers w.core w.ctx a && flagsGrant e.gflags .fetch w.user &&
      flagsGrant e.hflags .fetch true) = some placedTlb := by
    have hcov : placedTlb.covers 0 1 a = true := by simp [Tlb.covers, placedTlb]; omega
    simp [placedOver, hc, hx, hu, hcov, show flagsGrant placedTlb.gflags .fetch true = true by decide,
      show flagsGrant placedTlb.hflags .fetch true = true by decide]
  have hmap : (if a < 2 ^ 48 then (placedOver m).physCheck w.part a else some .accessFault) = none := by
    rw [if_pos (by omega), hp, placedOver_physCheck m ha]
  rw [translate_fetch_of_hit hhit]
  simp only [State.finalCheck, placedTlb, Nat.sub_zero, Nat.zero_add, hmap]
  rfl

/-- The word at an offset of the placed program, as memory holds it. -/
theorem placedOver_fetchWord (m : Map Byte) {pc : CodeOff} {a : Nat}
    (hva : segAddr ((placedBlock State.reset).seg 15) 15 0 pc.toNat 8 false true = some a) (h4 : a % 4 = 0)
    (ha : a + 8 ≤ 2 ^ 38) :
    (placedEnv m).fetchWord pc = (placedOver m, .ok (BitVec.ofNat 64 (leNat ((placedOver m).homeRead false a 8)))) := by
  have hcode : (placedEnv m).codeVa pc = some a := by
    rw [codeVa_of_lane_code pc rfl rfl, placedEnv_seg, hva]
  have htr (p : Nat × Nat) (hp : p ∈ pieces a 9 8) :
      (placedOver m).translate (placedEnv m).who .fetch (p.1 % 2 ^ 48) = (placedOver m, .ok { pa := p.1, pbmt := 0 }) := by
    rw [pieces_of_aligned h4] at hp
    have hlt : p.1 < 2 ^ 38 := by
      rcases List.mem_pair.mp hp with rfl | rfl <;> simp only <;> omega
    rw [Nat.mod_eq_of_lt (by omega), placedEnv_who]
    exact placedOver_translate m rfl rfl rfl rfl hlt
  have hall : (placedEnv m).s.translateAll (placedEnv m).who .fetch (pieces a 9 8) =
      (placedOver m, .ok ((pieces a 9 8).map fun p => ({ pa := p.1, pbmt := 0 }, p.2))) :=
    translateAll_fetch (f := fun b => { pa := b, pbmt := 0 }) _ htr
  rw [fetchWord_of_unwritten hcode hall rfl rfl, pieces_of_aligned h4, homeRead_add false a 4 4]
  simp

/-- What the placed memory holds at its two words. -/
theorem placedMem_read (x k : Nat) (hk : k + 8 ≤ 16) :
    (placedOver (placedMem x)).homeRead false (placeAt + k) 8 = ((leBytes 16 x).drop k).take 8 := by
  have hhome (a : Nat) (ha : a < hostBase) :
      (placedOver (placedMem x)).homeByte false a = mget memDefault (placedMem x) a := by
    have hn : ¬ hostBase ≤ a := by omega
    simp [State.homeByte, hn, placedOver]
  rw [← mget_msetList_range memDefault [] placeAt (leBytes 16 x) k 8 (by simpa using hk)]
  refine List.map_congr_left fun i hi => hhome _ ?_
  have hi8 : i < 8 := List.mem_range.mp hi
  simp only [placeAt, hostBase]
  omega

/-- The first word of a placed number. -/
theorem placed_fetchWord_first (x : Nat) :
    (placedEnv (placedMem x)).fetchWord 0 = (placedOver (placedMem x), .ok (BitVec.ofNat 64 x)) := by
  have hr : (placedOver (placedMem x)).homeRead false placeAt 8 = leBytes 8 x := by
    rw [← Nat.add_zero placeAt, placedMem_read x 0 (by decide), leBytes_add 8 8]
    simp
  rw [placedOver_fetchWord _ (a := placeAt) (by decide +kernel) (by decide) (by decide), hr, ofNat_leNat_leBytes_eight]

/-- The second word of a placed number. -/
theorem placed_fetchWord_second (x : Nat) :
    (placedEnv (placedMem x)).fetchWord 8 = (placedOver (placedMem x), .ok (BitVec.ofNat 64 (x / 256 ^ 8))) := by
  have hr : (placedOver (placedMem x)).homeRead false (placeAt + 8) 8 = leBytes 8 (x / 256 ^ 8) := by
    rw [placedMem_read x 8 (by decide), leBytes_add 8 8]
    simp
  rw [placedOver_fetchWord _ (a := placeAt + 8) (by decide +kernel) (by decide) (by decide), hr, ofNat_leNat_leBytes_eight]

/-- The placed team fetches the instruction that the number's bits decode to. -/
theorem placed_fetched {nbits w : Nat} {i : Instr} (h : decodeTableWord nbits w = some i) :
    (placedOver (placedMem (w % 2 ^ nbits))).fetched (placedTeam State.reset) =
      (placedOver (placedMem (w % 2 ^ nbits)), .instr i) := by
  unfold decodeTableWord tableBytes at h
  generalize w % 2 ^ nbits = x at h ⊢
  rw [leBytes_add 8 8 x] at h
  rw [State.fetched, placedOver_envAt]
  cases ht : isTwoWord (BitVec.ofNat 64 x) with
  | false =>
    rw [decodeBytes_of_one_word _ ht] at h
    have hd : decode (BitVec.ofNat 64 x) 0 = some i := by simpa [Function.comp_def] using h
    exact fetch_of_one_word (placed_fetchWord_first x) ht hd
  | true =>
    rw [← List.append_nil (leBytes 8 (x / 256 ^ 8)), decodeBytes_of_two_words _ _ ht] at h
    have hd : decode (BitVec.ofNat 64 x) (BitVec.ofNat 64 (x / 256 ^ 8)) = some i := by simpa [Function.comp_def] using h
    exact fetch_of_two_words (placed_fetchWord_first x) ht (placed_fetchWord_second x) hd

/-- Settles O6: the placed words are fetched through the placed translation, and the placed team has nothing to do before
them. -/
theorem placedInstructionRuns : Obligations.PlacedInstructionRuns := by
  intro nbits w i h
  have hfore : (placedTeam State.reset).fore = false := rfl
  have hmerge : (placedTeam State.reset).merge.fore = false := rfl
  refine ⟨placedOver (placedMem (w % 2 ^ nbits)), placedOver_curTeam _, ?_⟩
  rw [State.withFetchWord, placeCode_reset, step_of_issue rfl rfl (placedOver_curTeam _) (lowerFirst_of_not_fore _ hfore),
    issueTeam_of_fetched _ (placedOver_canIssue _) rfl (.inl rfl) (placed_fetched h) rfl,
    jointly_of_no_joins _ _ (joins_of_not_fore hmerge)]

end Sys2Proof.Machine
end

section
/-! The part at reset, and what a step does with the events to come. -/

namespace Sys2Proof.Machine

/-! ### A step and the events to come (R15, R18, R142) -/

/-- The part at reset lists nothing in memory. -/
theorem reset_homeByte (chip : Bool) (a : Nat) : State.reset.homeByte chip a = memDefault := by
  unfold State.homeByte
  split
  · rfl
  · split <;> rfl

theorem reset_homeRead (chip : Bool) (a n : Nat) : State.reset.homeRead chip a n = List.replicate n memDefault := by
  rw [State.homeRead, funext fun i => reset_homeByte chip (a + i), List.map_const', List.length_range]

/-- Settles O8: nothing is listed at reset, and the values of the registers are those of the initial package. -/
theorem resetState : Obligations.ResetState := by
  have hread (a n : Nat) : State.reset.homeRead false a n = List.replicate n 0 := reset_homeRead false a n
  have hport (k : Nat) : State.reset.pkg.port k = {} := rfl
  have hteam (h : State.reset.teams.any Team.resident = true) : ∃ t, State.reset.curTeam = some t := by cases h
  exact ⟨rfl, rfl, rfl, rfl, rfl, rfl, hread, rfl, rfl, rfl, rfl, rfl, hteam, rfl, rfl, rfl,
    fun k => by rw [hport], rfl, rfl, rfl, rfl⟩

/-- A step takes the oldest event to come, in the state that it finds. -/
theorem step_of_event {s : State} {i : Instr} {is : List Instr} (hi : s.inputs = i :: is) (he : i.isEvent = true)
    (hp : s.pkg.powered = true ∨ powersOn i = true) : step s = passed s (exec i { s.midway exec with inputs := is }) := by
  rcases hp with hp | hp <;> simp [step, State.advanceWith, hi, he, hp]

/-- A part without power finds no instruction half done. -/
theorem midway_of_off {s : State} (ex : Instr → State → Out) (h : s.pkg.powered = false) : s.midway ex = s := by
  simp [State.midway, h]

/-- A part without power stops at every step but the one that takes PACKAGE_POWER_ON (R18). -/
theorem step_of_off {s : State} (hp : s.pkg.powered = false)
    (hi : ∀ i is, s.inputs = i :: is → i.isEvent = true ∧ powersOn i = false) : step s = .fault .powerRemoved := by
  cases h : s.inputs with
  | nil => simp [step, State.advanceWith, h, hp, passed]
  | cons i is =>
    obtain ⟨he, hn⟩ := hi i is h
    simp [step, State.advanceWith, h, hp, he, hn, passed]

/-- No mask word of a team is none of its lanes. -/
theorem narrow_zero_mask (t : Team) (j : Nat) : (t.narrow j 0).mask = 0 := by
  have hno (l : Nat) : (decide (32 * j ≤ l) && decide (l < 32 * (j + 0))) = false := by simp
  have hw : t.lanesOf (fun l => decide (32 * j ≤ l) && decide (l < 32 * (j + 0))) = 0 := by
    refine BitVec.eq_of_getLsbD_eq fun l hl => ?_
    rw [getLsbD_lanesOf _ _ _ hl, hno]
    simp
  simp only [Team.narrow, hw]
  simp

/-- Passes are begun only where some of the words of the selected team are done and some are left. -/
theorem begin_of_not_between {s : State} {t : Team} {k : Nat} (ex : Instr → State → Out) (ht : s.curTeam = some t)
    (hk : k = 0 ∨ t.words ≤ k) : s.begin k ex = none := by
  unfold State.begin
  simp only [ht]
  split
  · rename_i s' i hf
    have hleft : (k = 0) ∨ (((s'.envAt t).t.narrow k ((s'.envAt t).t.words - k)).actNH i.hdr == 0) = true := by
      refine hk.imp_right fun h => ?_
      have hw : (s'.envAt t).t.words - k = 0 := by
        have hm : (s'.envAt t).t.words = t.words := by simp [State.envAt, Team.words]
        omega
      rw [hw]
      simp [Team.actNH, Team.act, narrow_zero_mask]
    refine if_pos ?_
    rcases hleft with h | h
    · simp only [h, decide_true, Bool.true_or]
    · simp only [h, Bool.or_true, Bool.true_or]
  · rfl

/-- The state that an event finds: the part as it stands, or with some but not all of the passes of the selected team's
instruction done (log 107). -/
theorem midway_cases (s : State) (ex : Instr → State → Out) :
    s.midway ex = s ∨ ∃ k t, 0 < k ∧ s.curTeam = some t ∧ k < t.words ∧ s.begin k ex = some (s.midway ex) := by
  cases hp : s.pkg.powered with
  | false => exact .inl (midway_of_off ex hp)
  | true =>
    cases ht : s.curTeam with
    | none => left; simp [State.midway, hp, ht]
    | some t =>
      have hm : s.midway ex = (s.begin (Config.passesBegun s.tick % t.words) ex).getD s := by
        simp [State.midway, hp, ht]
      cases hb : s.begin (Config.passesBegun s.tick % t.words) ex with
      | none => left; rw [hm, hb]; rfl
      | some s' =>
        have hbetween (hk : Config.passesBegun s.tick % t.words = 0 ∨ t.words ≤ Config.passesBegun s.tick % t.words) :
            False := by rw [begin_of_not_between ex ht hk] at hb; cases hb
        refine .inr ⟨Config.passesBegun s.tick % t.words, t, ?_, rfl, ?_, by rw [hm, hb]; rfl⟩
        · exact Nat.pos_of_ne_zero fun h0 => hbetween (.inl h0)
        · exact Nat.lt_of_not_le fun hle => hbetween (.inr hle)

/-- No team has come or left between a state and itself. -/
theorem track_self (s : State) : s.track s = s := by
  have hheld (t : Team) (ht : t ∈ s.teams) (hr : t.resident = true) :
      (s.teams.any fun u => u.tid == t.tid && u.resident) = true := List.any_eq_true.mpr ⟨t, ht, by simp [hr]⟩
  unfold State.track
  refine if_pos (Bool.and_eq_true_iff.mpr ⟨?_, List.all_eq_true.mpr fun t ht => ?_⟩)
  · rw [List.isEmpty_iff, List.map_eq_nil_iff, List.filter_eq_nil_iff]
    intro t ht h
    obtain ⟨hr, hgone⟩ := Bool.and_eq_true_iff.mp h
    simp only [hheld t ht hr] at hgone
    cases hgone
  · cases hr : t.resident with
    | false => rfl
    | true => exact hheld t ht hr

/-- Settles O5: by whether the part has power, and by the head of the list of events to come. -/
theorem stepTakesOldestEvent : Obligations.StepTakesOldestEvent := by
  refine ⟨fun s i is hi he hp => step_of_event hi he (.inl hp), fun s => midway_cases s exec, ?_, ?_, ?_, ?_⟩
  · intro s b is hi hp
    rw [step_of_event hi rfl (.inr rfl), midway_of_off exec hp]
  · intro s i is hi he hn hp
    refine step_of_off hp fun j js hj => ?_
    obtain ⟨rfl, -⟩ := List.cons.inj (hi.symm.trans hj)
    exact ⟨he, hn⟩
  · intro s hi hp
    exact step_of_off hp fun i is h => by rw [hi] at h; cases h
  · intro s hi hp ht
    simp [step, State.advanceWith, hi, hp, ht, passed, track_self]

end Sys2Proof.Machine
end

section
/-! System instructions and collectives at issue. -/

namespace Sys2Proof.Machine

/-! ### System instructions (R404 to R415) -/

/-- A double word is its high half before its low half. -/
theorem halves_append (x : DWord) : (x >>> 32).truncate 32 ++ x.truncate 32 = x := by
  refine BitVec.eq_of_getLsbD_eq fun k _ => ?_
  rw [BitVec.getLsbD_append]
  by_cases hk : k < 32
  · simp [hk]
  · have hadd : 32 + (k - 32) = k := by omega
    have hlt : k - 32 < 32 := by omega
    simp [hk, hadd, hlt]

/-- A 64-bit result stands in the lanes of its pair. -/
theorem getV_putPair (t : Team) (d : Nat) (w : Lanes) (x : Nat → DWord) {l : Nat} (hl : l < 1024) (hlt : l < t.lanes)
    (hw : w.getLsbD l = true) : (t.putPair d w x).getV (d + 1) l ++ (t.putPair d w x).getV d l = x l := by
  have hhi : (t.putPair d w x).getV (d + 1) l = (x l >>> 32).truncate 32 := by
    simp [Team.putPair, Team.putRun, getV_putV, hl, hlt, hw]
  have hlo : (t.putPair d w x).getV d l = (x l).truncate 32 := by
    simp [Team.putPair, Team.putRun, getV_putV, hl, hlt, hw, vname_succ]
  rw [hhi, hlo, halves_append]

section
variable {e : Env} {i : Instr}

/-- A system opcode with helpers alone among its active lanes only advances (R404). -/
theorem system_of_helpers (k : Out) (h : ¬ e.t.mask &&& ~~~e.t.helper ≠ 0) :
    e.system i k = .next (e.stepped i e.s e.t none) := if_pos (not_not.mp h)

/-- A system opcode with an active lane that is no helper acts (R404). -/
theorem system_of_acts (k : Out) (h : e.t.mask &&& ~~~e.t.helper ≠ 0) : e.system i k = k := if_neg h

/-- An instruction whose 64-bit result is `x` in every active lane (R320), and that leaves `s'`. -/
theorem pair_stepped (e : Env) (i : Instr) (s' : State) (d : Nat) (x : Nat → DWord) :
    ∃ t, ({ e with s := s' } : Env).pair i d e.t.mask x = .next (e.stepped i s' t none) ∧
      ∀ l, l < 1024 → l < e.t.lanes → e.t.mask.getLsbD l = true → t.getV (d + 1) l ++ t.getV d l = x l :=
  ⟨_, rfl, fun _ hl hlt hw => getV_putPair _ _ _ _ hl hlt hw⟩

end

theorem exec_csrr (f : FV) (s : State) : exec (.csrr f) s = execCsrr f s := rfl
theorem exec_csrw (f : FV) (s : State) : exec (.csrw f) s = execCsrw f s := rfl
theorem exec_clock (f : FV) (s : State) : exec (.clock f) s = execClock f s := rfl
theorem exec_frec (f : FV) (s : State) : exec (.frec f) s = execFrec f s := rfl
theorem exec_pmark (f : FV) (s : State) : exec (.pmark f) s = execPmark f s := rfl
theorem exec_tlbi (f : FV) (s : State) : exec (.tlbi f) s = execTlbi f s := rfl
theorem exec_coll (f : FV) (w2 : DWord) (s : State) : exec (.coll f w2) s = execColl f w2 s := rfl

/-- What CSRR leaves of the control registers: SMP_DROPPED clears where a handler reads it (R409). -/
def Env.csrRead (e : Env) (n : Nat) : State :=
  if e.t.trap.isSome = true ∧ n = 0x14 then e.s.putCtx { e.s.ctx e.b.ctx with smpDropped := 0 } else e.s

theorem execCsrr_of_acts {f : FV} {s : State} {e : Env} (hr : s.ready (.csrr f) = some e) (h : e.t.mask &&& ~~~e.t.helper ≠ 0) :
    exec (.csrr f) s = ({ e with s := e.csrRead (e.uval f.sa.toNat).toNat } : Env).pair (.csrr f) f.d.toNat e.t.mask
      fun _ => e.s.csr (e.s.ctx e.b.ctx) (e.uval f.sa.toNat).toNat := by
  rw [exec_csrr, execCsrr, issue_of_ready hr, system_of_acts _ h]
  cases ht : e.t.trap <;> simp [State.readCsr, Env.csrRead, ht]

theorem execCsrw_of_acts {f : FV} {s : State} {e : Env} (hr : s.ready (.csrw f) = some e) (h : e.t.mask &&& ~~~e.t.helper ≠ 0) :
    exec (.csrw f) s = .next (e.stepped (.csrw f) (if e.t.trap.isSome = true then
      e.s.writeCsr (e.s.ctx e.b.ctx) (e.uval f.sa.toNat).toNat (e.uval f.sb.toNat) else e.s) e.t none) := by
  rw [exec_csrw, execCsrw, issue_of_ready hr, system_of_acts _ h]
  rfl

/-- PMARK writes one sample while sampling is enabled (R411). -/
theorem execPmark_of_acts {f : FV} {s : State} {e : Env} (hr : s.ready (.pmark f) = some e) (h : e.t.mask &&& ~~~e.t.helper ≠ 0) :
    exec (.pmark f) s = .next (e.stepped (.pmark f)
      (if (e.s.ctx e.b.ctx).smpEn = true then e.s.sample e.b e.t e.t.pc 0 else e.s) e.t none) := by
  rw [exec_pmark, execPmark, issue_of_ready hr, system_of_acts _ h]
  cases (e.s.ctx e.b.ctx).smpEn <;> rfl

/-- The fields of the fault record by number (R183). -/
theorem fault_field (r : FaultRec) (n l : Nat) : r.field n l =
    if n = 0 then r.cause else if n = 1 then r.pc else if n = 2 then r.insn else if n = 3 then r.info
    else if n = 4 then r.eaddr
    else if n = 8 then mget 0 r.va l &&& 0xFFFF_FFFF else if n = 9 then (mget 0 r.va l >>> 32) &&& 0xFFFF
    else if n = 10 then mget 0 r.gpa l &&& 0xFFFF_FFFF
    else if n = 11 then (mget 0 r.gpa l >>> 32) &&& 0x3FFFF else 0 := by
  unfold FaultRec.field
  split
  case h_10 =>
    rename_i h0 h1 h2 h3 h4 h8 h9 h10 h11
    rw [if_neg h0, if_neg h1, if_neg h2, if_neg h3, if_neg h4, if_neg h8, if_neg h9, if_neg h10, if_neg h11]
  all_goals rfl

/-! ### Control registers (R408, R409) -/

section
variable (s : State) (c : Ctx) {n : Nat} (x : DWord)

theorem csr_pmc {k : Nat} (hk : k < 8) : s.csr c k = mget 0 c.pmc k := if_pos hk

theorem csr_pmcsel {k : Nat} (hk : k < 8) : s.csr c (8 + k) = mget 0 c.pmcsel k := by
  have hlow : ¬ 8 + k < 8 := by omega
  have hhigh : 8 + k < 0x10 := by omega
  unfold State.csr
  rw [if_neg hlow, if_pos hhigh, Nat.add_sub_cancel_left]

theorem writeCsr_pmc (h : n < 8) : s.writeCsr c n x = s.putCtx { c with pmc := mset 0 c.pmc n x } := if_pos h

theorem writeCsr_pmcsel (h : 8 ≤ n) (h' : n < 0x10) :
    s.writeCsr c n x = s.putCtx { c with pmcsel := mset 0 c.pmcsel (n - 8) (x &&& 0xFF) } := by
  unfold State.writeCsr
  rw [if_neg (Nat.not_lt.mpr h), if_pos h']

/-- The control registers that take no write. -/
theorem writeCsr_readOnly (h : 0x13 ≤ n) : s.writeCsr c n x = s := by
  have h8 : ¬ n < 8 := by omega
  have h16 : ¬ n < 0x10 := by omega
  unfold State.writeCsr
  rw [if_neg h8, if_neg h16]
  split
  case h_4 => rfl
  all_goals omega

end

/-! ### COLL at issue (R415) -/

/-- A group as a rank's COLL finds it at `now` and joins it, where it is group `g`. -/
def Group.joined (g : Group) (c : CollInst) (now : Nat) (x : Group) : Group :=
  if x.handle = g.handle then
    { x with insts := x.insts ++ [c], issued := mset 0 x.issued c.rank (c.n + 1),
             since := if x.insts = [] ∧ x.complete = false then now else x.since }
  else x

/-- The state in which a COLL has joined group `g`, after its edges (R200). -/
def Env.collJoins (e : Env) (g : Group) (c : CollInst) : State :=
  let s := e.target (e.source e.s)
  { s with groups := s.groups.map (g.joined c s.timeNs), nextId := s.nextId + 1 }

/-- The team that has opened the operation of a COLL in its counter. -/
def Env.collOpens (e : Env) (c : CollInst) : Team :=
  let k := e.t.counters.getD c.k {}
  { e.t with counters := e.t.counters.set c.k { k with opened := k.opened ++ [c.op] } }

/-- A group of the state that an instruction answers fails. -/
theorem lost_of_find {h : BitVec 32} {s : State} {g : Group} (hg : s.groups.find? (fun y => y.handle == h) = some g) :
    lost h (.next s) = .next (s.collFail g) := by
  simp only [lost, hg]

theorem execColl_of_invalid {f : FV} {w2 : DWord} {s : State} {e : Env} (hr : s.ready (.coll f w2) = some e)
    (h : e.t.mask &&& ~~~e.t.helper ≠ 0) (hg : e.collGroup f (e.collInst f w2) = none) :
    exec (.coll f w2) s = .next (e.counted.takeTrap e.t (e.raise (.coll f w2) .descInvalid)) := by
  rw [exec_coll, execColl, issue_of_ready hr, system_of_acts _ h]
  simp only [hg]
  rfl

/-- A valid COLL joins its group; it ends at once where the group is cut off, or where the COLLs of its number have ended. -/
theorem execColl_of_group {f : FV} {w2 : DWord} {s : State} {e : Env} {g : Group} {c : CollInst}
    (hr : s.ready (.coll f w2) = some e) (h : e.t.mask &&& ~~~e.t.helper ≠ 0)
    (hg : e.collGroup f (e.collInst f w2) = some g)
    (hc : c = { e.collInst f w2 with n := mget 0 g.issued (e.collInst f w2).rank }) :
    let out : Out := .next (e.stepped (.coll f w2) (e.collJoins g c) (e.collOpens c) none)
    exec (.coll f w2) s = if (e.target (e.source e.s)).cutOff g = true then lost g.handle out
      else if c.n < g.lostTo then ends g.handle c out else out := by
  intro out
  have hjoin (now : Nat) : g.joined c now = fun x => if x.handle = g.handle then
      { x with insts := x.insts ++ [c], issued := mset 0 x.issued c.rank (c.n + 1),
               since := if x.insts.isEmpty && !x.complete then now else x.since } else x := by
    funext x
    simp [Group.joined]
  have hdone : out = ({ e with s := e.collJoins g c } : Env).done (.coll f w2) (e.collOpens c) none := rfl
  have hcut : (e.target (e.source e.s)).cutOff g = (e.collJoins g c).cutOff g := by
    unfold State.cutOff
    rfl
  rw [exec_coll, execColl, issue_of_ready hr, system_of_acts _ h, hg, hdone, hcut, Env.collJoins, Env.collOpens, hjoin, hc]

/-- Settles O51: instruction by instruction, where an active lane is no helper and where none is. -/
theorem systemInstructionsComplete : Obligations.SystemInstructionsComplete := by
  intro f w2 s e
  refine ⟨?_, ?_, fun k hk => ⟨csr_pmc _ _ hk, csr_pmcsel _ _ hk⟩, rfl, rfl, rfl, rfl, rfl, rfl, rfl, rfl, ?_, ?_, ?_, ?_, ?_, ?_⟩
  · intro i hi hr ha
    simp only [List.mem_cons, List.not_mem_nil, or_false] at hi
    rcases hi with rfl | rfl | rfl | rfl | rfl | rfl | rfl
    · rw [exec_csrr, execCsrr, issue_of_ready hr, system_of_helpers _ ha]
    · rw [exec_csrw, execCsrw, issue_of_ready hr, system_of_helpers _ ha]
    · rw [exec_clock, execClock, issue_of_ready hr, system_of_helpers _ ha]
    · rw [exec_frec, execFrec, issue_of_ready hr, system_of_helpers _ ha]
    · rw [exec_pmark, execPmark, issue_of_ready hr, system_of_helpers _ ha]
    · rw [exec_tlbi, execTlbi, issue_of_ready hr, system_of_helpers _ ha]
    · rw [exec_coll, execColl, issue_of_ready hr, system_of_helpers _ ha]
  · intro hr ha
    rw [execCsrr_of_acts hr ha]
    exact pair_stepped e _ _ _ _
  · intro hr ha
    simp only [execCsrw_of_acts hr ha]
    refine ⟨fun hh => by rw [hh]; rfl, fun hh => ?_⟩
    rw [hh, if_pos rfl]
    refine ⟨fun hn => ?_, fun hn hn' => ?_, fun hn => ?_, fun hn => ?_, fun hn => ?_, fun hn => ?_⟩
    · rw [writeCsr_pmc _ _ _ hn]
    · rw [writeCsr_pmcsel _ _ _ hn hn']
    · rw [hn]; rfl
    · rw [hn]; rfl
    · rw [hn]; rfl
    · rw [writeCsr_readOnly _ _ _ hn]
  · intro hr ha
    rw [exec_clock, execClock, issue_of_ready hr, system_of_acts _ ha]
    exact pair_stepped e _ e.s _ _
  · intro hr ha
    rw [exec_frec, execFrec, issue_of_ready hr, system_of_acts _ ha, funext fun l => fault_field e.t.fault _ l]
    exact pair_stepped e _ e.s _ _
  · exact fun hr ha => execPmark_of_acts hr ha
  · intro hr ha
    rw [exec_tlbi, execTlbi, issue_of_ready hr, system_of_acts _ ha]
    exact ⟨_, rfl, rfl⟩
  · intro hr ha
    refine ⟨fun hg => execColl_of_invalid hr ha hg, fun g hg => ?_⟩
    simp only [execColl_of_group hr ha hg]
    refine ⟨fun hc hn => ?_, fun hc hn => ?_, fun x hc hx => ?_⟩
    · rw [hc, if_neg Bool.false_ne_true, if_neg (Nat.not_lt.mpr hn)]
      rfl
    · rw [hc, if_neg Bool.false_ne_true, if_pos hn]
      rfl
    · rw [hc, if_pos rfl]
      exact lost_of_find hx

end Sys2Proof.Machine
end

section
/-! The package: lists of pairs, firmware cores, throttle states and the guest systems that power-on starts. -/

namespace Sys2Proof.Machine

/-! ### Lists of pairs -/

/-- A list of pairs is looked up as a sparse array is read. -/
theorem alookup_eq_mget {β : Type} (d : β) (l : List (Nat × β)) (k : Nat) : alookup d l k = mget d l k := by
  induction l with
  | nil => rfl
  | cons e r ih =>
    obtain ⟨j, x⟩ := e
    rw [mget_cons, ← ih]
    by_cases h : j = k <;> simp [alookup, h]

/-- Reading through the replacement of a key. -/
theorem mget_map_replace {β : Type} (d : β) (l : List (Nat × β)) (k j : Nat) (x : β) :
    mget d (l.map fun e => if e.1 == k then (k, x) else e) j =
      if j = k ∧ l.any (fun e => e.1 == j) = true then x else mget d l j := by
  have hkeys : (fun e : Nat × β => if e.1 == k then (k, x) else e) = fun e => (e.1, if e.1 = k then x else e.2) := by
    funext e
    by_cases he : e.1 = k <;> simp [he]
  rw [hkeys]
  induction l with
  | nil => simp
  | cons e r ih =>
    obtain ⟨i, y⟩ := e
    rw [List.map_cons, mget_cons, mget_cons, ih]
    by_cases hi : i = j
    · simp [hi]
    · have hb : (i == j) = false := by simpa using hi
      rw [if_neg hi, if_neg hi, List.any_cons, hb, Bool.false_or]

/-- Lookup after a replacement or an addition. -/
theorem alookup_aput {β : Type} (d : β) (l : List (Nat × β)) (k j : Nat) (x : β) :
    alookup d (aput l k x) j = if j = k then x else alookup d l j := by
  rw [alookup_eq_mget, alookup_eq_mget, aput]
  split
  · rename_i hany
    rw [mget_map_replace]
    by_cases hj : j = k <;> simp [hj, hany]
  · rename_i hany
    rw [Bool.not_eq_true] at hany
    rw [mget_append, mget_cons]
    by_cases hj : j = k
    · subst hj
      simp [hany]
    · cases h : (l.any fun e => e.1 == j)
      · simp [hj, Ne.symm hj, mget_of_not_any d l j h]
      · simp [hj]

@[simp] theorem Pkg.core_putCore_same (p : Pkg) (k : Nat) (c : FwCore) : (p.putCore k c).core k = c := by
  simp [Pkg.core, Pkg.putCore, alookup_aput]

/-! ### Throttle states (R18 to R20) -/

theorem target_of_pend_zero {p : Pkg} {die : Nat} (h : mget 0 p.pend die = 0) : p.target die = mget 0 p.th die := by
  simp only [Pkg.target, h]

theorem target_of_pend_succ {p : Pkg} {die n : Nat} (h : mget 0 p.pend die = n + 1) : p.target die = n := by
  simp only [Pkg.target, h]

/-- The target of a die depends on what is decided and in force for it. -/
theorem target_congr {p q : Pkg} {die : Nat} (hp : mget 0 q.pend die = mget 0 p.pend die)
    (ht : mget 0 q.th die = mget 0 p.th die) : q.target die = p.target die := by
  simp only [Pkg.target, hp, ht]

section
variable (p : Pkg) (die d : Nat)

/-- The decided state is the target; the other die keeps its own. -/
theorem target_decideState (st : Nat) : (p.decideState die st).target d = if d = die then st else p.target d := by
  unfold Pkg.decideState
  by_cases hst : st = p.target die
  · rw [if_pos hst]
    by_cases hd : d = die <;> simp [hd, hst]
  · rw [if_neg hst]
    by_cases hd : d = die
    · rw [if_pos hd, hd]
      exact target_of_pend_succ (mget_mset_same _ _ _ _)
    · rw [if_neg hd]
      exact target_congr (mget_mset_other _ _ _ hd) rfl

theorem target_up : (p.up die).target d = if d = die then Nat.min 3 (p.target die + 1) else p.target d :=
  target_decideState _ _ _ _

theorem target_down : (p.down die).target d =
    if d = die ∧ p.floorOf die < p.target die ∧ die ∉ p.hot then p.target die - 1 else p.target d := by
  unfold Pkg.down
  by_cases hc : p.floorOf die < p.target die ∧ die ∉ p.hot
  · rw [if_pos (by simpa using hc), target_decideState]
    simp [hc]
  · rw [if_neg (by simpa using hc), if_neg fun h => hc h.2]

theorem target_lift : (p.lift die).target d = if d = die then max (p.target die) (p.floorOf die) else p.target d := by
  unfold Pkg.lift
  split
  · rename_i h
    rw [target_decideState, Nat.max_eq_right h.le]
  · rename_i h
    by_cases hd : d = die
    · rw [if_pos hd, hd, Nat.max_eq_left (Nat.not_lt.mp h)]
    · rw [if_neg hd]

end

section
variable {α : Type} {f : Pkg → α} (hf : ∀ p m, f { p with pend := m } = f p) (p : Pkg) (die : Nat)
include hf

/-- Deciding a state changes nothing but what is decided. -/
theorem decideState_frame (st : Nat) : f (p.decideState die st) = f p := by
  unfold Pkg.decideState
  split
  · rfl
  · exact hf _ _

theorem up_frame : f (p.up die) = f p := decideState_frame hf _ _ _

theorem down_frame : f (p.down die) = f p := by
  unfold Pkg.down
  split
  · exact decideState_frame hf _ _ _
  · rfl

theorem lift_frame : f (p.lift die) = f p := by
  unfold Pkg.lift
  split
  · exact decideState_frame hf _ _ _
  · rfl

end

/-! ### Judging the power (R18) -/

theorem controls_iff (p : Pkg) : p.controls = true ↔ p.islandUp = true ∧ p.fallback = false := by simp [Pkg.controls]

/-- The package as the island finds it when it has taken a sample. -/
def Pkg.sampled (p : Pkg) (w : Nat) (temp : List Nat) : Pkg :=
  { p with pkgW := BitVec.ofNat 16 (Nat.min w 0xFFFF), tempMax := BitVec.ofNat 8 (Nat.min 255 (temp.foldl Nat.max 0)) }

theorem sampled_pkgW (p : Pkg) (w : Nat) (temp : List Nat) : (p.sampled w temp).pkgW.toNat = Nat.min w 0xFFFF :=
  (BitVec.toNat_ofNat _ _).trans (Nat.mod_eq_of_lt (Nat.lt_succ_of_le (Nat.min_le_right w 0xFFFF)))

theorem exec_powerSample {s : State} (w : Nat) (temp : List Nat) (h : s.pkg.controls = true) :
    exec (.powerSample w temp) s = .next { s with pkg := (s.pkg.sampled w temp).judge s.timeNs } := by
  have hup : s.pkg.islandUp = true := ((controls_iff _).mp h).1
  have hc : (s.pkg.sampled w temp).controls = true := h
  rw [show exec (.powerSample w temp) s = execPowerSample w temp s from rfl, execPowerSample, hup]
  exact congrArg (fun q => Host.Outcome.next { s with pkg := q }) (if_pos hc)

/-- Above the cap both dies move up, and the island waits 1 ms. -/
theorem judge_over {p : Pkg} {now : Nat} (hw : p.capWait ≤ now) (h : p.capW.toNat < p.pkgW.toNat) :
    (p.judge now).capWait = now + 1000000 ∧ ∀ d, d < 2 → (p.judge now).target d = Nat.min 3 (p.target d + 1) := by
  have htarget (d : Nat) (hd : d < 2) : ((p.up 0).up 1).target d = Nat.min 3 (p.target d + 1) := by
    rw [target_up, target_up, target_up]
    obtain rfl | rfl : d = 0 ∨ d = 1 := by omega
    · rfl
    · rfl
  unfold Pkg.judge
  rw [if_neg (Nat.not_lt.mpr hw), if_pos h]
  generalize (p.up 0).up 1 = q at htarget
  exact ⟨rfl, htarget⟩

/-- After 10 ms below 94 % of the cap both dies move down, where they may. -/
theorem judge_under {p : Pkg} {now n : Nat} (hw : p.capWait ≤ now) (hl : p.lowSince = some n) (hn : n + 10000000 ≤ now)
    (h : 100 * p.pkgW.toNat < 94 * p.capW.toNat) : ∀ d, d < 2 → (p.judge now).target d =
      if p.floorOf d < p.target d ∧ d ∉ p.hot then p.target d - 1 else p.target d := by
  intro d hd
  have hover : ¬ p.capW.toNat < p.pkgW.toNat := by omega
  unfold Pkg.judge
  rw [if_neg (Nat.not_lt.mpr hw), if_neg hover, if_pos h, hl]
  simp only [if_pos hn]
  have hfloor : (p.down 0).floorOf 1 = p.floorOf 1 := down_frame (f := fun p => p.floorOf 1) (fun _ _ => rfl) p 0
  have hhot : (p.down 0).hot = p.hot := down_frame (f := Pkg.hot) (fun _ _ => rfl) p 0
  refine (target_congr (p := (p.down 0).down 1) rfl rfl).trans ?_
  rw [target_down, target_down, target_down, hfloor, hhot]
  obtain rfl | rfl : d = 0 ∨ d = 1 := by omega
  · simp
  · simp

/-! ### Fast-trips and hot junctions (R18) -/

/-- What a fast-trip does to one die. -/
def Pkg.tripped (p : Pkg) (now d : Nat) : Pkg := ({ p with pause := mset 0 p.pause d (now + 2000) } : Pkg).tripUp d

/-- `q` is a package that a fast-trip of die `d` leaves of `p`. -/
structure Tripped (p : Pkg) (now d : Nat) (q : Pkg) : Prop where
  pause : mget 0 q.pause d = now + 2000
  moved : p.controls = true → q.target d = Nat.min 3 (p.target d + 1)
  waits : p.controls = false → p.fallback = false → q.target d = p.target d ∧
    mget 0 q.fastWait d = Nat.min 3 (mget 0 p.fastWait d + 1)

/-- `q` is `p` to the fast-trips of die `d`. -/
structure SameTrip (p q : Pkg) (d : Nat) : Prop where
  pause : mget 0 q.pause d = mget 0 p.pause d
  target : q.target d = p.target d
  wait : mget 0 q.fastWait d = mget 0 p.fastWait d
  controls : q.controls = p.controls
  fallback : q.fallback = p.fallback

theorem tripUp_of_controls {p : Pkg} (d : Nat) (h : p.controls = true) : p.tripUp d = p.up d := if_pos h

theorem tripUp_of_fallback {p : Pkg} (d : Nat) (hc : p.controls = false) (h : p.fallback = true) : p.tripUp d = p := by
  simp [Pkg.tripUp, hc, h]

theorem tripUp_of_waiting {p : Pkg} (d : Nat) (hc : p.controls = false) (h : p.fallback = false) :
    p.tripUp d = { p with fastWait := mset 0 p.fastWait d (Nat.min 3 (mget 0 p.fastWait d + 1)) } := by
  simp [Pkg.tripUp, hc, h]

/-- A fast-trip of one die is nothing to the other. -/
theorem sameTrip_tripped (p : Pkg) (now : Nat) {d e : Nat} (h : e ≠ d) : SameTrip p (p.tripped now d) e := by
  have hpause : mget 0 (mset 0 p.pause d (now + 2000)) e = mget 0 p.pause e := mget_mset_other _ _ _ h
  unfold Pkg.tripped
  generalize hq : ({ p with pause := mset 0 p.pause d (now + 2000) } : Pkg) = q
  have hpq : SameTrip p q e := by subst hq; exact ⟨hpause, rfl, rfl, rfl, rfl⟩
  cases hc : q.controls with
  | true =>
    rw [tripUp_of_controls d hc]
    refine ⟨?_, ?_, ?_, ?_, ?_⟩
    · exact (up_frame (f := fun p => mget 0 p.pause e) (fun _ _ => rfl) q d).trans hpq.pause
    · rw [target_up, if_neg h, hpq.target]
    · exact (up_frame (f := fun p => mget 0 p.fastWait e) (fun _ _ => rfl) q d).trans hpq.wait
    · exact (up_frame (f := Pkg.controls) (fun _ _ => rfl) q d).trans hpq.controls
    · exact (up_frame (f := Pkg.fallback) (fun _ _ => rfl) q d).trans hpq.fallback
  | false =>
    cases hf : q.fallback with
    | true => rw [tripUp_of_fallback d hc hf]; exact hpq
    | false =>
      rw [tripUp_of_waiting d hc hf]
      exact ⟨hpq.pause, hpq.target, (mget_mset_other _ _ _ h).trans hpq.wait, hpq.controls, hpq.fallback⟩

theorem tripped_self (p : Pkg) (now d : Nat) : Tripped p now d (p.tripped now d) := by
  have hpause : mget 0 (mset 0 p.pause d (now + 2000)) d = now + 2000 := mget_mset_same _ _ _ _
  unfold Pkg.tripped
  generalize hq : ({ p with pause := mset 0 p.pause d (now + 2000) } : Pkg) = q
  have hqp : mget 0 q.pause d = now + 2000 := by subst hq; exact hpause
  have hcontrols : q.controls = p.controls := by subst hq; rfl
  have hfallback : q.fallback = p.fallback := by subst hq; rfl
  have htarget : q.target d = p.target d := by subst hq; rfl
  have hwait : q.fastWait = p.fastWait := by subst hq; rfl
  cases hc : q.controls with
  | true =>
    rw [tripUp_of_controls d hc]
    refine ⟨?_, fun _ => ?_, fun h => ?_⟩
    · exact (up_frame (f := fun p => mget 0 p.pause d) (fun _ _ => rfl) q d).trans hqp
    · rw [target_up, if_pos rfl, htarget]
    · rw [← hcontrols, hc] at h; cases h
  | false =>
    have hno (h : p.controls = true) : False := by rw [← hcontrols, hc] at h; cases h
    cases hf : q.fallback with
    | true =>
      rw [tripUp_of_fallback d hc hf]
      exact ⟨hqp, fun h => (hno h).elim, fun _ h => by rw [← hfallback, hf] at h; cases h⟩
    | false =>
      rw [tripUp_of_waiting d hc hf, hwait]
      exact ⟨hqp, fun h => (hno h).elim, fun _ _ => ⟨htarget, mget_mset_same _ _ _ _⟩⟩

theorem Tripped.of_same {p q r : Pkg} {now d : Nat} (hs : SameTrip p q d) (ht : Tripped q now d r) : Tripped p now d r where
  pause := ht.pause
  moved h := by rw [ht.moved (hs.controls.trans h), hs.target]
  waits hc hf := by
    obtain ⟨htarget, hwait⟩ := ht.waits (hs.controls.trans hc) (hs.fallback.trans hf)
    exact ⟨htarget.trans hs.target, by rw [hwait, hs.wait]⟩

theorem Tripped.then_same {p q r : Pkg} {now d : Nat} (ht : Tripped p now d q) (hs : SameTrip q r d) : Tripped p now d r where
  pause := hs.pause.trans ht.pause
  moved h := hs.target.trans (ht.moved h)
  waits hc hf := ⟨hs.target.trans (ht.waits hc hf).1, hs.wait.trans (ht.waits hc hf).2⟩

/-- Every die of the rail is tripped (R18). -/
theorem tripped_railDies (p : Pkg) (now : Nat) (r : Rail) :
    ∀ d ∈ railDies r, Tripped p now d ((railDies r).foldl (fun p d => p.tripped now d) p) := by
  have hboth : ∀ d ∈ [0, 1], Tripped p now d ((p.tripped now 0).tripped now 1) := by
    intro d hd
    rcases List.mem_pair.mp hd with rfl | rfl
    · exact (tripped_self p now 0).then_same (sameTrip_tripped _ now (by decide))
    · exact (tripped_self _ now 1).of_same (sameTrip_tripped p now (by decide))
  cases r with
  | cmp0 => intro d hd; cases List.mem_singleton.mp hd; exact tripped_self p now 0
  | cmp1 => intro d hd; cases List.mem_singleton.mp hd; exact tripped_self p now 1
  | mem | iod => exact hboth
  | aon => intro d hd; cases hd

/-- A fast-trip leaves its mark. -/
theorem tripped_fasttrip (p : Pkg) (now : Nat) (l : List Nat) :
    (l.foldl (fun p d => Pkg.tripped p now d) p).fasttrip = p.fasttrip := by
  induction l generalizing p with
  | nil => rfl
  | cons d l ih =>
    rw [List.foldl_cons, ih]
    unfold Pkg.tripped Pkg.tripUp
    split
    · exact up_frame (f := Pkg.fasttrip) (fun _ _ => rfl) _ _
    · split <;> rfl

/-! ### Leaving and entering a state (R18, R19) -/

theorem exec_junction105 {s : State} (die : Nat) (h : s.pkg.controls = true) : exec (.junction105 die) s =
    .next { s with pkg := ({ s.pkg with
      hot := if s.pkg.hot.contains die then s.pkg.hot else die :: s.pkg.hot } : Pkg).enter3 die } := by
  have hc : ({ s.pkg with hot := if s.pkg.hot.contains die then s.pkg.hot else die :: s.pkg.hot } : Pkg).controls = true := h
  exact congrArg (fun q => Host.Outcome.next { s with pkg := q }) (if_pos hc)

theorem enter3_target (p : Pkg) (die : Nat) : (p.enter3 die).target die = 3 :=
  (target_of_pend_zero (mget_mset_same _ _ _ _)).trans (mget_mset_same _ _ _ _)

theorem exec_junctionBelow95 {s : State} {die : Nat} (h : s.pkg.controls = true) (hd : die ∈ s.pkg.hot) :
    exec (.junctionBelow95 die) s =
      .next { s with pkg := ({ s.pkg with hot := s.pkg.hot.filter (· != die) } : Pkg).down die } := by
  have hin : (!s.pkg.hot.contains die) = false := by simpa using hd
  have hc : ({ s.pkg with hot := s.pkg.hot.filter (· != die) } : Pkg).controls = true := h
  rw [show exec (.junctionBelow95 die) s = execJunctionBelow95 die s from rfl, execJunctionBelow95, hin]
  exact congrArg (fun q => Host.Outcome.next { s with pkg := q }) (if_pos hc)

theorem exec_frequencyChange_waits {s : State} {die : Nat}
    (h : s.pkg.islandUp = false ∨ (die = 1 ∧ mget 0 s.pkg.pend 0 ≠ 0)) : exec (.frequencyChange die) s = .next s := by
  have hc : (!s.pkg.islandUp || (die == 1 && mget 0 s.pkg.pend 0 != 0)) = true := by
    rcases h with h | ⟨rfl, h⟩ <;> simp [h]
  rw [show exec (.frequencyChange die) s = execFrequencyChange die s from rfl, execFrequencyChange]
  split
  · rfl
  · exact if_pos hc

theorem exec_frequencyChange {s : State} {die n : Nat} (hup : s.pkg.islandUp = true)
    (h1 : die = 1 → mget 0 s.pkg.pend 0 = 0) (hn : mget 0 s.pkg.pend die = n + 1) :
    exec (.frequencyChange die) s =
      .next { s with pkg := { s.pkg with th := mset 0 s.pkg.th die n, pend := mset 0 s.pkg.pend die 0 } } := by
  have hc : ¬ (!s.pkg.islandUp || (die == 1 && mget 0 s.pkg.pend 0 != 0)) = true := by
    simpa [hup] using h1
  rw [show exec (.frequencyChange die) s = execFrequencyChange die s from rfl, execFrequencyChange]
  simp only [hn]
  exact if_neg hc

/-! ### The power cap (R19, R20) -/

theorem clampCap_lt (v : Nat) : clampCap v < 2 ^ 16 :=
  Nat.lt_of_le_of_lt (Nat.max_le.mpr ⟨by decide, Nat.min_le_left 2600 v⟩ : clampCap v ≤ 2600) (by decide)

/-- The package with a value of the power cap register. -/
def Pkg.withCap (p : Pkg) (v : Nat) : Pkg :=
  { p with capW := BitVec.ofNat 16 (clampCap (bits v 15 0)), floor := BitVec.ofNat 2 (bits v 17 16) }

theorem withCap_capW (p : Pkg) (v : Nat) : (p.withCap v).capW.toNat = clampCap (v % 0x10000) :=
  (BitVec.toNat_ofNat _ _).trans (Nat.mod_eq_of_lt (clampCap_lt _))

theorem withCap_floor (p : Pkg) (v : Nat) : (p.withCap v).floor.toNat = v / 0x10000 % 4 := by
  simp [Pkg.withCap, bits, Nat.shiftRight_eq_div_pow]

/-- Both dies are lifted to their floors. -/
def Pkg.lifted (p : Pkg) : Pkg := (p.lift 0).lift 1

theorem lifted_frame {α : Type} {f : Pkg → α} (hf : ∀ p m, f { p with pend := m } = f p) (p : Pkg) : f p.lifted = f p :=
  (lift_frame hf _ _).trans (lift_frame hf _ _)

theorem lifted_floorOf (p : Pkg) (d : Nat) : p.lifted.floorOf d = p.floorOf d :=
  lifted_frame (f := fun p => p.floorOf d) (fun _ _ => rfl) p

theorem floorOf_le_lifted_target (p : Pkg) {d : Nat} (hd : d < 2) : p.lifted.floorOf d ≤ p.lifted.target d := by
  have h1 : (p.lift 0).floorOf 1 = p.floorOf 1 := lift_frame (f := fun p => p.floorOf 1) (fun _ _ => rfl) p 0
  rw [lifted_floorOf, Pkg.lifted, target_lift, h1]
  obtain rfl | rfl : d = 0 ∨ d = 1 := by omega
  · simp [target_lift]
  · simp

theorem writeCap_eq (s : State) (v : Nat) : s.writeCap v =
    { s with pkg := if s.pkg.controls = true then (s.pkg.withCap v).lifted else s.pkg.withCap v } := rfl

/-- A frame of the power cap register holds of what a write of it leaves. -/
theorem writeCap_frame {α : Type} {f : Pkg → α} (hf : ∀ p m, f { p with pend := m } = f p) (s : State) (v : Nat) :
    f (s.writeCap v).pkg = f (s.pkg.withCap v) := by
  rw [writeCap_eq]
  split
  · exact lifted_frame hf _
  · rfl

/-! ### The end of the fallback (R64) -/

/-- A die enters TH2 or its floor, where the 105 °C rule does not hold it. -/
def Pkg.fromTwo (p : Pkg) (d : Nat) : Pkg := if p.hot.contains d then p else p.decideState d (Nat.max 2 (p.floorOf d))

/-- The island takes up the moves of one die. -/
def Pkg.recoverDie (p : Pkg) (d : Nat) : Pkg :=
  if p.hot.contains d then (if mget 0 p.th d = 3 ∧ mget 0 p.pend d = 0 then p else p.enter3 d)
  else (Pkg.ups d (mget 0 p.fastWait d) p).lift d

theorem recover_eq (p : Pkg) : p.recover = { (p.recoverDie 0).recoverDie 1 with fastWait := [] } := rfl

theorem exec_throttleControlResume {s : State} (hf : s.pkg.fallback = true) (hup : s.pkg.islandUp = true)
    (ht : (s.pkg.core 22).upSince + 10000000000 ≤ s.timeNs) : exec .throttleControlResume s =
      .next { s with pkg := ((({ s.pkg with fallback := false, fastWait := [] } : Pkg).fromTwo 0).fromTwo 1).recover } := by
  have hc : ¬ (!s.pkg.fallback || !s.pkg.islandUp || decide (s.timeNs < (s.pkg.core 22).upSince + 10000000000)) = true := by
    simpa [hf, hup] using ht
  exact if_neg hc

section
variable {α : Type} {f : Pkg → α}

theorem fromTwo_frame (hf : ∀ p m, f { p with pend := m } = f p) (p : Pkg) (d : Nat) : f (p.fromTwo d) = f p := by
  unfold Pkg.fromTwo
  split
  · rfl
  · exact decideState_frame hf _ _ _

theorem ups_frame (hf : ∀ p m, f { p with pend := m } = f p) (d n : Nat) (p : Pkg) : f (Pkg.ups d n p) = f p := by
  induction n generalizing p with
  | zero => rfl
  | succ n ih => exact (ih _).trans (up_frame hf _ _)

theorem recoverDie_frame (hp : ∀ p m, f { p with pend := m } = f p)
    (h3 : ∀ p m n, f { p with th := m, pend := n, thermal := true } = f p) (p : Pkg) (d : Nat) : f (p.recoverDie d) = f p := by
  unfold Pkg.recoverDie
  split
  · split
    · rfl
    · exact h3 _ _ _
  · exact (lift_frame hp _ _).trans (ups_frame hp _ _ _)

end

theorem target_fromTwo (p : Pkg) (d e : Nat) :
    (p.fromTwo d).target e = if e = d ∧ d ∉ p.hot then max 2 (p.floorOf d) else p.target e := by
  unfold Pkg.fromTwo
  by_cases hh : d ∈ p.hot
  · rw [if_pos (by simpa using hh), if_neg fun h => h.2 hh]
  · rw [if_neg (by simpa using hh), target_decideState]
    simp [hh]

/-- A die takes up its own moves alone. -/
theorem target_recoverDie_other (p : Pkg) {d e : Nat} (h : e ≠ d) : (p.recoverDie d).target e = p.target e := by
  have hups (n : Nat) (p : Pkg) : (Pkg.ups d n p).target e = p.target e := by
    induction n generalizing p with
    | zero => rfl
    | succ n ih => rw [Pkg.ups, ih, target_up, if_neg h]
  unfold Pkg.recoverDie
  split
  · split
    · rfl
    · exact target_congr (mget_mset_other _ _ _ h) (mget_mset_other _ _ _ h)
  · rw [target_lift, if_neg h, hups]

/-- A hot die stands in TH3; one that no fast-trip waits for, at its floor or above. -/
theorem target_recoverDie_self {p : Pkg} {d : Nat} (hw : mget 0 p.fastWait d = 0) :
    (p.recoverDie d).target d = if d ∈ p.hot then 3 else max (p.target d) (p.floorOf d) := by
  unfold Pkg.recoverDie
  by_cases hh : d ∈ p.hot
  · rw [if_pos (by simpa using hh), if_pos hh]
    split
    · rename_i h
      exact (target_of_pend_zero h.2).trans h.1
    · exact enter3_target p d
  · rw [if_neg (by simpa using hh), if_neg hh, hw, target_lift, if_pos rfl]
    rfl

/-- The targets that the end of the fallback leaves. -/
theorem resume_target {p : Pkg} (hf : p.fallback = false) (hw : p.fastWait = []) {d : Nat} (hd : d < 2) :
    ((p.fromTwo 0).fromTwo 1).recover.target d = if d ∈ p.hot then 3 else Nat.max 2 p.floor.toNat := by
  have hfloor : max 2 (p.floorOf d) = Nat.max 2 p.floor.toNat := by
    simp only [Pkg.floorOf, hf]
    show max 2 (max p.floor.toNat (max (if p.agedCap.contains d = true then 1 else 0) 0)) = max 2 p.floor.toNat
    split <;> omega
  have hfrom (e : Nat) : (p.fromTwo 0).floorOf e = p.floorOf e := fromTwo_frame (f := fun p => p.floorOf e) (fun _ _ => rfl) p 0
  have hfromHot : (p.fromTwo 0).hot = p.hot := fromTwo_frame (f := Pkg.hot) (fun _ _ => rfl) p 0
  generalize hq : (p.fromTwo 0).fromTwo 1 = q
  have hhot : q.hot = p.hot := hq ▸ (fromTwo_frame (f := Pkg.hot) (fun _ _ => rfl) _ 1).trans hfromHot
  have hfl : q.floorOf d = p.floorOf d := hq ▸ (fromTwo_frame (f := fun p => p.floorOf d) (fun _ _ => rfl) _ 1).trans (hfrom d)
  have hwait : q.fastWait = [] := hq ▸ (fromTwo_frame (f := Pkg.fastWait) (fun _ _ => rfl) _ 1).trans
    ((fromTwo_frame (f := Pkg.fastWait) (fun _ _ => rfl) _ 0).trans hw)
  have htarget : d ∉ p.hot → q.target d = max 2 (p.floorOf d) := by
    intro hh
    rw [← hq, target_fromTwo, hfromHot, hfrom, target_fromTwo]
    obtain rfl | rfl : d = 0 ∨ d = 1 := by omega
    · simp [hh]
    · simp [hh]
  have hrec : q.recover.target d = if d ∈ q.hot then 3 else max (q.target d) (q.floorOf d) := by
    rw [recover_eq]
    refine (target_congr (p := (q.recoverDie 0).recoverDie 1) rfl rfl).trans ?_
    have hrhot : (q.recoverDie 0).hot = q.hot := recoverDie_frame (f := Pkg.hot) (fun _ _ => rfl) (fun _ _ _ => rfl) q 0
    have hrfloor : (q.recoverDie 0).floorOf d = q.floorOf d :=
      recoverDie_frame (f := fun p => p.floorOf d) (fun _ _ => rfl) (fun _ _ _ => rfl) q 0
    have hrwait : (q.recoverDie 0).fastWait = [] :=
      (recoverDie_frame (f := Pkg.fastWait) (fun _ _ => rfl) (fun _ _ _ => rfl) q 0).trans hwait
    obtain rfl | rfl : d = 0 ∨ d = 1 := by omega
    · rw [target_recoverDie_other _ (by decide), target_recoverDie_self (by rw [hwait]; rfl)]
    · rw [target_recoverDie_self (by rw [hrwait]; rfl), hrhot, hrfloor, target_recoverDie_other _ (by decide)]
  rw [hrec, hhot, hfl]
  by_cases hh : d ∈ p.hot
  · rw [if_pos hh, if_pos hh]
  · rw [if_neg hh, if_neg hh, htarget hh, ← hfloor, max_assoc, max_self]

/-! ### Ageing (R76, R77) -/

/-- The steps of a guard band reach its new value. -/
theorem guardSteps_reach {new n now : Nat} (hup : now ≤ new + 5 * n) (hdown : new ≤ now + 5 * n) :
    guardSteps new n now = new := by
  induction n generalizing now with
  | zero => exact Nat.le_antisymm hup hdown
  | succ n ih =>
    have hstep : guardStep now new = if now < new then min new (now + 5) else max new (now - 5) := rfl
    rw [guardSteps, hstep]
    split
    · exact ih (by omega) (by omega)
    · exact ih (by omega) (by omega)

/-- The readings of a cluster are taken over. -/
theorem measure_age (p : Pkg) (r : AgeReading) :
    (p.measure r).age r.cluster = { slow := r.slow, life := r.life, guard_ := r.guard } := by
  have hr := r.guard.isLt
  have ha := (p.age r.cluster).guard_.isLt
  have hg : guardSteps r.guard.toNat 52 (p.age r.cluster).guard_.toNat = r.guard.toNat :=
    guardSteps_reach (by omega) (by omega)
  refine (mget_mset_same _ _ _ _).trans ?_
  rw [hg, BitVec.ofNat_toNat, BitVec.setWidth_eq]

/-- A die with a large guard band in one of its clusters has aged. -/
theorem aged_of_cluster {p : Pkg} {c : Nat} (h : 60 < (p.age c).guard_.toNat) : p.aged (c / 10) = true := by
  refine List.any_eq_true.mpr ⟨c % 10, List.mem_range.mpr (Nat.mod_lt _ (by decide)), ?_⟩
  rw [Nat.div_add_mod]
  exact decide_eq_true h

theorem aged_congr {p q : Pkg} (h : q.ageing = p.ageing) (die : Nat) : q.aged die = p.aged die := by
  unfold Pkg.aged Pkg.age
  rw [h]

theorem capAged_ageing (s : State) (die : Nat) : (s.capAged die).pkg.ageing = s.pkg.ageing := by
  unfold State.capAged
  split
  · dsimp only
    split
    · exact lift_frame (f := Pkg.ageing) (fun _ _ => rfl) _ _
    · rfl
  · rfl

/-- The dies capped by ageing are those that were, and the die itself where it has aged. -/
theorem mem_capAged {s : State} {die d : Nat} (h : d ∈ s.pkg.agedCap ∨ (d = die ∧ s.pkg.aged die = true)) :
    d ∈ (s.capAged die).pkg.agedCap := by
  unfold State.capAged
  split
  · have happ : d ∈ s.pkg.agedCap ++ [die] := List.mem_append.mpr (h.imp id fun h => List.mem_singleton.mpr h.1)
    dsimp only
    split
    · rw [lift_frame (f := Pkg.agedCap) (fun _ _ => rfl)]
      exact happ
    · exact happ
  · rename_i hc
    rcases h with h | ⟨rfl, ha⟩
    · exact h
    · simpa [ha] using hc

theorem exec_ageingMeasure {s : State} {r : AgeReading} (hup : s.pkg.islandUp = true) (hr : r.cluster < 20) :
    exec (.ageingMeasure [r]) s = .next ((({ s with pkg := s.pkg.measure r } : State).capAged 0).capAged 1) := by
  have hl : ([r].filter fun r => decide (r.cluster < 20)) = [r] := by simp [hr]
  rw [show exec (.ageingMeasure [r]) s = execAgeingMeasure [r] s from rfl, execAgeingMeasure, hup, hl]
  rfl

/-! ### Register writes (R5) -/

theorem low32_testBit (v : DWord) {k : Nat} (hk : k < 32) : (v.toNat % 2 ^ 32).testBit k = v.getLsbD k := by
  rw [Nat.testBit_mod_two_pow, decide_eq_true hk, Bool.true_and]
  rfl

/-- A field of the low word of a register. -/
theorem ofNat_low32 (n : Nat) (hn : n ≤ 32) (v : DWord) : BitVec.ofNat n (v.toNat % 2 ^ 32) = v.truncate n := by
  refine BitVec.eq_of_toNat_eq ?_
  rw [BitVec.toNat_ofNat, Nat.mod_mod_of_dvd _ (Nat.pow_dvd_pow 2 hn)]
  exact (BitVec.toNat_setWidth _ _).symm

theorem ofNat_high16 (v : DWord) : BitVec.ofNat 16 (v.toNat % 2 ^ 32 / 2 ^ 16) = v.extractLsb' 16 16 := by
  refine BitVec.eq_of_toNat_eq ?_
  rw [BitVec.toNat_ofNat, BitVec.extractLsb'_toNat, Nat.shiftRight_eq_div_pow]
  omega

/-- A bit of the health register that is set. -/
theorem healthBit_set (s : State) {k : Nat} (hk : k < 6) : (s.healthBit k).pkg.health.getLsbD k = true := by
  simp [State.healthBit, hk]

/-- The W1C bits of the health register. -/
theorem writeHealth_bit (s : State) (v : DWord) (k : Nat) :
    (s.writeHealth 0x20 (v.toNat % 2 ^ 32)).pkg.health.getLsbD k = (s.pkg.health.getLsbD k && !(decide (k < 5) && v.getLsbD k)) := by
  have hbit : (v.toNat % 2 ^ 32 % 2 ^ 5).testBit k = (decide (k < 5) && v.getLsbD k) := by
    rw [Nat.testBit_mod_two_pow]
    by_cases hk : k < 5
    · rw [low32_testBit v (by omega)]
    · simp [hk]
  refine (show _ = (s.pkg.health &&& ~~~(BitVec.ofNat 6 (v.toNat % 2 ^ 32 % 2 ^ 5))).getLsbD k from rfl).trans ?_
  rw [BitVec.getLsbD_and, BitVec.getLsbD_not, BitVec.getLsbD_ofNat, hbit]
  by_cases hk : k < 6
  · simp [hk]
  · simp [BitVec.getLsbD_of_ge _ _ (Nat.le_of_not_lt hk)]

/-- A guest's write of the first double word of a node that its table does not list yet (R102). -/
theorem writeNodeTab_new {s : State} {part k : Nat} (v : DWord) (hp : part < 16) (hk : k < 4096)
    (hn : s.node? (2 ^ 20 * part + k) = none) : s.writeNodeTab part (16 * k) v =
      { s with nodes := s.nodes ++ [{ num := 2 ^ 20 * part + k, validReq := v.getLsbD 0 }] } := by
  have hdiv : 16 * k / 16 = k := Nat.mul_div_cancel_left k (by decide)
  have hmod : 16 * k % 16 = 0 := Nat.mul_mod_right 16 k
  have hin : ¬ (16 ≤ part ∨ 65536 ≤ 16 * k) := by omega
  have hreq : ({ num := 2 ^ 20 * part + k } : Node).request (v.getLsbD 0) =
      { num := 2 ^ 20 * part + k, validReq := v.getLsbD 0 } := by
    unfold Node.request
    cases v.getLsbD 0 <;> rfl
  unfold State.writeNodeTab
  simp only [hdiv, hn, Option.getD_none, if_neg hin, if_pos hmod, hreq]
  unfold State.entryNode
  simp only [hn, Option.isSome_none]
  rfl

/-! ### Power-on (R78, R79) -/

section
variable {α : Type} {f : State → α}
  (hf : ∀ (s : State) m h w p, f { s with mem := m, host := h, writers := w, poison := p } = f s)
include hf

theorem bootPool_frame (s : State) (k : Nat) : f (s.bootPool k) = f s := by
  unfold State.bootPool
  exact hf _ _ _ _ _

/-- Sorrel's writes to its pages touch the guest's memory alone. -/
theorem bootPools_frame (s : State) (ks : List Nat) : f (ks.foldl State.bootPool s) = f s := by
  induction ks generalizing s with
  | nil => rfl
  | cons k ks ih => rw [List.foldl_cons, ih, bootPool_frame hf]

end

/-- A die that has aged is in TH1 from the start (log 35). -/
theorem mget_foldl_mset (l : List Nat) (m : Map Nat) (d x : Nat) :
    mget 0 (l.foldl (fun m d => mset 0 m d x) m) d = if d ∈ l then x else mget 0 m d := by
  induction l generalizing m with
  | nil => rfl
  | cons e l ih =>
    rw [List.foldl_cons, ih, mget_mset]
    by_cases hd : d = e
    · simp [hd]
    · simp [hd]

/-- The partitions of the guest systems, one for each number. -/
def bootParts (guests : List (Nat × List Byte)) : List Part :=
  guests.foldl (fun (ps : List Part) g =>
    if ps.any fun p => p.id == g.1 then ps else ps ++ [bootPart g.1 g.2]) []

theorem mem_bootParts {guests : List (Nat × List Byte)} {q : Part} (h : q ∈ bootParts guests) :
    ∃ g ∈ guests, q = bootPart g.1 g.2 := by
  have key (ps : List Part) (hq : q ∈ guests.foldl (fun (ps : List Part) g =>
      if ps.any fun p => p.id == g.1 then ps else ps ++ [bootPart g.1 g.2]) ps) :
      q ∈ ps ∨ ∃ g ∈ guests, q = bootPart g.1 g.2 := by
    clear h
    induction guests generalizing ps with
    | nil => exact .inl hq
    | cons g gs ih =>
      rcases ih _ hq with h | ⟨g', hg', h⟩
      · dsimp only at h
        split at h
        · exact .inl h
        · rcases List.mem_append.mp h with h | h
          · exact .inl h
          · exact .inr ⟨g, List.mem_cons_self, List.mem_singleton.mp h⟩
      · exact .inr ⟨g', List.mem_cons_of_mem _ hg', h⟩
  exact (key [] h).resolve_left List.not_mem_nil

/-- The part that a good slot boots, before Sorrel writes its pages. -/
def State.booted (s : State) (b : BootArgs) (x : BootSlot) : State :=
  let m := [x.island, x.sched, x.leaf, x.sorrel].map fun i => extend measZero i.bytes
  { s.cold with
    parts := bootParts (b.guests.filter fun g => decide (g.1 < 16)),
    pkg := { s.cold.pkg with booted := true, meas := m.zipIdx.map fun y => (y.2, y.1) } }

theorem exec_packagePowerOn {s : State} {b : BootArgs} {x : BootSlot} (h : bootFrom b = some x) :
    exec (.packagePowerOn b) s = .next (((s.booted b x).parts.map Part.id).foldl State.bootPool (s.booted b x)) := by
  rw [show exec (.packagePowerOn b) s = execPackagePowerOn b s from rfl, execPackagePowerOn, h]
  rfl

theorem exec_packagePowerOn_recovery {s : State} {b : BootArgs} (h : bootFrom b = none) :
    exec (.packagePowerOn b) s = .next { s.cold with pkg := { s.cold.pkg with recovery := true } } := by
  rw [show exec (.packagePowerOn b) s = execPackagePowerOn b s from rfl, execPackagePowerOn, h]

/-- Settles O54: event by event, by what each leaves of the targets of the dies, the registers and the partitions. -/
theorem powerAndRegisterEvents : Obligations.PowerAndRegisterEvents := by
  intro s
  refine ⟨?_, ?_, ?_, ?_, ?_, ?_, ?_, ?_, ?_, ?_, ?_, ?_, ?_, ?_, ?_, ?_, ?_, ?_, ?_⟩
  · intro b x hx
    have hframe {α : Type} {f : State → α}
        (hf : ∀ (s : State) m h w p, f { s with mem := m, host := h, writers := w, poison := p } = f s) :=
      bootPools_frame hf (s.booted b x) ((s.booted b x).parts.map Part.id)
    have hpkg := hframe (f := State.pkg) fun _ _ _ _ _ => rfl
    refine ⟨_, exec_packagePowerOn hx, ?_, ?_, hframe (f := State.teams) fun _ _ _ _ _ => rfl,
      hframe (f := State.blocks) fun _ _ _ _ _ => rfl, fun hg => ?_, ?_, ?_, fun d hd => ?_, fun q hq => ?_, ?_⟩
    · rw [hpkg]; rfl
    · rw [hpkg]; rfl
    · have hparts : (s.booted b x).parts = [] := by simp only [State.booted, hg]; rfl
      rw [hparts]; rfl
    · rw [hpkg]; rfl
    · rw [hpkg]; rfl
    · rw [hpkg]
      exact (mget_foldl_mset _ _ _ _).trans (if_pos hd)
    · rw [hframe (f := State.parts) fun _ _ _ _ _ => rfl] at hq
      obtain ⟨g, hg, rfl⟩ := mem_bootParts hq
      obtain ⟨hin, hlt⟩ := List.mem_filter.mp hg
      exact ⟨rfl, of_decide_eq_true hlt, List.mem_map_of_mem hin, rfl⟩
    · rw [hpkg]; rfl
  · exact fun b hb => ⟨_, exec_packagePowerOn_recovery hb, rfl, rfl, rfl⟩
  · intro w temp hc hw hcap
    obtain ⟨hwait, htarget⟩ := judge_over (p := s.pkg.sampled w temp) hw (by rw [sampled_pkgW]; exact hcap)
    exact ⟨_, exec_powerSample w temp hc, hwait, htarget⟩
  · intro w temp n hc hw hl hn hcap hlt
    have hpkgW : (s.pkg.sampled w temp).pkgW.toNat = w := (sampled_pkgW _ _ _).trans (Nat.min_eq_left (by omega))
    exact ⟨_, exec_powerSample w temp hc,
      judge_under (p := s.pkg.sampled w temp) hw hl hn (by rw [hpkgW]; exact hcap)⟩
  · intro r
    refine ⟨_, rfl, tripped_fasttrip _ s.timeNs (railDies r), fun d hd => ?_⟩
    obtain ⟨hpause, hmoved, hwaits⟩ := tripped_railDies { s.pkg with fasttrip := true } s.timeNs r d hd
    exact ⟨hpause, hmoved, hwaits⟩
  · intro die hc
    refine ⟨_, exec_junction105 die hc, mget_mset_same _ _ _ _, enter3_target _ _, ?_, rfl⟩
    show die ∈ (if s.pkg.hot.contains die = true then s.pkg.hot else die :: s.pkg.hot)
    split
    · rename_i h
      exact List.contains_iff_mem.mp h
    · exact List.mem_cons_self
  · intro die hc hd
    have hout : die ∉ s.pkg.hot.filter (· != die) := by simp
    refine ⟨_, exec_junctionBelow95 hc hd, ?_, ?_⟩
    · rw [down_frame (f := Pkg.hot) (fun _ _ => rfl)]
      exact hout
    · refine (target_down _ _ _).trans ?_
      simp only [hout, not_false_eq_true, and_true, true_and]
      rfl
  · intro die hd
    refine ⟨_, rfl, ?_, ?_⟩
    · exact if_pos hd
    · rw [if_pos hd]
      exact healthBit_set s (by decide)
  · exact fun die h => exec_frequencyChange_waits h
  · exact fun die n hup h1 hn => ⟨_, exec_frequencyChange hup h1 hn, mget_mset_same _ _ _ _, mget_mset_same _ _ _ _, rfl, rfl⟩
  · intro v
    have hv : (v.zeroExtend 64).toNat % 2 ^ 32 = v.toNat := by
      have := v.isLt
      simp
      omega
    refine ⟨_, rfl, ?_, ?_, ?_, ?_⟩
    · rw [show exec (.registerWrite .pkg 0x104 (v.zeroExtend 64)) s =
        .next (s.writeCap ((v.zeroExtend 64).toNat % 2 ^ 32)) from rfl, hv]
    · rw [writeCap_frame (f := Pkg.capW) fun _ _ => rfl]
      exact withCap_capW _ _
    · rw [writeCap_frame (f := Pkg.floor) fun _ _ => rfl]
      exact withCap_floor _ _
    · intro hc d hd
      rw [writeCap_eq, if_pos hc]
      exact floorOf_le_lifted_target _ hd
  · intro r hup hr
    refine ⟨_, exec_ageingMeasure hup hr, ?_, fun hg => ?_⟩
    · rw [Pkg.age, capAged_ageing, capAged_ageing]
      exact measure_age _ _
    · have haged : (s.pkg.measure r).aged (r.cluster / 10) = true :=
        aged_of_cluster (by rw [measure_age]; exact hg)
      obtain hdie | hdie : r.cluster / 10 = 0 ∨ r.cluster / 10 = 1 := by omega
      · rw [hdie] at haged ⊢
        exact mem_capAged (.inl (mem_capAged (.inr ⟨rfl, haged⟩)))
      · rw [hdie] at haged ⊢
        exact mem_capAged (.inr ⟨rfl, (aged_congr (capAged_ageing _ 0) 1).trans haged⟩)
  · intro hf hup ht
    refine ⟨_, exec_throttleControlResume hf hup ht, ?_, fun d hd => ?_⟩
    · rw [recover_eq]
      have hrec := recoverDie_frame (f := Pkg.fallback) (fun _ _ => rfl) fun _ _ _ => rfl
      have hfrom := fromTwo_frame (f := Pkg.fallback) fun _ _ => rfl
      exact (hrec _ 1).trans ((hrec _ 0).trans ((hfrom _ 1).trans (hfrom _ 0)))
    · exact resume_target rfl rfl hd
  · intro v hv
    have hbit : (v.toNat % 2 ^ 32).testBit 1 = true := (low32_testBit v (by decide)).trans hv
    refine ⟨_, rfl, ?_, rfl⟩
    show (s.pkg.fasttrip && !(v.toNat % 2 ^ 32).testBit 1) = false
    rw [hbit, Bool.not_true, Bool.and_false]
  · intro k v hk
    refine ⟨_, congrArg Host.Outcome.next (if_pos ⟨rfl, hk⟩), ?_⟩
    rw [Pkg.core_putCore_same]
    exact ⟨congrArg some (ofNat_low32 16 (by decide) v), congrArg some (ofNat_high16 v)⟩
  · exact fun v => ⟨_, rfl, writeHealth_bit s v⟩
  · intro c v hc
    rw [show exec (.registerWrite (.ctxPage c.id) 0x30 v) s = execRegisterWrite (.ctxPage c.id) 0x30 v s from rfl,
      execRegisterWrite]
    simp only [hc]
    rfl
  · intro part k v hp hk hn
    exact ⟨_, rfl, congrArg State.nodes (writeNodeTab_new v hp hk hn)⟩
  · intro v
    refine ⟨_, rfl, ?_⟩
    show BitVec.ofNat 32 (v.toNat % 2 ^ 32) &&& 0x8F0000FF = _
    rw [ofNat_low32 32 (by decide)]

end Sys2Proof.Machine
end

section
/-! Ports, bundles and heartbeats. -/

namespace Sys2Proof.Machine

/-! ### Ports and what they send (R22 to R26) -/

@[simp] theorem Pkg.port_putPort_same (p : Pkg) (k : Nat) (q : Port) : (p.putPort k q).port k = q := by
  simp [Pkg.port, Pkg.putPort, alookup_aput]

theorem Pkg.port_putPort_other (p : Pkg) {j k : Nat} (q : Port) (h : j ≠ k) : (p.putPort k q).port j = p.port j := by
  simp [Pkg.port, Pkg.putPort, alookup_aput, h]

/-- A port that takes over the traffic of another has more that waits, and sends what it can. -/
theorem moveTraffic_eq (s : State) {k port : Nat} (nb : BitVec 64) (h : port ≠ k) :
    ∃ s1 : State, ∃ w, s1.pkg.port port = s.pkg.port port ∧
      s.moveTraffic k port nb = s1.putPort port { s1.pkg.port port with waiting := w } :=
  ⟨_, _, Pkg.port_putPort_other _ _ h, rfl⟩

section
variable {α : Type} {f : Port → α} (hf : ∀ q w t u, f { q with waiting := w, txSeq := t, unacked := u } = f q)
include hf

/-- Sending changes what waits, what is unacknowledged and the next SEQ. -/
theorem pump_frame (c : Nat → Bool) (n : Nat) (q : Port) : f (q.pump c n) = f q := by
  induction n generalizing q with
  | zero => rfl
  | succ n ih =>
    rw [Port.pump, ih]
    unfold Port.sendOne
    split
    · split
      · exact hf _ _ _ _
      · rfl
    · rfl

theorem putPort_frame (s : State) (k : Nat) (q : Port) : f ((s.putPort k q).pkg.port k) = f q := by
  unfold State.putPort
  rw [Pkg.port_putPort_same, pump_frame hf]

theorem moveTraffic_frame (s : State) {k port : Nat} (nb : BitVec 64) (h : port ≠ k) :
    f ((s.moveTraffic k port nb).pkg.port port) = f (s.pkg.port port) := by
  obtain ⟨s1, w, hs1, heq⟩ := moveTraffic_eq s nb h
  have hw (q : Port) : f { q with waiting := w } = f q := hf q w q.txSeq q.unacked
  rw [heq, putPort_frame hf, hw, hs1]

/-- A port that begins to carry traffic takes over what waits at other ports. -/
theorem enterTraffic_frame (s : State) (port : Nat) : f ((s.enterTraffic port).pkg.port port) = f (s.pkg.port port) := by
  have hmoves (nb : BitVec 64) (ks : List Nat) (hks : ∀ k ∈ ks, port ≠ k) (s : State) :
      f ((ks.foldl (fun (s : State) k => s.moveTraffic k port nb) s).pkg.port port) = f (s.pkg.port port) := by
    induction ks generalizing s with
    | nil => rfl
    | cons k ks ih =>
      rw [List.foldl_cons, ih fun j hj => hks j (List.mem_cons_of_mem _ hj),
        moveTraffic_frame hf s nb (hks k List.mem_cons_self)]
  unfold State.enterTraffic
  split
  · rfl
  · refine hmoves _ _ (fun k hk => ?_) s
    obtain ⟨r, hr, rfl⟩ := List.mem_map.mp hk
    have hidle := (List.mem_filter.mp hr).2
    simp only [Bool.and_eq_true, bne_iff_ne] at hidle
    obtain ⟨⟨⟨hne, -⟩, -⟩, -⟩ := hidle
    exact Ne.symm hne

end

/-! ### The states of a port (R24, R25) -/

/-- A port in a state with lanes in use, where it does not stop carrying traffic. -/
def Port.enters (q : Port) (st lanes : BitVec 4) : Port :=
  { q with state := st, lanes := lanes,
           retrains := if st = 4 then (if q.retrains = 255 then 255 else q.retrains + 1) else q.retrains, replays := 0 }

/-- A move of a port that does not stop carrying traffic. -/
theorem portTo_of_stays {s : State} {port : Nat} {st : BitVec 4} (lanes : BitVec 4)
    (h : (s.pkg.port port).carries = false ∨ st = 3 ∨ st = 5) : s.portTo port st lanes =
      let s1 := s.putPort port ((s.pkg.port port).enters st lanes)
      let s2 := if !(s.pkg.port port).carries && ((s.pkg.port port).enters st lanes).carries then s1.enterTraffic port else s1
      if st = 1 then s2.noteDown port else s2 := by
  have hleft : ((s.pkg.port port).carries && !(st == 3 || st == 5)) = false := by
    rcases h with h | rfl | rfl
    · rw [h, Bool.false_and]
    · exact Bool.and_false _
    · exact Bool.and_false _
  unfold State.portTo
  simp only [hleft, Bool.false_eq_true, if_false]
  rfl

/-- The entries to DOWN of the last second, with one now. -/
def State.downsNow (s : State) (port : Nat) : List Nat :=
  ((s.pkg.port port).downs.filter fun t => decide (s.timeNs < t + 1000000000)) ++ [s.timeNs]

theorem noteDown_of_few {s : State} {port : Nat} (h : (s.downsNow port).length < 3) : s.noteDown port =
    { s with pkg := s.pkg.putPort port { s.pkg.port port with downs := s.downsNow port } } :=
  if_neg (Nat.not_le.mpr h)

/-- The third entry to DOWN within a second locks the port out (R25). -/
theorem noteDown_of_third {s : State} {port : Nat} (h : 3 ≤ (s.downsNow port).length) : ∃ q : Port, q.locked = true ∧
    s.noteDown port = ({ s with pkg := s.pkg.putPort port q } : State).healthEvent 1 port :=
  ⟨_, rfl, if_pos h⟩

theorem noteDown_locks {s : State} {port : Nat} (h : 3 ≤ (s.downsNow port).length) :
    ((s.noteDown port).pkg.port port).locked = true ∧ (s.noteDown port).pkg.events = s.pkg.events ++ [(1, port)] := by
  obtain ⟨q, hq, heq⟩ := noteDown_of_third h
  rw [heq]
  exact ⟨(congrArg Port.locked (Pkg.port_putPort_same _ _ _)).trans hq, rfl⟩

/-- What a move of a port leaves of it, where it does not stop carrying traffic and is not locked out. -/
theorem portTo_frame {α : Type} {f : Port → α} (hf : ∀ q w t u, f { q with waiting := w, txSeq := t, unacked := u } = f q)
    (hd : ∀ q ds, f { q with downs := ds } = f q) {s : State} {port : Nat} {st : BitVec 4} (lanes : BitVec 4)
    (h : (s.pkg.port port).carries = false ∨ st = 3 ∨ st = 5) (h1 : st = 1 → (s.pkg.port port).downs = []) :
    f ((s.portTo port st lanes).pkg.port port) = f ((s.pkg.port port).enters st lanes) := by
  rw [portTo_of_stays lanes h]
  dsimp only
  generalize hs2 : (if (!(s.pkg.port port).carries && ((s.pkg.port port).enters st lanes).carries) = true then
    (s.putPort port ((s.pkg.port port).enters st lanes)).enterTraffic port
    else s.putPort port ((s.pkg.port port).enters st lanes)) = s2
  have hport {β : Type} {g : Port → β} (hg : ∀ q w t u, g { q with waiting := w, txSeq := t, unacked := u } = g q) :
      g (s2.pkg.port port) = g ((s.pkg.port port).enters st lanes) := by
    rw [← hs2]
    split
    · rw [enterTraffic_frame hg, putPort_frame hg]
    · rw [putPort_frame hg]
  split
  · rename_i hst
    have hdowns : (s2.pkg.port port).downs = [] := (hport (g := Port.downs) fun _ _ _ _ => rfl).trans (h1 hst)
    have hfew : (s2.downsNow port).length < 3 := by simp [State.downsNow, hdowns]
    rw [noteDown_of_few hfew, Pkg.port_putPort_same, hd, hport hf]
  · exact hport hf

/-! ### Events of ports -/

theorem carries_iff (q : Port) : q.carries = true ↔ q.state = 3 ∨ q.state = 5 := by simp [Port.carries]

/-- What an acknowledgement leaves of a port. -/
theorem acked_frame {α : Type} {f : Port → α}
    (hf : ∀ q u r x, f { q with unacked := u, replays := r, fresh := x } = f q) (q : Port) (ack : BitVec 8) :
    f (q.acked ack) = f q := by
  have hknown (q : Port) (b : BitVec 8) : f (q.known b) = f q := by
    unfold Port.known
    split
    · exact hf q q.unacked q.replays _
    · rfl
  unfold Port.acked
  split
  · rw [hknown]
    exact hf q _ _ q.fresh
  · rfl

/-- A port that has taken a flit in turn; one that another port of the bundle had delivered is not delivered again (log 110). -/
def Port.takes (q : Port) (f : BitVec 256) (again : Bool) : Port :=
  { q with rxSeq := flitSeq f, fresh := q.fresh ++ [(flitSeq f, flitBody f)],
           delivered := if flitKind f = 0 || again then q.delivered else q.delivered ++ [flitBody f] }

section
variable {s : State} {port : Nat} (hp : port < 24) (hc : (s.pkg.port port).carries = true)
include hp hc

theorem receives_iff : ¬ (decide (24 ≤ port) || !(s.pkg.port port).carries) = true := by
  have hlt : ¬ 24 ≤ port := by omega
  simp [hlt, hc]

theorem exec_flitReceive_bad {f : BitVec 256} (hf : flitOk f = false) : exec (.flitReceive port f) s =
    .next { s with pkg := s.pkg.putPort port { s.pkg.port port with
      crcErr := if (s.pkg.port port).crcErr = 255 then 255 else (s.pkg.port port).crcErr + 1 } } :=
  (if_neg (receives_iff hp hc)).trans (if_pos (by simp [hf]))

theorem exec_flitReceive_outOfTurn {f : BitVec 256} (hf : flitOk f = true) (hs : flitSeq f ≠ (s.pkg.port port).rxSeq + 1) :
    exec (.flitReceive port f) s = .next (s.putPort port ((s.pkg.port port).acked (flitAck f))) := by
  have hrx : ((s.pkg.port port).acked (flitAck f)).rxSeq = (s.pkg.port port).rxSeq :=
    acked_frame (f := Port.rxSeq) (fun _ _ _ _ => rfl) _ _
  have hbad : ¬ (!flitOk f) = true := by simp [hf]
  exact (if_neg (receives_iff hp hc)).trans ((if_neg hbad).trans (if_pos (by rw [hrx]; exact hs)))

theorem exec_flitReceive_inTurn {f : BitVec 256} (hf : flitOk f = true) (hs : flitSeq f = (s.pkg.port port).rxSeq + 1) :
    ∃ s1 : State, exec (.flitReceive port f) s =
      .next (s1.putPort port (((s.pkg.port port).acked (flitAck f)).takes f (s.replayOf (s.pkg.port port) f))) := by
  have hrx : ((s.pkg.port port).acked (flitAck f)).rxSeq = (s.pkg.port port).rxSeq :=
    acked_frame (f := Port.rxSeq) (fun _ _ _ _ => rfl) _ _
  have hagain : s.replayOf ((s.pkg.port port).acked (flitAck f)) f = s.replayOf (s.pkg.port port) f :=
    acked_frame (f := fun q => s.replayOf q f) (fun _ _ _ _ => rfl) _ _
  have hbad : ¬ (!flitOk f) = true := by simp [hf]
  rw [← hagain]
  exact ⟨_, (if_neg (receives_iff hp hc)).trans ((if_neg hbad).trans (if_neg (by rw [hrx]; exact not_not.mpr hs)))⟩

theorem exec_flitReplay (hu : (s.pkg.port port).unacked ≠ []) : exec (.flitReplay port) s =
    if Nat.max 1 (s.pkg.port port).retryLimit.toNat ≤ (s.pkg.port port).replays + 1 then .next (s.portTo port 4 0)
    else .next { s with pkg := s.pkg.putPort port { s.pkg.port port with replays := (s.pkg.port port).replays + 1 } } := by
  have hlt : ¬ 24 ≤ port := by omega
  exact if_neg (by simp [hlt, hc, hu])

theorem exec_portRetrainWrite : exec (.portRetrainWrite port true) s = .next (s.portTo port 4 0) := by
  have hlt : ¬ 24 ≤ port := by omega
  exact (if_neg hlt).trans (congrArg Host.Outcome.next (if_pos (by simp [hc])))

end

theorem takes_delivered (q : Port) (f : BitVec 256) (again : Bool) : (q.takes f again).delivered =
    if flitKind f ≠ 0 ∧ again = false then q.delivered ++ [flitBody f] else q.delivered := by
  by_cases hk : flitKind f = 0 <;> cases again <;> simp [Port.takes, hk]

/-- Lane sets of two or three lanes, of which two are the lowest. -/
abbrev TrainsTo (two : BitVec 4) (ls : List (BitVec 4)) : Prop :=
  ∀ l ∈ ls, 2 ≤ ((List.range 4).filter fun k => l.getLsbD k).length ∧
    ((List.range 4).filter fun k => l.getLsbD k).length ≠ 4 ∧ twoLowest l = two

/-- The port as a partner is detected there; SEQ and ACK go on with the partner of before (log 109). -/
def Port.partnered (q : Port) (nb : BitVec 64) : Port :=
  if q.neighbour = some nb then q
  else { q with neighbour := some nb, unacked := [], waiting := [], fresh := [], txSeq := 0, rxSeq := 0xFF, replays := 0 }

theorem partnered_neighbour (q : Port) (nb : BitVec 64) : (q.partnered nb).neighbour = some nb := by
  unfold Port.partnered
  split
  · assumption
  · rfl

theorem partnered_frame {α : Type} {f : Port → α}
    (hf : ∀ q n u w x t r k, f { q with
      neighbour := n, unacked := u, waiting := w, fresh := x, txSeq := t, rxSeq := r, replays := k } = f q)
    (q : Port) (nb : BitVec 64) : f (q.partnered nb) = f q := by
  unfold Port.partnered
  split
  · rfl
  · exact hf _ _ _ _ _ _ _ _

section
variable {s : State} {port : Nat}

theorem exec_portPartnerDetect (nb : BitVec 64) (hp : port < 24) (hs : (s.pkg.port port).state = 1)
    (hl : (s.pkg.port port).locked = false) : exec (.portPartnerDetect port nb) s =
      .next (({ s with pkg := s.pkg.putPort port ((s.pkg.port port).partnered nb) } : State).portTo port 2 0) := by
  have hlt : ¬ 24 ≤ port := by omega
  exact if_neg (by simp [hlt, hs, hl])

theorem exec_portPartnerDetect_leaves (nb : BitVec 64) (hp : port < 24) (hs : (s.pkg.port port).state = 1)
    (hl : (s.pkg.port port).locked = false) : ∃ t, exec (.portPartnerDetect port nb) s = .next t ∧
      (t.pkg.port port).state = 2 ∧ (t.pkg.port port).neighbour = some nb := by
  refine ⟨_, exec_portPartnerDetect nb hp hs hl, ?_⟩
  generalize hs1 : ({ s with pkg := s.pkg.putPort port ((s.pkg.port port).partnered nb) } : State) = s1
  have hport : s1.pkg.port port = (s.pkg.port port).partnered nb := by subst hs1; exact Pkg.port_putPort_same _ _ _
  have hidle : (s1.pkg.port port).carries = false := by
    rw [hport, partnered_frame (f := Port.carries) fun _ _ _ _ _ _ _ _ => rfl]
    simp [Port.carries, hs]
  have hframe {α : Type} {f : Port → α} (hf : ∀ q w t u, f { q with waiting := w, txSeq := t, unacked := u } = f q)
      (hd : ∀ q ds, f { q with downs := ds } = f q) :=
    portTo_frame (st := 2) hf hd 0 (.inl hidle) fun h => absurd h (by decide)
  refine ⟨hframe (f := Port.state) (fun _ _ _ _ => rfl) fun _ _ => rfl, ?_⟩
  rw [hframe (f := Port.neighbour) (fun _ _ _ _ => rfl) fun _ _ => rfl, hport]
  exact partnered_neighbour _ _

theorem exec_trainResult {lanes : BitVec 4} {i : Instr}
    (h : ((s.pkg.port port).state = 2 ∧ i = .portTrainResult port lanes) ∨
      ((s.pkg.port port).state = 4 ∧ i = .portRetrainResult port lanes)) : exec i s = .next (s.trained port lanes) := by
  rcases h with ⟨hs, rfl⟩ | ⟨hs, rfl⟩
  · exact if_neg (by simp [hs])
  · exact if_neg (by simp [hs])

/-- A port that has trained is in TRAINED, DEGRADED or DOWN by the number of its lanes (R24). -/
theorem trained_full : s.trained port 0xF = s.portTo port 3 0xF := rfl

theorem trained_of_trainsTo {two lanes : BitVec 4} {ls : List (BitVec 4)} (h : TrainsTo two ls) (hl : lanes ∈ ls) :
    s.trained port lanes = s.portTo port 5 two := by
  obtain ⟨h2, h4, rfl⟩ := h lanes hl
  exact (if_neg h4).trans (if_pos h2)

theorem trained_few {lanes : BitVec 4} (h : ((List.range 4).filter fun k => lanes.getLsbD k).length < 2) :
    s.trained port lanes = s.portTo port 1 0 :=
  (if_neg (by omega)).trans (if_neg (Nat.not_le.mpr h))

theorem exec_portLaneLoss {lane : Nat} (hl : (s.pkg.port port).lanes.getLsbD lane = true)
    (hc : (s.pkg.port port).carries = true) : exec (.portLaneLoss port lane) s =
      if (s.pkg.port port).state = 3 then .next (s.portTo port 5 (twoLowest ((s.pkg.port port).lanes &&& ~~~(1#4 <<< lane))))
      else .next (s.portTo port 1 0) :=
  if_neg (by simp [hl, hc])

theorem exec_portEnableWrite (v : Bool) (hp : port < 24) : exec (.portEnableWrite port v) s =
    let s1 : State := { s with pkg := s.pkg.putPort port { s.pkg.port port with enable := v, locked := false } }
    .next (if v = false then s1.portTo port 0 0 else if (s.pkg.port port).state = 0 then s1.portTo port 1 0 else s1) := by
  cases v with
  | false => exact if_neg (Nat.not_le.mpr hp)
  | true => exact if_neg (Nat.not_le.mpr hp)

theorem port_readVal (p : Pkg) (v : DWord) (k : Nat) : ({ p with readVal := v } : Pkg).port k = p.port k := rfl

theorem exec_portStatusRead (hp : port < 24) : exec (.portStatusRead port) s = .next { s with pkg := {
    s.pkg.putPort port { s.pkg.port port with retrains := 0, crcErr := 0 } with
      readVal := BitVec.ofNat 64 (s.pkg.port port).status } } :=
  if_neg (Nat.not_le.mpr hp)

/-- The third entry to DOWN within a second, of a port that carries no traffic. -/
theorem portTo_locks (hc : (s.pkg.port port).carries = false)
    (hd : 2 ≤ ((s.pkg.port port).downs.filter fun t => decide (s.timeNs < t + 1000000000)).length) :
    ((s.portTo port 1 0).pkg.port port).locked = true ∧ (s.portTo port 1 0).pkg.events = s.pkg.events ++ [(1, port)] := by
  have hdowns : (((s.putPort port ((s.pkg.port port).enters 1 0)).pkg.port port).downs) = (s.pkg.port port).downs :=
    putPort_frame (f := Port.downs) (fun _ _ _ _ => rfl) _ _ _
  have hthird : 3 ≤ ((s.putPort port ((s.pkg.port port).enters 1 0)).downsNow port).length := by
    rw [State.downsNow, hdowns, List.length_append]
    exact Nat.succ_le_succ hd
  have hidle : ((s.pkg.port port).enters 1 0).carries = false := rfl
  rw [portTo_of_stays 0 (.inl hc)]
  simp only [hidle, Bool.and_false, Bool.false_eq_true, if_false, if_true]
  exact noteDown_locks hthird

end

/-! ### Heartbeats (R68 to R70) -/

theorem neighbour_pkg (p : Pkg) (id : BitVec 64) : (p.neighbour id).pkg = id := by
  unfold Pkg.neighbour
  cases h : p.neighbours.find? fun (m : Neighbour) => m.pkg == id with
  | none => rfl
  | some m => simpa using List.find?_some h

/-- The entry of a neighbour that has been replaced or added. -/
theorem neighbour_putNeighbour (p : Pkg) {n : Neighbour} {id : BitVec 64} (h : n.pkg = id) :
    (p.putNeighbour n).neighbour id = n := by
  subst h
  unfold Pkg.neighbour Pkg.putNeighbour
  dsimp only
  split
  · rename_i hany
    cases hf : p.neighbours.find? fun (m : Neighbour) => m.pkg == n.pkg with
    | none =>
      obtain ⟨m, hm, heq⟩ := List.any_eq_true.mp hany
      exact absurd heq (List.find?_eq_none.mp hf m hm)
    | some m =>
      have hm := List.find?_some hf
      rw [find?_map_replace (fun m : Neighbour => m.pkg == n.pkg) (fun m => m.pkg == n.pkg) n m (beq_self_eq_true _) hm _ hf]
      rfl
  · rename_i hany
    have hnone : p.neighbours.find? (fun (m : Neighbour) => m.pkg == n.pkg) = none :=
      List.find?_eq_none.mpr fun m hm heq => hany (List.any_eq_true.mpr ⟨m, hm, heq⟩)
    rw [List.find?_append, hnone]
    simp

/-- A message that goes out changes a port alone. -/
theorem sendTo_frame {α : Type} {f : Pkg → α} (hf : ∀ p ps, f { p with ports := ps } = f p) (s : State) (nb : BitVec 64)
    (kind vc : BitVec 4) (bs : List Byte) : f (s.sendTo nb kind vc bs).pkg = f s.pkg := by
  unfold State.sendTo
  split
  · rfl
  · exact hf _ _

theorem beats_frame {α : Type} {f : Pkg → α} (hf : ∀ p ps, f { p with ports := ps } = f p) (s : State) (nbs : List (BitVec 64)) :
    f (nbs.foldl (fun (s : State) nb => s.sendTo nb 5 3 s.pkg.beatBytes) s).pkg = f s.pkg := by
  induction nbs generalizing s with
  | nil => rfl
  | cons nb nbs ih => rw [List.foldl_cons, ih, sendTo_frame hf]

section
variable {s : State}

theorem exec_heartbeatSend (he : s.pkg.hbEnable = true) (hu : s.pkg.schedUp = true) : ∃ t, exec .heartbeatSend s = .next t ∧
    t.pkg.hbBeat = s.pkg.hbBeat + 1 ∧ t.pkg.hbForce = s.pkg.hbPeriod := by
  have hon : ¬ (!s.pkg.hbEnable || !s.pkg.schedUp) = true := by simp [he, hu]
  refine ⟨_, if_neg hon, ?_, ?_⟩
  · exact congrArg (· + 1) (beats_frame (f := Pkg.hbBeat) (fun _ _ => rfl) s s.pkg.reached)
  · exact beats_frame (f := Pkg.hbPeriod) (fun _ _ => rfl) s s.pkg.reached

/-- The entry of the neighbour whose heartbeat has come. -/
def Pkg.beaten (p : Pkg) (bs : List Byte) (now : Nat) : Neighbour :=
  { p.neighbour (BitVec.ofNat 64 (fieldOf bs 0 8)) with
    epoch := BitVec.ofNat 64 (fieldOf bs 8 8), beat := BitVec.ofNat 32 (fieldOf bs 16 4), missed := 0, beatAt := now }

theorem exec_heartbeatReceive {bs : List Byte} (he : s.pkg.hbEnable = true) (hl : bs.length = 26) :
    exec (.heartbeatReceive bs) s = .next { s with pkg := s.pkg.putNeighbour (s.pkg.beaten bs s.timeNs) } :=
  if_neg (by simp [he, hl])

theorem beatLate_iff (p : Pkg) (n : Neighbour) (now : Nat) :
    p.beatLate n now = true ↔ n.beatAt ≠ 0 ∧ 2 * n.beatAt + 3 * p.beatPeriod ≤ 2 * now := by
  simp [Pkg.beatLate]

theorem exec_beatMissed_none {id : BitVec 64}
    (h : s.pkg.beatLate (s.pkg.neighbour id) s.timeNs ≠ true ∨ s.pkg.islandUp = false) : exec (.beatMissed id) s = .next s := by
  refine if_pos ?_
  rcases h with h | h
  · simp [h]
  · simp [h]

/-- The entry of a neighbour that has missed one more beat (R69). -/
def Pkg.missedBeat (p : Pkg) (id : BitVec 64) : Neighbour :=
  let n := p.neighbour id
  { n with missed := n.missed + 1, beatAt := n.beatAt + p.beatPeriod }

theorem exec_beatMissed {id : BitVec 64} (hl : s.pkg.beatLate (s.pkg.neighbour id) s.timeNs = true)
    (he : s.pkg.hbEnable = true) (hu : s.pkg.islandUp = true) (hn : id ∈ s.pkg.neighbourIds s.timeNs) :
    ∃ t, exec (.beatMissed id) s = .next t ∧ t.pkg.neighbour id = s.pkg.missedBeat id ∧
      t.pkg.nonceCtr = if (s.pkg.neighbour id).missed + 1 = 3 then s.pkg.nonceCtr + 1 else s.pkg.nonceCtr := by
  have hlate : ¬ (!s.pkg.hbEnable || !s.pkg.islandUp || !(s.pkg.neighbourIds s.timeNs).contains id ||
      !s.pkg.beatLate (s.pkg.neighbour id) s.timeNs) = true := by simp [he, hu, hn, hl]
  have hput : (s.pkg.putNeighbour (s.pkg.missedBeat id)).neighbour id = s.pkg.missedBeat id :=
    neighbour_putNeighbour _ (neighbour_pkg s.pkg id)
  by_cases h3 : (s.pkg.neighbour id).missed + 1 = 3
  · refine ⟨_, (if_neg hlate).trans (if_neg (not_not.mpr h3)), ?_, ?_⟩
    · exact (sendTo_frame (f := fun p => p.neighbour id) (fun _ _ => rfl) _ _ _ _ _).trans hput
    · rw [if_pos h3, sendTo_frame (f := Pkg.nonceCtr) fun _ _ => rfl]
      rfl
  · refine ⟨_, (if_neg hlate).trans (if_pos h3), hput, ?_⟩
    rw [if_neg h3]
    rfl

/-- The package that remembers an accepted reset request (R70). -/
def Pkg.remembered (p : Pkg) (msg : List Byte) (now : Nat) : Pkg :=
  p.putNeighbour { p.neighbour (BitVec.ofNat 64 (fieldOf msg 4 8)) with
    ctr := BitVec.ofNat 64 (fieldOf msg 28 8), reset := some now }

theorem exec_resetRequestReceive {msg : List Byte} (he : s.pkg.hbEnable = true) (hu : s.pkg.islandUp = true)
    (ha : s.pkg.accepts msg = true) : exec (.resetRequestReceive msg) s =
      if (s.pkg.remembered msg s.timeNs).quorum s.timeNs = true then
        .next ({ s with pkg := s.pkg.remembered msg s.timeNs } : State).quorumReset
      else .next { s with pkg := s.pkg.remembered msg s.timeNs } :=
  if_neg (by simp [he, hu, ha])

end

/-- Settles O56: port by port and beat by beat, by what the event leaves of the port or of the neighbour's entry. -/
theorem portAndHeartbeatEvents : Obligations.PortAndHeartbeatEvents := by
  intro s port
  refine ⟨?_, ?_, ?_, ?_, ?_, ?_, ?_, ?_, ?_, ?_, ?_, ?_, ?_, ?_, ?_⟩
  · intro f hp hc hf
    exact ⟨_, exec_flitReceive_bad hp hc hf, Pkg.port_putPort_same _ _ _⟩
  · intro f hp hc hf
    have hdel : ((s.pkg.port port).acked (flitAck f)).delivered = (s.pkg.port port).delivered :=
      acked_frame (f := Port.delivered) (fun _ _ _ _ => rfl) _ _
    have hrx : ((s.pkg.port port).acked (flitAck f)).rxSeq = (s.pkg.port port).rxSeq :=
      acked_frame (f := Port.rxSeq) (fun _ _ _ _ => rfl) _ _
    by_cases hs : flitSeq f = (s.pkg.port port).rxSeq + 1
    · obtain ⟨s1, hexec⟩ := exec_flitReceive_inTurn hp hc hf hs
      refine ⟨_, hexec, ?_, ?_⟩
      · rw [putPort_frame (f := Port.delivered) fun _ _ _ _ => rfl, takes_delivered, hdel]
        simp only [hs, true_and]
        rfl
      · rw [putPort_frame (f := Port.rxSeq) fun _ _ _ _ => rfl]
        exact (if_pos hs).symm
    · refine ⟨_, exec_flitReceive_outOfTurn hp hc hf hs, ?_, ?_⟩
      · rw [putPort_frame (f := Port.delivered) fun _ _ _ _ => rfl, hdel]
        exact (if_neg fun h => hs h.1).symm
      · rw [putPort_frame (f := Port.rxSeq) fun _ _ _ _ => rfl, hrx]
        exact (if_neg hs).symm
  · intro hp hc hu
    have hexec := exec_flitReplay hp hc hu
    exact ⟨fun h => hexec.trans (if_pos h),
      fun h => ⟨_, hexec.trans (if_neg (Nat.not_le.mpr h)), Pkg.port_putPort_same _ _ _⟩⟩
  · intro nb hp hs hl
    exact exec_portPartnerDetect_leaves nb hp hs hl
  · intro lanes i hi
    have hto {st l : BitVec 4} (h : s.trained port lanes = s.portTo port st l) : exec i s = .next (s.portTo port st l) :=
      (exec_trainResult hi).trans (congrArg Host.Outcome.next h)
    have htwo {ls : List (BitVec 4)} {two : BitVec 4} (hls : TrainsTo two ls) (h : lanes ∈ ls) :
        exec i s = .next (s.portTo port 5 two) := hto (trained_of_trainsTo hls h)
    have hone {two : BitVec 4} (htrains : TrainsTo two [two]) (h : lanes = two) :
        exec i s = .next (s.portTo port 5 two) := htwo htrains (List.mem_singleton.mpr h)
    refine ⟨fun h => hto (by rw [h]; exact trained_full), htwo (by decide), htwo (by decide), htwo (by decide),
      hone (by decide), hone (by decide), hone (by decide), fun h => hto (trained_few ?_)⟩
    exact (by decide : ∀ l ∈ [0, 1, 2, 4, 8], ((List.range 4).filter fun k => (l : BitVec 4).getLsbD k).length < 2) lanes h
  · intro lane hl
    refine ⟨fun h => ?_, fun h => ?_⟩
    · exact (exec_portLaneLoss hl ((carries_iff _).mpr (.inl h))).trans (if_pos h)
    · exact (exec_portLaneLoss hl ((carries_iff _).mpr (.inr h))).trans (if_neg (by rw [h]; decide))
  · exact fun v hp => exec_portEnableWrite v hp
  · intro st lanes hc hd
    have hframe {α : Type} {f : Port → α} (hf : ∀ q w t u, f { q with waiting := w, txSeq := t, unacked := u } = f q)
        (hfd : ∀ q ds, f { q with downs := ds } = f q) := portTo_frame hf hfd lanes hc fun _ => hd
    exact ⟨hframe (f := Port.state) (fun _ _ _ _ => rfl) fun _ _ => rfl, hframe (f := Port.lanes) (fun _ _ _ _ => rfl) fun _ _ => rfl,
      hframe (f := Port.enable) (fun _ _ _ _ => rfl) fun _ _ => rfl, hframe (f := Port.locked) (fun _ _ _ _ => rfl) fun _ _ => rfl⟩
  · exact fun hp hc => exec_portRetrainWrite hp hc
  · exact fun hp => ⟨_, exec_portStatusRead hp, rfl, (port_readVal _ _ _).trans (Pkg.port_putPort_same _ _ _)⟩
  · exact fun hc hd _ => portTo_locks hc hd
  · exact fun he hu => exec_heartbeatSend he hu
  · intro bs he hl
    refine ⟨_, exec_heartbeatReceive he hl, ?_⟩
    dsimp only
    rw [neighbour_putNeighbour _ (show (s.pkg.beaten bs s.timeNs).pkg = _ from neighbour_pkg _ _)]
    exact ⟨rfl, rfl, rfl, rfl⟩
  · intro id
    refine ⟨fun h => exec_beatMissed_none (h.imp_left fun h hl => h ((beatLate_iff _ _ _).mp hl)), fun hl he hu hn => ?_⟩
    obtain ⟨t, hexec, hput, hctr⟩ := exec_beatMissed ((beatLate_iff _ _ _).mpr hl) he hu hn
    exact ⟨t, hexec, by rw [hput]; rfl, hctr⟩
  · intro msg he hu ha
    rw [exec_resetRequestReceive he hu ha]
    refine ⟨fun hq => if_neg (ne_true_of_eq_false hq), fun hq => ⟨_, if_pos hq, rfl, rfl, rfl, rfl, rfl, ?_⟩⟩
    exact healthBit_set _ (by decide)

end Sys2Proof.Machine
end

section
/-! Queue pairs of the endpoint: a started command goes on before a fetched one starts. -/

namespace Sys2Proof.Machine

/-- A started command that can go on is what its event runs, whatever command stands next in the SQ (R43). -/
theorem exec_enqueueInline_of_goesOn {s : State} {fn q : Nat} {c : Cmd} (hr : s.pairReady fn q = true)
    (ha : (s.pairAt fn q).state = 1) (hc : s.goesOn 3 [] (s.pairAt fn q).flight = some c) :
    exec (.enqueueInline fn q) s = .next (s.enqueueMore fn q (s.pairAt fn q) c) := by
  rw [show exec (.enqueueInline fn q) s = execEnqueueInline fn q s from rfl, execEnqueueInline, State.enqueue]
  simp [hr, ha, hc]

/-- The 64 bytes of an ENQUEUE_INLINE with the given low byte of PTR0, which is to be 0 (R41). -/
def inlineEntry (ptr : Byte) : List Byte := ((List.replicate 64 0).set 0 3).set 8 ptr

/-- An ENQUEUE_INLINE that has started, and whose record waits for room in the queue of node 5. -/
def waitingInline : Cmd := { idx := 0, entry := inlineEntry 0, target := some 5, recs := [List.replicate 64 0] }

/-- An ENQUEUE_INLINE with a nonzero PTR0, fetched behind the one that waits. -/
def malformedInline : Cmd := { idx := 1, entry := inlineEntry 8 }

/-- An active pair of the PF whose first ENQUEUE_INLINE has started and whose second one has not. -/
def behindInline : Pair :=
  { state := 1, enabled := true, cfg := 0x0000_0303, sqTail := 2, sqHead := 2, count := 2,
    flight := [waitingInline], fetched := [malformedInline] }

/-- The part after node 5 has retired, before the waiting command has learnt of it (R43, R54). -/
def inlineWaits : State :=
  { State.reset with pkg := State.reset.pkg.putFunc 0 { part := 0, pairs := [(0, behindInline)] } }

theorem inlineWaits_goesOn : inlineWaits.goesOn 3 [] (inlineWaits.pairAt 0 0).flight = some waitingInline := by decide

/-- The waiting command ends with NODE_UNKNOWN, and the malformed one stays. -/
theorem inlineWaits_ends_waiting :
    ((inlineWaits.enqueueMore 0 0 (inlineWaits.pairAt 0 0) waitingInline).pairAt 0 0).flight = [] := by decide

/-- The malformed command's completion leaves the waiting one in flight. -/
theorem behindInline_complete_flight :
    (((inlineWaits.pairAt 0 0).complete malformedInline stField 0).settle).flight = [waitingInline] := by decide

/-- Refutes O57: an ENQUEUE_INLINE with a nonzero PTR0 or NREC is said to complete with INVALID_FIELD whatever else its pair has in
flight, but an earlier ENQUEUE_INLINE that has started and can go on takes the event (R43). The statement asks for an empty `flight` in the
other clauses of ENQUEUE_INLINE and in those of ENQUEUE and ENQUEUE_WAIT, and lacks it here. -/
theorem not_endpointEvents : ¬ Obligations.EndpointEvents := by
  unfold Obligations.EndpointEvents
  intro h
  have hready : inlineWaits.pairReady 0 0 = true := by decide
  have hnext : (inlineWaits.pairAt 0 0).nextCmd (fun _ => true) = some malformedInline := by decide
  obtain ⟨hput, -, -, -, -, -, -, -, -, -, hcmd, -⟩ := h inlineWaits 0 0 hready
  obtain ⟨-, -, hinline, -⟩ := hcmd malformedInline hnext
  have hsaid : exec (.enqueueInline 0 0) inlineWaits = .next (inlineWaits.putPairAt 0 0
      ((inlineWaits.pairAt 0 0).complete malformedInline stField 0).settle) :=
    (hinline (by decide)).1 (.inr (by decide))
  rw [exec_enqueueInline_of_goesOn hready (by decide) inlineWaits_goesOn] at hsaid
  have hstate := Host.Outcome.next.inj hsaid
  have hflight := congrArg (fun s => (s.pairAt 0 0).flight) hstate
  rw [hput, inlineWaits_ends_waiting, behindInline_complete_flight] at hflight
  cases hflight

end Sys2Proof.Machine
end

section
/-! Calls of guest systems to Sorrel, and the collective groups. -/

namespace Sys2Proof.Machine

/-! ### Partitions, functions and harts by number -/

@[simp] theorem State.part_id (s : State) (n : Nat) : (s.part n).id = n := by
  unfold State.part
  cases h : s.parts.find? fun (p : Part) => p.id == n with
  | none => rfl
  | some p => simpa using List.find?_some h

/-- A partition that has been replaced or added. -/
theorem State.part_putPart (s : State) {p : Part} {n : Nat} (h : p.id = n) : (s.putPart p).part n = p := by
  subst h
  unfold State.part State.putPart
  dsimp only
  split
  · rename_i hany
    cases hf : s.parts.find? fun (q : Part) => q.id == p.id with
    | none =>
      obtain ⟨q, hq, heq⟩ := List.any_eq_true.mp hany
      exact absurd heq (List.find?_eq_none.mp hf q hq)
    | some q =>
      have hq : (q.id == p.id) = true := List.find?_some (p := fun (q : Part) => q.id == p.id) hf
      rw [find?_map_replace (fun q : Part => q.id == p.id) (fun q => q.id == p.id) p q (beq_self_eq_true _) hq _ hf]
      rfl
  · rename_i hany
    have hnone : s.parts.find? (fun (q : Part) => q.id == p.id) = none :=
      List.find?_eq_none.mpr fun q hq heq => hany (List.any_eq_true.mpr ⟨q, hq, heq⟩)
    rw [List.find?_append, hnone]
    simp

@[simp] theorem Pkg.func_putFunc_same (p : Pkg) (k : Nat) (f : Func) : (p.putFunc k f).func k = f := by
  simp [Pkg.func, Pkg.putFunc, alookup_aput]

theorem hartOf_putHart (s : State) (part h j : Nat) (x : Hart) :
    ((s.putHart part h x).part part).hartOf j = if j = h then x else (s.part part).hartOf j := by
  have hput : (s.putHart part h x).part part =
      { s.part part with harts := mset {} (s.part part).harts h x } := State.part_putPart _ (State.part_id s part)
  rw [hput]
  exact mget_mset _ _ _ _ _

/-- A supervisor software interrupt becomes pending on each of a list of harts. -/
def State.pendSoft (s : State) (part : Nat) (hs : List Nat) : State :=
  hs.foldl (fun (s : State) h => s.putHart part h { (s.part part).hartOf h with soft := true }) s

theorem hartOf_pendSoft (s : State) (part : Nat) (hs : List Nat) (h : Nat) : ((s.pendSoft part hs).part part).hartOf h =
    { (s.part part).hartOf h with soft := decide (h ∈ hs) || ((s.part part).hartOf h).soft } := by
  induction hs generalizing s with
  | nil => simp [State.pendSoft]
  | cons k ks ih =>
    rw [State.pendSoft, List.foldl_cons, ← State.pendSoft, ih, hartOf_putHart]
    by_cases hk : h = k
    · simp [hk]
    · simp [hk]

/-! ### Answers (R48, R49) -/

/-- The registers ask for call `n` in version `maj`.`min` (R48). -/
def asksCall (r : CallRegs) (n maj min : Nat) : Prop :=
  r.a7 = 0x0955_5A01 ∧ r.a6.toNat = 65536 * n + 256 * maj + min

/-- The fields of a6 (R48). -/
theorem bits_callWord {n maj min : Nat} (hn : n < 65536) (hmaj : maj < 256) (hmin : min < 256) :
    let w := 65536 * n + 256 * maj + min
    bits w 63 32 = 0 ∧ bits w 31 16 = n ∧ bits w 15 8 = maj ∧ bits w 7 0 = min := by
  simp only [bits, Nat.shiftRight_eq_div_pow]
  omega

/-- A published call with a version that is served: the major version is below the current one, or the same with a minor
version up to the current one. -/
def servedVersion (n maj min : Nat) : Bool := (callVersion n).any fun v =>
  decide (n < 65536 ∧ maj < 256 ∧ min < 256) && decide (maj < v / 256 ∨ maj = v / 256 ∧ min ≤ v % 256)

/-- A published call with a version above the current one. -/
def newerVersion (n maj min : Nat) : Bool := (callVersion n).any fun v =>
  decide (n < 65536 ∧ maj < 256 ∧ min < 256) && decide (v / 256 < maj ∨ maj = v / 256 ∧ v % 256 < min)

section
variable {s : State} {part : Nat} {r : CallRegs} {n maj min : Nat} {k : Nat → Nat → State}

/-- How a published call is served: by whether its version is too new (R49). -/
theorem serve_of_asks {v : Nat} (h : asksCall r n maj min) (hv : callVersion n = some v)
    (hb : n < 65536 ∧ maj < 256 ∧ min < 256) : s.serve n r k =
      if v / 256 < maj ∨ maj = v / 256 ∧ v % 256 < min then .next (s.fail .notSupported) else .next (k maj min) := by
  obtain ⟨h7, h6⟩ := h
  obtain ⟨hn, hmaj, hmin⟩ := hb
  obtain ⟨hhigh, hnum, hmajor, hminor⟩ := bits_callWord hn hmaj hmin
  unfold State.serve tooNew
  simp [h7, h6, hhigh, hnum, hmajor, hminor, hv]

/-- A served call answers what its arguments bring about. -/
theorem serve_of_served {t : State} (h : asksCall r n maj min) (hv : servedVersion n maj min = true) (ht : k maj min = t) :
    s.serve n r k = .next t := by
  subst ht
  obtain ⟨v, hcall, hv⟩ := (Option.any_eq_true _ _).mp hv
  obtain ⟨hb, hle⟩ := Bool.and_eq_true_iff.mp hv
  rw [serve_of_asks h hcall (of_decide_eq_true hb), if_neg]
  have hle := of_decide_eq_true hle
  omega

theorem serve_of_newer (h : asksCall r n maj min) (hv : newerVersion n maj min = true) :
    s.serve n r k = .next (s.fail .notSupported) := by
  obtain ⟨v, hcall, hv⟩ := (Option.any_eq_true _ _).mp hv
  obtain ⟨hb, hlt⟩ := Bool.and_eq_true_iff.mp hv
  rw [serve_of_asks h hcall (of_decide_eq_true hb), if_pos (of_decide_eq_true hlt)]

/-- A word with bits above 31 set, or with the number of no published call (R49). -/
theorem serve_of_unknown (h7 : r.a7 = 0x0955_5A01)
    (h : 2 ^ 32 ≤ r.a6.toNat ∨ callVersion (r.a6.toNat / 65536 % 65536) = none) :
    s.serve n r k = .next (s.fail .notSupported) := by
  have hhigh : bits r.a6.toNat 63 32 = r.a6.toNat / 2 ^ 32 := by
    have := r.a6.isLt
    simp only [bits, Nat.shiftRight_eq_div_pow]
    omega
  have hnum : bits r.a6.toNat 31 16 = r.a6.toNat / 65536 % 65536 := by
    simp [bits, Nat.shiftRight_eq_div_pow]
  unfold State.serve
  rw [if_neg (not_not.mpr h7)]
  split
  · rfl
  · rename_i hz
    have hno : callVersion (bits r.a6.toNat 31 16) = none := by
      rw [hnum]
      refine h.resolve_left fun hbig => hz ?_
      omega
    simp only [hno]

end

/-! ### SBI (R47, log 11) -/

/-- What Sorrel does for function `fid` of a served extension of SBI. -/
def State.sbiAnswer (s : State) (part : Nat) (r : CallRegs) (ext fid : Nat) : State :=
  match ext with
  | 0x10 => s.sbiBase fid r
  | 0x54494D45 => (s.putHart part r.hart { (s.part part).hartOf r.hart with timer := r.a0 }).ok 0
  | 0x735049 => s.sbiIpi part r
  | 0x52464E43 => s.sbiRfence part fid r
  | 0x48534D => s.sbiHsm part fid r
  | 0x53525354 => s.sbiReset part r
  | _ => s.sbiConsole part fid r

section
variable {s : State} {part : Nat} {r : CallRegs}

/-- A call of a function of a served extension. -/
theorem exec_sbi {ext fid : Nat} {t : State} (h : r.a7.toNat = ext ∧ r.a6.toNat = fid)
    (hs : ext ∈ sbiServed ∧ fid < sbiFunctions ext) (ht : s.sbiAnswer part r ext fid = t) :
    exec (.sbiStandardCall part r) s = .next t := by
  subst ht
  obtain ⟨rfl, rfl⟩ := h
  obtain ⟨hs, hf⟩ := hs
  have h7 : ¬ r.a7 = 0x0955_5A01 := fun h7 => by rw [h7] at hs; exact absurd hs (by decide)
  have hserved : ¬ (!sbiServed.contains r.a7.toNat || decide (sbiFunctions r.a7.toNat ≤ r.a6.toNat)) = true := by
    simp [hs, hf]
  exact (if_neg h7).trans (if_neg hserved)

theorem exec_sbi_unserved (h7 : r.a7 ≠ 0x0955_5A01)
    (h : r.a7.toNat ∉ sbiServed ∨ sbiFunctions r.a7.toNat ≤ r.a6.toNat) :
    exec (.sbiStandardCall part r) s = .next (s.fail .notSupported) :=
  (if_neg h7).trans (if_pos (by simpa using h))

theorem sbiBase_mem (fid : Nat) : (s.sbiBase fid r).mem = s.mem := by
  unfold State.sbiBase
  split <;> rfl

theorem pendSoft_mem (hs : List Nat) : (s.pendSoft part hs).mem = s.mem := by
  induction hs generalizing s with
  | nil => rfl
  | cons k ks ih => exact ih

theorem sbiIpi_none (h : (s.part part).maskHarts r.a0 r.a1 = none) : s.sbiIpi part r = s.fail .invalidParam := by
  unfold State.sbiIpi
  rw [h]

theorem sbiIpi_some {hs : List Nat} (h : (s.part part).maskHarts r.a0 r.a1 = some hs) :
    s.sbiIpi part r = (s.pendSoft part hs).ok 0 := by
  unfold State.sbiIpi
  rw [h]
  rfl

theorem sbiIpi_mem : (s.sbiIpi part r).mem = s.mem := by
  unfold State.sbiIpi
  split
  · rfl
  · exact pendSoft_mem _

theorem sbiRfence_mem (fid : Nat) : (s.sbiRfence part fid r).mem = s.mem := by
  unfold State.sbiRfence
  split
  · rfl
  · split <;> rfl

theorem sbiHsm_mem (fid : Nat) : (s.sbiHsm part fid r).mem = s.mem := by
  unfold State.sbiHsm
  dsimp only
  split
  · split
    · rfl
    · split
      · rfl
      · split <;> rfl
  · rfl
  · split <;> rfl
  · split
    · rfl
    · split
      · split <;> rfl
      · split <;> rfl

theorem sbiReset_mem : (s.sbiReset part r).mem = s.mem := by
  unfold State.sbiReset
  dsimp only
  split
  · rfl
  · split <;> rfl

/-- No SBI call but those of the debug console reaches memory. -/
theorem sbiAnswer_mem {ext : Nat} (fid : Nat) (hs : ext ∈ sbiServed) (hne : ext ≠ 0x4442434E) :
    (s.sbiAnswer part r ext fid).mem = s.mem := by
  simp only [sbiServed, List.mem_cons, List.not_mem_nil, or_false] at hs
  rcases hs with rfl | rfl | rfl | rfl | rfl | rfl | rfl
  · exact sbiBase_mem fid
  · rfl
  · exact sbiIpi_mem
  · exact sbiRfence_mem fid
  · exact sbiHsm_mem fid
  · exact sbiReset_mem
  · exact absurd rfl hne

theorem sbiBase_probe : s.sbiBase 3 r = s.ok (if r.a0.toNat ∈ sbiServed ∨ r.a0 = 0x0955_5A01 then 1 else 0) := by
  simp [State.sbiBase]

theorem sbiRfence_of_first {fid : Nat} (hf : fid < 3) : s.sbiRfence part fid r =
    if (s.part part).maskHarts r.a0 r.a1 = none then s.fail .invalidParam else s.ok 0 := by
  have hlow : ¬ (3 ≤ fid ∧ (!Config.guestHfence part) = true) := fun h => absurd h.1 (Nat.not_le.mpr hf)
  unfold State.sbiRfence
  rw [if_neg hlow]
  simp

theorem sbiHsm_start_unknown (h : r.a0.toNat ∉ (s.part part).hartIds) : s.sbiHsm part 0 r = s.fail .invalidParam :=
  if_pos (by simpa using h)

theorem sbiHsm_start (h : r.a0.toNat ∈ (s.part part).hartIds) (hg : (s.gpa? part r.a1.toNat).isSome = true)
    (hs : ((s.part part).hartOf r.a0.toNat).stopped = true) : s.sbiHsm part 0 r =
      (s.putHart part r.a0.toNat
        { (s.part part).hartOf r.a0.toNat with stopped := false, startAt := r.a1, arg := r.a2 }).ok 0 := by
  refine (if_neg ?_).trans ((if_neg ?_).trans (if_neg ?_))
  · simpa using h
  · rw [Option.isNone_iff_eq_none]
    exact Option.isSome_iff_ne_none.mp hg
  · simp [hs]

theorem sbiHsm_status : s.sbiHsm part 2 r = if r.a0.toNat ∈ (s.part part).hartIds
    then s.ok (if ((s.part part).hartOf r.a0.toNat).stopped = true then 1 else 0) else s.fail .invalidParam := by
  simp [State.sbiHsm]

theorem sbiReset_shutdown (h0 : r.a0.toNat % 2 ^ 32 = 0) (h1 : r.a1.toNat % 2 ^ 32 ≤ 1) : s.sbiReset part r =
    s.putPart { s.part part with sysReset := some (r.a0.truncate 32, r.a1.truncate 32), harts := [] } := by
  have hty : (r.a0.truncate 32 : Word) = 0 := BitVec.eq_of_toNat_eq (by simpa using h0)
  have hwhy : (r.a1.truncate 32 : Word).toNat ≤ 1 := by simpa using h1
  have hvalid : ¬ ((2 < (0 : Word).toNat ∧ (0 : Word).toNat < 0xF000_0000) ∨
      (1 < (r.a1.truncate 32 : Word).toNat ∧ (r.a1.truncate 32 : Word).toNat < 0xE000_0000)) := by
    have hzero : (0 : Word).toNat = 0 := rfl
    omega
  have hknown : ¬ 2 < (0 : Word).toNat := by decide
  unfold State.sbiReset
  simp only [hty, if_neg hvalid, if_neg hknown, if_pos]

end

/-! ### Partitions, functions and contexts (R50, R51, R53, R54) -/

section
variable {α : Type} {f : State → α}
  (hf : ∀ (s : State) m h w p, f { s with mem := m, host := h, writers := w, poison := p } = f s)
include hf

/-- Sorrel's writes of guest memory leave all but the memory and what is kept of its words. -/
theorem gpaWrite_frame {s t : State} {part a : Nat} {bs : List Byte} (h : s.gpaWrite part a bs = some t) : f t = f s := by
  have hbytes (xs : List (Nat × Byte)) (s : State) :
      f (xs.foldl (fun (s : State) x => (s.setHomeByte false x.1 x.2).noteWriter false x.1 0) s) = f s := by
    induction xs generalizing s with
    | nil => rfl
    | cons x xs ih =>
      rw [List.foldl_cons, ih]
      unfold State.setHomeByte
      split
      · rename_i hchip
        cases hchip
      · split <;> exact hf s _ _ _ _
  obtain ⟨pas, -, rfl⟩ := Option.map_eq_some_iff.mp h
  exact hbytes _ s

theorem putCtxTab_frame (s : State) (part ctx x : Nat) : f (s.putCtxTab part ctx x) = f s := by
  unfold State.putCtxTab
  cases h : s.gpaWrite part ((s.part part).ctxPage + 8 * ctx) (leBytes 8 x) with
  | none => rfl
  | some t => exact gpaWrite_frame hf h

end

section
variable {s : State} {part : Nat} {r : CallRegs}

/-- CALL_QUERY gives the current version of a published call (R50). -/
theorem exec_callQuery (h : asksCall r 2 1 0) : exec (.callQuery part r) s =
    .next ((callVersion r.a0.toNat).elim (s.fail .notSupported) s.ok) := by
  show execCallQuery part r s = _
  refine serve_of_served h (by decide) ?_
  cases callVersion r.a0.toNat <;> rfl

theorem exec_partInfo {maj min : Nat} {t : State} (h : asksCall r 0x10 maj min) (hv : servedVersion 0x10 maj min = true)
    (ha : r.a0.toNat % 8 = 0) (ht : s.gpaWrite part r.a0.toNat (s.partInfoBytes part maj) = some t) :
    exec (.partInfo part r) s = .next (t.ok 0) := by
  show execPartInfo part r s = _
  refine serve_of_served h hv ?_
  simp only [if_neg (not_not.mpr ha), ht]

theorem exec_partResizeReq (h : asksCall r 0x11 1 0) : exec (.partResizeReq part r) s =
    let p := s.part part
    .next ((s.putPart { p with rreq := p.rreq + 1, rask := (r.a0, r.a1) }).ok (p.rreq + 1).toNat) := by
  show execPartResizeReq part r s = _
  exact serve_of_served h (by decide) rfl

/-- The part after VF_BIND has bound a function with its exported set and the depth of the partition's intake ring (log 117). -/
def State.bindFunc (s : State) (part fn : Nat) (xs : List Nat) (depth : Nat) : State :=
  let s := { s with pkg := s.pkg.putFunc fn { s.pkg.func fn with part := BitVec.ofNat 8 part, exported := xs } }
  s.putPart { s.part part with intake := depth }

theorem exec_vfBind_denied {min : Nat} (h : asksCall r 0x20 1 min) (hv : servedVersion 0x20 1 min = true) (hfn : r.a0.toNat < 64)
    (hb : (s.pkg.func r.a0.toNat).bound = true) (hp : (s.pkg.func r.a0.toNat).part.toNat ≠ part) :
    exec (.vfBind part r) s = .next (s.fail .denied) := by
  show execVfBind part r s = _
  exact serve_of_served h hv ((if_neg (Nat.not_le.mpr hfn)).trans (if_pos (by simp [hb, hp])))

theorem exec_vfBind {min : Nat} {xs : List Nat} (h : asksCall r 0x20 1 min) (hv : servedVersion 0x20 1 min = true)
    (hfn : r.a0.toNat < 64) (hf : (s.pkg.func r.a0.toNat).bound = false ∨ (s.pkg.func r.a0.toNat).part.toNat = part)
    (hx : s.exportSet part r.a1.toNat r.a2.toNat = .ok xs) : exec (.vfBind part r) s =
      .next ((s.bindFunc part r.a0.toNat xs (if 1 ≤ min then r.a3.toNat else 0)).ok 0) := by
  have hfree : ¬ ((s.pkg.func r.a0.toNat).bound && (s.pkg.func r.a0.toNat).part.toNat != part) = true := by
    rcases hf with hf | hf <;> simp [hf]
  show execVfBind part r s = _
  refine serve_of_served h hv ?_
  simp only [if_neg (Nat.not_le.mpr hfn), if_neg hfree, hx]
  rfl

theorem exec_vfReset (h : asksCall r 0x21 1 0) (h1 : 1 ≤ r.a0.toNat) (h64 : r.a0.toNat < 64) :
    exec (.vfReset part r) s = .next (if (s.pkg.func r.a0.toNat).part.toNat ≠ part then s.fail .denied
      else (s.flr r.a0.toNat).ok ((s.flr r.a0.toNat).pkg.func r.a0.toNat).dropped) := by
  show execVfReset part r s = _
  exact serve_of_served h (by decide) (if_neg (by omega))

theorem exec_poolDonate (h : asksCall r 0x30 2 0) (hc : r.a2.toNat ≤ 2) (ha : r.a0.toNat % frameBytes r.a2.toNat = 0)
    (he : r.a0.toNat + frameBytes r.a2.toNat * r.a1.toNat ≤ 2 ^ 50) : exec (.poolDonate part r) s =
      let p := s.part part
      let fill := s.poolField p (64 * r.a2.toNat + 8) 8
      let n := Nat.min r.a1.toNat (2048 - (fill - s.poolField p (64 * r.a2.toNat) 8))
      .next ((s.donate p r.a2.toNat r.a0.toNat fill n).ok n) := by
  show execPoolDonate part r s = _
  exact serve_of_served h (by decide)
    ((if_neg (Nat.not_lt.mpr hc)).trans ((if_neg (not_not.mpr ha)).trans (if_neg (Nat.not_lt.mpr he))))

theorem exec_poolReclaim (h : asksCall r 0x31 2 0) (hc : r.a2.toNat ≤ 2) : exec (.poolReclaim part r) s =
    let p := s.part part
    let fill := s.poolField p (64 * r.a2.toNat + 8) 8
    let n := Nat.min r.a0.toNat (fill - s.poolField p (64 * r.a2.toNat) 8)
    .next (((s.putPool p (64 * r.a2.toNat + 8) 8 (fill - n)).watchPools s part).ok (s.validBefore p r.a2.toNat fill n)) := by
  show execPoolReclaim part r s = _
  exact serve_of_served h (by decide) (if_neg (Nat.not_lt.mpr hc))

/-- CTX_CREATE gives the lowest identifier that no context has (R53). -/
theorem exec_ctxCreate {k : Nat} (h : asksCall r 0x40 1 0) (ha : r.a0.toNat % 4096 = 0) (h1 : 1 ≤ k) (h256 : k < 256)
    (hfree : ∀ c ∈ s.ctxs, c.id ≠ k) (hlow : ∀ j, 1 ≤ j → j < k → ∃ c ∈ s.ctxs, c.id = j) :
    exec (.ctxCreate part r) s = .next ((({ s with ctxs := s.ctxs ++ [{ id := k, part := part, vroot := r.a0 }] } :
      State).putCtxTab part k (ctxRegPage k)).ok k) := by
  have hfind : (List.range 256).find? (fun k => k != 0 && !s.ctxs.any fun (c : Ctx) => c.id == k) = some k := by
    rw [List.find?_range_eq_some]
    refine ⟨?_, List.mem_range.mpr h256, fun j hj => ?_⟩
    · simpa [Nat.ne_of_gt h1] using hfree
    · by_cases hz : j = 0
      · simp [hz]
      · simpa [hz] using hlow j (Nat.one_le_iff_ne_zero.mpr hz) hj
  show execCtxCreate part r s = _
  refine serve_of_served h (by decide) ?_
  simp only [if_neg (not_not.mpr ha), hfind]

theorem exec_ctxDestroy {c : Ctx} (h : asksCall r 0x41 1 0) (hc : s.ctxs.find? (fun c => c.id == r.a0.toNat) = some c) :
    exec (.ctxDestroy part r) s = .next (if c.part ≠ part then s.fail .denied
      else if s.ctxAtWork c.id = true then s.fail .busy else ((s.dropCtx c.id).putCtxTab part c.id 0).ok 0) := by
  show execCtxDestroy part r s = _
  refine serve_of_served h (by decide) ?_
  simp only [hc]

theorem exec_attestReport {nonce : List Byte} {t : State} (h : asksCall r 0x60 1 0)
    (hn : s.guestRead part r.a0.toNat 32 = some nonce)
    (ht : s.gpaWrite part r.a1.toNat (s.reportBody part nonce ++ edSign Config.identitySeed (s.reportBody part nonce)) = some t) :
    exec (.attestReport part r) s = .next (t.ok 640) := by
  show execAttestReport part r s = _
  refine serve_of_served h (by decide) ?_
  simp only [hn, ht]

end

/-! ### Collective groups (R55) -/

section
variable {s : State} {part : Nat} {r : CallRegs}

/-- The next handle: its top bit names the engine (log 97). -/
def State.newHandle (s : State) : Nat := 2 ^ 31 * s.collEngine + s.pkg.nextHandle % 2 ^ 31

theorem newHandle_lt (s : State) : s.newHandle < 2 ^ 32 := by
  have hengine : s.collEngine ≤ 1 := by
    unfold State.collEngine
    dsimp only
    split <;> omega
  unfold State.newHandle
  omega

theorem handle_zeroExtend (s : State) :
    BitVec.ofNat 64 s.newHandle = (BitVec.ofNat 32 s.newHandle).zeroExtend 64 := by
  have hlt := newHandle_lt s
  refine BitVec.eq_of_toNat_eq ?_
  simp only [BitVec.toNat_ofNat, BitVec.truncate_eq_setWidth, BitVec.toNat_setWidth]
  omega

/-- The group that COLL_GROUP creates from a rank list. -/
def State.newGroup (s : State) (part n : Nat) (rs : List (BitVec 64 × Nat × Nat)) : Group :=
  { handle := BitVec.ofNat 32 s.newHandle, part := part, ranks := n, members := rs.zipIdx.map fun x => (x.2, x.1.1, x.1.2.1),
    complete := rs.all fun x => x.1 == ownId, since := 0, insts := [] }

theorem exec_collGroup {bs : List Byte} (h : asksCall r 0x50 1 0) (h1 : 1 ≤ r.a1.toNat) (hn : r.a1.toNat ≤ 4096)
    (hb : s.guestRead part r.a0.toNat (16 * r.a1.toNat) = some bs) : exec (.collGroup part r) s =
      let rs := rankList bs r.a1.toNat
      .next (if rs.any (fun x => x.1 == ownId && x.2.1 != part) = true then s.fail .denied
        else if rs.any (fun x => x.2.2 != 0 || !(x.1 == ownId || s.pkg.reaches x.1)) = true then s.fail .invalidParam
        else ({ s with groups := s.groups ++ [s.newGroup part r.a1.toNat rs],
                       pkg := { s.pkg with nextHandle := s.pkg.nextHandle + 1 } } : State).ok s.newHandle) := by
  have hrange : ¬ (r.a1.toNat < 1 ∨ 4096 < r.a1.toNat) := by omega
  show execCollGroup part r s = _
  refine serve_of_served h (by decide) ?_
  simp only [if_neg hrange, hb]
  rfl

/-- A rank list that creates a group is neither denied nor invalid. -/
theorem ranks_valid {rs : List (BitVec 64 × Nat × Nat)} (h : ∀ x ∈ rs, x.2.2 = 0 ∧
      ((x.1 = ownId ∧ x.2.1 = part) ∨ (x.1 ≠ ownId ∧ s.pkg.reaches x.1 = true))) :
    ¬ rs.any (fun x => x.1 == ownId && x.2.1 != part) = true ∧
      ¬ rs.any (fun x => x.2.2 != 0 || !(x.1 == ownId || s.pkg.reaches x.1)) = true := by
  refine ⟨fun hany => ?_, fun hany => ?_⟩
  · obtain ⟨x, hx, hbad⟩ := List.any_eq_true.mp hany
    rcases (h x hx).2 with ⟨-, hpart⟩ | ⟨hfar, -⟩
    · simp [hpart] at hbad
    · simp [hfar] at hbad
  · obtain ⟨x, hx, hbad⟩ := List.any_eq_true.mp hany
    obtain ⟨hz, ⟨hown, -⟩ | ⟨-, hreach⟩⟩ := h x hx
    · simp [hz, hown] at hbad
    · simp [hz, hreach] at hbad

end

section
variable {s : State} {g : Group} (hg : s.groups.find? (fun x => x.handle == g.handle) = some g)
include hg

theorem exec_collGroupTimeout (hc : g.complete = false) (hi : g.insts ≠ []) (ht : g.since + 1000000000 ≤ s.timeNs) :
    exec (.collGroupTimeout g.handle) s = .next (s.collFail g) := by
  have hdue : ¬ (g.complete || g.insts.isEmpty || decide (s.timeNs < g.since + 1000000000)) = true := by
    simp [hc, hi, Nat.not_lt.mpr ht]
  rw [show exec (.collGroupTimeout g.handle) s = execCollGroupTimeout g.handle s from rfl, execCollGroupTimeout]
  simp only [hg, if_neg hdue]

omit hg in
/-- A group whose members are all on this package has no rank elsewhere. -/
theorem farRanks_of_local (hm : ∀ m ∈ g.members, m.2.1 = ownId) :
    (g.members.filter fun m => m.2.1 != ownId).map Prod.fst = [] := by
  have hnone : g.members.filter (fun m => m.2.1 != ownId) = [] :=
    List.filter_eq_nil_iff.mpr fun m h => by simp [hm m h]
  rw [hnone, List.map_nil]

variable {hs : List CollInst} (hc : g.complete = true) (hm : ∀ m ∈ g.members, m.2.1 = ownId) (hh : g.heads = some hs)
include hc hm hh

/-- COLLs of different shapes end failed (R416). -/
theorem exec_collComplete_mismatch (hx : ∃ x ∈ hs, ∃ y ∈ hs, CollInst.shape x ≠ CollInst.shape y) :
    exec (.collComplete g.handle []) s =
      .next ((hs.foldl (fun s c => s.collEnd c (some unstatedFault)) s).collDrop g.handle (hs.map CollInst.op)) := by
  obtain ⟨x, hxs, y, hys, hne⟩ := hx
  have hrun : ¬ (!g.complete || hs.isEmpty) = true := by simp [hc, List.ne_nil_of_mem hxs]
  have hdiff : ((hs.map CollInst.shape).any fun x => (hs.map CollInst.shape).any fun y => x != y) = true := by
    refine List.any_eq_true.mpr ⟨_, List.mem_map_of_mem hxs, List.any_eq_true.mpr ⟨_, List.mem_map_of_mem hys, ?_⟩⟩
    exact bne_iff_ne.mpr hne
  show execCollComplete g.handle [] s = _
  unfold execCollComplete
  simp only [hg, hh, farRanks_of_local hm, List.mapM_nil, Option.pure_def, if_neg hrun, List.map_nil, List.append_nil, if_pos hdiff]

/-- Source elements of each rank, as its COLL has read them. -/
def collSources (ranks : Nat) (ls : List CollLocal) : List (List Nat) :=
  (List.range ranks).map fun k => ((ls.find? fun l => l.c.rank == k).map CollLocal.src).getD []

/-- A rank's COLL takes its result whole and ends. -/
def State.collTakes (srcs : List (List Nat)) (s : State) (l : CollLocal) : State :=
  let bs := collBytesFor l.c srcs
  (s.collWrite l.c.ctx l.dst (fun _ x => some x) (bs.length + 1) bs l.ps).collEnd l.c none

/-- COLLs of one shape, none of which fails, take their results (R28, R416). -/
theorem exec_collComplete_local {s1 : State} {ls : List CollLocal} (hne : hs ≠ []) (hr : s.collReads g.ranks hs = (s1, ls))
    (hx : ∀ x ∈ hs, ∀ y ∈ hs, CollInst.shape x = CollInst.shape y) (hl : ∀ l ∈ ls, l.bad = none) :
    exec (.collComplete g.handle []) s =
      .next ((ls.foldl (State.collTakes (collSources g.ranks ls)) s1).collDrop g.handle (hs.map CollInst.op)) := by
  have hrun : ¬ (!g.complete || hs.isEmpty) = true := by simp [hc, hne]
  have hsame : ¬ ((hs.map CollInst.shape).any fun x => (hs.map CollInst.shape).any fun y => x != y) = true := by
    simpa [List.any_map] using hx
  have hfails : (ls.any fun l => l.bad.isSome) = false := by
    simpa [List.any_eq_false] using hl
  show execCollComplete g.handle [] s = _
  unfold execCollComplete
  simp only [hg, hh, farRanks_of_local hm, List.mapM_nil, Option.pure_def, if_neg hrun, List.map_nil, List.append_nil,
    if_neg hsame, hr, hfails]
  generalize hsrcs : List.map _ (List.range g.ranks) = srcs
  have hsources : srcs = collSources g.ranks ls := by
    rw [← hsrcs]
    refine List.map_congr_left fun k _ => ?_
    cases ls.find? fun (l : CollLocal) => l.c.rank == k <;> rfl
  refine (if_neg fun hheld => ?_).trans (congrArg (fun s => Host.Outcome.next (State.collDrop s _ _))
    (List.foldl_ext _ _ _ fun s l hmem => ?_))
  · obtain ⟨l, hmem, hbad⟩ := List.any_eq_true.mp hheld
    simp [hl l hmem] at hbad
  · simp [hl l hmem, hsources, State.collTakes]

end

/-- Settles O58: call by call, by how a published call is served, and group by group. -/
theorem sorrelCallEvents : Obligations.SorrelCallEvents := by
  intro s part r
  refine ⟨fun v => ⟨rfl, rfl⟩, rfl, ?_, ?_, ?_, ?_, ?_, ?_, ?_, ?_, ?_, ?_, ?_, ?_, ?_, ?_, ?_, ?_, ?_⟩
  · intro h7 h i hi
    simp only [List.mem_cons, List.not_mem_nil, or_false] at hi
    rcases hi with rfl | rfl | rfl | rfl | rfl
    · exact (show execVersion part r s = _ from serve_of_unknown h7 h)
    · exact (show execCallQuery part r s = _ from serve_of_unknown h7 h)
    · exact (show execPartInfo part r s = _ from serve_of_unknown h7 h)
    · exact (show execCtxCreate part r s = _ from serve_of_unknown h7 h)
    · exact (show execHealthRead part r s = _ from serve_of_unknown h7 h)
  · intro h7
    refine ⟨exec_sbi_unserved h7, fun hs hf => ⟨_, exec_sbi ⟨rfl, rfl⟩ ⟨hs, hf⟩ rfl, fun hne => ?_⟩,
      fun h => exec_sbi h (by decide) rfl, fun h => exec_sbi h (by decide) sbiBase_probe, fun h => ?_,
      fun h => ⟨fun hn => ?_, fun hs hh => ?_⟩, ?_, fun h => ⟨fun hn => ?_, fun hk hg hst => ?_⟩, fun h => ?_,
      fun h => exec_sbi h (by decide) sbiHsm_status, fun h h0 h1 => ?_, fun h => ?_⟩
    · exact sbiAnswer_mem _ hs fun h => hne (BitVec.eq_of_toNat_eq h)
    · exact ⟨_, exec_sbi h (by decide) rfl, (hartOf_putHart _ _ _ _ _).trans (if_pos rfl)⟩
    · exact exec_sbi h (by decide) (sbiIpi_none hn)
    · exact ⟨_, exec_sbi h (by decide) (sbiIpi_some hh), hartOf_pendSoft s part hs⟩
    · rintro (h | h | h)
      · exact exec_sbi h (by decide) (sbiRfence_of_first (by decide))
      · exact exec_sbi h (by decide) (sbiRfence_of_first (by decide))
      · exact exec_sbi h (by decide) (sbiRfence_of_first (by decide))
    · exact exec_sbi h (by decide) (sbiHsm_start_unknown hn)
    · exact ⟨_, exec_sbi h (by decide) (sbiHsm_start hk hg hst), (hartOf_putHart _ _ _ _ _).trans (if_pos rfl)⟩
    · exact ⟨_, exec_sbi h (by decide) rfl, (hartOf_putHart _ _ _ _ _).trans (if_pos rfl)⟩
    · refine ⟨_, exec_sbi h (by decide) (sbiReset_shutdown h0 h1), fun k => ?_⟩
      refine congrArg (fun p : Part => p.hartOf k) (State.part_putPart s ?_)
      exact State.part_id s part
    · refine ⟨_, exec_sbi h (by decide) rfl, congrArg Part.console (State.part_putPart s ?_)⟩
      exact State.part_id s part
  · exact fun h => (show execVersion part r s = _ from serve_of_served h (by decide) rfl)
  · exact fun h => (show execVersion part r s = _ from serve_of_newer h (by decide))
  · intro h
    have hexec := exec_callQuery (s := s) (part := part) h
    exact ⟨fun ha => by rw [hexec, ha]; rfl, fun ha => by rw [hexec, ha]; rfl, fun ha => by rw [hexec, ha]; rfl⟩
  · intro maj hmaj h ha t ht
    refine exec_partInfo h ?_ ha ht
    rcases hmaj with rfl | rfl <;> decide
  · exact fun h => exec_partResizeReq h
  · intro min hmin h hfn
    have hv : servedVersion 0x20 1 min = true := by
      interval_cases min <;> decide
    refine ⟨exec_vfBind_denied h hv hfn, fun hf xs hx => ⟨_, exec_vfBind h hv hfn hf hx, ?_, ?_, rfl, ?_⟩⟩
    · exact congrArg Func.part (Pkg.func_putFunc_same _ _ _)
    · exact congrArg Func.exported (Pkg.func_putFunc_same _ _ _)
    · refine (congrArg Part.intake (State.part_putPart _ ?_)).trans (if_congr (by omega) rfl rfl)
      exact State.part_id s part
  · intro h h1 h64
    have hexec := exec_vfReset (s := s) (part := part) h h1 h64
    exact ⟨fun hp => hexec.trans (congrArg Host.Outcome.next (if_neg (not_not.mpr hp))),
      fun hp => hexec.trans (congrArg Host.Outcome.next (if_pos hp))⟩
  · exact fun h hc ha he => exec_poolDonate h hc ha he
  · exact fun h hc => ⟨_, exec_poolReclaim h hc, rfl, rfl⟩
  · exact fun k h ha h1 h256 hfree hlow =>
      ⟨_, exec_ctxCreate h ha h1 h256 hfree hlow, putCtxTab_frame (f := State.ctxs) (fun _ _ _ _ _ => rfl) _ _ _ _⟩
  · intro c h hc
    have hexec := exec_ctxDestroy (part := part) h hc
    refine ⟨fun hp => ?_, fun hp hw => ?_, fun hp hw => ?_⟩
    · rw [hexec, if_pos hp]
    · rw [hexec, if_neg (not_not.mpr hp), if_pos hw]
    · rw [hexec, if_neg (not_not.mpr hp), if_neg (ne_true_of_eq_false hw)]
  · intro bs h h1 hn hb
    have hexec := exec_collGroup h h1 hn hb
    refine ⟨fun ⟨x, hx, hown, hpart⟩ => ?_, fun hvalid => ?_⟩
    · exact hexec.trans (congrArg Host.Outcome.next (if_pos (List.any_eq_true.mpr ⟨x, hx, by simp [hown, hpart]⟩)))
    · obtain ⟨hallowed, hgood⟩ := ranks_valid hvalid
      refine ⟨_, s.newGroup part r.a1.toNat (rankList bs r.a1.toNat),
        hexec.trans (congrArg Host.Outcome.next ((if_neg hallowed).trans (if_neg hgood))), rfl, rfl, ?_, rfl, rfl, rfl⟩
      exact congrArg (fun v => [v]) (handle_zeroExtend s)
  · exact fun nonce t h hn ht => exec_attestReport h hn ht
  · exact fun h => (show execHealthRead part r s = _ from serve_of_served h (by decide) rfl)
  · intro g hg
    refine ⟨rfl, exec_collGroupTimeout hg, ?_, ?_⟩
    · exact fun hs s1 ls hc hm hh hne hr hx hl => exec_collComplete_local hg hc hm hh hne hr hx hl
    · exact fun hs hc hm hh hx => exec_collComplete_mismatch hg hc hm hh hx

end Sys2Proof.Machine
end

section
/-! Completion of an instruction: its count, the latches and the mask that stands again (R71, R132, R214). -/

namespace Sys2Proof.Machine

/-! ### The count of an instruction (R71, R143) -/

/-- A word has a bit that counts exactly where it is not 0. -/
theorem word_ne_zero_eq_any (x : Nat) :
    (x % 2 ^ 32 != 0) = (List.range 32).any fun l => x.testBit l := by
  rw [Bool.eq_iff_iff, bne_iff_ne, List.any_eq_true]
  constructor
  · intro h
    obtain ⟨l, hl⟩ := Nat.exists_testBit_of_ne_zero h
    rw [Nat.testBit_mod_two_pow, Bool.and_eq_true, decide_eq_true_eq] at hl
    exact ⟨l, List.mem_range.mpr hl.1, hl.2⟩
  · rintro ⟨l, hl, hx⟩ h
    have hbit : (x % 2 ^ 32).testBit l = true := by
      rw [Nat.testBit_mod_two_pow, hx, Bool.and_true, decide_eq_true (List.mem_range.mp hl)]
    rw [h, Nat.zero_testBit] at hbit
    exact Bool.false_ne_true hbit

/-- The mask words that count are those with an active lane. -/
theorem filled_eq (t : Team) : t.filled =
    ((List.range t.words).filter fun j => (List.range 32).any fun l => t.mask.getLsbD (32 * j + l)).length := by
  have hword (j : Nat) : ((t.mask.toNat >>> (32 * j)) % 2 ^ 32 != 0) =
      (List.range 32).any fun l => t.mask.getLsbD (32 * j + l) := by
    rw [word_ne_zero_eq_any]
    simp only [Nat.testBit_shiftRight, BitVec.getLsbD]
  simp only [Team.filled, Team.wordsOf, hword]

/-- What an issued instruction counts, case by case. -/
theorem counted_eq (e : Env) : e.counted = if e.t.cursor ≠ 0 then e.s
    else if e.s.sel.joint = true then e.s.count e.b.ctx 2 1
    else if wholeOp e.op = true then (e.s.count e.b.ctx 2 1).count e.b.ctx 3 1
    else ((e.s.count e.b.ctx 2 1).count e.b.ctx 3 (occupancy e.op * e.t.filled)).count e.b.ctx 4 (e.t.words - e.t.filled) := by
  simp only [Env.counted, bne_iff_ne]

/-- A count changes contexts alone. -/
theorem count_eq_ctxs (s : State) (ctx ev n : Nat) : ∃ ctxs, s.count ctx ev n = { s with ctxs := ctxs } := by
  unfold State.count
  dsimp only
  split
  · exact ⟨s.ctxs, rfl⟩
  · exact ⟨_, rfl⟩

theorem counted_eq_ctxs (e : Env) : ∃ ctxs, e.counted = { e.s with ctxs := ctxs } := by
  obtain ⟨c1, h1⟩ := count_eq_ctxs e.s e.b.ctx 2 1
  rw [counted_eq, h1]
  split
  · exact ⟨e.s.ctxs, rfl⟩
  split
  · exact ⟨c1, rfl⟩
  split
  · exact count_eq_ctxs { e.s with ctxs := c1 } e.b.ctx 3 1
  · obtain ⟨c3, h3⟩ := count_eq_ctxs { e.s with ctxs := c1 } e.b.ctx 3 (occupancy e.op * e.t.filled)
    rw [h3]
    exact count_eq_ctxs { e.s with ctxs := c3 } e.b.ctx 4 (e.t.words - e.t.filled)

/-! ### The team and the state after a completion (R132, R214, R217) -/

/-- Marks on the loads in flight change nothing else of a team. -/
theorem fixLoads_eq (t : Team) (op : Nat) : t.fixLoads op = { t with flights := (t.fixLoads op).flights } := by
  unfold Team.fixLoads
  split <;> rfl

/-- The mask of a retried instruction stands again; any other stays. -/
theorem unretry_eq (t : Team) : t.unretry = { t with restore := none, mask := (t.restore.getD (t.mask, t.helper)).1,
                                                     helper := (t.restore.getD (t.mask, t.helper)).2 } := by
  unfold Team.unretry
  cases h : t.restore with
  | none =>
    show t = { t with restore := none }
    rw [← h]
  | some m => rfl

/-- The team as it completes an instruction, field by field. -/
theorem completed_eq (t : Team) (op : Nat) (lat : Option (Map Word)) (pc : CodeOff) :
    ({ ((t.fixLoads op).shift lat).unretry with pc := pc } : Team) =
      { t with latches := (lat :: t.latches).take 8, pc := pc, restore := none, issued := t.issued + 1, yielded := none,
               fetchWait := .no, stall := 0, cursor := 0, table := none, flights := (t.fixLoads op).flights,
               mask := (t.restore.getD (t.mask, t.helper)).1, helper := (t.restore.getD (t.mask, t.helper)).2 } := by
  rw [unretry_eq, fixLoads_eq]
  rfl

theorem after_eq_teams_ctxs (e : Env) (s' : State) (t : Team) (lat : Option (Map Word)) (pc : CodeOff) :
    ∃ teams ctxs, e.after s' t lat pc = { s' with teams := teams, ctxs := ctxs } := by
  obtain ⟨ctxs, h⟩ := counted_eq_ctxs { e with s := s' }
  exact ⟨_, ctxs, by rw [Env.after, h]; rfl⟩

/-- The newest latch after a vector result: guarded-off lanes hold the destination's value, or 0 under WS. -/
theorem vec_latch {e : Env} {i : Instr} (d : Nat) (w : Lanes) (x : Nat → Word) :
    ∃ t, e.vec i d w x = .next (e.counted.putTeam t) ∧ t.pc = e.nextPc i ∧ ∀ l, l < 1024 → l < e.t.lanes →
      t.latch 1 l = if w.getLsbD l then x l else if i.hdr.ws = 1 then 0 else e.t.getV d l := by
  have hnewest (t : Team) (m : Map Word) (l : Nat) :
      ({ ((t.fixLoads e.op).shift (some m)).unretry with pc := e.nextPc i } : Team).latch 1 l = mget 0 m l := by
    rw [completed_eq]
    exact latch_one _ (some m) _ rfl l
  rw [vec_eq]
  by_cases hw : i.hdr.ws = 1
  · rw [if_pos (beq_iff_eq.mpr hw)]
    refine ⟨_, rfl, rfl, fun l hl hlt => ?_⟩
    rw [hnewest, mget_mrow, if_pos hlt, if_pos hw]
  · rw [if_neg fun h => hw (beq_iff_eq.mp h)]
    refine ⟨_, rfl, rfl, fun l hl hlt => ?_⟩
    rw [hnewest, mget_row _ _ _ hl, getV_putV _ _ _ _ _ _ hl, if_neg hw]
    simp [hlt]

/-- Settles O35: by the count of an instruction, the fields of the completed team, and the row of a vector result. -/
theorem latchesShift : Obligations.LatchesShift := by
  refine ⟨fun e s' t lat pc => ⟨?_, after_eq_teams_ctxs e s' t lat pc⟩, fun e => ?_, fun e s' t lat pc chip a n => ?_,
    fun i s e d w x _ => vec_latch d w x⟩
  · rw [Env.after, completed_eq]
  · rw [counted_eq, filled_eq]
  · obtain ⟨teams, ctxs, h⟩ := after_eq_teams_ctxs e s' t lat pc
    rw [h]
    exact ⟨rfl, rfl⟩

end Sys2Proof.Machine
end

section
/-! The firmware tree: its links, the messages that nodes and leaves take, watchdogs and restarts. -/

namespace Sys2Proof.Machine

/-- A fold keeps what each of its steps keeps. -/
theorem foldl_keeps {α β γ : Type} (f : α → γ) (g : α → β → α) (h : ∀ a b, f (g a b) = f a) (l : List β) (a : α) :
    f (l.foldl g a) = f a := by
  induction l generalizing a with
  | nil => rfl
  | cons b l ih => exact (ih (g a b)).trans (h a b)

/-! ### Links (R58) -/

@[simp] theorem Pkg.link_putLink_same (p : Pkg) (l : LinkId) (x : Link) : (p.putLink l x).link l = x := by
  simp [Pkg.link, Pkg.putLink, alookup_aput]

theorem link_sendLink (s : State) (l : LinkId) (m : LinkMsg) : (s.sendLink l m).pkg.link l = (s.pkg.link l).send m :=
  Pkg.link_putLink_same _ _ _

@[simp] theorem unmute_link (s : State) (c : Nat) (l : LinkId) : (s.unmute c).pkg.link l = s.pkg.link l := by
  unfold State.unmute
  dsimp only
  split <;> rfl

theorem link_popLink (s : State) (l : LinkId) : (s.popLink l).pkg.link l = (s.pkg.link l).pop := by
  cases l <;> simp [State.popLink]

theorem pop_of_cons {x : Link} {m : LinkMsg} {r : List LinkMsg} (h : x.inbox = m :: r) :
    x.pop = { x with inbox := r, permits := Nat.min 16 (x.permits + 1) } := by
  simp only [Link.pop, h]

/-! ### Queue state blocks (R65) -/

/-- Address of a node's queue state block. -/
def blockAddr (n : Node) : Nat := Config.queueBlock n.num % 2 ^ 31 * 256

theorem writeNode_mem (s : State) (n : Node) :
    (s.writeNode n).mem = msetList memDefault s.mem (blockAddr n) n.written.blockBytes := by
  have hnum : n.written.num = n.num := rfl
  simp only [State.writeNode, State.storeNode, State.putNode_mem, hnum, blockAddr]

section
variable {s : State} {n : Node} {m : LinkMsg}

/-! ### Messages that are sent (R58, R60) -/

section
variable (hn : s.node? m.node = some n)
include hn

theorem exec_linkMessageSend_down {c : Nat} (hc : c < 20) (hup : s.pkg.schedUp = true) :
    exec (.linkMessageSend (.down c) m) s = .next (s.sendLink (.down c) (n.downMsg (isRestore m.body))) := by
  have hsends : ¬ (decide (20 ≤ c) || !s.pkg.schedUp) = true := by simp [hc, hup]
  show execLinkMessageSend _ m s = _
  simp only [execLinkMessageSend, hn, if_neg hsends]

theorem exec_linkMessageSend_sorrel : exec (.linkMessageSend .sorrel m) s =
    .next ((s.putNode { n with sorrelSent := n.sorrelSent + 1 }).sendLink .sorrel { m with seq := n.sorrelSent + 1 }) := by
  show execLinkMessageSend _ m s = _
  simp only [execLinkMessageSend, hn]

/-- A leaf that may send sends what it has to report, the oldest first. -/
theorem exec_linkMessageSend_up {c : Nat} (hc : c < 20) (hup : s.pkg.leafUp c = true) (hmute : (s.pkg.core (2 + c)).mute = false) :
    exec (.linkMessageSend (.up c) m) s =
      if n.due.find? (fun x => x.1 == c) ≠ some (c, m.body) then .next s
      else .next ((s.putNode { n with
        leafSent := mset 0 n.leafSent c (mget 0 n.leafSent c + 1), due := n.due.erase (c, m.body) }).sendLink
        (.up c) { m with seq := mget 0 n.leafSent c + 1 }) := by
  show execLinkMessageSend _ m s = _
  simp only [execLinkMessageSend, hn, hup, hmute, decide_eq_false (Nat.not_le.mpr hc), Bool.not_true, Bool.or_self, Bool.false_or,
    bne_iff_ne]

end

/-! ### Messages that are applied (R60, R65 to R67) -/

theorem exec_inboxPop {l : LinkId} (h : s.pkg.receiverUp l = true) : exec (.inboxPop l) s = .next (s.popLink l) :=
  if_pos h

theorem exec_upMessageApply {leaf : Nat} {r : List LinkMsg} (hl : leaf < 20) (hup : s.pkg.schedUp = true)
    (hi : (s.pkg.link (.up leaf)).inbox = m :: r) (hn : s.node? m.node = some n) : exec (.upMessageApply leaf) s =
      .next ((if (mget 0 n.leafSeq leaf).toNat < m.seq.toNat then
          s.writeNode { n.applyUp leaf m.body with leafSeq := mset 0 (n.applyUp leaf m.body).leafSeq leaf m.seq }
        else s).popLink (.up leaf)) := by
  have htakes : ¬ (decide (20 ≤ leaf) || !s.pkg.schedUp) = true := by simp [hl, hup]
  show execUpMessageApply leaf s = _
  simp only [execUpMessageApply, hi, hn, if_neg htakes]

theorem exec_downMessageApply_setShare {leaf share : Nat} {q : List Nat} {r : List LinkMsg} (hl : leaf < 20)
    (hup : s.pkg.leafUp leaf = true) (hi : (s.pkg.link (.down leaf)).inbox = m :: r) (hn : s.node? m.node = some n)
    (hb : m.body = .setShare share q) : exec (.downMessageApply leaf) s =
      .next ((s.putNode (n.applyDown leaf m.seq false q)).popLink (.down leaf)) := by
  have htakes : ¬ (decide (20 ≤ leaf) || !s.pkg.leafUp leaf) = true := by simp [hl, hup]
  show execDownMessageApply leaf s = _
  simp only [execDownMessageApply, hi, hn, hb, if_neg htakes]

/-- The head of Sorrel's link is applied where its number is greater than the last one. -/
theorem exec_sorrelMessageApply {r : List LinkMsg} (hup : s.pkg.schedUp = true) (hi : (s.pkg.link .sorrel).inbox = m :: r)
    (hn : s.node? m.node = some n) : exec .sorrelMessageApply s =
      .next ((if n.lastSeq.toNat < m.seq.toNat then s.applySorrel n m else s).popLink .sorrel) := by
  show execSorrelMessageApply s = _
  simp only [execSorrelMessageApply, hi, if_pos hup, State.takeSorrel, hn]

/-- A restore message is taken as every other. -/
theorem exec_restoreMessage {r : List LinkMsg} (hi : (s.pkg.link .sorrel).inbox = m :: r) (hb : isRestore m.body = true) :
    exec .restoreMessage s = exec .sorrelMessageApply s := by
  show execRestoreMessage s = execSorrelMessageApply s
  simp only [execRestoreMessage, execSorrelMessageApply, hi, hb, Bool.and_true]

theorem applySorrel_setShare {share : Nat} {q : List Nat} (h : m.body = .setShare share q) :
    s.applySorrel n m = s.writeNode { n with share := share, quota := quotaMap q, lastSeq := m.seq } := by
  simp only [State.applySorrel, h]

theorem applySorrel_restore {desc : DWord} {share : Nat} {q : List Nat} (h : m.body = .restore desc share q) :
    s.applySorrel n m = (s.restoreNode n m.seq desc share q).announce m.node := by
  simp only [State.applySorrel, h]

/-- A body that carries nothing for the block records its number alone. -/
theorem applySorrel_other (hs : ∀ share q, m.body ≠ .setShare share q) (hr : ∀ d share q, m.body ≠ .restore d share q) :
    s.applySorrel n m = s.writeNode { n with lastSeq := m.seq } := by
  unfold State.applySorrel
  split
  · next h => exact absurd h (hs _ _)
  · next h => exact absurd h (hr _ _ _)
  · rfl

theorem popLink_sorrel_nodes (s : State) : (s.popLink .sorrel).nodes = s.nodes := rfl

theorem storeNode_nodes (s : State) (n : Node) :
    (s.storeNode n).nodes = s.nodes.map fun x => if x.num == n.num then n else x := rfl

theorem announce_nodes (s : State) (num : Nat) : (s.announce num).nodes = s.nodes := by
  refine foldl_keeps State.nodes _ (fun s c => ?_) _ s
  split <;> rfl

/-! ### What a message changes in a block (R60, R65, R111, R118) -/

/-- A report of a gang or a grid that does not head the queue changes nothing. -/
theorem applyUp_of_not_head {leaf g : Nat} (r : Nat) (h : n.headIs g = false) :
    ∀ body ∈ [LinkBody.age g r, .started g r, .oldest g r], n.applyUp leaf body = n := by
  simp [Node.applyUp, h]

theorem applyUp_age {leaf g : Nat} (r c : Nat) (h : n.headIs g = true) : mget 0 (n.applyUp leaf (.age g r)).age c =
    if c = leaf then Nat.min 255 r else if n.ageFor = g + 1 then mget 0 n.age c else 0 := by
  simp only [Node.applyUp, if_pos h, mget_mset]
  by_cases ha : n.ageFor = g + 1 <;> simp [ha]

theorem ofRoot_blkNext (n : Node) (g : Nat) : (n.ofRoot g).blkNext = if n.blkRoot = g + 1 then n.blkNext else 0 := by
  unfold Node.ofRoot
  split <;> rfl

theorem ofRoot_blkOldest (n : Node) (g : Nat) : (n.ofRoot g).blkOldest = if n.blkRoot = g + 1 then n.blkOldest else 0 := by
  unfold Node.ofRoot
  split <;> rfl

/-- A number of a grid rises to the report, from 0 where another root record stood in the block. -/
theorem risen_toNat {a : DWord} {p : Prop} [Decidable p] {r : Nat} (hr : r < 2 ^ 64) :
    (BitVec.ofNat 64 (Nat.max (if p then a else 0).toNat r)).toNat = if p then Nat.max a.toNat r else r := by
  split
  · exact (BitVec.toNat_ofNat _ _).trans (Nat.mod_eq_of_lt (Nat.max_lt.mpr ⟨a.isLt, hr⟩))
  · exact (congrArg (BitVec.toNat ∘ BitVec.ofNat 64) (Nat.zero_max r)).trans
      ((BitVec.toNat_ofNat _ _).trans (Nat.mod_eq_of_lt hr))

theorem applyUp_started {leaf g r : Nat} (h : n.headIs g = true) (hr : r < 2 ^ 64) :
    (n.applyUp leaf (.started g r)).blkNext.toNat = if n.blkRoot = g + 1 then Nat.max n.blkNext.toNat r else r := by
  simp only [Node.applyUp, if_pos h, ofRoot_blkNext]
  exact risen_toNat hr

theorem applyUp_oldest {leaf g r : Nat} (h : n.headIs g = true) (hr : r < 2 ^ 64) :
    (n.applyUp leaf (.oldest g r)).blkOldest.toNat = if n.blkRoot = g + 1 then Nat.max n.blkOldest.toNat r else r := by
  simp only [Node.applyUp, if_pos h, ofRoot_blkOldest]
  exact risen_toNat hr

/-- A leaf takes a GEN that is newer than its own, with the quota of its cluster. -/
theorem applyDown_of_newer {leaf : Nat} {seq : BitVec 32} {q : List Nat} (h : newer seq (mget 0 n.leafGen leaf) = true) :
    mget 0 (n.applyDown leaf seq false q).leafGen leaf = seq ∧
      (n.applyDown leaf seq false q).quotaIn leaf = some (q.getD leaf 0) := by
  simp only [Node.applyDown, Bool.false_eq_true, if_false, if_pos h, Node.quotaIn, mget_mset_same, and_self]

theorem applyDown_of_not_newer {leaf : Nat} {seq : BitVec 32} {q : List Nat} (h : newer seq (mget 0 n.leafGen leaf) = false) :
    n.applyDown leaf seq false q = n := by
  simp only [Node.applyDown, Bool.false_eq_true, if_false, h]

end

/-! ### Watchdogs (R61, R63, R64) -/

section
variable {s : State} {core : Nat} (hc : core < 23) (hup : (s.pkg.core core).up = true)
include hc hup

/-- A kick of a core that runs, by its key and the time since the last kick. -/
theorem exec_wdKick (key : BitVec 16) : exec (.wdKick core key) s =
    let c := s.pkg.core core
    let t := s.timeNs - c.kicked
    .next (if key ≠ 0x5AA5 then s.trip core 3 else if t < 1000 * c.openUs.toNat then s.trip core 1
      else if 1000 * c.close ≤ t then s.trip core 2
      else { s with pkg := s.pkg.putCore core { c with
        kicked := s.timeNs, openUs := c.nextOpen.getD c.openUs, closeUs := c.nextClose.getD c.closeUs,
        nextOpen := none, nextClose := none } }) := by
  have hruns : ¬ (decide (23 ≤ core) || !(s.pkg.core core).up) = true := by simp [hc, hup]
  show execWdKick core key s = _
  simp only [execWdKick, State.kick, if_neg hruns]

theorem exec_wdLateTrip : exec (.wdLateTrip core) s =
    if s.timeNs - (s.pkg.core core).kicked < 1000 * (s.pkg.core core).close then .next s else .next (s.trip core 2) := by
  show execWdLateTrip core s = _
  simp only [execWdLateTrip, hup, decide_eq_false (Nat.not_le.mpr hc), Bool.not_true, Bool.or_self, Bool.false_or, decide_eq_true_eq]

end

/-- A trip that is not the third within one second restarts its core. -/
theorem trip_core {s : State} {core : Nat} (cause : BitVec 2)
    (h : ((s.pkg.core core).tripTimes.filter fun t => decide (s.timeNs < t + 1000000000)).length < 2) :
    (s.trip core cause).pkg.core core = (s.pkg.core core).trip cause s.timeNs := by
  have hfew : ¬ 3 ≤ ((s.pkg.core core).trip cause s.timeNs).tripTimes.length := by
    simp only [FwCore.trip, List.length_append, List.length_singleton]
    omega
  simp only [State.trip, if_neg hfew]
  split
  · exact Pkg.core_putCore_same _ _ _
  · exact Pkg.core_putCore_same _ _ _

/-! ### Restarts (R62, R66) -/

theorem recover_fw (p : Pkg) : p.recover.fw = p.fw := by
  have hdie (p : Pkg) (d : Nat) : (p.recoverDie d).fw = p.fw :=
    recoverDie_frame (f := Pkg.fw) (fun _ _ => rfl) (fun _ _ _ => rfl) p d
  rw [recover_eq]
  exact (hdie _ 1).trans (hdie _ 0)

theorem core_congr {p q : Pkg} (h : q.fw = p.fw) (k : Nat) : q.core k = p.core k := by
  rw [Pkg.core, h, Pkg.core]

theorem markLost_fw (s : State) : s.markLost.pkg.fw = s.pkg.fw := by
  refine foldl_keeps (fun s => s.pkg.fw) _ (fun s n => ?_) _ s
  rfl

theorem updateHeld_pkg (s : State) (part : Nat) : (s.updateHeld part).pkg = s.pkg := by
  refine foldl_keeps State.pkg _ (fun s n => ?_) _ s
  rfl

/-- A rebuild leaves the rebuilt core as it stands, but for the right to send of a leaf. -/
theorem rebuild_core (s : State) (k : Nat) : ∃ mute, (s.rebuild k).pkg.core k = { s.pkg.core k with mute := mute } := by
  have hlost : s.markLost.pkg.core k = s.pkg.core k := core_congr (markLost_fw s) k
  unfold State.rebuild
  split
  · exact ⟨_, rfl⟩
  dsimp only
  split
  · refine ⟨(s.pkg.core k).mute, ?_⟩
    rw [foldl_keeps State.pkg _ updateHeld_pkg]
    exact hlost
  · exact ⟨_, by rw [Pkg.core_putCore_same, hlost]⟩

/-- A core whose restart ends has its default window again. -/
theorem exec_firmwareRestartDone {s : State} {core : Nat} (hc : core < 23) (hr : (s.pkg.core core).restarting = true)
    (hd : s.pkg.restartDue core s.timeNs = true) : ∃ t, exec (.firmwareRestartDone core) s = .next t ∧
      ∃ mute, t.pkg.core core = { s.pkg.core core with
        restarting := false, kicked := s.timeNs, upSince := s.timeNs, openUs := (fwWindow core).1,
        closeUs := (fwWindow core).2, nextOpen := none, nextClose := none, mute := mute } := by
  have hends : ¬ (decide (23 ≤ core) || !(s.pkg.core core).restarting || !s.pkg.restartDue core s.timeNs) = true := by
    simp [hc, hr, hd]
  refine ⟨_, if_neg hends, ?_⟩
  obtain ⟨mute, h⟩ := rebuild_core _ core
  refine ⟨mute, h.trans ?_⟩
  split
  · rw [core_congr (recover_fw _), Pkg.core_putCore_same]
  · rw [Pkg.core_putCore_same]

/-- Settles O55: event by event, by what each does to the link, the node or the core that it names. -/
theorem firmwareEvents : Obligations.FirmwareEvents := by
  intro s
  refine ⟨?_, ?_, ?_, ?_, ?_, ?_, ?_, ?_, ?_, ?_, ?_, ?_⟩
  · intro l m n hn
    refine ⟨fun c hl hc hup => ?_, fun hl => ?_, fun c hl hc hup hmute => ?_⟩
    · subst hl
      exact ⟨n.downMsg (isRestore m.body), rfl, rfl, exec_linkMessageSend_down hn hc hup⟩
    · subst hl
      exact exec_linkMessageSend_sorrel hn
    · subst hl
      have hexec := exec_linkMessageSend_up hn hc hup hmute
      exact ⟨fun h => hexec.trans (if_pos h), fun h => hexec.trans (if_neg (not_not.mpr h))⟩
  · exact fun n => ⟨rfl, blockAddr n, Nat.mul_mod_left _ _, writeNode_mem s n, storeNode_nodes s n.written⟩
  · intro l m
    simp only [link_sendLink]
    exact ⟨fun h => if_pos h, fun h => if_neg h⟩
  · exact fun l m r hup hi => ⟨_, exec_inboxPop hup, (link_popLink s l).trans (pop_of_cons hi)⟩
  · intro leaf m r n hl hup hi hn
    have hexec := exec_upMessageApply hl hup hi hn
    exact ⟨fun h => by rw [hexec, if_neg (Nat.not_lt.mpr h)], fun h => by rw [hexec, if_pos h]⟩
  · intro n leaf g r _
    have hhead : n.headIs g = true ↔ n.queue.head?.map QEntry.seq = some g := beq_iff_eq
    refine ⟨fun h => applyUp_of_not_head r (Bool.eq_false_iff.mpr fun hg => h (hhead.mp hg)), fun h => ?_⟩
    exact ⟨fun c => applyUp_age r c (hhead.mpr h), fun hr => applyUp_started (hhead.mpr h) hr,
      fun hr => applyUp_oldest (hhead.mpr h) hr⟩
  · intro m r n share q hup hi hn hb
    have hexec := exec_sorrelMessageApply hup hi hn
    exact ⟨fun h => by rw [hexec, if_pos h, applySorrel_setShare hb], fun h => by rw [hexec, if_neg (Nat.not_lt.mpr h)]⟩
  · intro m r n hup hi hn
    have hexec := exec_sorrelMessageApply hup hi hn
    exact ⟨fun h => by rw [hexec, if_neg (Nat.not_lt.mpr h)], fun h hs hr => by rw [hexec, if_pos h, applySorrel_other hs hr]⟩
  · intro leaf m r n share q hl hup hi hn hb
    exact ⟨_, exec_downMessageApply_setShare hl hup hi hn hb, applyDown_of_newer, applyDown_of_not_newer⟩
  · intro m r n desc share q hup hi hn hb
    have hrestore : exec .restoreMessage s = exec .sorrelMessageApply s := exec_restoreMessage hi (by rw [hb]; rfl)
    have hexec := exec_sorrelMessageApply hup hi hn
    refine ⟨hrestore.symm, fun h => ?_, fun h => ⟨_, hrestore.trans hexec, ?_⟩⟩
    · rw [hrestore, hexec, if_neg (Nat.not_lt.mpr h)]
    · rw [if_pos h, applySorrel_restore hb, popLink_sorrel_nodes, announce_nodes, State.restoreNode, storeNode_nodes]
  · intro core key hc hup
    have hkick := exec_wdKick hc hup key
    have hlate := exec_wdLateTrip hc hup
    refine ⟨fun hk ho hw => ?_, fun hk => ?_, fun hk ho => ?_, fun hk ho hw => ?_, fun hw => ?_, fun hw => ?_, fun cause hf => ?_⟩
    · simp only [hkick, if_neg (not_not.mpr hk), if_neg (Nat.not_lt.mpr ho), if_neg (Nat.not_le.mpr hw)]
    · simp only [hkick, if_pos hk]
    · simp only [hkick, if_neg (not_not.mpr hk), if_pos ho]
    · simp only [hkick, if_neg (not_not.mpr hk), if_neg (Nat.not_lt.mpr ho), if_pos hw]
    · rw [hlate, if_neg (Nat.not_lt.mpr hw)]
    · rw [hlate, if_pos hw]
    · rw [trip_core cause hf]
      exact ⟨rfl, rfl⟩
  · intro core hc hr hd
    obtain ⟨t, hexec, mute, hcore⟩ := exec_firmwareRestartDone hc hr hd
    refine ⟨t, hexec, ?_⟩
    rw [hcore]
    exact ⟨rfl, rfl, rfl⟩

end Sys2Proof.Machine
end

section
/-! Bytes at their homes: what writes of homes set, and what accesses on their way, once performed, leave (R193 to R200, R220). -/

namespace Sys2Proof.Machine

/-! ### Writes of bytes at their homes -/

theorem homeByte_setHomeByte (s : State) (chip : Bool) (a : Nat) (b : Byte) (c : Bool) (x : Nat) :
    (s.setHomeByte chip a b).homeByte c x = if c = chip ∧ x = a then b else s.homeByte c x := by
  cases chip
  · by_cases ha : hostBase ≤ a
    · have hx : hostBase ≤ x → (x - hostBase = a - hostBase ↔ x = a) := by omega
      have hne : ¬ hostBase ≤ x → x ≠ a := by omega
      cases c <;> by_cases h : hostBase ≤ x <;> simp [State.setHomeByte, State.homeByte, ha, h, hx, hne, mget_mset]
    · have hne : hostBase ≤ x → x ≠ a := by omega
      cases c <;> by_cases h : hostBase ≤ x <;> simp [State.setHomeByte, State.homeByte, ha, h, hne, mget_mset]
  · cases c <;> simp [State.setHomeByte, State.homeByte, mget_mset]

theorem homeByte_noteWriter (s : State) (chip : Bool) (a ctx : Nat) (c : Bool) (x : Nat) :
    (s.noteWriter chip a ctx).homeByte c x = s.homeByte c x := rfl

/-- A written range reads as the bytes written, and every other byte as before. -/
theorem homeByte_homeWrite (bs : List Byte) (s : State) (chip : Bool) (a : Nat) (c : Bool) (x : Nat) :
    (s.homeWrite chip a bs).homeByte c x =
      if c = chip ∧ a ≤ x ∧ x < a + bs.length then bs.getD (x - a) 0 else s.homeByte c x := by
  induction bs generalizing s a with
  | nil =>
    have hout : ¬ (a ≤ x ∧ x < a + 0) := by omega
    simp only [State.homeWrite, List.length_nil, hout, and_false, if_false]
  | cons b bs ih =>
    rw [State.homeWrite, ih, homeByte_setHomeByte, List.length_cons]
    by_cases hc : c = chip
    · by_cases hx : x = a
      · simp [hc, hx]
      · by_cases hin : a + 1 ≤ x ∧ x < a + 1 + bs.length
        · have hin' : a ≤ x ∧ x < a + (bs.length + 1) := by omega
          have hsub : x - a = x - (a + 1) + 1 := by omega
          simp [hc, hin, hin', hsub]
        · have hout : ¬ (a ≤ x ∧ x < a + (bs.length + 1)) := by omega
          rw [if_neg fun h => hin h.2, if_neg fun h => hx h.2, if_neg fun h => hout h.2]
    · simp [hc]

theorem homeRead_homeWrite (bs : List Byte) (s : State) (chip : Bool) (a : Nat) :
    (s.homeWrite chip a bs).homeRead chip a bs.length = bs := by
  refine List.ext_getElem (by simp [State.homeRead]) fun i hi hlt => ?_
  simp [State.homeRead, homeByte_homeWrite, hlt]

/-- Bytes written one by one at offsets from a base, each with the value of its offset. -/
theorem homeByte_foldl_setHomeByte (is : List Nat) (s : State) (chip : Bool) (base ctx : Nat) (g : Nat → Byte) (c : Bool) (x : Nat) :
    (is.foldl (fun (s : State) i => (s.setHomeByte chip (base + i) (g i)).noteWriter chip (base + i) ctx) s).homeByte c x =
      if c = chip ∧ base ≤ x ∧ x - base ∈ is then g (x - base) else s.homeByte c x := by
  induction is generalizing s with
  | nil => simp
  | cons i is ih =>
    rw [List.foldl_cons, ih, homeByte_noteWriter, homeByte_setHomeByte]
    by_cases hx : x = base + i
    · by_cases hc : c = chip <;> simp [hx, hc]
    · have hne : base ≤ x → x - base ≠ i := by omega
      by_cases hb : base ≤ x <;> simp [hx, hb, hne]

/-- A line's dirty bytes stand at their homes once it is written back. -/
theorem homeByte_writeBack (s : State) (l : Line) (c : Bool) (x : Nat) : (s.writeBack l).homeByte c x =
    if c = l.chip ∧ x / 128 = l.line ∧ l.dirty.getLsbD (x % 128) = true then mget memDefault l.data (x % 128)
    else s.homeByte c x := by
  have hdirty (i : Nat) : i ∈ setBits 128 l.dirty.toNat ↔ i < 128 ∧ l.dirty.getLsbD i = true := by
    simp [setBits, BitVec.getLsbD]
  rw [State.writeBack, homeByte_foldl_setHomeByte _ _ _ _ _ fun i => mget memDefault l.data i]
  by_cases hx : x / 128 = l.line
  · have hoff : x - 128 * l.line = x % 128 := by omega
    have hlow : 128 * l.line ≤ x := by omega
    have hlt : x % 128 < 128 := Nat.mod_lt _ (by decide)
    simp [hdirty, hoff, hlow, hlt, hx]
  · have hout : ¬ (128 * l.line ≤ x ∧ x - 128 * l.line < 128) := by omega
    rw [if_neg fun h => hout ⟨h.2.1, ((hdirty _).mp h.2.2).1⟩, if_neg fun h => hx h.2.1]

/-! ### What accesses on their way leave once performed -/

/-- What depends neither on the cores nor on the accesses on their way. -/
structure AwayFromCores {α : Type} (f : State → α) : Prop where
  loadQ : ∀ s q, f { s with loadQ := q } = f s
  remoteQ : ∀ s q, f { s with remoteQ := q } = f s
  cores : ∀ s m, f { s with cores := m } = f s
  spadPoison : ∀ s m, f { s with spadPoison := m } = f s
  writers : ∀ s m, f { s with writers := m } = f s

/-- What does not depend on the bytes at their homes either. -/
structure AwayFromMemory {α : Type} (f : State → α) : Prop extends AwayFromCores f where
  home : ∀ s chip a b, f (s.setHomeByte chip a b) = f s

theorem homeByte_awayFromCores (chip : Bool) (a : Nat) : AwayFromCores fun s => s.homeByte chip a where
  loadQ _ _ := rfl
  remoteQ _ _ := rfl
  cores _ _ := rfl
  spadPoison _ _ := rfl
  writers _ _ := rfl

/-- Only memories and their errors change with a byte at its home. -/
theorem setHomeByte_eq (s : State) (chip : Bool) (a : Nat) (b : Byte) : ∃ mem host ch poison chipPoison, s.setHomeByte chip a b =
    { s with mem := mem, host := host, chip := ch, poison := poison, chipPoison := chipPoison } := by
  unfold State.setHomeByte
  split
  · exact ⟨_, _, _, _, _, rfl⟩
  · split
    · exact ⟨_, _, _, _, _, rfl⟩
    · exact ⟨_, _, _, _, _, rfl⟩

theorem setHomeByte_frame {α : Type} {f : State → α}
    (h : ∀ s mem host ch poison chipPoison,
      f { s with mem := mem, host := host, chip := ch, poison := poison, chipPoison := chipPoison } = f s)
    (s : State) (chip : Bool) (a : Nat) (b : Byte) : f (s.setHomeByte chip a b) = f s := by
  obtain ⟨_, _, _, _, _, he⟩ := setHomeByte_eq s chip a b
  rw [he]
  exact h _ _ _ _ _ _

theorem storeQ_awayFromMemory : AwayFromMemory State.storeQ where
  loadQ _ _ := rfl
  remoteQ _ _ := rfl
  cores _ _ := rfl
  spadPoison _ _ := rfl
  writers _ _ := rfl
  home := setHomeByte_frame fun _ _ _ _ _ _ => rfl

theorem tlb_awayFromMemory : AwayFromMemory State.tlb where
  loadQ _ _ := rfl
  remoteQ _ _ := rfl
  cores _ _ := rfl
  spadPoison _ _ := rfl
  writers _ _ := rfl
  home := setHomeByte_frame fun _ _ _ _ _ _ => rfl

theorem blocks_awayFromMemory : AwayFromMemory State.blocks where
  loadQ _ _ := rfl
  remoteQ _ _ := rfl
  cores _ _ := rfl
  spadPoison _ _ := rfl
  writers _ _ := rfl
  home := setHomeByte_frame fun _ _ _ _ _ _ => rfl

section
variable {α : Type} {f : State → α} (hf : AwayFromCores f) (s : State)
include hf

theorem AwayFromCores.putSpad (n a : Nat) (bs : List Byte) : f (s.putSpad n a bs) = f s := by
  unfold State.putSpad State.cleanSpad
  dsimp only
  split
  · exact hf.cores _ _
  · exact (hf.spadPoison _ _).trans (hf.cores _ _)

theorem AwayFromCores.readLoads (sel : LoadEnt → Bool) : f (s.readLoads sel) = f s := by
  unfold State.readLoads
  split
  · exact hf.loadQ _ _
  · rfl

theorem AwayFromCores.settleLoads (tid seq : Nat) (xs : List HomeRange) : f (s.settleLoads tid seq xs) = f s := by
  unfold State.settleLoads
  dsimp only
  split
  · rfl
  · exact hf.readLoads _ _

theorem AwayFromCores.passLoads (tid seq : Nat) : f (s.passLoads tid seq) = f s := by
  unfold State.passLoads
  split
  · rfl
  · exact hf.loadQ _ _

theorem AwayFromCores.applyRemote (r : Remote) : f (s.applyRemote r) = f s := by
  unfold State.applyRemote State.putBar State.markRemote
  split
  · rfl
  · split
    · split
      · dsimp only
        split
        · exact hf.putSpad _ _ _ _
        · exact (hf.cores _ _).trans (hf.putSpad _ _ _ _)
      · rfl
    · exact hf.putSpad _ _ _ _

theorem AwayFromCores.flushRemote (sel : Remote → Bool) : f (s.flushRemote sel) = f s := by
  unfold State.flushRemote
  split
  · rfl
  · exact (foldl_keeps f _ (fun s r => hf.applyRemote s r) _ _).trans (hf.remoteQ _ _)

end

/-- The team's own loads that a store must not pass are performed (R197). -/
def State.loadsFirst (s : State) (e : StoreEnt) : State :=
  if e.io then s.readLoads fun x => x.tid == e.tid && decide (x.seq < e.seq) else s.settleLoads e.tid e.seq [e.range]

/-- The state in which a store's bytes go home: everything that it must not pass has been performed (R197). -/
def State.beforeStore (s : State) (e : StoreEnt) : State :=
  if (s.loadsFirst e).farHome e.part e.core e.range && !e.io then s.loadsFirst e
  else (s.loadsFirst e).flushRemote fun r => r.tid == e.tid

/-- The state in which a store's bytes are home, and the loads that come before it have been passed. -/
def State.stored (s : State) (e : StoreEnt) (ctx : Nat) : State :=
  (((s.beforeStore e).homeWrite e.chip e.pa e.bytes).noteWriter e.chip e.pa ctx).passLoads e.tid e.seq

/-- A performed store reaches its home, and then the line of it in the issuing core. -/
theorem perform_eq (s : State) (e : StoreEnt) (ctx : Nat) : ∃ c, s.perform e ctx =
    if ((s.stored e ctx).coreSt e.core).l1.isEmpty then s.stored e ctx else (s.stored e ctx).putCore e.core c := ⟨_, rfl⟩

section
variable {α : Type} {f : State → α} (s : State) (e : StoreEnt) (ctx : Nat)

theorem AwayFromCores.loadsFirst (hf : AwayFromCores f) : f (s.loadsFirst e) = f s := by
  unfold State.loadsFirst
  split
  · exact hf.readLoads _ _
  · exact hf.settleLoads _ _ _ _

theorem AwayFromCores.beforeStore (hf : AwayFromCores f) : f (s.beforeStore e) = f s := by
  unfold State.beforeStore
  split
  · exact hf.loadsFirst s e
  · exact (hf.flushRemote _ _).trans (hf.loadsFirst s e)

/-- Past the store's own bytes, a performed store changes the cores and the accesses on their way alone. -/
theorem AwayFromCores.perform (hf : AwayFromCores f) :
    f (s.perform e ctx) = f ((s.beforeStore e).homeWrite e.chip e.pa e.bytes) := by
  have hstored : f (s.stored e ctx) = f ((s.beforeStore e).homeWrite e.chip e.pa e.bytes) :=
    (hf.passLoads _ _ _).trans (hf.writers _ _)
  obtain ⟨c, h⟩ := perform_eq s e ctx
  rw [h]
  split
  · exact hstored
  · exact (hf.cores _ _).trans hstored

theorem AwayFromMemory.homeWrite (hf : AwayFromMemory f) (chip : Bool) (a : Nat) (bs : List Byte) :
    f (s.homeWrite chip a bs) = f s := by
  induction bs generalizing s a with
  | nil => rfl
  | cons b bs ih => exact (ih _ _).trans (hf.home _ _ _ _)

theorem AwayFromMemory.perform (hf : AwayFromMemory f) : f (s.perform e ctx) = f s :=
  (hf.toAwayFromCores.perform s e ctx).trans ((hf.homeWrite _ _ _ _).trans (hf.toAwayFromCores.beforeStore s e))

theorem AwayFromMemory.writeBack (hf : AwayFromMemory f) (l : Line) : f (s.writeBack l) = f s :=
  foldl_keeps f _ (fun _ _ => (hf.writers _ _).trans (hf.home _ _ _ _)) _ _

theorem AwayFromMemory.targetEnd (hf : AwayFromMemory f) (core ctx : Nat) (priv : Bool) : f (s.targetEnd core ctx priv) = f s :=
  (hf.cores _ _).trans (foldl_keeps f _ (fun s l => hf.writeBack s l) _ _)

/-- Stores on their way are performed, whichever they are. -/
theorem AwayFromMemory.flushWhere (hf : AwayFromMemory f) (hq : ∀ s q, f { s with storeQ := q } = f s) (sel : StoreEnt → Bool) :
    f (s.flushWhere sel) = f s :=
  (foldl_keeps f _ (fun s' x => hf.perform s' x _) _ _).trans (hq _ _)

end

/-- What a performed store leaves at the homes. -/
theorem homeByte_perform (s : State) (e : StoreEnt) (ctx : Nat) (c : Bool) (x : Nat) : (s.perform e ctx).homeByte c x =
    if c = e.chip ∧ e.pa ≤ x ∧ x < e.pa + e.bytes.length then e.bytes.getD (x - e.pa) 0 else s.homeByte c x := by
  have haway := homeByte_awayFromCores c x
  have hbefore : (s.beforeStore e).homeByte c x = s.homeByte c x := haway.beforeStore s e
  rw [haway.perform s e ctx, homeByte_homeWrite, hbefore]

theorem homeRead_perform (s : State) (e : StoreEnt) (ctx : Nat) :
    (s.perform e ctx).homeRead e.chip e.pa e.bytes.length = e.bytes := by
  have hbyte (x : Nat) : (s.perform e ctx).homeByte e.chip x = ((s.beforeStore e).homeWrite e.chip e.pa e.bytes).homeByte e.chip x :=
    (homeByte_awayFromCores e.chip x).perform s e ctx
  simp only [State.homeRead, hbyte]
  exact homeRead_homeWrite e.bytes _ _ _

end Sys2Proof.Machine
end

section
/-! Events of memory, translations, the heap window and sampling. -/

namespace Sys2Proof.Machine

/-! ### Stores and lines (R195, R198) -/

section
variable {s : State}

theorem exec_storePerformedAtHome {n : Nat} {e : StoreEnt} (he : s.storeQ[n]? = some e)
    (hb : ∀ x ∈ s.storeQ.take n, s.storeAfter x e = false) : exec (.storePerformedAtHome n) s =
      .next (({ s with storeQ := s.storeQ.eraseIdx n } : State).perform e (s.ctxOfTid e.tid)) := by
  have hfirst : ¬ ((s.storeQ.take n).any fun x => s.storeAfter x e) = true := by simpa using hb
  show execStorePerformedAtHome n s = _
  simp only [execStorePerformedAtHome, he, if_neg hfirst]

/-- An evicted line is written back and dropped. -/
theorem exec_l1Eviction {core n : Nat} {l : Line} (hl : (s.coreSt core).l1[n]? = some l) : exec (.l1Eviction core n) s =
    .next ((s.writeBack l).putCore core
      { (s.writeBack l).coreSt core with l1 := ((s.writeBack l).coreSt core).l1.eraseIdx n }) := by
  show execL1Eviction core n s = _
  simp only [execL1Eviction, hl]

@[simp] theorem coreSt_putCore_same (s : State) (n : Nat) (c : CoreSt) : (s.putCore n c).coreSt n = c :=
  mget_mset_same _ _ _ _

theorem writeBack_coreSt (s : State) (l : Line) (core : Nat) : (s.writeBack l).coreSt core = s.coreSt core := by
  refine foldl_keeps (fun s : State => s.coreSt core) _ (fun s i => ?_) _ _
  exact setHomeByte_frame (f := fun s => s.coreSt core) (fun _ _ _ _ _ _ => rfl) _ _ _ _

/-- The line and the offset of a byte at its home. -/
theorem line_byte_div_mod {line i : Nat} (h : i < 128) : (128 * line + i) / 128 = line ∧ (128 * line + i) % 128 = i := by
  omega

/-! ### Invalidation of translations (R181) -/

theorem exec_tlbiCtlGo {c : Ctx} (hc : s.ctx c.id = c) (hb : c.tlbiBusy = false) (hs : c.tlbiScope.toNat < 2) :
    exec (.tlbiCtlGo c.id) s =
      .next (s.putCtx { c with tlbiBusy := true, tlbiPend := some (decide (c.tlbiScope = 1), c.tlbiVa.toNat % 2 ^ 48) }) := by
  have hgo : ¬ (c.tlbiBusy || decide (2 ≤ c.tlbiScope.toNat)) = true := by simp [hb, hs]
  show Host.Outcome.next (s.putCtx (s.ctx c.id).tlbiGo) = _
  rw [hc, Ctx.tlbiGo, if_neg hgo]
  rfl

/-- What a context's invalidations name: everything, where neither TLBI_CTL nor a team has started one (log 92). -/
def State.named (s : State) (ctx : Nat) : List (Option Nat) :=
  match s.tlbis ctx with
  | [] => [none]
  | ps => ps

/-- The accesses of a context that are on their way have been performed. -/
def State.performed (s : State) (ctx : Nat) : State :=
  (s.readLoads fun e => s.ctxOfTid e.tid == ctx).flushWhere fun e => s.ctxOfTid e.tid == ctx

theorem exec_tlbiComplete (s : State) (ctx : Nat) : exec (.tlbiComplete ctx) s =
    let t := ((s.performed ctx).dropTlb ctx (s.named ctx)).wakeTlbi ctx
    .next (t.putCtx { t.ctx ctx with tlbiBusy := false, tlbiPend := none }) := rfl

theorem performed_tlb (s : State) (ctx : Nat) : (s.performed ctx).tlb = s.tlb :=
  (tlb_awayFromMemory.flushWhere _ (fun _ _ => rfl) _).trans (tlb_awayFromMemory.toAwayFromCores.readLoads s _)

/-! ### The heap window (R176) -/

/-- A write of HEAPCTL takes ENABLE, or keeps the cause for which it is refused. -/
theorem writeHeapCtl_eq (s : State) (c : Ctx) (v : Nat) : s.writeHeapCtl c v =
    if s.heapRefusal c (v.testBit 31) = 0 then s.putCtx { c with heapEn := v.testBit 31 }
    else s.putCtx { c with heapErr := BitVec.ofNat 4 (s.heapRefusal c (v.testBit 31)) } := by
  unfold State.writeHeapCtl
  split
  · next h => rw [if_pos h]
  · next r h => rw [if_neg h]

theorem exec_heapctlWrite {c : Ctx} (hc : s.ctx c.id = c) (v : BitVec 32) : exec (.heapctlWrite c.id v) s =
    .next (if s.heapRefusal c (v.getLsbD 31) = 0 then s.putCtx { c with heapEn := v.getLsbD 31 }
      else s.putCtx { c with heapErr := BitVec.ofNat 4 (s.heapRefusal c (v.getLsbD 31)) }) := by
  show Host.Outcome.next (s.writeHeapCtl (s.ctx c.id) v.toNat) = _
  rw [hc, writeHeapCtl_eq]
  rfl

theorem heapRefusal_of_atWork {c : Ctx} (h : s.ctxAtWork c.id = true) (en : Bool) : s.heapRefusal c en = 1 := if_pos h

/-! ### Sampling registers (R409, R426) -/

/-- A write that leaves ENABLE 0 sets SIZE and PERIOD alone. -/
theorem exec_smpCtlWrite_off {c : Ctx} (hc : s.ctx c.id = c) (he : c.smpEn = false) {v : BitVec 32} (hv : v.getLsbD 31 = false) :
    exec (.smpCtlWrite c.id v) s =
      .next (s.putCtx { c with smpEn := false, smpSize := v.extractLsb' 16 5, smpPeriod := v.truncate 16 }) := by
  have hoff : v.toNat.testBit 31 = false := hv
  have hsize : BitVec.ofNat 5 (bits v.toNat 20 16) = v.extractLsb' 16 5 := by
    refine BitVec.eq_of_toNat_eq ?_
    simp [bits, Nat.shiftRight_eq_div_pow]
  have hperiod : BitVec.ofNat 16 v.toNat = v.truncate 16 := BitVec.eq_of_toNat_eq (by simp)
  show Host.Outcome.next (s.writeSmpCtl (s.ctx c.id) v.toNat) = _
  rw [hc, State.writeSmpCtl]
  simp only [he, hoff, hsize, hperiod, Bool.false_eq_true, if_false]

theorem exec_smpDroppedRead {c : Ctx} (hc : s.ctx c.id = c) : exec (.smpDroppedRead c.id) s =
    .next { s.putCtx { c with smpDropped := 0 } with pkg := { s.pkg with readVal := s.csr c 0x14 } } := by
  show execSmpDroppedRead c.id s = _
  rw [execSmpDroppedRead, hc]
  rfl

/-! ### Samples (R73, R74, R427) -/

/-- A core whose slots hold one team of a context: that team, if it held its slot at the start of the clk. -/
theorem occupants_of_one {core ctx : Nat} {t : Team} (hr : t.resident = true) (hk : t.core = core) (ht : s.teams = [t])
    (hl : s.left = []) (hb : (s.blockOf t).ctx = ctx) :
    s.occupants core ctx = if t.entered = s.clk then [] else [s.seen t] := by
  by_cases he : t.entered = s.clk <;> simp [State.occupants, hl, ht, hr, hk, hb, he]

theorem occupants_of_entered {core ctx : Nat} {t : Team} (he : t.entered = s.clk) (ht : s.teams = [t]) (hl : s.left = []) :
    s.occupants core ctx = [] := by
  simp [State.occupants, hl, ht, he]

theorem exec_sampleTake_of_none {core ctx : Nat} (h : s.occupants core ctx = []) : exec (.sampleTake core ctx) s = .next s := by
  show execSampleTake core ctx s = _
  unfold execSampleTake
  rw [h]
  rfl

/-- Period that is in force on a core for a context. -/
def State.periodOn (s : State) (core : Nat) (c : Ctx) : Nat :=
  if mget 0 (s.coreSt core).smpPer c.id = 0 then c.period else mget 0 (s.coreSt core).smpPer c.id

/-- The count goes on from what it has reached past the period, and the slot is the last one sampled. -/
def State.sampledAt (s : State) (core : Nat) (c : Ctx) (slot h : Nat) : State :=
  let a := s.coreSt core
  (s.putCore core { a with smpLeft := mset 0 a.smpLeft c.id (mget 0 a.smpLeft c.id - s.periodOn core c),
                           smpPer := mset 0 a.smpPer c.id 0 }).putCtx
    { c with smpSlot := mset 15 c.smpSlot core slot, smpHalf := mset 0 c.smpHalf (16 * core + slot) h }

/-- The one occupied slot is sampled once the count has reached the period. -/
theorem exec_sampleTake_of_one {core : Nat} {c : Ctx} {t : Team} (ho : s.occupants core c.id = [s.seen t]) (hc : s.ctx c.id = c)
    (he : c.smpEn = true) (hf : t.fore = false) (hh : t.half = mget 0 c.smpHalf (16 * core + t.slot)) :
    exec (.sampleTake core c.id) s =
      if mget 0 (s.coreSt core).smpLeft c.id < s.periodOn core c then .next s
      else .next ((s.sampledAt core c t.slot (mget 0 c.smpHalf (16 * core + t.slot))).sample (s.blockOf t) t (s.seen t).pc
        (s.reasonOf (s.seen t))) := by
  have hslot : (List.find? (fun k => decide (mget 15 c.smpSlot core < k)) [t.slot]).orElse (fun _ => [t.slot].head?) =
      some t.slot := by
    by_cases h : mget 15 c.smpSlot core < t.slot <;> simp [h]
  have hhalf : c.sampledHalf (16 * core + t.slot) [s.seen t] = (some (s.seen t), mget 0 c.smpHalf (16 * core + t.slot)) := by
    simp [Ctx.sampledHalf, State.seen, hh, hf]
  have hslots : sortNat (([s.seen t].map fun x => x.team.slot).dedup) = [t.slot] := rfl
  have hsame : [s.seen t].filter (fun x => x.team.slot == t.slot) = [s.seen t] := by
    simp [State.seen]
  have hen (b : Bool) : (!c.smpEn || b) = b := by simp [he]
  show execSampleTake core c.id s = _
  cases hp : mget 0 (s.coreSt core).smpPer c.id with
  | zero =>
    have hper : s.periodOn core c = c.period := if_pos hp
    simp only [execSampleTake, State.sampledAt, ho, hc, hslots, hslot, hsame, hhalf, hen, hp, hper, decide_eq_true_eq]
    rfl
  | succ n =>
    have hper : s.periodOn core c = n + 1 := (if_neg (by omega)).trans hp
    simp only [execSampleTake, State.sampledAt, ho, hc, hslots, hslot, hsame, hhalf, hen, hp, hper, decide_eq_true_eq]
    rfl

end

end Sys2Proof.Machine
end

section
/-! Teams that wait: returns of loads, wakes, and the events of a draw. -/

namespace Sys2Proof.Machine

/-! ### Returns (R210, R218) -/

/-- A load with no access on its way at a home returns with the values that it has. -/
theorem landFlight_of_idle {s : State} {t : Team} {n : Nat} {f : Flight} (hf : t.flights[n]? = some f) (hq : s.loadQ = []) :
    s.landFlight t n = (s, ((t.dropFlight n).overtake n f).land f) := by
  have hreads : s.takeReads t f = (s, []) := by
    have hidle : s.readFlight t f = s := by simp only [State.readFlight, hq, List.filter_nil]
    simp only [State.takeReads, hidle, hq, List.filter_nil]
    rw [← hq]
  simp only [State.landFlight, hf, hreads]
  rfl

/-- A load that reads at no home, or is the oldest in flight, marks no other. -/
theorem overtake_eq_self {t : Team} {n : Nat} {f : Flight} (h : f.home = false ∨ n = 0) : t.overtake n f = t := by
  unfold Team.overtake
  rcases h with h | h
  · rw [h, Bool.false_and, if_neg Bool.false_ne_true]
  · subst h
    have hkept : (t.flights.zipIdx.map fun x => if x.2 < 0 && x.1.home then { x.1 with fixed := true } else x.1) = t.flights := by
      simp [List.zipIdx_map_fst]
    split
    · rw [hkept]
    · rfl

/-- The cause of a load that completes with LINK_LOST waits for the next issue (R210) (log 89). -/
def State.lostCause (s : State) (t : Team) (f : Flight) : AsyncCause :=
  { cause := .linkLost, pc := f.pc, insn := ((s.envOf t).codeAt f.pc).1, lanes := f.lanes &&& ~~~t.helper,
    va := (t.list f.lanes).foldl (fun (m : Map DWord) l =>
      if f.space = 0 ∧ !t.helper.getLsbD l then mset 0 m l (BitVec.ofNat 64 (mget 0 f.addr l)) else m) [],
    info := f.info (s.envOf t) }

theorem loseLoad_of_gen {s : State} {t : Team} {f : Flight} (h : f.gen = t.gen) : s.loseLoad t f =
    s.putTeam { t.land { f with vals := [] } with async := (t.land { f with vals := [] }).async ++ [s.lostCause t f] } := by
  have hown : ¬ (f.gen != t.gen) = true := by simp [h]
  exact if_neg hown

section
variable {s : State} {core slot half : Nat} {t : Team} (ht : s.teamAt core slot half = some t)
include ht

theorem onTeam_of_teamAt (k : Team → State) : s.onTeam core slot half k = .next (k t) := by
  simp only [State.onTeam, ht]

theorem exec_loadReturn {n : Nat} (hn : n < t.flights.length) : exec (.loadReturn core slot half n) s =
    .next ((s.landFlight t n).1.putTeam (s.landFlight t n).2) :=
  (onTeam_of_teamAt ht _).trans (congrArg Host.Outcome.next (if_neg (Nat.not_le.mpr hn)))

theorem exec_linkLostReturn_load {n : Nat} {f : Flight} (hf : t.flights[n]? = some f) :
    exec (.linkLostReturn core slot half n) s =
      .next (({ s with loadQ := s.loadQ.filter fun e => !e.ofFlight t f } : State).loseLoad (t.dropFlight n) f) := by
  refine (onTeam_of_teamAt ht _).trans ?_
  simp only [hf]

/-- Past the loads in flight, the atomic that the team is about to issue. -/
theorem exec_linkLostReturn_atomic : exec (.linkLostReturn core slot half t.flights.length) s = .next (s.loseAtomic t) := by
  have hnone : t.flights[t.flights.length]? = none := List.getElem?_eq_none (Nat.le_refl _)
  refine (onTeam_of_teamAt ht _).trans ?_
  simp only [hnone, if_true]

/-- Past the atomic, the engine operations of the team. -/
theorem exec_linkLostReturn_op {k : Nat} {o : EngOp} (ho : ((s.coreSt core).ops.filter fun o => o.tid == t.tid)[k]? = some o) :
    exec (.linkLostReturn core slot half (t.flights.length + 1 + k)) s = .next (s.loseOp core o) := by
  have hnone : t.flights[t.flights.length + 1 + k]? = none := List.getElem?_eq_none (by omega)
  have hpast : ¬ t.flights.length + 1 + k = t.flights.length := by omega
  have hk : t.flights.length + 1 + k - t.flights.length - 1 = k := by omega
  refine (onTeam_of_teamAt ht _).trans ?_
  simp only [hnone, if_neg hpast, hk, ho]

/-! ### Wakes (R105, R216, R357, R360, R395, R406) -/

theorem exec_awaitvWake {space a n dst : Nat} {v : DWord} {lanes : Lanes} {obt : Bool}
    (hs : t.status = .awaitv space a n v dst lanes obt) : exec (.awaitvWake core slot half) s =
      .next (if s.watched space a n = v.toNat then s
        else (if obt = true then s.targetEnd t.core (s.blockOf t).ctx false else s).putTeam
          ((t.putRun dst lanes (atomRuns (n == 8) fun _ => s.watched space a n)).wake 16)) := by
  refine (onTeam_of_teamAt ht _).trans ?_
  simp only [State.awaitvTry, hs, State.awaitvDone]

theorem exec_barwWake {k : Nat} {ph : Bool} (hs : t.status = .barrier k ph) : exec (.barwWake core slot half) s =
    .next (if (s.bar core ((s.blockOf t).bar0 + k)).phase = ph then s
      else (s.barTarget core (s.blockOf t).ctx ((s.blockOf t).bar0 + k)).putTeam (t.wake 8)) := by
  refine (onTeam_of_teamAt ht _).trans ?_
  by_cases hp : (s.bar core ((s.blockOf t).bar0 + k)).phase = ph <;> simp [hs, hp]

theorem exec_cowslipContinue (h : t.byCowslip = true) : exec (.cowslipContinue core slot half) s = .next (s.putTeam (t.wake 8)) :=
  (onTeam_of_teamAt ht _).trans (congrArg Host.Outcome.next (if_pos h))

theorem exec_awaitWake_waits {fr : Nat} (hs : t.status = .await) (hf : t.frame = some fr) (hj : s.join (s.whoOf t) fr ≠ 0) :
    exec (.awaitWake core slot half) s = .next s := by
  show execAwaitWake core slot half s = _
  simp only [execAwaitWake, ht, hs, hf, ne_eq, hj, not_false_eq_true, if_true]

omit ht in
/-- Only a team of a draw has rays to take. -/
theorem takeRays_of_no_draw (h : (s.blockOf t).draw = none) : s.takeRays t = (s, t) := by
  simp only [State.takeRays, h]

omit ht in
theorem targetEnd_blockOf (s : State) (c ctx : Nat) (priv : Bool) (t : Team) :
    (s.targetEnd c ctx priv).blockOf t = s.blockOf t := by
  have hblocks : (s.targetEnd c ctx priv).blocks = s.blocks := blocks_awayFromMemory.targetEnd s c ctx priv
  rw [State.blockOf, State.block?, hblocks]
  rfl

theorem exec_awaitWake {fr : Nat} (hs : t.status = .await) (hf : t.frame = some fr) (hj : s.join (s.whoOf t) fr = 0)
    (hd : (s.blockOf t).draw = none) :
    exec (.awaitWake core slot half) s = .next ((s.targetEnd t.core (s.whoOf t).ctx false).unpark t) := by
  have hrays := takeRays_of_no_draw (s := s.targetEnd t.core (s.whoOf t).ctx false) (t := t) (by rw [targetEnd_blockOf]; exact hd)
  show execAwaitWake core slot half s = _
  simp only [execAwaitWake, ht, hs, hf, ne_eq, hj, not_true_eq_false, if_false, hrays]

theorem exec_spawnRetry {desc : List Byte} {f : FV} (hs : t.status = .spawn desc)
    (hi : (s.envOf t).fetch.2 = .instr (.spawn f)) :
    exec (.spawnRetry core slot half) s = (s.envOf t).respawn (.spawn f) f true := by
  show execSpawnRetry core slot half s = _
  simp only [execSpawnRetry, ht, hs, hi]

end

/-- A spawner whose node takes no record any more. -/
theorem respawn_of_unknown {e : Env} {i : Instr} {f : FV} {joined : Bool} (hn : e.nodeNamed (e.uval f.sa.toNat) = none)
    (hf : e.t.frame = none) : e.respawn i f joined =
      ({ e with t := { e.t with status := .ready, stall := 0 } } : Env).teamTrap e.s i .nodeUnknown := by
  simp only [Env.respawn, hn, hf]

section
variable {e : Env} {i : Instr} {f : FV} {joined : Bool} (hn : (e.nodeNamed (e.uval f.sa.toNat)).isSome = true)
include hn

/-- A spawner whose records fit goes on. -/
theorem respawn_of_room {s1 : State} (hs : e.spawnNow f joined = some s1) : e.respawn i f joined = .next (s1.unpark e.t) := by
  obtain ⟨m, hm⟩ := Option.isSome_iff_exists.mp hn
  simp only [Env.respawn, hm, hs]

/-- A spawner whose records do not fit stays parked. -/
theorem respawn_of_full (hs : e.spawnNow f joined = none) : e.respawn i f joined = .next e.s := by
  obtain ⟨m, hm⟩ := Option.isSome_iff_exists.mp hn
  simp only [Env.respawn, hm, hs]

end

/-- The first parked VGROW of an unprotected block takes its granules when they are free (R129, R130). -/
theorem exec_vgrowGrant {s : State} {core part : Nat} {t : Team} {us : List Team} (hq : s.vgrowQueue core part = t :: us)
    (hp : s.protected (s.blockOf t) = false) : exec (.vgrowGrant core part) s =
      if s.canGrow t = true then .next (s.putTeam (t.grow.wake 8)) else .next s := by
  show execVgrowGrant core part s = _
  simp only [execVgrowGrant, hq, hp, Bool.false_and, Bool.false_eq_true, if_false]

/-! ### Events of a draw (R152, R153, R164, R169) -/

theorem exec_batchDispatch {s : State} {core slot half : Nat} {t : Team} (ht : s.teamAt core slot half = some t) {d d' : Draw}
    {bt : TierBatch} (hd : (s.blockOf t).draw = some d) (hb : t.batch = none) (hs : t.status = .ready)
    (hc : d.choose t.lanes t.tid (if d.hasTier 7 = true ∧
        ((s.teams.filter fun u => u.blk == (s.blockOf t).id).map Team.num).foldl Nat.max 0 = t.num
      then [7] else [6, 5, 4, 3, 2, 1]) = some (d', bt)) : exec (.batchDispatch core slot half) s =
    let s1 := s.putDraw (s.blockOf t) { d' with batches := d'.batches ++ [bt] }
    .next ((if bt.tier = 7 then s1.targetEnd t.core (s.blockOf t).ctx false else s1).putTeam (t.startBatch d' bt)) := by
  have hidle : (t.batch.isNone && t.status == .ready) = true := by simp [hb, hs]
  have htiers (p : Prop) [Decidable p] : (if (d.hasTier 7 && decide p) = true then [7] else [6, 5, 4, 3, 2, 1]) =
      if d.hasTier 7 = true ∧ p then [7] else [6, 5, 4, 3, 2, 1] := if_congr (by simp) rfl rfl
  show execBatchDispatch core slot half s = _
  simp only [execBatchDispatch, ht, if_pos hidle, State.dispatchBatch, hd, htiers, hc]

/-- A draw's root record retires with the last copy of its launch. -/
theorem drawDone_of_shared {s : State} {b : Block} {seq : Nat} (w : Who) (hs : b.shared = some seq) :
    s.drawDone w b false = if s.lastCopy b = true then s.retire w b.node seq false else s := by
  simp only [State.drawDone, hs, Bool.false_eq_true, if_false]

section
variable {s : State} {b : Block} {d : Draw} (hb : s.block? b.id = some b) (hd : b.draw = some d)
include hb hd

theorem exec_triangleSetup {d' : Draw} (hs : b.saved = none) (hn : s.setupNext b d = some d') :
    exec (.triangleSetup b.id) s = .next (s.putDraw b d') := by
  show execTriangleSetup b.id s = _
  simp only [execTriangleSetup, hb, hs, hd, Option.isSome_none, Bool.false_eq_true, if_false, Option.bind_some, hn]

/-- A draw that is over retires with the last copy of its root record, whose CHAIN copies need room (R164). -/
theorem exec_drawRetire {n : Node} {seq : Nat} (ho : s.drawOver b = true) (hn : s.node? b.node = some n) (hs : b.shared = some seq) :
    exec (.drawRetire b.id) s =
      if s.lastCopy b = false then .next (s.endBlock b)
      else if (fieldOf d.root 0x20 4).testBit 3 = false then .next ((s.retire b.unit b.node seq false).endBlock b)
      else if s.chainRoom n = true then .next (((s.retire b.unit b.node seq false).chain n d.root b.ctx).endBlock b)
      else .next s := by
  have hdone := drawDone_of_shared (s := s) b.unit hs
  show execDrawRetire b.id s = _
  cases hl : s.lastCopy b with
  | false => simp [execDrawRetire, hb, ho, hn, hd, hs, hdone, hl]
  | true =>
    cases hc : (fieldOf d.root 0x20 4).testBit 3 with
    | false => simp [execDrawRetire, hb, ho, hn, hd, hs, hdone, hl, hc]
    | true => cases hr : s.chainRoom n <;> simp [execDrawRetire, hb, ho, hn, hd, hs, hdone, hl, hc, hr]

/-- A ray whose traversal has ended holds its hit; without a ray section it has returned four zeros too (log 85). -/
theorem exec_rayTraversal {x : Ray} {h : RayHit} (hs : b.saved = none)
    (hx : d.rays.find? (fun y => y.id == x.id && y.hit.isNone && y.ret.isNone) = some x) (ht : s.traverse b x = .hit h) :
    let put (r : Ray → Ray) : State :=
      s.putBlock { b with draw := some { d with rays := d.rays.map fun y => if y.id == x.id then r y else y } }
    exec (.rayTraversal b.id x.id) s = if d.hasTier 7 = true then .next (put fun y => { y with hit := some h })
      else .next ((put fun y => { y with hit := some h, ret := some [0, 0, 0, 0] }).decJoin b.unit x.frame) := by
  show execRayTraversal b.id x.id s = _
  cases h7 : d.hasTier 7 with
  | false => simp only [execRayTraversal, hb, hs, hd, hx, ht, h7, Option.isSome_none, Bool.false_eq_true,
      Bool.not_false, if_false, if_true]
  | true => simp only [execRayTraversal, hb, hs, hd, hx, ht, h7, Option.isSome_none, Bool.false_eq_true,
      Bool.not_true, if_false, if_true]

end

/-- Settles O60: event by event, by what each does to the access, the context, the team or the draw that it names. -/
theorem memoryAndWaitEvents : Obligations.MemoryAndWaitEvents := by
  refine ⟨?_, ?_, ?_, ?_, ?_⟩
  · intro s n e he hb
    refine ⟨_, exec_storePerformedAtHome he hb, storeQ_awayFromMemory.perform _ _ _, homeRead_perform _ _ _, fun chip a h => ?_⟩
    exact (homeByte_perform _ _ _ _ _).trans (if_neg fun hin => h.elim (· hin.1) (by omega))
  · intro s core n l hl
    refine ⟨_, exec_l1Eviction hl, ?_, fun i hi => ?_, fun chip a h => ?_⟩
    · rw [coreSt_putCore_same, writeBack_coreSt]
    · refine (homeByte_writeBack s l _ _).trans ?_
      simp only [line_byte_div_mod hi, true_and]
    · exact (homeByte_writeBack s l _ _).trans (if_neg fun hin => h.elim (· hin.1) (· hin.2.1))
  · intro s c hc
    refine ⟨fun page va hb hs hp hv => ?_, ⟨_, exec_tlbiComplete s c.id, ?_⟩, fun v => ?_,
      fun hw => ⟨heapRefusal_of_atWork hw true, heapRefusal_of_atWork hw false⟩,
      fun v he hv => exec_smpCtlWrite_off hc he hv, _, exec_smpDroppedRead hc, rfl, rfl⟩
    · rw [hp, hv]
      exact exec_tlbiCtlGo hc hb hs
    · show ((s.performed c.id).dropTlb c.id (s.named c.id)).tlb = _
      rw [State.dropTlb, performed_tlb]
      rfl
    · have hexec := exec_heapctlWrite hc v
      exact ⟨fun hr => hexec.trans (congrArg Host.Outcome.next (if_pos hr)),
        fun hr => hexec.trans (congrArg Host.Outcome.next (if_neg hr))⟩
  · intro s core slot half t ht
    refine ⟨fun n hn => exec_loadReturn ht hn, fun n f hf hq => ?_, fun n f h => overtake_eq_self h, fun n f hf hg => ?_,
      exec_linkLostReturn_atomic ht, fun k o ho => exec_linkLostReturn_op ht ho, ?_, ?_, ?_, ?_, ?_,
      fun h => exec_cowslipContinue ht h, rfl, rfl, ?_, ?_, ?_⟩
    · refine (exec_loadReturn ht (List.getElem?_eq_some_iff.mp hf).1).trans ?_
      rw [landFlight_of_idle hf hq]
    · refine ⟨_, ?_, ?_, ?_, (exec_linkLostReturn_load ht hf).trans
        (congrArg Host.Outcome.next (loseLoad_of_gen (t := t.dropFlight n) hg))⟩
      · rfl
      · rfl
      · rfl
    · intro space a n v dst lanes obt hs
      have hexec := exec_awaitvWake ht hs
      exact ⟨fun h => hexec.trans (congrArg Host.Outcome.next (if_pos h)),
        fun h => hexec.trans (congrArg Host.Outcome.next (if_neg h))⟩
    · intro k ph hs
      have hexec := exec_barwWake ht hs
      exact ⟨fun h => hexec.trans (congrArg Host.Outcome.next (if_pos h)),
        fun h => hexec.trans (congrArg Host.Outcome.next (if_neg h))⟩
    · exact fun fr hs hf => ⟨fun hj => exec_awaitWake_waits ht hs hf hj, fun hj hd => exec_awaitWake ht hs hf hj hd⟩
    · intro part us hq hp
      have hexec := exec_vgrowGrant hq hp
      exact ⟨fun h => hexec.trans (if_pos h), fun h => hexec.trans (if_neg (ne_true_of_eq_false h))⟩
    · intro desc f e hs he hi
      subst he
      have hexec := exec_spawnRetry ht hs hi
      exact ⟨fun hn hf => hexec.trans (respawn_of_unknown hn hf),
        fun hn => ⟨fun s1 h => hexec.trans (respawn_of_room hn h), fun h => hexec.trans (respawn_of_full hn h)⟩⟩
    · exact fun d d' bt hd hb hs hc => exec_batchDispatch ht hd hb hs hc
    · intro c hr hk he hteams hleft hctx hc hen hfore hhalf
      have hone : s.occupants core c.id = [s.seen t] := (occupants_of_one hr hk hteams hleft hctx).trans (if_neg he)
      have hexec := exec_sampleTake_of_one hone hc hen hfore hhalf
      exact ⟨fun h => hexec.trans (if_pos h), fun h => hexec.trans (if_neg (Nat.not_lt.mpr h))⟩
    · exact fun c _ he hteams hleft => exec_sampleTake_of_none (occupants_of_entered he hteams hleft)
  · intro s b d hb hd
    refine ⟨fun d' hs hn => exec_triangleSetup hb hd hs hn, fun n seq ho hn hs => ?_, fun x h hs hx ht => ?_⟩
    · have hexec := exec_drawRetire hb hd ho hn hs
      refine ⟨fun hl => ?_, fun hl hc => ?_, fun hl hc hr => ?_, fun hl hc hr => ?_⟩ <;> rw [hexec]
      · rw [if_pos hl]
      · rw [if_neg (ne_false_of_eq_true hl), if_pos hc]
      · rw [if_neg (ne_false_of_eq_true hl), if_neg (ne_false_of_eq_true hc), if_pos hr]
      · rw [if_neg (ne_false_of_eq_true hl), if_neg (ne_false_of_eq_true hc), if_neg (ne_true_of_eq_false hr)]
    · have hexec := exec_rayTraversal hb hd hs hx ht
      exact ⟨fun h7 => hexec.trans (if_pos h7), fun h7 => hexec.trans (if_neg (ne_true_of_eq_false h7))⟩

end Sys2Proof.Machine
end

section
/-! L1: what a sweep, a fill and a DEF store leave in the lines of a core and at the homes (R86, R125, R198, R199). -/

namespace Sys2Proof.Machine

/-! ### The canonical form of the memories -/

/-- Memory, the host window and the chip scratchpad are in canonical form. -/
def State.homesWf (s : State) : Prop := Memory.wf s.mem = true ∧ Memory.wf s.host = true ∧ Memory.wf s.chip = true

theorem setHomeByte_wf {s : State} (h : s.homesWf) (chip : Bool) (a : Nat) (b : Byte) : (s.setHomeByte chip a b).homesWf := by
  obtain ⟨hmem, hhost, hchip⟩ := h
  unfold State.setHomeByte
  split
  · exact ⟨hmem, hhost, mset_wf _ _ _ _ hchip⟩
  · split
    · exact ⟨hmem, mset_wf _ _ _ _ hhost, hchip⟩
    · exact ⟨mset_wf _ _ _ _ hmem, hhost, hchip⟩

theorem homeWrite_wf (bs : List Byte) {s : State} (h : s.homesWf) (chip : Bool) (a : Nat) : (s.homeWrite chip a bs).homesWf := by
  induction bs generalizing s a with
  | nil => exact h
  | cons b bs ih => exact ih (setHomeByte_wf h chip a b) _

/-! ### Sweeps of L1 (R198, R199) -/

/-- Where every written-back line of a byte's place holds it dirty with one value, the byte has that value afterwards, if it had it
before or such a line is there. -/
theorem homeByte_writeBacks {c : Bool} {x : Nat} {v : Byte} (ls : List Line) (s : State)
    (hall : ∀ l ∈ ls, l.chip = c → l.line = x / 128 →
      l.dirty.getLsbD (x % 128) = true ∧ mget memDefault l.data (x % 128) = v)
    (h : s.homeByte c x = v ∨ ∃ l ∈ ls, l.chip = c ∧ l.line = x / 128) : (ls.foldl State.writeBack s).homeByte c x = v := by
  induction ls generalizing s with
  | nil => exact h.resolve_right (by simp)
  | cons l ls ih =>
    refine ih _ (fun y hy => hall y (List.mem_cons_of_mem _ hy)) ?_
    by_cases hl : l.chip = c ∧ l.line = x / 128
    · obtain ⟨hc, hx⟩ := hl
      obtain ⟨hd, hv⟩ := hall l List.mem_cons_self hc hx
      left
      rw [homeByte_writeBack, if_pos ⟨hc.symm, hx.symm, hd⟩, hv]
    · rw [homeByte_writeBack, if_neg fun hx => hl ⟨hx.1.symm, hx.2.1.symm⟩]
      refine h.imp_right fun hex => ?_
      obtain ⟨y, hy, hp⟩ := hex
      rcases List.mem_cons.mp hy with rfl | hy
      · exact absurd hp hl
      · exact ⟨y, hy, hp⟩

section
variable (s : State) (core : Nat) (wb drop : Line → Bool) (f : Line → Line)

theorem homeByte_sweepL1 (c : Bool) (x : Nat) : (s.sweepL1 core wb drop f).homeByte c x =
    (((s.coreSt core).l1.filter wb).foldl State.writeBack s).homeByte c x := rfl

theorem l1_sweepL1 : ((s.sweepL1 core wb drop f).coreSt core).l1 =
    ((s.coreSt core).l1.filter fun l => !drop l).map fun l => if wb l then f { l with dirty := 0 } else l := by
  unfold State.sweepL1
  rw [coreSt_putCore_same]

end

/-- A sweep that selects no line changes neither a byte nor a line. -/
theorem sweepL1_of_none {s : State} {core : Nat} {sel : Line → Bool} (h : ∀ l ∈ (s.coreSt core).l1, sel l = false) :
    s.sweepL1 core sel sel id = s.putCore core (s.coreSt core) := by
  have hwb : (s.coreSt core).l1.filter sel = [] := List.filter_eq_nil_iff.mpr fun l hl => by simp [h l hl]
  have hkeep : (s.coreSt core).l1.filter (fun l => !sel l) = (s.coreSt core).l1 :=
    List.filter_eq_self.mpr fun l hl => by simp [h l hl]
  have hmap : ((s.coreSt core).l1.map fun l => if sel l then id { l with dirty := 0 } else l) = (s.coreSt core).l1 :=
    (List.map_congr_left fun l hl => if_neg (by simp [h l hl])).trans (List.map_id _)
  simp only [State.sweepL1, hwb, hkeep, hmap, List.foldl_nil]

/-! ### Room in a set, and fills (R86, R125) (log 101) -/

/-- Room in a set is there, or one of its lines goes home and is dropped. -/
theorem roomL1_cases (s : State) (core set : Nat) :
    s.roomL1 core set = s ∨ (¬ ((s.coreSt core).l1.filter fun l => l.set == set).length < 8 ∧
      ∃ v ∈ (s.coreSt core).l1, v.set = set ∧ s.roomL1 core set = s.sweepL1 core (· == v) (· == v) id) := by
  unfold State.roomL1
  dsimp only
  split
  · exact .inl rfl
  · next hfull =>
    split
    · next v hv =>
      have hmem := List.mem_filter.mp (List.mem_of_getElem? hv)
      exact .inr ⟨hfull, v, hmem.1, by simpa using hmem.2, rfl⟩
    · exact .inl rfl

/-- Making room brings no line. -/
theorem mem_l1_roomL1 {s : State} {core set : Nat} {l : Line} (h : l ∈ ((s.roomL1 core set).coreSt core).l1) :
    l ∈ (s.coreSt core).l1 := by
  rcases roomL1_cases s core set with hr | ⟨-, v, -, -, hr⟩
  · rwa [hr] at h
  · rw [hr, l1_sweepL1] at h
    obtain ⟨y, hy, hl⟩ := List.mem_map.mp h
    obtain ⟨hmem, hne⟩ := List.mem_filter.mp hy
    have hsel : (y == v) = false := by simpa using hne
    rw [if_neg (by simp [hsel])] at hl
    exact hl ▸ hmem

/-- Making room in a set changes no byte but those of a line of the set that leaves it full. -/
theorem homeByte_roomL1 {s : State} {core set : Nat} {c : Bool} {x : Nat}
    (h : x / 128 % 1024 ≠ set ∨ (∀ l ∈ (s.coreSt core).l1, ¬ (l.chip = c ∧ l.line = x / 128)) ∨
      ((s.coreSt core).l1.filter fun l => l.line % 1024 == set).length < 8) :
    (s.roomL1 core set).homeByte c x = s.homeByte c x := by
  rcases roomL1_cases s core set with hr | ⟨hfull, v, hv, hset, hr⟩
  · rw [hr]
  · rw [hr, homeByte_sweepL1]
    refine homeByte_writeBacks _ _ (fun l hl hc hx => ?_) (.inl rfl)
    obtain ⟨hl, he⟩ := List.mem_filter.mp hl
    rcases h with h | h | h
    · have hlv : l = v := by simpa using he
      rw [← hlv, Line.set, hx] at hset
      exact absurd hset h
    · exact absurd ⟨hc, hx⟩ (h l hl)
    · exact absurd h hfull

theorem holds_iff (l : Line) (ctx : Nat) (chip : Bool) (a : Nat) :
    l.holds ctx chip a = true ↔ l.ctx = ctx ∧ l.chip = chip ∧ l.line = a / 128 := by
  simp [Line.holds, and_assoc]

theorem fillL1_of_held {s : State} {core ctx : Nat} {chip : Bool} {a : Nat} (priv : Bool)
    (h : (s.coreSt core).l1.any (·.holds ctx chip a) = true) : s.fillL1 core ctx chip a priv = s := if_pos h

/-- No line of another context in a core's L1 has the place of an address. -/
def State.ownsLine (s : State) (core ctx : Nat) (chip : Bool) (a : Nat) : Prop :=
  ∀ l ∈ (s.coreSt core).l1, l.chip = chip → l.line = a / 128 → l.ctx = ctx

section
variable {s : State} {core ctx : Nat} {chip : Bool} {a : Nat} (priv : Bool)

/-- The state in which a line that was not held is brought in: its set has room. -/
def State.roomed (s : State) (core ctx : Nat) (a : Nat) : State :=
  ((s.putCore core (s.coreSt core)).roomL1 core (a / 128 % 1024)).count ctx 6 1

theorem missing_of_not_held (hown : s.ownsLine core ctx chip a) (h : (s.coreSt core).l1.any (·.holds ctx chip a) = false) :
    ∀ l ∈ (s.coreSt core).l1, ¬ (l.chip = chip ∧ l.line = a / 128) := fun l hl hp =>
  (List.any_eq_false.mp h l hl) ((holds_iff l ctx chip a).mpr ⟨hown l hl hp.1 hp.2, hp.1, hp.2⟩)

/-- A fill that misses appends one line to those of the core. -/
theorem fillL1_of_missing (hown : s.ownsLine core ctx chip a) (h : (s.coreSt core).l1.any (·.holds ctx chip a) = false) :
    ∃ data, s.fillL1 core ctx chip a priv = (s.roomed core ctx a).putCore core
      { (s.roomed core ctx a).coreSt core with l1 := ((s.roomed core ctx a).coreSt core).l1 ++
        [{ ctx := ctx, chip := chip, line := a / 128, data := data, dirty := 0, slots := 0, priv := priv }] } := by
  have hevict : s.evictRange core chip (a / 128 * 128) 128 = s.putCore core (s.coreSt core) := by
    refine sweepL1_of_none fun l hl => Bool.eq_false_iff.mpr fun hsel => ?_
    simp only [Bool.and_eq_true, beq_iff_eq, decide_eq_true_eq] at hsel
    exact missing_of_not_held hown h l hl ⟨hsel.1.1, by omega⟩
  simp only [State.fillL1, h, hevict, Bool.false_eq_true, if_false]
  exact ⟨_, rfl⟩

theorem coreSt_count (s : State) (ctx ev n core : Nat) : (s.count ctx ev n).coreSt core = s.coreSt core := by
  simp only [State.coreSt, State.count_cores]

theorem mem_l1_roomed {l : Line} (h : l ∈ ((s.roomed core ctx a).coreSt core).l1) : l ∈ (s.coreSt core).l1 := by
  rw [State.roomed, coreSt_count] at h
  simpa using mem_l1_roomL1 h

theorem homeByte_putCore (s : State) (n : Nat) (k : CoreSt) (c : Bool) (x : Nat) : (s.putCore n k).homeByte c x = s.homeByte c x := rfl

theorem homeByte_count (s : State) (ctx ev n : Nat) (c : Bool) (x : Nat) : (s.count ctx ev n).homeByte c x = s.homeByte c x := by
  simp only [State.homeByte, State.count_chip, State.count_host, State.count_mem]

/-- A fill leaves the line of the address in L1. -/
theorem fillL1_holds (hown : s.ownsLine core ctx chip a) :
    ((s.fillL1 core ctx chip a priv).coreSt core).l1.any (·.holds ctx chip a) = true := by
  cases h : (s.coreSt core).l1.any (·.holds ctx chip a) with
  | true => rwa [fillL1_of_held priv h]
  | false =>
    obtain ⟨data, hf⟩ := fillL1_of_missing priv hown h
    rw [hf, coreSt_putCore_same]
    simp [Line.holds]

theorem fillL1_ownsLine (hown : s.ownsLine core ctx chip a) : (s.fillL1 core ctx chip a priv).ownsLine core ctx chip a := by
  cases h : (s.coreSt core).l1.any (·.holds ctx chip a) with
  | true => rwa [fillL1_of_held priv h]
  | false =>
    obtain ⟨data, hf⟩ := fillL1_of_missing priv hown h
    rw [hf]
    intro l hl hc hx
    rw [coreSt_putCore_same] at hl
    rcases List.mem_append.mp hl with hl | hl
    · exact hown l (mem_l1_roomed hl) hc hx
    · rw [List.mem_singleton.mp hl]

/-- A fill changes no byte at home but those of a line that leaves a full set for it. -/
theorem homeByte_fillL1 (hown : s.ownsLine core ctx chip a) {c : Bool} {x : Nat}
    (h : x / 128 % 1024 ≠ a / 128 % 1024 ∨ (c = chip ∧ x / 128 = a / 128) ∨
      (∃ y ∈ (s.coreSt core).l1, y.ctx = ctx ∧ y.chip = chip ∧ y.line = a / 128) ∨
      ((s.coreSt core).l1.filter fun y => y.line % 1024 == a / 128 % 1024).length < 8) :
    (s.fillL1 core ctx chip a priv).homeByte c x = s.homeByte c x := by
  cases hheld : (s.coreSt core).l1.any (·.holds ctx chip a) with
  | true => rw [fillL1_of_held priv hheld]
  | false =>
    have hmiss := missing_of_not_held hown hheld
    obtain ⟨data, hf⟩ := fillL1_of_missing priv hown hheld
    rw [hf, homeByte_putCore, State.roomed, homeByte_count, homeByte_roomL1, homeByte_putCore]
    rw [coreSt_putCore_same]
    rcases h with h | ⟨hc, hx⟩ | ⟨y, hy, -, hc, hx⟩ | h
    · exact .inl h
    · subst hc
      exact .inr (.inl (hx.symm ▸ hmiss))
    · exact absurd ⟨hc, hx⟩ (hmiss y hy)
    · exact .inr (.inr h)

end

/-! ### DEF stores (R198, R199) -/

/-- A line with the bytes of a DEF store in it, marked by the slot, where it holds the address. -/
def Line.withStore (l : Line) (slot ctx : Nat) (chip : Bool) (a : Nat) (bs : List Byte) : Line :=
  if l.holds ctx chip a then
    { l with data := msetList memDefault l.data (a % 128) bs,
             dirty := l.dirty ||| ((BitVec.ofNat 128 (2 ^ bs.length - 1)) <<< (a % 128)),
             slots := l.slots ||| (1#16 <<< slot) }
  else l

section
variable (l : Line) (slot ctx : Nat) (chip : Bool) (a : Nat) (bs : List Byte)

theorem withStore_place : (l.withStore slot ctx chip a bs).ctx = l.ctx ∧ (l.withStore slot ctx chip a bs).chip = l.chip ∧
    (l.withStore slot ctx chip a bs).line = l.line := by
  unfold Line.withStore
  split <;> exact ⟨rfl, rfl, rfl⟩

theorem withStore_holds (c : Bool) (x : Nat) : (l.withStore slot ctx chip a bs).holds ctx c x = l.holds ctx c x := by
  obtain ⟨h1, h2, h3⟩ := withStore_place l slot ctx chip a bs
  simp only [Line.holds, h1, h2, h3]

variable {l slot ctx chip a bs}

theorem withStore_slot (h : l.holds ctx chip a = true) (hs : slot < 16) :
    (l.withStore slot ctx chip a bs).slots.getLsbD slot = true := by
  rw [Line.withStore, if_pos h]
  simp [hs]

theorem withStore_data (h : l.holds ctx chip a = true) {i : Nat} (hi : i < bs.length) :
    mget memDefault (l.withStore slot ctx chip a bs).data (a % 128 + i) = bs.getD i 0 := by
  have hin : a % 128 ≤ a % 128 + i ∧ a % 128 + i < a % 128 + bs.length := by omega
  have hsub : a % 128 + i - a % 128 = i := by omega
  rw [Line.withStore, if_pos h]
  dsimp only
  rw [mget_msetList, if_pos hin, hsub]
  rfl

theorem withStore_dirty (h : l.holds ctx chip a = true) (hlen : a % 128 + bs.length ≤ 128) {i : Nat} (hi : i < bs.length) :
    (l.withStore slot ctx chip a bs).dirty.getLsbD (a % 128 + i) = true := by
  have hlt : a % 128 + i < 128 := by omega
  have hi128 : i < 128 := by omega
  have hbit : (BitVec.ofNat 128 (2 ^ bs.length - 1)).getLsbD i = true := by
    simp [BitVec.getLsbD_ofNat, Nat.testBit_two_pow_sub_one, hi, hi128]
  rw [Line.withStore, if_pos h]
  simp only [BitVec.getLsbD_or, BitVec.getLsbD_shiftLeft, Nat.add_sub_cancel_left, hbit]
  simp [hlt]

end

section
variable {s : State} {core slot ctx : Nat} {chip : Bool} {a : Nat} {bs : List Byte} {priv : Bool}

theorem l1_defWrite : ((s.defWrite core slot ctx chip a bs priv).coreSt core).l1 =
    ((s.fillL1 core ctx chip a priv).coreSt core).l1.map (·.withStore slot ctx chip a bs) := by
  unfold State.defWrite
  rw [coreSt_putCore_same]
  rfl

theorem homeByte_defWrite (c : Bool) (x : Nat) :
    (s.defWrite core slot ctx chip a bs priv).homeByte c x = (s.fillL1 core ctx chip a priv).homeByte c x := rfl

/-- A DEF store is in every line that holds its address. -/
theorem mem_l1_defWrite (hown : s.ownsLine core ctx chip a) {l : Line}
    (hl : l ∈ ((s.defWrite core slot ctx chip a bs priv).coreSt core).l1) (hc : l.chip = chip) (hx : l.line = a / 128) :
    ∃ y : Line, y.holds ctx chip a = true ∧ l = y.withStore slot ctx chip a bs := by
  rw [l1_defWrite] at hl
  obtain ⟨y, hy, rfl⟩ := List.mem_map.mp hl
  obtain ⟨-, hchip, hline⟩ := withStore_place y slot ctx chip a bs
  have hyc : y.chip = chip := hchip.symm.trans hc
  have hyx : y.line = a / 128 := hline.symm.trans hx
  exact ⟨y, (holds_iff _ _ _ _).mpr ⟨fillL1_ownsLine priv hown y hy hyc hyx, hyc, hyx⟩, rfl⟩

theorem defWrite_holds (hown : s.ownsLine core ctx chip a) :
    ((s.defWrite core slot ctx chip a bs priv).coreSt core).l1.any (·.holds ctx chip a) = true := by
  rw [l1_defWrite, List.any_map, ← fillL1_holds priv hown]
  exact congrArg _ (funext fun l => withStore_holds l slot ctx chip a bs chip a)

/-- A DEF read of the core returns what a DEF store has written. -/
theorem defRead_defWrite (hown : s.ownsLine core ctx chip a) :
    ((s.defWrite core slot ctx chip a bs priv).defRead core ctx chip a bs.length priv).2 = bs := by
  have hheld := defWrite_holds (slot := slot) (bs := bs) (priv := priv) hown
  obtain ⟨l, hl⟩ := Option.isSome_iff_exists.mp ((List.find?_isSome (p := fun l : Line => l.holds ctx chip a)).mpr (List.any_eq_true.mp hheld))
  obtain ⟨-, hc, hx⟩ := (holds_iff _ _ _ _).mp (List.find?_some (p := fun l : Line => l.holds ctx chip a) hl)
  obtain ⟨y, hy, rfl⟩ := mem_l1_defWrite hown (List.mem_of_find?_eq_some hl) hc hx
  simp only [State.defRead, fillL1_of_held priv hheld, hl, Option.map_some, Option.getD_some]
  refine List.ext_getElem (by simp) fun i hi hlt => ?_
  have hib : i < bs.length := by simpa using hi
  simp [withStore_data hy hib, hib]

/-- At the source end of its slot a DEF store stands at its home. -/
theorem sourceEnd_defWrite (hown : s.ownsLine core ctx chip a) (hs : slot < 16) (hlen : a % 128 + bs.length ≤ 128) :
    ((s.defWrite core slot ctx chip a bs priv).sourceEnd core slot true).homeRead chip a bs.length = bs := by
  refine List.ext_getElem (by simp [State.homeRead]) fun i hi hlt => ?_
  have hplace : (a + i) / 128 = a / 128 ∧ (a + i) % 128 = a % 128 + i := by omega
  have hbyte : bs[i] = bs.getD i 0 := by simp [hlt]
  simp only [State.homeRead, List.getElem_map, List.getElem_range]
  rw [State.sourceEnd, homeByte_sweepL1, hbyte]
  refine homeByte_writeBacks _ _ (fun l hl hc hx => ?_) (.inr ?_)
  · obtain ⟨y, hy, rfl⟩ := mem_l1_defWrite hown (List.mem_filter.mp hl).1 hc (hx.trans hplace.1)
    rw [hplace.2]
    exact ⟨withStore_dirty hy hlen hlt, withStore_data hy hlt⟩
  · obtain ⟨l, hl, hheld⟩ := List.any_eq_true.mp (defWrite_holds (slot := slot) (bs := bs) (priv := priv) hown)
    obtain ⟨-, hc, hx⟩ := (holds_iff _ _ _ _).mp hheld
    obtain ⟨y, hy, rfl⟩ := mem_l1_defWrite hown hl hc hx
    exact ⟨_, List.mem_filter.mpr ⟨hl, by simp [withStore_slot hy hs]⟩, hc, hx.trans hplace.1.symm⟩

end

/-- Settles O42: a fill keeps one line for the address, a DEF store is in it with its bytes dirty and its slot marked, and the source
end writes it back. -/
theorem defStoreReachesHome : Obligations.DefStoreReachesHome := by
  unfold Obligations.DefStoreReachesHome
  refine ⟨fun s chip a bs => ⟨homeRead_homeWrite bs s chip a, fun c x hx => ?_, fun hmem hhost hchip =>
    homeWrite_wf bs ⟨hmem, hhost, hchip⟩ chip a⟩, fun s core slot ctx chip a bs priv hslot hlen hown => ⟨fun c x hx => ?_,
    defRead_defWrite hown, sourceEnd_defWrite hown hslot hlen⟩⟩
  · rw [homeByte_homeWrite, if_neg]
    rintro ⟨hc, hlo, hhi⟩
    rcases hx with hx | hx | hx
    · exact hx hc
    · omega
    · omega
  · exact (homeByte_defWrite c x).trans (homeByte_fillL1 priv hown hx)

end Sys2Proof.Machine
end

section
/-! Atomics: the state before and after the participants' steps, and the steps on one word of a scratchpad (R250, R353 to R358). -/

namespace Sys2Proof.Machine

/-! ### An atomic whose participants meet no cause (R354, R355) -/

section
variable (e : Env) (f : FV) (w2 : BitVec 64)

/-- A participant's address. -/
def Env.atomAddr (l : Nat) : Int := e.addrVal f.sa.toNat l + (atomF f w2).off

/-- The check of a participant's access. -/
def Env.atomCheck (s : State) (l : Nat) : State × Except MFault Target :=
  e.check s .atomic (atomF f w2).space (atomF f w2).seg (e.addrVal f.sa.toNat l) (atomF f w2).off (atomF f w2).bytes

/-- What the checks of the participants answer. -/
def Env.atomChecked : State × List LaneAcc × List LaneFault :=
  e.checkLanes (e.atomCheck f w2) (fun l => (e.atomAddr f w2 l).toNat) e.s (e.t.list (e.t.actNH f.h))

/-- Whether a participant has passed its check. -/
def Env.atomSome : Bool := !(e.atomChecked f w2).2.1.isEmpty

/-- The state in which the participants' steps begin: the accesses that they must not pass are performed, then the source end of
.pub is taken (R197, R199). -/
def Env.atomBefore : State :=
  let a := atomF f w2
  let as := (e.atomChecked f w2).2.1
  let passed := e.precede (e.banked (e.atomChecked f w2).1 a.space a.bytes as) ((a.pub || a.obt) && e.atomSome f w2)
    (as.flatMap fun x => x.tgt.elim [] (Target.ranges a.bytes))
  if a.pub && e.atomSome f w2 then e.source passed else passed

/-- The participants' steps at the home, with their old values. -/
def Env.atomSteps (step : Nat → Nat → Nat) : State × List (Nat × Nat) :=
  e.atomGo (atomF f w2).bytes step (e.atomBefore f w2) (e.atomChecked f w2).2.1

/-- The state after the steps and the target end of .obt. -/
def Env.atomAfter (step : Nat → Nat → Nat) : State :=
  let s := if e.t.trap.isSome then (e.atomSteps f w2 step).1.watchPools (e.atomBefore f w2) e.b.part else (e.atomSteps f w2 step).1
  if (atomF f w2).obt && e.atomSome f w2 then e.target s else s

/-- No participant meets a cause, and none would reach a migrating member. -/
def Env.atomFree : Prop :=
  e.mustWait (atomF f w2).space (e.t.actNH f.h) (e.atomAddr f w2) = false ∧ (e.atomChecked f w2).2.2 = []

variable {e f w2} {i : Instr} (hi : i.hdr = f.h)
include hi

theorem atomic_of_free (step : AtomF → Nat → Nat → Nat) (fin : AtomF → Team → List (Nat × Nat) → Lanes → Team)
    (h : e.atomFree f w2) : e.atomic i f w2 step fin = .next (e.stepped i (e.atomAfter f w2 (step (atomF f w2)))
      (fin (atomF f w2) e.t (e.atomSteps f w2 (step (atomF f w2))).2
        (((e.atomSteps f w2 (step (atomF f w2))).2.map Prod.fst).foldl (fun m l => m ||| (1#1024 <<< l)) 0 |||
          (e.t.act f.h &&& e.t.helper))) none) := by
  obtain ⟨hwait, hnone⟩ := h
  obtain ⟨s, as, fs, hc⟩ : ∃ s as fs, e.atomChecked f w2 = (s, as, fs) := ⟨_, _, _, rfl⟩
  rw [hc] at hnone
  have hfs : fs = [] := hnone
  subst hfs
  unfold Env.atomAfter Env.atomSteps Env.atomBefore Env.atomSome
  rw [hc]
  unfold Env.atomChecked Env.atomCheck Env.atomAddr at hc
  unfold Env.atomAddr at hwait
  unfold Env.atomic
  simp only [hi, hwait, hc, Bool.false_eq_true, if_false]
  rfl

theorem atomic_waits (step : AtomF → Nat → Nat → Nat) (fin : AtomF → Team → List (Nat × Nat) → Lanes → Team)
    (h : e.mustWait (atomF f w2).space (e.t.actNH f.h) (e.atomAddr f w2) = true) : e.atomic i f w2 step fin = .next (e.waiting 0x0C) := by
  unfold Env.atomAddr at h
  unfold Env.atomic
  simp only [hi, h, if_true]
  rfl

end

/-! ### ATOM, ACAS, RED and ATOMS (R353 to R356) -/

section
variable {f : FV} {w2 : BitVec 64} {s : State} {e : Env}

theorem exec_atom (h : s.ready (.atom f w2) = some e) : exec (.atom f w2) s =
    e.atomic (.atom f w2) f w2 (fun a l v => atomOp a.ty a.opn v (e.atomSrc a f.sb.toNat l)) (atomDst f.d.toNat) := by
  show execAtom f w2 s = _
  exact issue_of_ready h _

theorem exec_acas (h : s.ready (.acas f w2) = some e) : exec (.acas f w2) s =
    e.atomic (.acas f w2) f w2 (fun a l v => if v = e.atomSrc a f.sb.toNat l then e.atomSrc a f.sc.toNat l else v)
      (atomDst f.d.toNat) := by
  show execAcas f w2 s = _
  exact issue_of_ready h _

theorem exec_red (h : s.ready (.red f w2) = some e) : exec (.red f w2) s =
    e.atomic (.red f w2) f w2 (fun a l v => atomOp a.ty a.opn v (e.atomSrc a f.sb.toNat l)) fun _ t _ _ => t := by
  show execRed f w2 s = _
  exact issue_of_ready h _

/-- The team of an ATOMS with the old value of its lowest participant. -/
def atomsDst (d : Nat) (t : Team) : List (Nat × Nat) → Team
  | [] => t
  | (_, v) :: _ => t.putS d (BitVec.ofNat 64 v)

theorem exec_atoms (h : s.ready (.atoms f w2) = some e) : exec (.atoms f w2) s =
    e.atomic (.atoms f w2) f w2 (fun a l v => atomOp a.ty a.opn v (e.atomSrc a f.sb.toNat l))
      fun _ t olds _ => atomsDst f.d.toNat t olds := by
  show execAtoms f w2 s = _
  exact issue_of_ready h _

/-- The four atomics of many lanes all wait before a migrating member (R94). -/
theorem exec_atomic_waits {i : Instr} (hi : i ∈ [Instr.atom f w2, .acas f w2, .red f w2, .atoms f w2]) (h : s.ready i = some e)
    (hw : e.mustWait (atomF f w2).space (e.t.actNH f.h) (e.atomAddr f w2) = true) : exec i s = .next (e.waiting 0x0C) := by
  simp only [List.mem_cons, List.not_mem_nil, or_false] at hi
  rcases hi with rfl | rfl | rfl | rfl
  · exact (exec_atom h).trans (atomic_waits rfl _ _ hw)
  · exact (exec_acas h).trans (atomic_waits rfl _ _ hw)
  · exact (exec_red h).trans (atomic_waits rfl _ _ hw)
  · exact (exec_atoms h).trans (atomic_waits rfl _ _ hw)

end

/-! ### AWAITV (R357) -/

/-- The state in which AWAITV reads its word. -/
def Env.awaitvAt (e : Env) (f : FV) (w2 : BitVec 64) (tgt : Target) : State :=
  (e.precede (e.atomCheck f w2 e.s 0).1 (atomF f w2).obt (tgt.ranges (atomF f w2).bytes)).toHome e.who tgt (atomF f w2).bytes

/-- The value that AWAITV waits on. -/
def Env.awaitvOld (e : Env) (f : FV) (w2 : BitVec 64) : Nat := (e.uval f.sb.toNat).toNat % 2 ^ (8 * (atomF f w2).bytes)

/-- The address that AWAITV names. -/
def Env.awaitvNames (e : Env) (f : FV) (w2 : BitVec 64) : Target → Nat
  | .va va _ => va
  | _ => (e.atomAddr f w2 0).toNat

theorem act_ne_zero_of_actNH {t : Team} {h : Hdr} (hw : t.actNH h ≠ 0) : t.act h ≠ 0 := fun hz => hw (by simp [Team.actNH, hz])

section
variable {f : FV} {w2 : BitVec 64} {s : State} {e : Env}

theorem exec_awaitv_none (h : s.ready (.awaitv f w2) = some e) (hact : e.t.act f.h = 0) :
    exec (.awaitv f w2) s = .next (e.stepped (.awaitv f w2) e.s e.t none) := by
  show execAwaitv f w2 s = _
  rw [execAwaitv, issue_of_ready h]
  exact if_pos hact

theorem exec_awaitv_helpers (h : s.ready (.awaitv f w2) = some e) (hact : e.t.act f.h ≠ 0) (hnh : e.t.actNH f.h = 0) :
    exec (.awaitv f w2) s = .next (e.stepped (.awaitv f w2) e.s
      (e.t.putRun f.d.toNat (e.t.act f.h) (atomRuns (atomF f w2).wide fun _ => 0)) none) := by
  show execAwaitv f w2 s = _
  rw [execAwaitv, issue_of_ready h]
  exact (if_neg hact).trans (if_pos hnh)

variable (h : s.ready (.awaitv f w2) = some e) (hnh : e.t.actNH f.h ≠ 0)
include h hnh

theorem exec_awaitv_waits (hw : e.mustWait (atomF f w2).space (e.t.actNH f.h) (fun _ => e.atomAddr f w2 0) = true) :
    exec (.awaitv f w2) s = .next (e.waiting 0x0C) := by
  show execAwaitv f w2 s = _
  rw [execAwaitv, issue_of_ready h]
  exact (if_neg (act_ne_zero_of_actNH hnh)).trans ((if_neg hnh).trans (if_pos hw))

variable (hw : e.mustWait (atomF f w2).space (e.t.actNH f.h) (fun _ => e.atomAddr f w2 0) = false) {tgt : Target}
  (hc : (e.atomCheck f w2 e.s 0).2 = .ok tgt)
include hw hc

theorem exec_awaitv : exec (.awaitv f w2) s =
    let s2 := e.awaitvAt f w2 tgt
    let x := leNat (s2.homeLoad tgt (atomF f w2).bytes)
    if x ≠ e.awaitvOld f w2 then .next (e.stepped (.awaitv f w2) (if (atomF f w2).obt then e.target s2 else s2)
      (e.t.putRun f.d.toNat (e.t.act f.h) (atomRuns (atomF f w2).wide fun _ => x)) none)
    else Env.park { e with s := s2, t := { e.t with waddr := e.awaitvNames f w2 tgt } }
      (.awaitv (s2.watchAt tgt).1 (s2.watchAt tgt).2 (atomF f w2).bytes (BitVec.ofNat 64 (e.awaitvOld f w2)) f.d.toNat
        (e.t.act f.h) (atomF f w2).obt) 9 := by
  show execAwaitv f w2 s = _
  obtain ⟨s1, hs1⟩ : ∃ s1, e.atomCheck f w2 e.s 0 = (s1, .ok tgt) := ⟨_, Prod.ext rfl hc⟩
  rw [execAwaitv, issue_of_ready h]
  refine (if_neg (act_ne_zero_of_actNH hnh)).trans ((if_neg hnh).trans ((if_neg ?_).trans ?_))
  · exact ne_true_of_eq_false hw
  · unfold Env.awaitvAt
    rw [hs1]
    unfold Env.atomCheck at hs1
    rw [hs1]
    cases tgt <;> rfl

end

/-- A park changes neither the count of its instruction nor the marks of the loads in flight with the address it names. -/
theorem park_waddr (e : Env) (s : State) (a : Nat) (st : Status) (reason : Nat) :
    Env.park { e with s := s, t := { e.t with waddr := a } } st reason = .next (({ e with s := s } : Env).counted.putTeam
      { e.t.fixLoads e.op with waddr := a, status := st, stall := reason, latches := [], region := none }) := by
  have hfix : ({ e.t with waddr := a } : Team).fixLoads e.op = { e.t.fixLoads e.op with waddr := a } := by
    unfold Team.fixLoads
    split <;> rfl
  simp only [Env.park, hfix]
  rfl

/-! ### Steps on one word of the team's scratchpad (R250, R355) -/

section
variable (s : State) (n a : Nat) (bs : List Byte)

theorem coreSt_cleanSpad (len core : Nat) : (s.cleanSpad n a len).coreSt core = s.coreSt core := by
  simp only [State.coreSt, State.cleanSpad_cores]

theorem spad_putSpad : ((s.putSpad n a bs).coreSt n).spad = msetList 0 (s.coreSt n).spad a bs := by
  rw [State.putSpad, coreSt_cleanSpad, coreSt_putCore_same]

theorem mgetList_putSpad : mgetList 0 ((s.putSpad n a bs).coreSt n).spad a bs.length = bs := by
  rw [spad_putSpad]
  have h := mget_msetList_range (0 : Byte) (s.coreSt n).spad a bs 0 bs.length (by omega)
  simpa [mgetList] using h

theorem mget_putSpad_other {q : Nat} (h : q < a ∨ a + bs.length ≤ q) :
    mget 0 ((s.putSpad n a bs).coreSt n).spad q = mget 0 (s.coreSt n).spad q := by
  rw [spad_putSpad, mget_msetList, if_neg (by omega)]

end

/-- The word of a scratchpad. -/
def State.spadWord (s : State) (core p n : Nat) : Nat := leNat (mgetList 0 (s.coreSt core).spad p n)

theorem spadWord_putSpad (s : State) (core p n v : Nat) (hv : v < 2 ^ (8 * n)) :
    (s.putSpad core p (leBytes n v)).spadWord core p n = v := by
  have h := mgetList_putSpad s core p (leBytes n v)
  rw [leBytes_length] at h
  have hlt : v < 256 ^ n := by rwa [show (256 : Nat) = 2 ^ 8 from rfl, ← pow_mul]
  rw [State.spadWord, h, leNat_leBytes, Nat.mod_eq_of_lt hlt]

/-- The word after the steps of some participants. -/
def stepsOn (step : Nat → Nat → Nat) (v : Nat) (as : List LaneAcc) : Nat := as.foldl (fun v x => step x.lane v) v

/-- One participant at a word of its own core's scratchpad. -/
theorem atomGo_spad_cons {e : Env} {n p : Nat} {step : Nat → Nat → Nat} {s : State} {x : LaneAcc} (as : List LaneAcc)
    (hx : x.tgt = some (.spad e.t.core p)) : e.atomGo n step s (x :: as) =
      let r := e.atomGo n step (s.putSpad e.t.core p (leBytes n (step x.lane (s.spadWord e.t.core p n)))) as
      (r.1, (x.lane, s.spadWord e.t.core p n) :: r.2) := by
  have hown : s.settleRemote e.who e.t.core = s := if_pos rfl
  simp only [Env.atomGo, hx, State.toHome, State.homeLoad, State.homeStore, hown]
  rfl

theorem atomGo_spad {e : Env} {n p : Nat} {step : Nat → Nat → Nat} (hstep : ∀ l v, step l v < 2 ^ (8 * n)) (as : List LaneAcc)
    (s : State) (hp : ∀ x ∈ as, x.tgt = some (.spad e.t.core p)) :
    (e.atomGo n step s as).2 = as.zipIdx.map (fun x => (x.1.lane, stepsOn step (s.spadWord e.t.core p n) (as.take x.2))) ∧
    (e.atomGo n step s as).1.spadWord e.t.core p n = stepsOn step (s.spadWord e.t.core p n) as ∧
    ∀ q, q < p ∨ p + n ≤ q → mget 0 ((e.atomGo n step s as).1.coreSt e.t.core).spad q = mget 0 (s.coreSt e.t.core).spad q := by
  induction as generalizing s with
  | nil => exact ⟨rfl, rfl, fun q hq => rfl⟩
  | cons x as ih =>
    obtain ⟨holds, hword, hother⟩ := ih (s.putSpad e.t.core p (leBytes n (step x.lane (s.spadWord e.t.core p n))))
      fun y hy => hp y (List.mem_cons_of_mem _ hy)
    rw [spadWord_putSpad _ _ _ _ _ (hstep _ _)] at holds hword
    rw [atomGo_spad_cons as (hp x List.mem_cons_self)]
    refine ⟨?_, hword, fun q hq => (hother q hq).trans (mget_putSpad_other _ _ _ _ (by simpa using hq))⟩
    dsimp only
    rw [holds, List.zipIdx_cons', List.map_cons, List.map_map]
    rfl

/-- Settles O43: the atomics run their steps between the two ends, AWAITV by its word, and each step of a word of the scratchpad
reads what the ones before it wrote. -/
theorem atomicsComplete : Obligations.AtomicsComplete := by
  unfold Obligations.AtomicsComplete
  refine ⟨fun f w2 s e => ⟨fun h hfree => ?_, fun h hfree => ?_, fun h hfree => ?_, fun h hfree => ?_, fun i hi h hw => ?_,
    exec_awaitv_none, exec_awaitv_helpers, exec_awaitv_waits, fun tgt hc => ⟨fun h hnh hw hne => ?_, fun h hnh hw heq => ?_⟩⟩,
    fun e n step s as p hp hstep => atomGo_spad hstep as s hp⟩
  · exact (exec_atom h).trans (atomic_of_free rfl _ _ hfree)
  · exact (exec_acas h).trans (atomic_of_free rfl _ _ hfree)
  · exact (exec_red h).trans (atomic_of_free rfl _ _ hfree)
  · exact (exec_atoms h).trans (atomic_of_free rfl _ _ hfree)
  · exact exec_atomic_waits hi h hw
  · exact (exec_awaitv h hnh hw hc).trans (if_pos hne)
  · refine (exec_awaitv h hnh hw hc).trans ((if_neg (not_not.mpr heq)).trans ((park_waddr _ _ _ _ _).trans ?_))
    cases tgt <;> rfl

end Sys2Proof.Machine
end

section
/-! Barriers: a BARX whose rank leads to a block of the sender's own id. -/

namespace Sys2Proof.Machine

/-- A BARX that arrives at word s0 of rank s1. -/
def barxField : FV := { h := {}, d := 0, sa := 0x108, sb := 0x109, sc := 0, fn := 0 }

/-- The placed team with 3 in s0 and 1 in s1: it arrives at word 3 of rank 1. -/
def barxTeam : Team := { placedTeam State.reset with sregs := [(0, 3), (1, 1)] }

/-- Rank 0 of a gang of two: its window of barrier words begins at word 0. -/
def barxSender : Block := { placedBlock State.reset with gangN := 2, gangId := 1 }

/-- Rank 1 of the gang, which has the id of rank 0 and a window of its own. -/
def barxPeer : Block := { barxSender with gang := 1, bar0 := 128 }

/-- A gang whose two blocks have one id. Word 3 of rank 1 waits for one arrival; word 3 of rank 0 waits for none. -/
def barxState : State :=
  let s : State := { placedOver [] with teams := [barxTeam], blocks := [barxSender, barxPeer] }
  s.putBar 0 131 { phase := false, txb := 0, expect := 1, pending := 1, init := true }

/-- Whether an instruction leaves a team in its slot. -/
def teamStays : Out → Bool
  | .next s => s.curTeam.isSome
  | _ => false

/-- The sender as it executes BARX. -/
def barxEnv : Env := { s := barxState, t := barxTeam, b := barxSender, op := 0xB5 }

theorem barxState_ready : barxState.ready (.barx barxField) = some barxEnv := by decide +kernel

/-- Rank 1 has the sender's id. -/
theorem barxState_member : barxEnv.s.member barxEnv.b (barxEnv.uval barxField.sb.toNat).toNat = some barxPeer := by decide +kernel

/-- The word of the sender's own window takes no arrival. -/
theorem barxState_own_word : ((barxState.landArrivals barxSender 3).bar 0 3).arrive = none := by decide +kernel

/-- The arrival is made at the word of rank 1, and the team goes on. -/
theorem barxState_arrives : teamStays (exec (.barx barxField) barxState) = true := by decide +kernel

/-- BARRIER_STATE ends the block, which has no handler. -/
theorem barxState_traps : teamStays (.next (({ barxEnv with s := barxState.landArrivals barxSender 3 } : Env).counted.takeTrap barxTeam
    (barxEnv.raise (.barx barxField) .barrierState))) = false := by decide +kernel

/-- Refutes O44: where the rank of a BARX names a second block with the sender's id, the clause for `m.id = e.b.id` speaks of the word
in the sender's window of barrier words, and BARX arrives at that in the member's (R362). No reachable state holds two blocks of one
id, but the statement does not ask for distinct ids. -/
theorem not_barrierInstructions : ¬ Obligations.BarrierInstructions := by
  unfold Obligations.BarrierInstructions
  intro h
  obtain ⟨-, -, -, -, -, -, -, -, hbarx⟩ := h.2.2 barxField barxState barxEnv
  obtain ⟨hown, -⟩ := hbarx barxState_ready (by decide +kernel) barxPeer barxState_member
  obtain ⟨slots, -, hsaid⟩ := hown rfl
  have hword : ((barxEnv.s.landArrivals barxEnv.b ((barxEnv.uval barxField.sa.toNat).toNat % 2 ^ 32)).bar barxEnv.t.core
      (barxEnv.b.bar0 + (barxEnv.uval barxField.sa.toNat).toNat % 2 ^ 32)).arrive = none := barxState_own_word
  rw [hword] at hsaid
  have hstays := congrArg teamStays hsaid
  rw [barxState_arrives] at hstays
  exact absurd (hstays.trans barxState_traps) (by decide)

end Sys2Proof.Machine
end

section
/-! The checks of an access and the address that it forms, space by space (R171, R173, R204, R207). -/

namespace Sys2Proof.Machine

/-! ### Segments (R173) -/

theorem segBad_iff (g : BitVec 128) : segBad g = true ↔
    bits g.toNat 127 116 ≠ 0 ∨ bits g.toNat 63 48 ≠ 0 ∨ 2 ^ 48 < bits g.toNat 47 0 + bits g.toNat 111 64 := by
  simp [segBad, segBase, segLimit, or_assoc]

/-- An access through a segment is refused for one of the seven reasons of R173, or forms its address. -/
theorem segAddr_eq (g : BitVec 128) (k : Nat) (val off : Int) (n : Nat) (write fetch : Bool) :
    let o := (BitVec.ofInt 64 (val * (2 ^ bits g.toNat 114 112 : Nat) + off)).toInt
    segAddr g k val off n write fetch =
      if bits g.toNat 127 116 ≠ 0 ∨ bits g.toNat 63 48 ≠ 0 ∨ 2 ^ 48 < bits g.toNat 47 0 + bits g.toNat 111 64 ∨ o < 0 ∨
          bits g.toNat 111 64 < o + n ∨ (k = 15 ∧ fetch = false) ∨ (write = true ∧ g.getLsbD 115 = true)
      then none else some ((bits g.toNat 47 0 + o.toNat) % 2 ^ 48) := by
  unfold segAddr
  refine if_congr ?_ rfl rfl
  simp only [Bool.or_eq_true, segBad_iff, decide_eq_true_eq, Bool.and_eq_true, beq_iff_eq, Bool.not_eq_true', segLimit, or_assoc,
    gt_iff_lt]

/-! ### The checks before the data (R171, R204, R354) -/

theorem spadOk_iff (b : Block) (a : Int) (n : Nat) : b.spadOk a n = true ↔ 0 ≤ a ∧ a + n ≤ 384 * b.rows ∧ a % n = 0 := by
  simp [Block.spadOk, and_assoc]

/-- The offset of an access in SPACE 1 to 3. -/
def accessOffset (val off : Int) : Int := (BitVec.ofInt 64 (val + off)).toInt

section
variable (e : Env) (s : State) (kind : AccKind) (seg : Nat) (val off : Int) (n : Nat)

/-- The range locks, then the translation. -/
theorem checkVa_eq (w : Who) (va : Nat) : s.checkVa w kind va n =
    if s.locked w.core w.ctx 0 0 va n (kind != .read) then (s, .error { cause := .rangeLocked, va := va })
    else match s.translateAll w kind (pieces va (n + 1) n) with
      | (s, .error f) => (s, .error f)
      | (s, .ok ps) => (s, .ok (.va va ps)) := by
  cases kind <;> rfl

/-- SPACE 0: the segment, the alignment of an atomic, then the range locks and the translation. -/
theorem checkAddr_segment : e.checkAddr s kind 0 seg val off n =
    match segAddr (e.b.seg seg) seg val off n (kind != .read) false with
    | none => (s, .error { cause := .segLimit })
    | some va => if kind == .atomic && va % n != 0 then (s, .error { cause := .misaligned, va := va })
      else s.checkVa e.who kind va n := by
  cases kind <;> rfl

/-- SPACE 1: the block's own bytes, then the range locks. -/
theorem checkAddr_block : e.checkAddr s kind 1 seg val off n =
    if !e.b.spadOk (accessOffset val off) n then (s, .error { cause := .segLimit })
    else if s.locked e.t.core e.b.ctx 1 e.b.id (accessOffset val off).toNat n (kind != .read) then (s, .error { cause := .rangeLocked })
    else (s, .ok (.spad e.t.core (384 * e.b.row0 + (accessOffset val off).toNat))) := by
  cases kind <;> rfl

/-- SPACE 2: the member of the gang, its bytes, and on the own core the range locks. -/
theorem checkAddr_gang : e.checkAddr s kind 2 seg val off n =
    match s.member e.b (accessOffset val off / 393216) with
    | none => (s, .error { cause := .segLimit })
    | some m =>
      let r := accessOffset val off % 393216
      if !m.spadOk r n then (s, .error { cause := .segLimit })
      else if m.core == e.t.core && s.locked e.t.core e.b.ctx 1 m.id r.toNat n (kind != .read) then
        (s, .error { cause := .rangeLocked })
      else (s, .ok (.spad m.core (384 * m.row0 + r.toNat))) := by
  cases kind <;> rfl

/-- SPACE 3: the alignment, then the size of the partition (log 60). -/
theorem checkAddr_chip : e.checkAddr s kind 3 seg val off n =
    if accessOffset val off % n ≠ 0 then (s, .error { cause := .segLimit })
    else match (s.part e.b.part).chipAt (accessOffset val off) n with
      | none => (s, .error { cause := .partBounds })
      | some t => (s, .ok t) := by
  cases kind <;> rfl

end

section
variable {e : Env} {s : State} {kind : AccKind} {seg : Nat} {val off : Int} {n : Nat}

/-- An access of SPACE 0 that its segment, the alignment and the range locks allow goes where its pieces are translated. -/
theorem checkAddr_translated {va : Nat} {s' : State} {ps : List (Phys × Nat)}
    (hs : segAddr (e.b.seg seg) seg val off n (kind != .read) false = some va) (ha : kind = .atomic → va % n = 0)
    (hl : s.locked e.t.core e.b.ctx 0 0 va n (kind != .read) = false)
    (ht : s.translateAll e.who kind (pieces va (n + 1) n) = (s', .ok ps)) :
    e.checkAddr s kind 0 seg val off n = (s', .ok (.va va ps)) := by
  have haligned : ¬ (kind == .atomic && va % n != 0) = true := by simpa using ha
  rw [checkAddr_segment, hs]
  refine (if_neg haligned).trans ?_
  rw [checkVa_eq, ht]
  exact if_neg (ne_true_of_eq_false hl)

theorem checkAddr_locked {va : Nat} (hs : segAddr (e.b.seg seg) seg val off n (kind != .read) false = some va)
    (ha : kind = .atomic → va % n = 0) (hl : s.locked e.t.core e.b.ctx 0 0 va n (kind != .read) = true) :
    e.checkAddr s kind 0 seg val off n = (s, .error { cause := .rangeLocked, va := va }) := by
  have haligned : ¬ (kind == .atomic && va % n != 0) = true := by simpa using ha
  rw [checkAddr_segment, hs]
  refine (if_neg haligned).trans ?_
  rw [checkVa_eq]
  exact if_pos hl

theorem checkAddr_misaligned {va : Nat} (hs : segAddr (e.b.seg seg) seg val off n (kind != .read) false = some va)
    (hk : kind = .atomic) (ha : va % n ≠ 0) : e.checkAddr s kind 0 seg val off n = (s, .error { cause := .misaligned, va := va }) := by
  have hbad : (kind == .atomic && va % n != 0) = true := by simp [hk, ha]
  rw [checkAddr_segment, hs]
  exact if_pos hbad

/-- A cluster-shared byte of a member that no range lock of the own core covers. -/
theorem checkAddr_gang_free {m : Block} (hm : s.member e.b (accessOffset val off / 393216) = some m)
    (hin : m.spadOk (accessOffset val off % 393216) n = true)
    (hl : m.core ≠ e.t.core ∨ s.locked e.t.core e.b.ctx 1 m.id (accessOffset val off % 393216).toNat n (kind != .read) = false) :
    e.checkAddr s kind 2 seg val off n = (s, .ok (.spad m.core (384 * m.row0 + (accessOffset val off % 393216).toNat))) := by
  have hfree : ¬ (m.core == e.t.core &&
      s.locked e.t.core e.b.ctx 1 m.id (accessOffset val off % 393216).toNat n (kind != .read)) = true := by
    rcases hl with h | h <;> simp [h]
  rw [checkAddr_gang, hm]
  exact (if_neg (by simp [hin])).trans (if_neg hfree)

end

/-- An offset within the size of a partition names a byte of its slices, or one that a resize has discarded (R83, R95). -/
theorem chipAt_of_within {p : Part} {a : Int} {n : Nat}
    (h : 0 ≤ a ∧ a + n ≤ (524288 * Nat.max p.sliceList.length (setBits 128 p.oldSlices.toNat).length : Nat)) :
    p.chipAt a n = some (if a.toNat < 524288 * p.sliceList.length then
      .chip (524288 * p.sliceList.getD (a.toNat / 524288) 0 + a.toNat % 524288) else .gone a.toNat) := by
  refine (if_neg (by omega)).trans ?_
  split <;> rfl

theorem chipAt_of_beyond {p : Part} {a : Int} {n : Nat}
    (h : ¬(0 ≤ a ∧ a + n ≤ (524288 * Nat.max p.sliceList.length (setBits 128 p.oldSlices.toNat).length : Nat))) :
    p.chipAt a n = none :=
  if_pos (by omega)

/-! ### Errors in the data (R207) (log 105) -/

section
variable {s : State} {w : Who} {kind : AccKind}

theorem readsData_iff (kind : AccKind) :
    kind.readsData = true ↔ kind ≠ .write ∧ kind ≠ .fetch ∧ kind ≠ .engWrite ∧ kind ≠ .walk := by
  cases kind <;> simp [AccKind.readsData]

theorem dataBad_of_clean {chip : Bool} (a n : Nat) (h : kind = .write ∨ (if chip then s.chipPoison else s.poison) = []) :
    s.dataBad w kind chip a n = false := by
  unfold State.dataBad
  rcases h with rfl | h
  · rfl
  · simp [h]

theorem targetBad_of_clean (t : Target) (n : Nat) (h : kind = .write ∨ (s.spadPoison = [] ∧ s.chipPoison = [])) :
    s.targetBad w kind t n = false := by
  cases t with
  | va => rfl
  | gone => rfl
  | spad c a =>
    rcases h with rfl | ⟨h, -⟩
    · rfl
    · simp [State.targetBad, h]
  | chip a => exact dataBad_of_clean a n (h.imp_right And.right)

/-- A word with an error in it, where no write of the team is on its way. -/
theorem targetBad_of_poison {core b k n : Nat} (hk : kind.readsData = true) (hq : s.remoteQ = []) (hp : (core, k) ∈ s.spadPoison)
    (hlo : b < 4 * k + 4) (hhi : 4 * k < b + n) : s.targetBad w kind (.spad core b) n = true := by
  have hany : (s.spadPoison.any fun x => x.1 == core && decide (b < 4 * x.2 + 4) && decide (4 * x.2 < b + n)) = true :=
    List.any_eq_true.mpr ⟨(core, k), hp, by simp [hlo, hhi]⟩
  simp [State.targetBad, hk, hq, hany]

theorem translateAll_of_dataBad {va m : Nat} {p : Phys} {s1 : State} (r : List (Nat × Nat))
    (ht : s.translate w kind (va % 2 ^ 48) = (s1, .ok p)) (hb : s1.dataBad w kind false p.pa m = true) :
    s.translateAll w kind ((va, m) :: r) = (s1, .error { cause := .dataError, va := va % 2 ^ 48, pbmt := p.pbmt }) := by
  simp only [State.translateAll, ht, hb, if_true]

end

theorem check_of_error {e : Env} {s s1 : State} {kind : AccKind} {space seg : Nat} {val off : Int} {n : Nat} {x : MFault}
    (h : e.checkAddr s kind space seg val off n = (s1, .error x)) : e.check s kind space seg val off n = (s1, .error x) := by
  rw [Env.check, h]

theorem check_of_ok {e : Env} {s s1 : State} {kind : AccKind} {space seg : Nat} {val off : Int} {n : Nat} {t : Target}
    (h : e.checkAddr s kind space seg val off n = (s1, .ok t)) : e.check s kind space seg val off n =
      if s1.targetBad e.who kind t n then (s1, .error { cause := .dataError }) else (s1, .ok t) := by
  rw [Env.check, h]

/-- Settles O37: each space by its equation of `Env.checkAddr`, the data by `State.targetBad` and `State.translateAll`. -/
theorem accessChecks : Obligations.AccessChecks := by
  unfold Obligations.AccessChecks
  refine ⟨fun g k val off n write fetch => ?_, fun e s kind seg val off n _ => ⟨fun h => ?_, fun va h => ⟨checkAddr_misaligned h,
    fun ha => ⟨checkAddr_locked h ha, fun s' ps => checkAddr_translated h ha⟩⟩, fun h => ?_, fun h => ?_, fun h => ?_,
    fun m hm => ⟨fun h => ?_, fun h => checkAddr_gang_free hm ((spadOk_iff _ _ _).mpr h)⟩, fun h => ?_, fun h => ?_,
    fun space s1 x => check_of_error, fun space s1 t => check_of_ok, fun t => targetBad_of_clean t n,
    fun core b k hw hf he hk hq => targetBad_of_poison ((readsData_iff kind).mpr ⟨hw, hf, he, hk⟩) hq, fun b bs o => ⟨rfl, rfl⟩,
    fun va m p s1 r ht => ⟨translateAll_of_dataBad r ht, dataBad_of_clean (chip := false) p.pa m⟩⟩⟩
  · have heq := segAddr_eq g k val off n write fetch
    dsimp only at heq ⊢
    split
    · next h => rw [heq, if_pos h]
    · next h => rw [heq, if_neg h]
  · rw [checkAddr_segment, h]
  · have hout : e.b.spadOk (accessOffset val off) n = false := Bool.eq_false_iff.mpr fun hin => h ((spadOk_iff _ _ _).mp hin)
    rw [checkAddr_block, hout]
    rfl
  · have hin : e.b.spadOk (accessOffset val off) n = true := (spadOk_iff _ _ _).mpr h
    rw [checkAddr_block, hin]
    rfl
  · have hnone : s.member e.b (accessOffset val off / 393216) = none := h
    rw [checkAddr_gang, hnone]
  · have hsome : s.member e.b (accessOffset val off / 393216) = some m := hm
    have hout : m.spadOk (accessOffset val off % 393216) n = false := Bool.eq_false_iff.mpr fun hin => h ((spadOk_iff _ _ _).mp hin)
    rw [checkAddr_gang, hsome]
    exact if_pos (by rw [hout]; rfl)
  · rw [checkAddr_chip]
    exact if_pos h
  · have hmul : ¬ accessOffset val off % n ≠ 0 := not_not.mpr h
    dsimp only
    split
    · next hin => rw [checkAddr_chip, if_neg hmul, chipAt_of_within (a := accessOffset val off) hin]; rfl
    · next hout => rw [checkAddr_chip, if_neg hmul, chipAt_of_beyond (a := accessOffset val off) hout]

end Sys2Proof.Machine
end

section
/-! Loads, stores and prefetches where no lane meets a cause (R171, R342 to R345). -/

namespace Sys2Proof.Machine

/-! ### The offsets of the lanes (R171, R342, R344) -/

/-- The offset of a lane's access: OFF16, and for LDV and STV the lane number times the size (R343). -/
def laneOff (f : FM) (v : Bool) (l : Nat) : Int := f.off.toInt + (if v then (sizeBytes f.size.toNat * l : Nat) else 0)

/-- The factor of the lane number in the offset of an access. -/
def laneStep (f : FM) (v : Bool) : Nat := if v then sizeBytes f.size.toNat else 0

theorem off_add_laneStep (f : FM) (v : Bool) (l : Nat) : f.off.toInt + ((laneStep f v * l : Nat) : Int) = laneOff f v l := by
  cases v
  · simp [laneOff, laneStep]
  · rfl

theorem laneOff_false (f : FM) (l : Nat) : laneOff f false l = f.off.toInt := Int.add_zero _

theorem loadM_eq (e : Env) (i : Instr) (f : FM) (v : Bool) : e.loadM i f (laneStep f v) =
    if e.mustWait f.space.toNat (e.t.act f.h) fun l => e.addrVal f.addr.toNat l + laneOff f v l then .next (e.waiting 0x0C)
    else e.load i f f.seg.toNat false
      (fun s l => e.check s .read f.space.toNat f.seg.toNat (e.addrVal f.addr.toNat l) (laneOff f v l) (sizeBytes f.size.toNat))
      fun l => (e.addrVal f.addr.toNat l + laneOff f v l).toNat := by
  simp only [Env.loadM, off_add_laneStep]
  rfl

theorem storeM_eq (e : Env) (i : Instr) (f : FM) (v : Bool) : e.storeM i f (laneStep f v) =
    if e.mustWait f.space.toNat (e.t.actNH f.h) fun l => (e.t.getV f.data.toNat l).toNat + laneOff f v l then
      .next (e.waiting 0x0C)
    else e.store i f f.seg.toNat false
      (fun s l => e.check s .write f.space.toNat f.seg.toNat (e.t.getV f.data.toNat l).toNat (laneOff f v l)
        (sizeBytes f.size.toNat))
      fun l => ((e.t.getV f.data.toNat l).toNat + laneOff f v l).toNat := by
  simp only [Env.storeM, off_add_laneStep]
  rfl

/-- An LDL or STL reaches the lane's own 65,536 bytes through g14, and no other (R172, R344). -/
theorem checkPriv_eq (e : Env) (s : State) (kind : AccKind) (o : Int) (l n : Nat) : e.checkPriv s kind o l n =
    if 0 ≤ o ∧ o + n ≤ 65536 then e.check s kind 0 14 0 ((2 ^ 26 * e.t.pix + 2 ^ 16 * l : Nat) + o) n
    else (s, .error { cause := .segLimit }) := by
  unfold Env.checkPriv
  by_cases h : 0 ≤ o ∧ o + n ≤ 65536
  · rw [if_pos h, if_neg (by omega)]
  · rw [if_neg h, if_pos (by omega)]

/-! ### Completion -/

section
variable {e : Env} {i : Instr} {f : FM} {seg : Nat} {priv : Bool} {chk : State → Nat → State × Except MFault Target}
  {addr : Nat → Nat} {s1 s2 : State} {as : List LaneAcc} {vals : List (Nat × Nat)}

/-- A load no lane of which meets a cause reads every lane and leaves its passes in flight (R218, R342). -/
theorem load_of_clean (hi : i.hdr = f.h) (hc : e.checkLanes chk addr e.s (e.t.list (e.t.act f.h)) = (s1, as, []))
    (hl : (e.banked s1 f.space.toNat (sizeBytes f.size.toNat) as).loadLanes e.who f.pol.toNat priv (sizeBytes f.size.toNat) as =
      (s2, vals)) : e.load i f seg priv chk addr =
    .next (e.stepped i (s2.queueLoads e.who f.pol.toNat (sizeBytes f.size.toNat) as)
      { e.t with flights := e.t.flights ++
          e.flights e.t.pc f.data.toNat f.size.toNat f.space.toNat f.pol.toNat (f.h.ws == 1) as vals }
      (if sizeRegs f.size.toNat = 1 then some (if f.h.ws = 1 then [] else e.t.row f.data.toNat) else none)) := by
  simp only [Env.load, hi, hc, hl, List.isEmpty_nil, if_true, Env.launchLoad, beq_iff_eq]
  rfl

/-- What a lane of a store writes (R342). -/
def Env.storeVal (e : Env) (f : FM) (l : Nat) : Nat :=
  if sizeRegs f.size.toNat = 1 then (e.src32 f.addr.toNat l).toNat
  else leNat ((List.range (sizeRegs f.size.toNat)).flatMap fun k => leBytes 4 (e.t.getV (f.addr.toNat + k) l).toNat)

theorem store_of_clean (hi : i.hdr = f.h) (hc : e.checkLanes chk addr e.s (e.t.list (e.t.actNH f.h)) = (s1, as, [])) :
    e.store i f seg priv chk addr = .next (e.stepped i ((e.banked s1 f.space.toNat (sizeBytes f.size.toNat) as).storeLanes e.who
      f.pol.toNat priv (sizeBytes f.size.toNat) (e.storeVal f) as) e.t none) := by
  simp only [Env.store, hi, hc, List.isEmpty_nil, if_true]
  rfl

end

/-! ### Issue -/

section
variable {f : FM} {s : State} {e : Env}

theorem exec_ld (h : s.ready (.ld f) = some e) : exec (.ld f) s = e.loadM (.ld f) f (laneStep f false) := by
  show execLd f s = _
  exact issue_of_ready h _

theorem exec_ldv (h : s.ready (.ldv f) = some e) : exec (.ldv f) s = e.loadM (.ldv f) f (laneStep f true) := by
  show execLdv f s = _
  exact issue_of_ready h _

theorem exec_st (h : s.ready (.st f) = some e) : exec (.st f) s = e.storeM (.st f) f (laneStep f false) := by
  show execSt f s = _
  exact issue_of_ready h _

theorem exec_stv (h : s.ready (.stv f) = some e) : exec (.stv f) s = e.storeM (.stv f) f (laneStep f true) := by
  show execStv f s = _
  exact issue_of_ready h _

theorem exec_ldl (h : s.ready (.ldl f) = some e) : exec (.ldl f) s = e.load (.ldl f) f 14 true
    (fun s l => e.checkPriv s .read (e.addrVal f.addr.toNat l + laneOff f false l) l (sizeBytes f.size.toNat)) fun _ => 0 := by
  show execLdl f s = _
  simp only [laneOff_false]
  exact issue_of_ready h _

theorem exec_stl (h : s.ready (.stl f) = some e) : exec (.stl f) s = e.store (.stl f) f 14 true
    (fun s l => e.checkPriv s .write ((e.t.getV f.data.toNat l).toNat + laneOff f false l) l (sizeBytes f.size.toNat))
    fun _ => 0 := by
  show execStl f s = _
  simp only [laneOff_false]
  exact issue_of_ready h _

theorem exec_pfetch (h : s.ready (.pfetch f) = some e) : exec (.pfetch f) s = .next (e.stepped (.pfetch f)
    ((e.t.list (e.t.act f.h)).foldl (fun (s : State) l => e.prefetch s f l) e.s) e.t none) := by
  show execPfetch f s = _
  exact issue_of_ready h _

end

/-! ### What a prefetch leaves unchanged (R345) -/

/-- The teams, and the scratchpad of a core. -/
def State.teamsSpad (c : Nat) (s : State) : List Team × Map Byte := (s.teams, (s.coreSt c).spad)

theorem teamsSpad_putL1 (c : Nat) (s : State) (core : Nat) (ls : List Line) :
    (s.putCore core { s.coreSt core with l1 := ls }).teamsSpad c = s.teamsSpad c := by
  have hspad : (mget {} (mset {} s.cores core { s.coreSt core with l1 := ls }) c).spad = (s.coreSt c).spad := by
    rw [mget_mset]
    split
    · next h => rw [h]
    · rfl
  exact congrArg (s.teams, ·) hspad

theorem teamsSpad_count (c : Nat) (s : State) (ctx ev n : Nat) : (s.count ctx ev n).teamsSpad c = s.teamsSpad c := by
  simp only [State.teamsSpad, State.count_teams, coreSt_count]

theorem teamsSpad_writeBack (c : Nat) (s : State) (l : Line) : (s.writeBack l).teamsSpad c = s.teamsSpad c := by
  refine foldl_keeps (State.teamsSpad c) _ (fun s i => ?_) _ s
  exact setHomeByte_frame (f := State.teamsSpad c) (fun _ _ _ _ _ _ => rfl) _ _ _ _

theorem teamsSpad_sweepL1 (c : Nat) (s : State) (core : Nat) (wb drop : Line → Bool) (f : Line → Line) :
    (s.sweepL1 core wb drop f).teamsSpad c = s.teamsSpad c :=
  (teamsSpad_putL1 c _ core _).trans (foldl_keeps (State.teamsSpad c) _ (teamsSpad_writeBack c) _ s)

theorem teamsSpad_roomL1 (c : Nat) (s : State) (core set : Nat) : (s.roomL1 core set).teamsSpad c = s.teamsSpad c := by
  rcases roomL1_cases s core set with h | ⟨-, v, -, -, h⟩
  · rw [h]
  · rw [h]
    exact teamsSpad_sweepL1 c s core _ _ _

theorem teamsSpad_fillL1 (c : Nat) (s : State) (core ctx : Nat) (chip : Bool) (a : Nat) (priv : Bool) :
    (s.fillL1 core ctx chip a priv).teamsSpad c = s.teamsSpad c := by
  unfold State.fillL1
  split
  · rfl
  · exact (teamsSpad_putL1 c _ core _).trans ((teamsSpad_count c _ _ _ _).trans
      ((teamsSpad_roomL1 c _ _ _).trans (teamsSpad_sweepL1 c s core _ _ _)))

theorem teamsSpad_translate (c : Nat) (s : State) (w : Who) (kind : AccKind) (va : Nat) :
    (s.translate w kind va).1.teamsSpad c = s.teamsSpad c := by
  unfold State.translate
  dsimp only
  split
  · rfl
  · split
    · rfl
    · split <;> rfl

theorem teamsSpad_prefetch (c : Nat) (e : Env) (f : FM) (s : State) (l : Nat) : (e.prefetch s f l).teamsSpad c = s.teamsSpad c := by
  have hkeep (s : State) (chip : Bool) (a : Nat) :
      (if f.pol = 0 then s.fillL1 e.who.core e.who.ctx chip a false else s).teamsSpad c = s.teamsSpad c := by
    split
    · exact teamsSpad_fillL1 c s _ _ _ _ _
    · rfl
  unfold Env.prefetch
  dsimp only
  split
  · split
    · exact hkeep _ _ _
    · rfl
  · split
    · rfl
    · next va _ =>
      have htr := teamsSpad_translate c s e.who .read va
      split
      · next s' p heq =>
        rw [heq] at htr
        split
        · exact htr
        · split
          · exact (hkeep _ _ _).trans htr
          · exact htr
      · next s' x heq =>
        rw [heq] at htr
        exact htr

/-- Settles O38: the checks of all lanes have no fault, so that the access is performed in every lane; a prefetch changes lines of L1
and cached translations only. -/
theorem loadsAndStoresComplete : Obligations.LoadsAndStoresComplete := by
  intro f s e
  refine ⟨fun hr hm s1 as s2 vals hc hl => ?_, fun hr hm s1 as s2 vals hc hl => ?_, fun hr s1 as s2 vals hc hl => ?_,
    fun hr hm s1 as hc => ?_, fun hr hm s1 as hc => ?_, fun hr hm => ?_, fun hr hm => ?_, fun hr hm => ?_, fun hr hm => ?_,
    fun hr s1 as hc => ?_, fun hr => ⟨_, exec_pfetch hr, ?_⟩⟩
  · exact (exec_ld hr).trans ((loadM_eq e _ f false).trans ((if_neg (ne_true_of_eq_false hm)).trans (load_of_clean rfl hc hl)))
  · exact (exec_ldv hr).trans ((loadM_eq e _ f true).trans ((if_neg (ne_true_of_eq_false hm)).trans (load_of_clean rfl hc hl)))
  · simp only [← checkPriv_eq] at hc
    exact (exec_ldl hr).trans (load_of_clean rfl hc hl)
  · exact (exec_st hr).trans ((storeM_eq e _ f false).trans ((if_neg (ne_true_of_eq_false hm)).trans (store_of_clean rfl hc)))
  · exact (exec_stv hr).trans ((storeM_eq e _ f true).trans ((if_neg (ne_true_of_eq_false hm)).trans (store_of_clean rfl hc)))
  · exact (exec_ld hr).trans ((loadM_eq e _ f false).trans (if_pos hm))
  · exact (exec_ldv hr).trans ((loadM_eq e _ f true).trans (if_pos hm))
  · exact (exec_st hr).trans ((storeM_eq e _ f false).trans (if_pos hm))
  · exact (exec_stv hr).trans ((storeM_eq e _ f true).trans (if_pos hm))
  · simp only [← checkPriv_eq] at hc
    exact (exec_stl hr).trans (store_of_clean rfl hc)
  · have hkept (c : Nat) := foldl_keeps (State.teamsSpad c) _ (teamsSpad_prefetch c e f) (e.t.list (e.t.act f.h)) e.s
    exact ⟨congrArg Prod.fst (hkept 0), fun c => congrArg Prod.snd (hkept c)⟩

end Sys2Proof.Machine
end

section
/-! Progress of the engines' operations: pieces, elements, steps and bands (R365, R366, R368, R373). -/

namespace Sys2Proof.Machine

/-! ### The operation of an event -/

theorem opEnv_s {s : State} {o : EngOp} {e : Env} (h : s.opEnv o = some e) : e.s = s := by
  unfold State.opEnv at h
  split at h
  · cases h
    rfl
  · cases h

section
variable {s : State} {core : Nat} {g : Engine} {o : EngOp}

/-- An event of another operation than the first of its engine changes nothing. -/
theorem runHead_other {id : Nat} (h : (s.coreSt core).head g = some o) (hid : o.id ≠ id) (k : Env → EngOp → State) :
    s.runHead core id g k = s := by
  simp only [State.runHead, h, if_neg hid]

theorem runHead_first {e : Env} (h : (s.coreSt core).head g = some o) (he : s.opEnv o = some e) (k : Env → EngOp → State) :
    s.runHead core o.id g k = k e o := by
  simp only [State.runHead, h, he, if_true]

theorem exec_copyPiece_first {e : Env} (h : (s.coreSt core).head .copy = some o) (he : s.opEnv o = some e) :
    exec (.copyPiece core o.id) s = .next (e.copyPiece o) :=
  congrArg Host.Outcome.next (runHead_first h he _)

theorem exec_gatherElement_first {e : Env} (h : (s.coreSt core).head .gather = some o) (he : s.opEnv o = some e) :
    exec (.gatherElement core o.id) s = .next (e.gatherElement o) :=
  congrArg Host.Outcome.next (runHead_first h he _)

end

/-! ### Pieces of a copy (R365, R368) -/

section
variable {e : Env} {o : EngOp} {s1 s2 s3 : State} {ts us : List (Target × Nat)}

/-- Offset of the next piece of a copy from the start of its source. -/
def EngOp.srcDelta (o : EngOp) : Nat := o.sstride * (o.cursor / o.rowLen) + o.cursor % o.rowLen

/-- Offset of the next piece of a copy from the start of its destination. -/
def EngOp.dstDelta (o : EngOp) : Nat := o.dstride * (o.cursor / o.rowLen) + o.cursor % o.rowLen

/-- Bytes of the next piece of a copy: to the end of the row or the next 128-byte boundary of the destination. -/
def Env.pieceLen (e : Env) (o : EngOp) : Nat :=
  Nat.min (o.rowLen - o.cursor % o.rowLen)
    (128 - ((e.spanAt { space := o.dspace, seg := o.dseg, val := o.a, len := 0 } + o.dstDelta) % 128).toNat)

/-- Whether the next piece of a copy reaches a migrating member (R94). -/
def Env.copyAway (e : Env) (o : EngOp) : Bool :=
  e.awayAt o.sspace (o.b.toInt + o.srcDelta) || e.destAway o o.dstDelta

theorem copyPiece_eq (e : Env) (o : EngOp) : e.copyPiece o =
    if e.copyAway o then e.s
    else match e.place (e.opWho o) false o.sspace o.sseg o.b o.srcDelta (e.pieceLen o) with
      | (s, .error f) => ({ e with s := s } : Env).opFault o o.sseg o.sspace 4 f
      | (s, .ok ts) =>
        match ({ e with s := s } : Env).deliverAt o o.dstDelta (s.engLoad ts) with
        | (s, .error f) => ({ e with s := s } : Env).opFault o o.dseg o.dspace 5 f
        | (s, .ok _) => s.advance e.t.core o (o.cursor + e.pieceLen o) (o.rowLen * o.rowCount) := rfl

theorem copyPiece_waits (ha : e.copyAway o = true) : e.copyPiece o = e.s := by
  rw [copyPiece_eq, if_pos ha]

theorem copyPiece_moves (ha : e.copyAway o = false)
    (hp : e.place (e.opWho o) false o.sspace o.sseg o.b o.srcDelta (e.pieceLen o) = (s1, .ok ts))
    (hd : ({ e with s := s1 } : Env).deliverAt o o.dstDelta (s1.engLoad ts) = (s2, .ok ())) :
    e.copyPiece o = s2.advance e.t.core o (o.cursor + e.pieceLen o) (o.rowLen * o.rowCount) := by
  simp only [copyPiece_eq, if_neg (ne_true_of_eq_false ha), hp, hd]

theorem opFault_eq (e : Env) (o : EngOp) (seg space kind : Nat) (y : MFault) : e.opFault o seg space kind y =
    if y.cause = .guestPageFault then e.s.notify e.b.part .guestPageFault else e.s.faultOp e.t.core o seg space kind y := by
  simp only [Env.opFault, beq_iff_eq]

theorem copyPiece_faults {y : MFault} (ha : e.copyAway o = false)
    (hp : e.place (e.opWho o) false o.sspace o.sseg o.b o.srcDelta (e.pieceLen o) = (s1, .error y)) :
    e.copyPiece o = if y.cause = .guestPageFault then s1.notify e.b.part .guestPageFault
      else s1.faultOp e.t.core o o.sseg o.sspace 4 y := by
  simp only [copyPiece_eq, if_neg (ne_true_of_eq_false ha), hp, opFault_eq]

/-! ### Elements of a gather or scatter (R366) -/

/-- Element that is read, for index `k`. -/
def EngOp.readsElement (o : EngOp) (k : Nat) : Nat := if o.kind = .gath then k else o.cursor

/-- Element that is written, for index `k`. -/
def EngOp.writesElement (o : EngOp) (k : Nat) : Nat := if o.kind = .gath then o.cursor else k

/-- Whether the element of index `k` reaches a migrating member (R94). -/
def Env.elementAway (e : Env) (o : EngOp) (k : Nat) : Bool :=
  e.awayAt o.sspace (o.b.toInt + (o.esize * o.readsElement k : Nat)) || e.destAway o (o.esize * o.writesElement k : Nat)

theorem gatherElement_index_waits (ha : e.awayAt o.ispace (o.c.toInt + (4 * o.cursor : Nat)) = true) : e.gatherElement o = e.s :=
  if_pos ha

section
variable (hi : e.awayAt o.ispace (o.c.toInt + (4 * o.cursor : Nat)) = false)
  (hp : e.place (e.opWho o) false o.ispace o.iseg o.c (4 * o.cursor : Nat) 4 = (s1, .ok ts))
include hi hp

/-- An element whose index has been read. -/
theorem gatherElement_indexed : e.gatherElement o =
    if e.elementAway o (leNat (s1.engLoad ts)) then e.s
    else match ({ e with s := s1 } : Env).place (e.opWho o) false o.sspace o.sseg o.b
        (o.esize * o.readsElement (leNat (s1.engLoad ts)) : Nat) o.esize with
      | (s, .error f) => ({ e with s := s } : Env).opFault o o.sseg o.sspace 4 f
      | (s, .ok us) =>
        match ({ e with s := s } : Env).deliverAt o (o.esize * o.writesElement (leNat (s1.engLoad ts)) : Nat) (s.engLoad us) with
        | (s, .error f) => ({ e with s := s } : Env).opFault o o.dseg o.dspace 5 f
        | (s, .ok _) => s.advance e.t.core o (o.cursor + 1) o.count := by
  simp only [Env.gatherElement, if_neg (ne_true_of_eq_false hi), hp, Env.elementAway, EngOp.readsElement, EngOp.writesElement]
  split
  · next hk => simp only [hk, if_true] <;> rfl
  · next hk => simp only [if_neg hk] <;> rfl

theorem gatherElement_waits (ha : e.elementAway o (leNat (s1.engLoad ts)) = true) : e.gatherElement o = e.s := by
  rw [gatherElement_indexed hi hp, if_pos ha]

theorem gatherElement_moves (ha : e.elementAway o (leNat (s1.engLoad ts)) = false)
    (hr : ({ e with s := s1 } : Env).place (e.opWho o) false o.sspace o.sseg o.b
      (o.esize * o.readsElement (leNat (s1.engLoad ts)) : Nat) o.esize = (s2, .ok us))
    (hd : ({ e with s := s2 } : Env).deliverAt o (o.esize * o.writesElement (leNat (s1.engLoad ts)) : Nat) (s2.engLoad us) =
      (s3, .ok ())) : e.gatherElement o = s3.advance e.t.core o (o.cursor + 1) o.count := by
  simp only [gatherElement_indexed hi hp, if_neg (ne_true_of_eq_false ha), hr, hd]

end

end

/-! ### Steps of the matrix unit (R373, R374, R382) -/

section
variable {s : State} {core : Nat} {o : EngOp} {e : Env}

/-- A step may run now: its unit serves the operation, step starts are not paused, and what it reads is there (R18) (log 84). -/
def Env.stepFree (e : Env) (core : Nat) (o : EngOp) : Bool :=
  e.s.served core o && decide (mget 0 e.s.pkg.pause (dieOfCore core) ≤ e.s.timeNs) && !e.stepAway o &&
    (e.s.coreSt core).aReady e.b o

theorem stepFree_iff (e : Env) (core : Nat) (o : EngOp) : e.stepFree core o = true ↔
    e.s.served core o = true ∧ mget 0 e.s.pkg.pause (dieOfCore core) ≤ e.s.timeNs ∧ e.stepAway o = false ∧
      (e.s.coreSt core).aReady e.b o = true := by
  simp [Env.stepFree, and_assoc]

/-- The operation once it has taken the bands that it can. -/
def Env.withBands (e : Env) (core : Nat) (o : EngOp) : EngOp := (e.s.coreSt core).takeBands e.b o

section
variable (ho : (s.coreSt core).ops.find? (fun x => x.id == o.id && x.eng == .step) = some o) (he : s.opEnv o = some e)
include ho he

theorem exec_matrixStep_takes (h : ¬((e.withBands core o).untaken = [] ∧ e.stepFree core o = true)) :
    exec (.matrixStep core o.id) s = .next (s.putOp core (e.withBands core o)) := by
  obtain rfl := opEnv_s he
  have hstay : (!(e.withBands core o).untaken.isEmpty || !e.stepFree core o) = true := by
    simpa [← imp_iff_not_or] using h
  show execMatrixStep core o.id e.s = _
  simp only [execMatrixStep, ho, he]
  exact if_pos hstay

theorem exec_matrixStep_steps {c : CoreSt} (hb : (e.withBands core o).untaken = []) (hf : e.stepFree core o = true)
    (hc : ({ e with s := s.putOp core (e.withBands core o) } : Env).step (e.withBands core o) = .ok c) :
    exec (.matrixStep core o.id) s =
      let s2 := ((s.putOp core (e.withBands core o)).putCore core c).count e.b.ctx 5 1
      let o2 := { e.withBands core o with cursor := o.cursor + 1 }
      .next (if o.steps ≤ o.cursor + 1 then s2.finishOp core e.b o2 else s2.putOp core o2) := by
  obtain rfl := opEnv_s he
  have hgo : ¬ (!(e.withBands core o).untaken.isEmpty || !e.stepFree core o) = true := by simp [hb, hf]
  show execMatrixStep core o.id e.s = _
  simp only [execMatrixStep, ho, he]
  refine (if_neg hgo).trans ?_
  simp only [Env.withBands] at hc
  rw [hc]
  rfl

end
end

/-! ### Passes of the move unit (R373, R384, R385, R387) -/

/-- Rows of no cells read 0, and every other cell as before. -/
theorem mget_putRows_empty (p : Nat) (m r : Nat) (c : CoreSt) (n : Nat) :
    mget 0 (c.putRows p r (List.replicate m [])).cells n =
      if 4096 * p + 64 * r ≤ n ∧ n < 4096 * p + 64 * (r + m) then 0 else mget 0 c.cells n := by
  induction m generalizing c r with
  | zero => exact (if_neg (by omega)).symm
  | succ m ih =>
    have hrow (k : Nat) : mget 0 (mrow 0 64 fun j => (#[] : Array (BitVec 36)).getD j 0) k = 0 := by simp
    refine (ih (r + 1) _).trans ?_
    rw [mget_mput _ _ _ _ _ (mrow_keys 0 64 _), hrow]
    by_cases hr : 4096 * p + 64 * r ≤ n ∧ n < 4096 * p + 64 * r + 64
    · rw [if_pos hr, ite_self, if_pos (by omega)]
    · rw [if_neg hr]
      exact if_congr (by omega) rfl rfl

section
variable {s : State} {core : Nat} {o : EngOp} {e : Env}

section
variable (ho : (s.coreSt core).ops.find? (fun x => x.id == o.id && x.eng == .move) = some o) (he : s.opEnv o = some e)
include ho he

theorem exec_moveBandPass_eq : exec (.moveBandPass core o.id) s =
    .next (if s.served core o && (s.coreSt core).canTake e.b o o.cursor && !e.passAway o o.cursor then e.pass o o.cursor else s) := by
  show execMoveBandPass core o.id s = _
  simp only [execMoveBandPass, ho, he]

theorem exec_moveBandPass_passes (hs : s.served core o = true) (hc : (s.coreSt core).canTake e.b o o.cursor = true)
    (ha : e.passAway o o.cursor = false) : exec (.moveBandPass core o.id) s = .next (e.pass o o.cursor) := by
  rw [exec_moveBandPass_eq ho he, if_pos (by simp [hs, hc, ha])]

theorem exec_moveBandPass_waits (h : (s.coreSt core).canTake e.b o o.cursor = false ∨ e.passAway o o.cursor = true) :
    exec (.moveBandPass core o.id) s = .next s := by
  rw [exec_moveBandPass_eq ho he, if_neg]
  rcases h with h | h <;> simp [h]

end

variable {s1 : State} (b : Nat)

theorem passAway_mzero (hk : o.kind = .mzero) : e.passAway o b = false := by
  simp only [Env.passAway, hk]

theorem pass_mzero (hk : o.kind = .mzero) : e.pass o b =
    ({ e with s := e.s.putCore e.t.core ((e.s.coreSt e.t.core).putRows (e.b.phys o.tile) (8 * b) (List.replicate 8 [])) } :
      Env).bandDone o b := by
  simp only [Env.pass, hk]

theorem pass_mldt {rows : List (List (BitVec 36))} (hk : o.kind = .mldt)
    (hl : e.loadRows o ((List.range 8).map (8 * b + ·)) = (s1, rows, none)) :
    e.pass o b = ({ e with s := s1.putCore e.t.core ((s1.coreSt e.t.core).putRows (e.b.phys o.tile) (8 * b) rows) } : Env).bandDone
      o b := by
  simp only [Env.pass, hk, hl]

theorem pass_mdrain (hk : o.kind = .mdrain) (hf : e.firstFault (e.capture o b) (e.drainWrites (e.capture o b) b) = none)
    (hw : e.writeRows (e.capture o b) (e.drainWrites (e.capture o b) b) = (s1, none)) :
    e.pass o b = ({ e with s := s1 } : Env).bandDone (e.capture o b) b := by
  simp only [Env.pass, hk, hf, hw]

end

/-- Settles O48: each event by the equation of its engine, and the cleared cells of MZERO row by row. -/
theorem engineProgress : Obligations.EngineProgress := by
  intro core op s o e he
  refine ⟨fun g hg hid => ⟨?_, ?_⟩, ?_, ?_, ?_, ?_, ?_, ?_, ?_, ?_⟩
  · rintro rfl
    exact congrArg Host.Outcome.next (runHead_other hg hid _)
  · rintro rfl
    exact congrArg Host.Outcome.next (runHead_other hg hid _)
  · rintro hg rfl ha
    rw [exec_copyPiece_first hg he, copyPiece_waits ha, opEnv_s he]
  · rintro hg rfl ha row x d n s1 ts s2 hp hd
    rw [exec_copyPiece_first hg he, copyPiece_moves ha hp hd]
    rfl
  · rintro hg rfl ha row x d n s1 y hp
    rw [exec_copyPiece_first hg he, copyPiece_faults ha hp]
  · rintro hg rfl ha
    rw [exec_gatherElement_first hg he, gatherElement_index_waits ha, opEnv_s he]
  · rintro hg rfl hi s1 ts s2 us s3 hp
    refine ⟨fun ha => ?_, fun ha hr hd => ?_⟩
    · rw [exec_gatherElement_first hg he, gatherElement_waits hi hp ha, opEnv_s he]
    · rw [exec_gatherElement_first hg he, gatherElement_moves hi hp ha hr hd]
      rfl
  · intro hf
    obtain ⟨rfl, -⟩ : o.id = op ∧ o.eng = .step := by simpa using List.find?_some hf
    obtain rfl := opEnv_s he
    refine ⟨fun h => exec_matrixStep_takes hf he ?_, fun c hb hfree hc => exec_matrixStep_steps hf he hb ?_ hc⟩
    · rwa [stepFree_iff]
    · exact (stepFree_iff e core o).mpr hfree
  · intro hf hk
    obtain ⟨rfl, -⟩ : o.id = op ∧ o.eng = .move := by simpa using List.find?_some hf
    refine ⟨fun hs hc => ⟨(e.s.coreSt e.t.core).putRows (e.b.phys o.tile) (8 * o.cursor) (List.replicate 8 []), ?_, ?_, ?_⟩,
      fun hc => exec_moveBandPass_waits hf he (.inl hc)⟩
    · rw [exec_moveBandPass_passes hf he hs hc (passAway_mzero _ hk), pass_mzero _ hk]
    · intro n hn
      rw [CoreSt.cell, mget_putRows_empty, if_pos (by omega)]
    · intro n hn
      rw [mget_putRows_empty, if_neg (by omega)]
  · intro hf hs hc
    obtain ⟨rfl, -⟩ : o.id = op ∧ o.eng = .move := by simpa using List.find?_some hf
    refine ⟨fun ha => exec_moveBandPass_waits hf he (.inr ha), fun hk ha s1 rows hl => ?_, ?_⟩
    · rw [exec_moveBandPass_passes hf he hs hc ha, pass_mldt _ hk hl]
    · intro hk ha o1 ws s1 hff hw
      rw [exec_moveBandPass_passes hf he hs hc ha, pass_mdrain _ hk hff hw]

end Sys2Proof.Machine
end

section
/-! The resize machine: what each of its events does in each state (R87, R89, R91, R92, R95, R97, R99). -/

namespace Sys2Proof.Machine

/-! ### The end of a resize (R53, R87) -/

/-- The partition once its resize has ended. -/
def Part.ended (p : Part) (err : Nat) : Part :=
  { p with state := .idle, done := true, err := BitVec.ofNat 4 err, acks := [], sweep := [], units := [], oldQuotas := [], freed := [],
           rdone := if p.rrun = 0 then p.rdone else p.rrun,
           rresult := if p.rrun = 0 then p.rresult else BitVec.ofNat 64 err, rrun := 0 }

theorem part_endResize (s : State) (part err : Nat) : (s.endResize (s.part part) err).part part = (s.part part).ended err :=
  State.part_putPart s (p := (s.part part).ended err) (State.part_id s part)

theorem irqs_endResize (s : State) (p : Part) (err : Nat) : (s.endResize p err).pkg.irqs = s.pkg.irqs ++ [(p.id, 0x200)] := rfl

section
variable {s : State} {part : Nat}

/-! ### START, ABORT and the timeout (R89, R91, R92) -/

/-- The partition once PREPARE has begun. -/
def State.preparing (s : State) (p : Part) : Part :=
  { p with state := .prepare, err := 0, phaseAt := s.timeNs, acks := s.affectedLeaves p, rrun := if p.rreq = p.rdone then 0 else p.rreq }

theorem exec_resizeStart_none (h : 16 ≤ part) : exec (.resizeStart part) s = .next s := if_pos h

section
variable (hp : part < 16)
include hp

theorem exec_resizeStart_starts : exec (.resizeStart part) s = .next (s.resizeStart part) := if_neg (by omega)

theorem exec_resizeStart_enters (hc : s.startCause (s.part part) = 0) (ha : s.affectedLeaves (s.part part) ≠ []) :
    exec (.resizeStart part) s = .next ((List.range 3).foldl (fun s' k => s'.dropFrames (s.preparing (s.part part)) k)
      (s.putPart (s.preparing (s.part part)))) := by
  rw [exec_resizeStart_starts hp]
  simp only [State.resizeStart, hc, List.isEmpty_iff, ha, if_false]
  rfl

theorem exec_resizeStart_refused (hc : s.startCause (s.part part) ≠ 0) : exec (.resizeStart part) s =
    .next (s.putPart { s.part part with err := BitVec.ofNat 4 (s.startCause (s.part part)) }) := by
  rw [exec_resizeStart_starts hp, State.resizeStart]
  dsimp only
  split
  · next h => exact absurd h hc
  · rfl

end

theorem resizeAbort_of_early (err : Nat) (h : (s.part part).state = .prepare ∨ (s.part part).state = .migrate) :
    s.resizeAbort part err = s.endResize (s.part part) err := by
  rcases h with h | h <;> simp only [State.resizeAbort, h]

theorem resizeAbort_of_late (err : Nat) (h : (s.part part).state ∈ [.rehash, .drain, .release, .scrub]) :
    s.resizeAbort part err = s.putPart { s.part part with err := 11 } := by
  simp only [List.mem_cons, List.not_mem_nil, or_false] at h
  rcases h with h | h | h | h <;> simp only [State.resizeAbort, h]

theorem exec_migrateTimeout (hs : (s.part part).state = .migrate)
    (ht : (s.part part).phaseAt + 1000000 * 2 ^ (s.part part).migTmo.toNat ≤ s.timeNs) :
    exec (.migrateTimeout part) s = .next (s.endResize (s.part part) 9) :=
  (if_pos ⟨hs, ht⟩).trans (congrArg Host.Outcome.next (resizeAbort_of_early 9 (.inr hs)))

/-! ### Acknowledgements, lines and pages (R91, R95, R97) -/

theorem exec_resizeAdvance (h : (s.part part).state = .drain) : exec (.resizeAdvance part) s = .next (s.enterRelease (s.part part)) :=
  congrArg Host.Outcome.next (if_pos h)

theorem exec_prepareAck {leaf : Nat} (hup : s.pkg.leafUp leaf = true) (hs : (s.part part).state = .prepare)
    (hl : leaf ∈ (s.part part).acks) :
    exec (.prepareAck part leaf) s =
      let p1 := { s.part part with acks := (s.part part).acks.filter (· != leaf) }
      .next (if p1.acks = [] then s.enterMigrate p1 else s.putPart p1) := by
  show execPrepareAck part leaf s = _
  simp only [execPrepareAck, State.prepared, hup, hs, hl, if_true, and_self, List.isEmpty_iff]

theorem exec_rehashLineMove (slice : Nat) (hs : (s.part part).state = .rehash) :
    exec (.rehashLineMove part slice) s =
      let p1 := { s.part part with sweep := (s.part part).sweep.filter (· != slice) }
      .next (if p1.sweep = [] then s.enterDrain p1 else s.putPart p1) := by
  show execRehashLineMove part slice s = _
  simp only [execRehashLineMove, hs, ne_eq, not_true, if_false, List.isEmpty_iff]
  split <;> rfl

section
variable (hs : (s.part part).state = .drain) (hb : (s.part part).drnBusy = false)
include hs hb

theorem drainGo_idle : s.drainGo part =
    if (s.part part).drainFault then s.putPart { s.part part with drnFault := true }
    else s.drainPage { s.part part with drnBusy := true } ((s.part part).drnSrc.toNat / 4096 * 4096) :=
  if_neg (by simp [hs, hb])

theorem exec_drnCopyGo_faults (hf : (s.part part).drainFault = true) :
    exec (.drnCopyGo part) s = .next (s.putPart { s.part part with drnFault := true }) :=
  congrArg Host.Outcome.next ((drainGo_idle hs hb).trans (if_pos hf))

theorem exec_drnCopyGo_copies (hf : (s.part part).drainFault = false) : exec (.drnCopyGo part) s =
    .next (s.drainPage { s.part part with drnBusy := true } ((s.part part).drnSrc.toNat / 4096 * 4096)) :=
  congrArg Host.Outcome.next ((drainGo_idle hs hb).trans (if_neg (ne_true_of_eq_false hf)))

end

theorem exec_drnCopyGo_stays (h : (s.part part).drnBusy = true ∨ (s.part part).state ≠ .drain) :
    exec (.drnCopyGo part) s = .next s :=
  congrArg Host.Outcome.next (if_pos h)

theorem exec_drnCopyDone_idle (h : (s.part part).drnBusy = false) : exec (.drnCopyDone part) s = .next s :=
  if_neg (ne_true_of_eq_false h)

theorem exec_drnCopyDone_ends (h : (s.part part).drnBusy = true) : exec (.drnCopyDone part) s =
    .next (s.drainEnd (s.part part) ((s.part part).drnSrc.toNat / 4096 * 4096) ((s.part part).drnDst.toNat / 4096 * 4096)) :=
  if_pos h

/-! ### Release and scrub (R91, R99) -/

theorem exec_releaseAck_waits {a b : Nat} {as : List Nat} (hs : (s.part part).state = .release)
    (ha : (s.part part).acks = a :: b :: as) :
    exec (.releaseAck part) s = .next (s.putPart { s.part part with acks := b :: as }) := by
  show execReleaseAck part s = _
  simp only [execReleaseAck, hs, ha, ne_eq, not_true, if_false]

theorem exec_releaseAck_last (hs : (s.part part).state = .release) (ha : (s.part part).acks.length ≤ 1) :
    exec (.releaseAck part) s = .next (s.enterScrub (s.part part)) := by
  show execReleaseAck part s = _
  simp only [execReleaseAck, hs, ne_eq, not_true, if_false]
  split
  · next h =>
    rw [h] at ha
    simp at ha
  · rfl

theorem exec_scrubUnit {u : ScrubUnit} (hs : (s.part part).state = .scrub) (hu : u ∈ (s.part part).units) :
    exec (.scrubUnit part u) s =
      let p1 := { s.part part with units := (s.part part).units.filter fun x => x != u }
      .next (if p1.units = [] then (s.scrub (s.part part) u).endResize p1 (s.part part).err.toNat
        else (s.scrub (s.part part) u).putPart p1) := by
  have hgo : ¬((s.part part).state ≠ .scrub ∨ u ∉ (s.part part).units) := by simp [hs, hu]
  show execScrubUnit part u s = _
  simp only [execScrubUnit, if_neg hgo, List.isEmpty_iff]
  split <;> rfl

theorem retirePages_mem (s : State) (g : Nat) : (s.retirePages g).mem = s.mem :=
  foldl_keeps State.mem (fun (s : State) a => s.healthEvent 8 a) (fun _ _ => rfl) _ s

/-- A range that has been cleared reads as what is not listed. -/
theorem mget_mclear {β : Type} (d : β) (m : Map β) {lo n k : Nat} (hlo : lo ≤ k) (hhi : k < lo + n) : mget d (mclear m lo n) k = d := by
  rw [mclear, mget_mput _ _ _ _ _ (by simp), if_pos ⟨hlo, hhi⟩]
  rfl

/-- A scrubbed channel group reads 0, errors and all (R99). -/
theorem homeByte_scrub_group (s : State) (p : Part) {n a : Nat} (hlo : 2 ^ 34 * n ≤ a) (hhi : a < 2 ^ 34 * (n + 1))
    (hmem : a < hostBase) : (s.scrub p (.group n)).homeByte false a = 0 := by
  refine (if_neg Bool.false_ne_true).trans ((if_neg (by omega)).trans ?_)
  rw [State.scrub, retirePages_mem]
  exact mget_mclear _ _ hlo (by omega)

theorem homeByte_scrub_slice (s : State) (p : Part) {n a : Nat} (hlo : 524288 * n ≤ a) (hhi : a < 524288 * (n + 1)) :
    (s.scrub p (.slice n)).homeByte true a = 0 :=
  (if_pos rfl).trans (mget_mclear _ _ hlo (by omega))

/-! ### Migration (R93, R94) -/

theorem exec_blockMigrate_halts {b : Block} (hb : s.block? b.id = some b) (hs : (s.part b.part).state = .migrate)
    (hup : s.pkg.leafUp (b.core / 8) = true) (hm : b.id ∈ s.toMigrate (s.part b.part)) (hmay : s.mayMigrate (s.part b.part) b = true)
    (hsave : b.saved = none) : exec (.blockMigrate b.id) s = .next (s.haltMigrating b) := by
  show execBlockMigrate b.id s = _
  simp only [execBlockMigrate, hb]
  exact if_neg (by simp [hs, hup, hm, hmay, hsave])

theorem exec_blockMigrate_saved {b : Block} (hb : s.block? b.id = some b) (hsave : b.saved.isSome = true) :
    exec (.blockMigrate b.id) s = .next s := by
  show execBlockMigrate b.id s = _
  simp only [execBlockMigrate, hb]
  exact if_pos (by simp [hsave])

end

/-! ### Shares (R113) -/

section
variable {s : State} {n : Node}

theorem putNode_of_only (hs : s.nodes = [n]) : s.putNode n = s := by
  simp only [State.putNode, hs, List.map_cons, List.map_nil, beq_self_eq_true, if_true]
  rw [← hs]

/-- The one node of a partition whose HELD stays clear keeps its state. -/
theorem updateHeld_of_only (hs : s.nodes = [n]) (hv : n.status = .valid) (hh : n.held = false) (hnow : s.heldNow n = false) :
    s.updateHeld n.part = s := by
  have hlist : s.nodes.filter (fun m => m.part == n.part && m.live) = [n] := by simp [hs, Node.live, hv]
  have hset : ({ n with held := false } : Node) = n := by rw [← hh]
  rw [State.updateHeld, hlist]
  refine Eq.trans ?_ (putNode_of_only hs)
  show s.putNode { n with held := s.heldNow n } = _
  rw [hnow, hset]

theorem recordHeld_of_only (hs : s.nodes = [n]) (hh : n.held = n.blkHeld) : s.recordHeld n.part = s := by
  simp [State.recordHeld, hs, hh]

/-- The share round of a partition whose one node is eligible gives that node its share. -/
theorem exec_shareRound_of_only (hb : s.pkg.booted = true) (hup : s.pkg.schedUp = true) (hs : s.nodes = [n])
    (hv : n.status = .valid) (hh : n.held = false) (hk : n.blkHeld = false) (hl : n.lost = false) (hq : n.queue ≠ [])
    (hnow : s.heldNow n = false) : exec (.shareRound n.part) s =
      .next (s.giveShare (s.part n.part) ((List.range 20).map (s.clusterSlots (s.part n.part))).sum (n.weight * n.occupancy) n) := by
  have hmine : s.nodes.filter (fun m => m.part == n.part) = [n] := by simp [hs]
  have hreg : (n.validReq && n.status == .empty) = false := by simp [hv]
  have hret : (n.status == .retiring) = false := by simp [hv]
  have hel : (n.status == .valid && !n.held && !n.lost && (!n.queue.isEmpty || s.blocks.any fun b => b.node == n.num)) = true := by
    simp [hv, hh, hl, hq]
  show execShareRound n.part s = _
  simp only [execShareRound, hb, hup, Bool.not_true, Bool.or_self, Bool.false_eq_true, if_false, hmine, List.foldl_cons,
    List.foldl_nil, hreg, hret, updateHeld_of_only hs hv hh hnow, recordHeld_of_only hs (hh.trans hk.symm), List.filter_cons, hel,
    if_true, List.filter_nil, List.map_cons, List.map_nil, List.sum_cons, List.sum_nil, Nat.add_zero]

theorem giveShare_same {p : Part} {total sum : Nat}
    (h : targetShare total (n.weight * n.occupancy) sum n.occupancy (pktSlots n.pkt) = n.share) : s.giveShare p total sum n = s :=
  if_neg fun hc => hc.2 h

theorem giveShare_changes {p : Part} {total sum : Nat}
    (h : targetShare total (n.weight * n.occupancy) sum n.occupancy (pktSlots n.pkt) ≠ n.share)
    (h0 : targetShare total (n.weight * n.occupancy) sum n.occupancy (pktSlots n.pkt) = 0 ∨ n.share = 0) :
    s.giveShare p total sum n = s.writeNode { n with
      share := targetShare total (n.weight * n.occupancy) sum n.occupancy (pktSlots n.pkt)
      quota := splitQuota (targetShare total (n.weight * n.occupancy) sum n.occupancy (pktSlots n.pkt))
        ((List.range 20).map (s.clusterSlots p)) } :=
  if_pos ⟨h0.imp_right .inl, h⟩

theorem giveShare_near {p : Part} {total sum : Nat} (h0 : n.share ≠ 0)
    (ht : targetShare total (n.weight * n.occupancy) sum n.occupancy (pktSlots n.pkt) ≠ 0)
    (h : n.share < targetShare total (n.weight * n.occupancy) sum n.occupancy (pktSlots n.pkt) + 16 ∧
      targetShare total (n.weight * n.occupancy) sum n.occupancy (pktSlots n.pkt) < n.share + 16) : s.giveShare p total sum n = s := by
  refine if_neg ?_
  rintro ⟨h1 | h1 | ⟨h1, -⟩, -⟩
  · exact ht h1
  · exact h0 h1
  · split at h1 <;> omega

end

/-! ### Placement rounds (R112, R114, R117) -/

section
variable {s : State} {leaf : Nat}

theorem takeTurn_iff (p : Pkg) : (p.takeTurn leaf).2 = true ↔
    ∀ c, c < leaf → p.leafUp c = true → leaf ∉ p.roundDone ∧ c ∈ p.roundDone := by
  simp only [Pkg.takeTurn, List.all_eq_true, List.mem_range, Bool.or_eq_true, Bool.not_eq_true', List.contains_eq_mem]
  by_cases hd : leaf ∈ p.roundDone
  · simp [hd]
  · simp [hd, ← Bool.not_eq_true, imp_iff_not_or]

theorem exec_placementRound_waits (h : (s.pkg.takeTurn leaf).2 = false) : exec (.placementRound leaf) s = .next s := by
  have hstay : (decide (20 ≤ leaf) || !s.pkg.booted || !s.pkg.leafUp leaf || !(s.pkg.takeTurn leaf).2) = true := by simp [h]
  exact if_pos hstay

theorem exec_placementRound_takes (hl : leaf < 20) (hb : s.pkg.booted = true) (hup : s.pkg.leafUp leaf = true)
    (ht : (s.pkg.takeTurn leaf).2 = true) : ∃ s1 s2 s3 s4 : State,
      s1 = State.resumeAll leaf [] (s.resumeList leaf) { s with pkg := (s.pkg.takeTurn leaf).1 } ∧
      s2 = s1.nodeNums.foldl (fun s' n => s'.offerGangs n leaf (129 + (s1.nodes.map fun n => n.queue.length).sum)) s1 ∧
      s3 = s1.nodeNums.foldl (fun s' n => s'.startWithin n leaf (129 + (s1.nodes.map fun n => n.queue.length).sum)) s2 ∧
      s4 = s1.nodeNums.foldl (fun s' n => s'.backfill n leaf (s3.nodes.any fun m => s3.tries m leaf && decide (8 ≤ m.failedIn leaf))
        (129 + (s1.nodes.map fun n => n.queue.length).sum)) s3 ∧
      exec (.placementRound leaf) s = .next ((List.range 16).foldl State.settleMigrate
        ((((s4.teams.filter fun t => t.resident && t.core / 8 == leaf && t.status == .spawn []).foldl State.saveSpawner s4).skewAll
          leaf).reportPlaced leaf)) := by
  have hgo : ¬ (decide (20 ≤ leaf) || !s.pkg.booted || !s.pkg.leafUp leaf || !(s.pkg.takeTurn leaf).2) = true := by
    simp [hb, hup, ht, hl]
  exact ⟨_, _, _, _, rfl, rfl, rfl, rfl, if_neg hgo⟩

/-- Of a partition whose lowest unfinished block of a grid found no room, no later item resumes. -/
theorem resumeAll_of_shut {c k : Nat} {xs : List SavedItem} (h : ∀ y ∈ xs, y.part = k ∧ y.first = false) (s : State) :
    State.resumeAll c [k] xs s = s := by
  induction xs with
  | nil => rfl
  | cons y ys ih =>
    obtain ⟨hy, hys⟩ := List.forall_mem_cons.mp h
    exact (if_pos (by simp [hy])).trans (ih hys)

theorem resumeAll_of_first {c : Nat} {x : SavedItem} {xs : List SavedItem} {t : State} (hx : x.first = true)
    (hr : s.resumeItem c x = (t, false)) (h : ∀ y ∈ xs, y.part = x.part ∧ y.first = false) :
    State.resumeAll c [] (x :: xs) s = t := by
  simp only [State.resumeAll, hx, hr, List.contains_nil, Bool.false_and, Bool.not_true, Bool.or_self, Bool.false_eq_true, if_false]
  exact resumeAll_of_shut h t

theorem startWithin_succ {n : Node} {k fuel : Nat} {s1 : State} (hn : s.node? n.num = some n) (hk : n.quotaIn leaf = some k)
    (hs : s.startNext n (clusterCores leaf) (k - s.slotsHeld n.num leaf) = some s1) :
    s.startWithin n.num leaf (fuel + 1) = s1.startWithin n.num leaf fuel := by
  simp only [State.startWithin, hn, hk, hs]

end

/-! ### Coalescing (R110) -/

theorem exec_coalesceTimeout {s : State} {n : Node} {q : QEntry} {qs : List QEntry} (hn : s.node? n.num = some n)
    (hq : n.waiting = q :: qs) (ht : q.arrived + n.coalT ≤ s.timeNs) :
    exec (.coalesceTimeout n.num) s = .next (s.putNode { n with coalesced := some q.seq }) := by
  show execCoalesceTimeout n.num s = _
  simp only [execCoalesceTimeout, hn, hq, if_pos ht]

theorem triggered_iff {n : Node} {q : QEntry} {qs : List QEntry} (now : Nat) (hq : n.waiting = q :: qs) :
    n.triggered now = true ↔ n.coalC ≤ qs.length + 1 ∨ n.coalesced = some q.seq ∨ q.arrived + n.coalT ≤ now := by
  simp [Node.triggered, hq, or_assoc]

/-! ### Time slices and halts (R217, R220, R221) -/

section
variable {s : State} {part core : Nat}

/-- A block on the outgoing slice of a core leaves it. -/
def State.leaveSlice (s : State) (b : Block) : State :=
  match s.block? b.id with
  | some b => if b.saved.isSome then s else s.preempt b
  | none => s

theorem exec_timeSliceEnd {c : Nat} (hc : s.nextSlice part core (s.sliceNow part core) = some c) : exec (.timeSliceEnd core part) s =
    .next ((((s.onCore core).filter fun b => b.part == part && b.ctx == s.sliceNow part core).foldl State.leaveSlice s).takeSlice
      part core c) := by
  show execTimeSliceEnd core part s = _
  simp only [execTimeSliceEnd, hc]
  rfl

theorem preempt_of_alone {b : Block} (h : b.gangN = 0) : s.preempt b = s.haltBlock b false [] := if_pos h

theorem leaveSlice_of_alone {b : Block} (hb : s.block? b.id = some b) (hg : b.gangN = 0) (hs : b.saved = none) :
    s.leaveSlice b = s.haltBlock b false [] := by
  simp only [State.leaveSlice, hb, hs, Option.isSome_none, Bool.false_eq_true, if_false, preempt_of_alone hg]

theorem saved_of_onCore {b : Block} (h : b ∈ s.onCore core) : b.saved = none := by
  simpa using (Bool.and_eq_true_iff.mp (List.mem_filter.mp h).2).2

theorem abandon_gen (t : Team) (r : Raise) : (t.abandon r).gen = t.gen := by
  unfold Team.abandon
  split
  · rfl
  · dsimp only
    split <;> rfl

/-- A team with the trap entry abandoned that waited for its window. -/
def Team.offWindow (t : Team) : Team := match t.status with | .window r _ => t.abandon r | _ => t

/-- A team at the start of its region. -/
def Team.atStart (t : Team) : Team := match t.region with | some g => { t with pc := g.start, mid := none } | none => t

theorem halt_eq (t : Team) : ∃ ps, t.halt = { t.offWindow.atStart with
    region := none, latches := [], gen := t.offWindow.atStart.gen + 1, resident := false, flights := [], packets := ps } := ⟨_, rfl⟩

theorem offWindow_gen (t : Team) : t.offWindow.gen = t.gen := by
  unfold Team.offWindow
  split
  · exact abandon_gen t _
  · rfl

theorem atStart_gen (t : Team) : t.atStart.gen = t.gen := by
  unfold Team.atStart
  split <;> rfl

theorem halt_gen (t : Team) : t.halt.gen = t.gen + 1 := by
  obtain ⟨ps, h⟩ := halt_eq t
  rw [h]
  exact congrArg (· + 1) ((atStart_gen _).trans (offWindow_gen t))

theorem halt_pc {t : Team} {g : Region} (hr : t.region = some g) (hw : ∀ r n, t.status ≠ .window r n) : t.halt.pc = g.start := by
  have hoff : t.offWindow = t := by
    unfold Team.offWindow
    split
    · next r n h => exact absurd h (hw r n)
    · rfl
  obtain ⟨ps, h⟩ := halt_eq t
  rw [h, hoff, Team.atStart, hr]

/-- A gang of two members that are both on their cores is halted, each with the writes that it has on their way (R220). -/
theorem exec_gangHalt_two {gid : Nat} {a b : Block} (hm : s.gangBlocks gid = [a, b]) (ha : a.saved = none) (hb : b.saved = none) :
    exec (.gangHalt gid false) s =
      let s1 : State := { s with remoteQ := s.remoteQ.filter fun r => !(r.src == a.id || r.src == b.id) }
      .next ((s1.haltBlock a false (s.remoteQ.filter fun r => r.src == a.id)).haltBlock b false
        (s.remoteQ.filter fun r => r.src == b.id)) := by
  have hown : (fun r : Remote => !([a.id, b.id].contains r.src)) = fun r => !(r.src == a.id || r.src == b.id) := by
    funext r
    simp [Bool.beq_eq_decide_eq]
  show execGangHalt gid false s = _
  simp only [execGangHalt, State.haltGang, hm, List.map_cons, List.map_nil, Bool.false_eq_true, if_false, List.foldl_cons,
    List.foldl_nil, ha, hb, Option.isSome_none, hown]

/-! ### Resumptions (R219, R222, R424) -/

theorem resumeItem_block {b : Block} {v : SaveArea} {c : Nat} {cv : Carve} {x : SavedItem} (hb : s.block? b.id = some b)
    (hv : b.saved = some v) (hx : x.what = .block b.id)
    (hr : s.firstRoom b.part b.ctx (s.needOf b) (clusterCores c) = some (core, cv)) :
    s.resumeItem c x = ((s.restoreInto b v core cv).takeSlice b.part core b.ctx, true) := by
  have hon : s.resumeOn b (clusterCores c) = some ((s.restoreInto b v core cv).takeSlice b.part core b.ctx) := by
    simp only [State.resumeOn, hv, hr, Option.map_some]
  simp only [State.resumeItem, hx, hb, State.resumeCores, hv, firstSome, hon, orStay]

section
variable {b : Block} (hb : s.block? b.id = some b) (hf : s.pkg.leafFailed.contains (b.core / 8) = false)
include hb hf

theorem exec_blockResume_down (hup : s.pkg.leafUp (b.core / 8) = false) : exec (.blockResume b.id core) s = .next s := by
  show execBlockResume b.id core s = _
  simp only [execBlockResume, hb, hup, hf, Bool.not_false, Bool.and_self, if_true]

variable (hup : s.pkg.leafUp (b.core / 8) = true)
include hup

theorem exec_blockResume_none (hr : s.resumeFirst (b.core / 8) [] (s.resumeList (b.core / 8)) = none) :
    exec (.blockResume b.id core) s = .next s := by
  show execBlockResume b.id core s = _
  simp only [execBlockResume, hb, hup, hf, Bool.not_true, Bool.false_and, Bool.false_eq_true, if_false]
  rw [List.filter_eq_self.mpr (fun x _ => by cases x.what <;> rfl), hr]

/-- A saved block resumes as the first that a round would resume, and where it would (R114) (log 50). -/
theorem exec_blockResume_first {x : SavedItem} {t : State}
    (hr : s.resumeFirst (b.core / 8) [] (s.resumeList (b.core / 8)) = some (x, t)) (hg : b.gangN = 0) :
    exec (.blockResume b.id core) s =
      if x.what = .block b.id ∧ (t.block? b.id).map Block.core = some core then .next t else .next s := by
  show execBlockResume b.id core s = _
  simp only [execBlockResume, hb, hup, hf, Bool.not_true, Bool.false_and, Bool.false_eq_true, if_false]
  rw [List.filter_eq_self.mpr (fun x _ => by cases x.what <;> rfl), hr]
  simp only [hg]
  refine if_congr ?_ rfl rfl
  cases x.what <;> cases t.block? b.id <;> simp

end

end

/-! ### Teams that wait (R136, R216) -/

section
variable {s : State} {core slot half : Nat} {t : Team} (ht : s.teamAt core slot half = some t)
include ht

theorem exec_handlerWindowTimeout {r : Raise} {since : Nat} {b : Block} (hw : t.status = .window r since)
    (hn : since + 10000 ≤ s.timeNs) (hb : s.latestBlock (s.blockOf t).part core (fun b => b.id != t.blk &&
      !(s.protected b && b.node == (s.blockOf t).node)) = some b) :
    exec (.handlerWindowTimeout core slot half) s = .next (s.preempt b) := by
  show execHandlerWindowTimeout core slot half s = _
  simp only [execHandlerWindowTimeout, ht, hw, if_neg (Nat.not_lt.mpr hn), hb]

theorem exec_guestFaultResume {tr : TrapState} (hh : t.hold = some tr) (retry : Bool) :
    exec (.guestFaultResume core slot half retry) s =
      .next (if retry then s.putTeam (t.release tr) else s.abortBlock (s.blockOf t)) := by
  refine (onTeam_of_teamAt ht _).trans ?_
  simp only [hh]

end

theorem release_spec (t : Team) (tr : TrapState) : (t.release tr).status = .ready ∧ (t.release tr).pc = tr.resume ∧
    (t.release tr).hold = none ∧ (t.release tr).mask = if tr.full = true then tr.mask else tr.pending := by
  unfold Team.release
  dsimp only
  split <;> exact ⟨rfl, rfl, rfl, rfl⟩

/-- Settles O59: each event by its equation in each case. -/
theorem partitionAndPlacementEvents : Obligations.PartitionAndPlacementEvents := by
  intro s part
  refine ⟨fun err => ?_, exec_resizeStart_enters, exec_resizeStart_refused, exec_resizeStart_none, fun h => ?_, fun h => ?_,
    exec_resizeAdvance, fun leaf => exec_prepareAck, exec_migrateTimeout, exec_rehashLineMove,
    fun hs hb => ⟨exec_drnCopyGo_faults hs hb, exec_drnCopyGo_copies hs hb⟩, exec_drnCopyGo_stays, exec_drnCopyDone_idle,
    exec_drnCopyDone_ends, fun hs => ⟨fun a b as => exec_releaseAck_waits hs, exec_releaseAck_last hs⟩, fun u => exec_scrubUnit,
    fun n a => homeByte_scrub_group s _, fun n a => homeByte_scrub_slice s _, ?_, ?_, fun n total sum => ?_, fun leaf hl hb hup => ?_,
    fun c x xs t => resumeAll_of_first, fun n k s1 leaf fuel => startWithin_succ, fun n q qs => exec_coalesceTimeout,
    fun n q qs now => triggered_iff now, fun core c hc => ?_, fun t => ?_, fun gid a b => exec_gangHalt_two,
    fun b v core cv x c hb hv _ => resumeItem_block hb hv, fun b core hb => ?_,
    fun core slot half t r since b ht => exec_handlerWindowTimeout ht, fun core slot half t tr ht hh => ?_⟩
  · intro t
    rw [part_endResize, irqs_endResize, State.part_id]
    exact ⟨rfl, rfl, rfl, rfl⟩
  · exact congrArg Host.Outcome.next (resizeAbort_of_early 12 h)
  · exact congrArg Host.Outcome.next (resizeAbort_of_late 12 h)
  · rintro b hb rfl hs hup hm hmay
    exact ⟨exec_blockMigrate_halts hb hs hup hm hmay, exec_blockMigrate_saved hb⟩
  · rintro n hb hup hs rfl hv hh hk hl hq hnow
    exact exec_shareRound_of_only hb hup hs hv hh hk hl hq hnow
  · exact ⟨giveShare_same, giveShare_changes, giveShare_near⟩
  · exact ⟨takeTurn_iff s.pkg, exec_placementRound_waits, exec_placementRound_takes hl hb hup⟩
  · refine ⟨fun h => ?_, fun b h hb hg => ?_⟩
    · rw [exec_timeSliceEnd hc, h]
      rfl
    · have hmem : b ∈ (s.onCore core).filter fun b => b.part == part && b.ctx == s.sliceNow part core := h ▸ List.mem_singleton_self b
      have hsaved : b.saved = none := saved_of_onCore (List.mem_filter.mp hmem).1
      rw [exec_timeSliceEnd hc, h, List.foldl_cons, List.foldl_nil, leaveSlice_of_alone hb hg hsaved]
  · exact ⟨rfl, halt_gen t, rfl, rfl, fun g => halt_pc⟩
  · refine fun hf => ⟨exec_blockResume_down hb hf, fun hup => ⟨exec_blockResume_none hb hf hup, fun x t hr hg => ⟨fun h => ?_, fun h => ?_⟩⟩⟩
    · rw [exec_blockResume_first hb hf hup hr hg, if_pos h]
    · rw [exec_blockResume_first hb hf hup hr hg, if_neg h]
  · obtain ⟨hready, hpc, hhold, hmask⟩ := release_spec t tr
    exact ⟨exec_guestFaultResume ht hh true, exec_guestFaultResume ht hh false, hready, hpc, hhold, hmask⟩

end Sys2Proof.Machine
end

section
/-! Spawning: the records that enter a node's queue, the frame of a spawner, and its park. -/

namespace Sys2Proof.Machine

/-! ### The bytes of a record (R391) -/

/-- The `j`th of pieces of one length, taken out of their row. -/
theorem take_drop_flatMap {α β : Type} {g : α → List β} {w : Nat} (hw : ∀ a, (g a).length = w) (as : List α) (j : Nat) :
    ((as.flatMap g).drop (w * j)).take w = as[j]?.elim [] g := by
  induction as generalizing j with
  | nil => simp
  | cons a as ih =>
    rw [List.flatMap_cons]
    cases j with
    | zero => simp [← hw a]
    | succ j =>
      have hskip : w * (j + 1) = (g a).length + w * j := by rw [hw a, Nat.mul_succ, Nat.add_comm]
      rw [hskip, List.drop_length_add_append, ih]
      rfl

/-- Word `j` of a lane's record run is its register. -/
theorem fieldOf_recordOf (t : Team) (r l : Nat) {j : Nat} (hj : j < 16) :
    fieldOf (t.recordOf r l) (4 * j) 4 = (t.getV (r + j) l).toNat := by
  have hlt : (t.getV (r + j) l).toNat < 256 ^ 4 := (t.getV (r + j) l).isLt
  rw [fieldOf, Team.recordOf, take_drop_flatMap fun _ => leBytes_length 4 _, List.getElem?_range hj]
  exact (leNat_leBytes 4 _).trans (Nat.mod_eq_of_lt hlt)

/-! ### Records enter a queue (R104) -/

/-- The entry of a record that enters at the position `seq`. -/
def entryOf (now : Nat) (link : DWord) (ctx : Nat) (cs : List Client) (seq : Nat) (bytes : List Byte) : QEntry :=
  { seq := seq, bytes := bytes, link := link, arrived := now, block := none, taken := false, clients := cs, live := 0, cores := [],
    pctx := ctx, bad := false }

/-- Records that enter stand behind the others, at consecutive positions. -/
theorem enterAll_eq (now : Nat) (link : DWord) (ctx : Nat) (cs : List Client) (rs : List (List Byte)) (n : Node) :
    n.enterAll now link ctx cs rs =
      { n with queue := n.queue ++ rs.mapIdx (fun k r => entryOf now link ctx cs (n.count + k) r), count := n.count + rs.length } := by
  induction rs generalizing n with
  | nil => simp [Node.enterAll]
  | cons r rs ih =>
    rw [Node.enterAll, ih]
    simp [Node.enter, entryOf, List.mapIdx_cons, Nat.add_assoc, Nat.add_comm 1]

/-- The node `n` with the records of the emitters of a spawn in its queue (R392). -/
def Env.entered (e : Env) (f : FV) (link : DWord) (cs : List Client) (n : Node) : Node :=
  n.enterAll e.s.timeNs link e.b.ctx cs ((e.t.list (e.t.actNH f.h)).map (e.t.recordOf f.sb.toNat))

/-- `n'` is `n` with the records of a spawn's emitters: in ascending lanes, at consecutive positions. -/
def Env.Filled (e : Env) (f : FV) (n n' : Node) (link : DWord) (cs : List Client) : Prop :=
  let ls := e.t.list (e.t.actNH f.h)
  n' = { n with queue := n'.queue, count := n.count + ls.length } ∧
  ∃ new, n'.queue = n.queue ++ new ∧ new.length = ls.length ∧ ∀ k, k < ls.length → ∃ q, new[k]? = some q ∧
    q.seq = n.count + k ∧ q.link = link ∧ q.pctx = e.b.ctx ∧ q.block = none ∧ q.taken = false ∧ q.clients = cs ∧
    ∀ j, j < 16 → fieldOf q.bytes (4 * j) 4 = (e.t.getV (f.sb.toNat + j) (ls.getD k 0)).toNat

theorem entered_filled (e : Env) (f : FV) (link : DWord) (cs : List Client) (n : Node) : e.Filled f n (e.entered f link cs n) link cs := by
  unfold Env.Filled Env.entered
  rw [enterAll_eq]
  refine ⟨by simp, _, rfl, by simp, fun k hk => ⟨entryOf e.s.timeNs link e.b.ctx cs (n.count + k)
    (e.t.recordOf f.sb.toNat ((e.t.list (e.t.actNH f.h)).getD k 0)), ?_, rfl, rfl, rfl, rfl, rfl, rfl,
    fun j hj => fieldOf_recordOf _ _ _ hj⟩⟩
  rw [List.getElem?_mapIdx, List.getElem?_map, List.getElem?_eq_getElem hk, List.getD_eq_getElem _ _ hk]
  rfl

/-! ### The client commands of a spawner's records (R44) -/

/-- Client commands gain records that have not retired. -/
def State.clientsGain (s : State) (cs : List Client) (k : Nat) : State :=
  cs.foldl (fun (s : State) c => s.onClient c fun (x : Cmd) => { x with live := x.live + k }) s

theorem onClient_pkg (s : State) (c : Client) (g : Cmd → Cmd) (p : Pkg) :
    ({ s.onClient c g with pkg := p } : State) = { s with pkg := p } := by
  unfold State.onClient
  dsimp only
  split <;> rfl

/-- Nothing but the package changes. -/
theorem clientsGain_pkg (s : State) (cs : List Client) (k : Nat) (p : Pkg) :
    ({ s.clientsGain cs k with pkg := p } : State) = { s with pkg := p } := by
  induction cs generalizing s with
  | nil => rfl
  | cons c cs ih => exact (ih _).trans (onClient_pkg _ _ _ _)

/-! ### The frame of a team, and its park (R105, R119, R395) -/

/-- A team comes to the frame `fr`: it holds it, or it takes it from g13, and REC of it then holds the team's run. -/
def Env.Framed (e : Env) (s0 : State) (t0 : Team) (fr : Nat) : Prop :=
  (e.t.frame = some fr ∧ s0 = e.s ∧ t0 = e.t) ∨
  (e.t.frame = none ∧ t0 = { e.t with frame := some fr } ∧ ∃ s1, e.s.takeFrame e.owner (e.b.seg 13) e.b.node = (s1, some fr) ∧
    s0 = s1.putField e.owner (fr + 0x18) 8 (recField e.runNow))

/-- Where the frame was taken, nothing else of the team changed. -/
theorem Env.Framed.team {e : Env} {s0 : State} {t0 : Team} {fr : Nat} (h : e.Framed s0 t0 fr) : t0 = { e.t with frame := some fr } := by
  rcases h with ⟨hf, -, rfl⟩ | ⟨-, rfl, -⟩
  · rw [← hf]
  · rfl

theorem withFrame_of_framed {e : Env} {s0 : State} {t0 : Team} {fr : Nat} (h : e.Framed s0 t0 fr) (k : Env → Nat → Out)
    (empty : Env → Out) : e.withFrame k empty = k { e with s := s0, t := t0 } fr := by
  rcases h with ⟨hf, rfl, rfl⟩ | ⟨hf, rfl, s1, ht, rfl⟩
  · simp only [Env.withFrame, hf]
  · simp only [Env.withFrame, hf, ht]

theorem withFrame_of_empty {e : Env} {s0 : State} (hf : e.t.frame = none)
    (ht : e.s.takeFrame e.owner (e.b.seg 13) e.b.node = (s0, none)) (k : Env → Nat → Out) (empty : Env → Out) :
    e.withFrame k empty = empty { e with s := s0 } := by
  simp only [Env.withFrame, hf, ht]

/-- The state in which a team has parked: PARKED stands in the FLAGS of its frame. -/
def Env.parkedIn (e : Env) (st : Status) : State :=
  let s := match e.t.frame with | some fr => e.s.frameFlags e.owner fr 2 | none => e.s
  ({ e with s := s } : Env).counted.putTeam { e.t.fixLoads e.op with status := st, stall := 9, latches := [], region := none }

theorem parkIn_eq (e : Env) (st : Status) : e.parkIn st = .next (e.parkedIn st) := by
  unfold Env.parkIn Env.parkedIn
  cases e.t.frame <;> rfl

/-! ### SPAWN and SPAWND (R392) -/

section
variable {e : Env} {i : Instr} {f : FV}

/-- A spawn of known node, from its source end on. -/
def Env.spawnTry (e : Env) (i : Instr) (f : FV) (joined : Bool) : Out :=
  match e.spawnNow f joined with
  | some s => ({ e with s := s } : Env).skip i
  | none => e.parkIn (.spawn [])

theorem spawn_of_none (joined : Bool) (hi : i.hdr = f.h) (hw : e.t.actNH f.h = 0) :
    e.spawn i f joined = .next (e.stepped i e.s e.t none) := by
  rw [← hi] at hw
  exact if_pos hw

section
variable (hi : i.hdr = f.h) (hw : e.t.actNH f.h ≠ 0)
include hi hw

theorem spawn_of_unknown (joined : Bool) (hn : e.nodeNamed (e.uval f.sa.toNat) = none) :
    e.spawn i f joined = .next (e.counted.takeTrap e.t (e.raise i .nodeUnknown)) := by
  rw [← hi] at hw
  exact (if_neg hw).trans (if_pos (Option.isNone_iff_eq_none.mpr hn))

variable {n : Node} (hn : e.nodeNamed (e.uval f.sa.toNat) = some n)
include hn

theorem spawn_apart : e.spawn i f false = ({ e with s := e.source e.s } : Env).spawnTry i f false := by
  rw [← hi] at hw
  exact (if_neg hw).trans (if_neg (by simp [hn]))

theorem spawn_joined : e.spawn i f true =
    e.withFrame (fun e _ => ({ e with s := e.source e.s } : Env).spawnTry i f true) fun e => e.trapTeam i .frameExhausted := by
  rw [← hi] at hw
  exact (if_neg hw).trans (if_neg (by simp [hn]))

end

section
variable {m : Node} (hm : e.nodeNamed (e.uval f.sa.toNat) = some m)
include hm

theorem spawnTry_of_full (joined : Bool) (hroom : m.free < (e.t.list (e.t.actNH f.h)).length) :
    e.spawnTry i f joined = .next (e.parkedIn (.spawn [])) := by
  have hnone : e.spawnNow f joined = none := by simp only [Env.spawnNow, hm, if_pos hroom]
  simp only [Env.spawnTry, hnone, parkIn_eq]

variable (hroom : (e.t.list (e.t.actNH f.h)).length ≤ m.free)
include hroom

theorem spawnTry_apart : e.spawnTry i f false =
    .next (e.stepped i ((e.s.putNode (e.entered f 0 [] m)).updateHeld m.part) e.t none) := by
  have hnow : e.spawnNow f false = some ((e.s.putNode (e.entered f 0 [] m)).updateHeld m.part) := by
    simp only [Env.spawnNow, hm, if_neg (Nat.not_lt.mpr hroom)]
    rfl
  simp only [Env.spawnTry, hnow]
  rfl

theorem spawnTry_joined {fr : Nat} (hf : e.t.frame = some fr) :
    let k := (e.t.list (e.t.actNH f.h)).length
    let cs := e.s.clientsOf e.t
    let m' := e.entered f (BitVec.ofNat 64 (2 ^ 63 + fr)) cs m
    e.spawnTry i f true =
      .next (e.stepped i ((((e.s.clientsGain cs k).putNode m').updateHeld m.part).addJoin e.owner fr k) e.t none) := by
  intro k cs m'
  have hnow : e.spawnNow f true = some ((((e.s.clientsGain cs k).putNode m').updateHeld m.part).addJoin e.owner fr k) := by
    simp only [Env.spawnNow, hm, if_neg (Nat.not_lt.mpr hroom), hf]
    rfl
  simp only [Env.spawnTry, hnow]
  rfl

end

end

theorem exec_spawn {f : FV} {s : State} {e : Env} (h : s.ready (.spawn f) = some e) : exec (.spawn f) s = e.spawn (.spawn f) f true := by
  show execSpawn f s = _
  exact issue_of_ready h _

theorem exec_spawnd {f : FV} {s : State} {e : Env} (h : s.ready (.spawnd f) = some e) :
    exec (.spawnd f) s = e.spawn (.spawnd f) f false := by
  show execSpawnd f s = _
  exact issue_of_ready h _

/-- Either spawn without an emitter, or with a node that the partition does not have. -/
theorem exec_spawn_either {f : FV} {s : State} {e : Env} {i : Instr} (hi : i = .spawn f ∨ i = .spawnd f) (h : s.ready i = some e) :
    i.hdr = f.h ∧ ∃ joined, exec i s = e.spawn i f joined := by
  rcases hi with rfl | rfl
  · exact ⟨rfl, true, exec_spawn h⟩
  · exact ⟨rfl, false, exec_spawnd h⟩

/-- SPAWND into a queue with room. -/
theorem exec_spawnd_room {f : FV} {s : State} {e : Env} {n m : Node} (h : s.ready (.spawnd f) = some e) (hw : e.t.actNH f.h ≠ 0)
    (hn : e.nodeNamed (e.uval f.sa.toNat) = some n) (hm : ({ e with s := e.source e.s } : Env).nodeNamed (e.uval f.sa.toNat) = some m)
    (hroom : (e.t.list (e.t.actNH f.h)).length ≤ m.free) : ∃ m' : Node, e.Filled f m m' 0 [] ∧
      exec (.spawnd f) s = .next (e.stepped (.spawnd f) (((e.source e.s).putNode m').updateHeld m.part) e.t none) :=
  ⟨_, entered_filled { e with s := e.source e.s } f 0 [] m,
    (exec_spawnd h).trans ((spawn_apart rfl hw hn).trans (spawnTry_apart hm hroom))⟩

/-- SPAWN of a team that has come to its frame. -/
theorem exec_spawn_framed {f : FV} {s : State} {e : Env} {n : Node} {s0 : State} {t0 : Team} {fr : Nat}
    (h : s.ready (.spawn f) = some e) (hw : e.t.actNH f.h ≠ 0) (hn : e.nodeNamed (e.uval f.sa.toNat) = some n)
    (hfr : e.Framed s0 t0 fr) :
    let e1 : Env := { e with s := ({ e with s := s0, t := t0 } : Env).source s0, t := t0 }
    ∀ m, e1.nodeNamed (e.uval f.sa.toNat) = some m →
      ((e.t.list (e.t.actNH f.h)).length ≤ m.free → ∃ (m' : Node) (s2 : State),
        e.Filled f m m' (BitVec.ofNat 64 (2 ^ 63 + fr)) (e1.s.clientsOf t0) ∧ ({ s2 with pkg := e1.s.pkg } : State) = e1.s ∧
        exec (.spawn f) s = .next (e1.stepped (.spawn f)
          (((s2.putNode m').updateHeld m.part).addJoin e.owner fr (e.t.list (e.t.actNH f.h)).length) t0 none)) ∧
      (m.free < (e.t.list (e.t.actNH f.h)).length → exec (.spawn f) s = .next (e1.parkedIn (.spawn []))) := by
  have hgo := (exec_spawn h).trans ((spawn_joined rfl hw hn).trans (withFrame_of_framed hfr _ _))
  have ht := hfr.team
  subst ht
  intro e1 m hm
  exact ⟨fun hroom => ⟨_, _, entered_filled e1 f _ _ m, clientsGain_pkg e1.s _ _ e1.s.pkg, hgo.trans (spawnTry_joined hm hroom rfl)⟩,
    fun hroom => hgo.trans (spawnTry_of_full hm true hroom)⟩

/-! ### NODEQ (R396) -/

theorem mem_list {t : Team} {w : Lanes} {l : Nat} : l ∈ t.list w ↔ l < t.lanes ∧ w.getLsbD l = true := by
  simp [Team.list]

theorem exec_nodeq {f : FV} {s : State} {e : Env} (h : s.ready (.nodeq f) = some e) : exec (.nodeq f) s =
    if e.t.act f.h = 0 then .next (e.stepped (.nodeq f) e.s e.t none)
    else match e.nodeNamed (e.uval f.sa.toNat) with
      | none => .next (e.counted.takeTrap e.t (e.raise (.nodeq f) .nodeUnknown))
      | some n => .next (e.stepped (.nodeq f) e.s (e.t.putV f.d.toNat (e.t.act f.h) fun _ => BitVec.ofNat 32 n.free) none) := by
  show execNodeq f s = _
  exact issue_of_ready h _

/-- Settles O49: a spawn by its node, its frame and the room of the queue, whose new entries are the emitters' records. -/
theorem spawnEnqueuesRecords : Obligations.SpawnEnqueuesRecords := by
  unfold Obligations.SpawnEnqueuesRecords
  intro f s e
  refine ⟨fun i hi h => ?_, fun h hw n m hn hm => ⟨fun hroom => ?_, fun hroom => ?_⟩,
    fun h hw n hn => ⟨fun s0 hf ht => ?_, fun s0 t0 fr hfr => ?_⟩, fun h => ⟨fun hw => ?_, fun hw hn => ?_, fun hw n hn => ?_⟩⟩
  · obtain ⟨hh, joined, hexec⟩ := exec_spawn_either hi h
    exact ⟨fun hw => hexec.trans (spawn_of_none joined hh hw), fun hw hn => hexec.trans (spawn_of_unknown hh hw joined hn)⟩
  · exact exec_spawnd_room h hw hn hm hroom
  · exact (exec_spawnd h).trans ((spawn_apart rfl hw hn).trans (spawnTry_of_full hm false hroom))
  · exact (exec_spawn h).trans ((spawn_joined rfl hw hn).trans (withFrame_of_empty hf ht _ _))
  · exact exec_spawn_framed h hw hn hfr
  · rw [exec_nodeq h, if_pos hw]
  · rw [exec_nodeq h, if_neg hw, hn]
  · refine ⟨_, (exec_nodeq h).trans ((if_neg hw).trans (by rw [hn])), fun l hl => ?_⟩
    obtain ⟨hlt, hact⟩ := mem_list.mp hl
    rw [getV_putV _ _ _ _ _ _ (BitVec.lt_of_getLsbD hact), if_pos ⟨rfl, hact, hlt⟩]
    rfl

end Sys2Proof.Machine
end

section
/-! Records: the runs that RECG hands out, what the receivers get, what DONE retires, and the waits for children. -/

namespace Sys2Proof.Machine

/-! ### The run of records that RECG takes (R393) -/

theorem runFront_prefix (qs : List QEntry) : runFront qs <+: qs := by
  induction qs using runFront.induct with
  | case1 => exact List.prefix_rfl
  | case2 q => exact List.prefix_rfl
  | case3 q r rs h ih =>
    rw [runFront, if_pos h]
    exact List.cons_prefix_cons.mpr ⟨rfl, ih⟩
  | case4 q r rs h =>
    rw [runFront, if_neg h]
    exact ⟨r :: rs, rfl⟩

theorem runFront_cons (q : QEntry) (qs : List QEntry) : ∃ rs, runFront (q :: qs) = q :: rs := by
  cases qs with
  | nil => exact ⟨_, rfl⟩
  | cons r rs =>
    rw [runFront]
    split
    · exact ⟨_, rfl⟩
    · exact ⟨_, rfl⟩

/-- Neighbours in a run stand at consecutive positions. -/
theorem runFront_consecutive (qs : List QEntry) (i : Nat) {q r : QEntry} (hq : (runFront qs)[i]? = some q)
    (hr : (runFront qs)[i + 1]? = some r) : r.seq = q.seq + 1 := by
  induction qs using runFront.induct generalizing i with
  | case1 => simp [runFront] at hq
  | case2 p => simp [runFront] at hr
  | case3 p p' ps h ih =>
    rw [runFront, if_pos h] at hq hr
    rw [List.getElem?_cons_succ] at hr
    cases i with
    | zero =>
      obtain ⟨rs, hrs⟩ := runFront_cons p' ps
      rw [hrs] at hr
      cases hq
      cases hr
      exact h
    | succ i => exact ih i hq hr
  | case4 p p' ps h =>
    rw [runFront, if_neg h] at hr
    simp at hr

/-- The records that RECG may take: those that its block has reserved, else the unreserved ones. -/
def Node.recgFrom (n : Node) (blk : Nat) : List QEntry :=
  let own := n.queue.filter fun (q : QEntry) => q.block == some blk && !q.taken
  if own = [] then n.queue.filter fun (q : QEntry) => q.block.isNone else own

theorem recgRun_eq (n : Node) (blk max : Nat) : n.recgRun blk max = (runFront (n.recgFrom blk)).take max := by
  simp only [Node.recgRun, Node.recgFrom, List.isEmpty_iff]

theorem recgRun_prefix (n : Node) (blk max : Nat) : n.recgRun blk max <+: n.recgFrom blk := by
  rw [recgRun_eq]
  exact (List.take_prefix _ _).trans (runFront_prefix _)

theorem recgRun_length (n : Node) (blk max : Nat) : (n.recgRun blk max).length ≤ max := by
  rw [recgRun_eq]
  exact List.length_take_le _ _

theorem recgRun_ne_nil {n : Node} {blk max : Nat} (hq : n.recgFrom blk ≠ []) (hm : max ≠ 0) : n.recgRun blk max ≠ [] := by
  rw [recgRun_eq]
  obtain ⟨q, qs, hqs⟩ := List.exists_cons_of_ne_nil hq
  obtain ⟨rs, hrs⟩ := runFront_cons q qs
  obtain ⟨m, rfl⟩ := Nat.exists_eq_succ_of_ne_zero hm
  rw [hqs, hrs, List.take_succ_cons]
  exact List.cons_ne_nil _ _

theorem recgRun_consecutive {n : Node} {blk max i : Nat} {q r : QEntry} (hq : (n.recgRun blk max)[i]? = some q)
    (hr : (n.recgRun blk max)[i + 1]? = some r) : r.seq = q.seq + 1 := by
  rw [recgRun_eq, List.getElem?_take, Option.ite_none_right_eq_some] at hq hr
  exact runFront_consecutive _ i hq.2 hr.2

/-! ### What one lane sees of a change of its team -/

/-- A change of a team that a lane does not see: its registers, and its place in the mask and among the helpers. -/
structure Team.LaneKept (l : Nat) (t u : Team) : Prop where
  lanes : u.lanes = t.lanes
  regs : l < 1024 → ∀ r, u.getV r l = t.getV r l
  active : u.mask.getLsbD l = t.mask.getLsbD l
  helper : u.helper.getLsbD l = t.helper.getLsbD l

theorem Team.LaneKept.refl (l : Nat) (t : Team) : t.LaneKept l t := ⟨rfl, fun _ _ => rfl, rfl, rfl⟩

theorem Team.LaneKept.trans {l : Nat} {t u v : Team} (a : t.LaneKept l u) (b : u.LaneKept l v) : t.LaneKept l v :=
  ⟨b.lanes.trans a.lanes, fun hl r => (b.regs hl r).trans (a.regs hl r), b.active.trans a.active, b.helper.trans a.helper⟩

section
variable {step : Team → Nat → Team} (hstep : ∀ (t : Team) (l k : Nat), l ≠ k → t.LaneKept l (step t k))
include hstep

/-- Steps for other lanes. -/
theorem foldl_laneKept {l : Nat} (ls : List Nat) (hl : l ∉ ls) (t : Team) : t.LaneKept l (ls.foldl step t) := by
  induction ls generalizing t with
  | nil => exact .refl l t
  | cons k ks ih =>
    obtain ⟨hk, hks⟩ := not_or.mp (mt List.mem_cons.mpr hl)
    exact (hstep t l k hk).trans (ih hks _)

/-- Of the steps for several lanes, a lane sees its own. -/
theorem foldl_lane {l : Nat} {ls : List Nat} (hnd : ls.Nodup) (hl : l ∈ ls) (t : Team) :
    ∃ u, t.LaneKept l u ∧ (step u l).LaneKept l (ls.foldl step t) := by
  obtain ⟨before, after, rfl⟩ := List.append_of_mem hl
  have hnot : l ∉ before ∧ l ∉ after := by
    rw [List.nodup_middle, List.nodup_cons, List.mem_append, not_or] at hnd
    exact hnd.1
  rw [List.foldl_append, List.foldl_cons]
  exact ⟨_, foldl_laneKept hstep before hnot.1 t, foldl_laneKept hstep after hnot.2 _⟩

end

/-! ### A record in the registers of a lane (R136, R393) -/

/-- The sixteen names of a record run lead to as many registers, in a handler too. -/
theorem vname_run_injective (t : Team) {d j k : Nat} (hd : d < 256) (hj : j < 16) (hk : k < 16)
    (h : t.vname (d + j) = t.vname (d + k)) : j = k := by
  unfold Team.vname at h
  cases ht : t.trap with
  | none =>
    simp only [ht, Sum.inr.injEq] at h
    omega
  | some tr =>
    cases hw : tr.window with
    | granules m =>
      simp only [ht, hw] at h
      split_ifs at h <;> simp only [Sum.inl.injEq, Sum.inr.injEq] at h <;> omega
    | spill c =>
      simp only [ht, hw] at h
      split_ifs at h <;> simp only [Sum.inr.injEq] at h <;> omega

/-- A run of registers holds its values in the lanes of `w`. -/
theorem getV_putRun (fs : List (Nat → Word)) (t : Team) (r : Nat) (w : Lanes) {k l : Nat} {f : Nat → Word} (hf : fs[k]? = some f)
    (hinj : ∀ j, k < j → j < fs.length → t.vname (r + k) ≠ t.vname (r + j)) (hl : l < 1024) (hlt : l < t.lanes)
    (hw : w.getLsbD l = true) : (t.putRun r w fs).getV (r + k) l = f l := by
  induction fs generalizing t r k with
  | nil => simp at hf
  | cons g gs ih =>
    rw [Team.putRun]
    cases k with
    | zero =>
      rw [getV_putRun_other gs _ _ _ _ _ hl, getV_putV _ _ _ _ _ _ hl]
      · simpa [hw, hlt] using congrFun (Option.some.inj hf) l
      · refine .inl fun j hj => ?_
        simpa [Nat.add_assoc, Nat.add_comm 1] using hinj (j + 1) (by omega) (by simpa using hj)
    | succ k =>
      rw [← Nat.add_assoc, Nat.add_right_comm]
      refine ih (t.putV r w g) (r + 1) (by simpa using hf) (fun j hj hjl => ?_) (by simpa using hlt)
      have hne := hinj (j + 1) (by omega) (by simpa using hjl)
      simpa [Nat.add_assoc, Nat.add_comm 1] using hne

/-- Lane `l` holds a record in the registers from `d` on. -/
def Team.Holds (t : Team) (d l : Nat) (bs : List Byte) : Prop :=
  ∀ k, k < 16 → t.getV (d + k) l = BitVec.ofNat 32 (fieldOf bs (4 * k) 4)

theorem Team.LaneKept.holds {l : Nat} {t u : Team} (h : t.LaneKept l u) (hl : l < 1024) {d : Nat} {bs : List Byte}
    (ht : t.Holds d l bs) : u.Holds d l bs := fun k hk => (h.regs hl _).trans (ht k hk)

theorem getLsbD_lane (l k : Nat) : (1#1024 <<< k).getLsbD l = decide (l < 1024 ∧ l = k) := by
  simp only [BitVec.getLsbD_shiftLeft, BitVec.getLsbD_one]
  rw [Bool.eq_iff_iff]
  simp
  omega

section
variable (t : Team) (d : Nat) (bs : List Byte)

theorem putRecord_holds {d : Nat} (hd : d < 256) {l : Nat} (hl : l < 1024) (hlt : l < t.lanes) : (t.putRecord d l bs).Holds d l bs := by
  intro k hk
  have hval : ((List.range 16).map fun k => fun (_ : Nat) => BitVec.ofNat 32 (fieldOf bs (4 * k) 4))[k]? =
      some fun _ => BitVec.ofNat 32 (fieldOf bs (4 * k) 4) := by simp [hk]
  refine getV_putRun _ t d _ hval (fun j hj hjl hv => ?_) hl hlt (by rw [getLsbD_lane, decide_eq_true ⟨hl, rfl⟩])
  exact absurd (vname_run_injective t hd hk (by simpa using hjl) hv) (Nat.ne_of_lt hj)

@[simp] theorem putRecord_lanes (l : Nat) : (t.putRecord d l bs).lanes = t.lanes := Team.putRun_lanes ..
@[simp] theorem putRecord_mask (l : Nat) : (t.putRecord d l bs).mask = t.mask := Team.putRun_mask ..
@[simp] theorem putRecord_helper (l : Nat) : (t.putRecord d l bs).helper = t.helper := Team.putRun_helper ..

theorem putRecord_laneKept {l k : Nat} (h : l ≠ k) : t.LaneKept l (t.putRecord d k bs) where
  lanes := putRecord_lanes t d bs k
  regs hl r := getV_putRun_other _ t d _ r l hl (.inr (by rw [getLsbD_lane, decide_eq_false fun hk => h hk.2]))
  active := by simp
  helper := by simp

end

/-! ### The receivers of RECG (R124, R393) -/

section
variable (t : Team) (d : Nat) (recs : List (Nat × List Byte))

/-- A receiver gets its record, or stands beside one in its quad that does and becomes a helper, or leaves the mask. -/
def Team.receiveLane (t : Team) (d : Nat) (recs : List (Nat × List Byte)) (l : Nat) : Team :=
  match recs.find? fun x => x.1 == l with
  | some x => { t.putRecord d l x.2 with helper := t.helper &&& ~~~(1#1024 <<< l) }
  | none =>
    if (recs.map fun x => x.1 / 4).contains (l / 4) then { t.putRecord d l [] with helper := t.helper ||| (1#1024 <<< l) }
    else t.finish (1#1024 <<< l)

theorem receive_eq (t : Team) (d : Nat) (ls : List Nat) (recs : List (List Byte)) :
    t.receive d ls recs = ls.foldl (fun t l => t.receiveLane d (ls.zip recs) l) t := rfl

theorem getLsbD_and_not_lane {l k : Nat} (w : Lanes) (h : l ≠ k) : (w &&& ~~~(1#1024 <<< k)).getLsbD l = w.getLsbD l := by
  by_cases hl : l < 1024
  · simp only [BitVec.getLsbD_and, BitVec.getLsbD_not, getLsbD_lane, hl, h, and_false, decide_false, decide_true, Bool.not_false,
      Bool.and_true]
  · rw [BitVec.getLsbD_of_ge _ _ (Nat.not_lt.mp hl), BitVec.getLsbD_of_ge _ _ (Nat.not_lt.mp hl)]

theorem getLsbD_or_lane {l k : Nat} (w : Lanes) (h : l ≠ k) : (w ||| (1#1024 <<< k)).getLsbD l = w.getLsbD l := by
  rw [BitVec.getLsbD_or, getLsbD_lane, decide_eq_false fun hk => h hk.2, Bool.or_false]

theorem getLsbD_and_not_lane_self (w : Lanes) {l : Nat} (hl : l < 1024) : (w &&& ~~~(1#1024 <<< l)).getLsbD l = false := by
  rw [BitVec.getLsbD_and, BitVec.getLsbD_not, getLsbD_lane, decide_eq_true (p := _ ∧ _) ⟨hl, rfl⟩, Bool.not_true, Bool.and_false,
    Bool.and_false]

theorem getLsbD_or_lane_self (w : Lanes) {l : Nat} (hl : l < 1024) : (w ||| (1#1024 <<< l)).getLsbD l = true := by
  rw [BitVec.getLsbD_or, getLsbD_lane, decide_eq_true (p := _ ∧ _) ⟨hl, rfl⟩, Bool.or_true]

/-- Another lane of the team sees nothing of a receiver. -/
theorem receiveLane_laneKept {l k : Nat} (h : l ≠ k) : t.LaneKept l (t.receiveLane d recs k) := by
  unfold Team.receiveLane
  split
  · rename_i x _
    obtain ⟨hlanes, hregs, hactive, -⟩ := putRecord_laneKept t d x.2 h
    exact ⟨hlanes, hregs, hactive, getLsbD_and_not_lane _ h⟩
  · split
    · obtain ⟨hlanes, hregs, hactive, -⟩ := putRecord_laneKept t d [] h
      exact ⟨hlanes, hregs, hactive, getLsbD_or_lane _ h⟩
    · exact ⟨rfl, fun _ _ => rfl, getLsbD_and_not_lane _ h, getLsbD_and_not_lane _ h⟩

section
variable {l : Nat} (hl : l < 1024)
include hl

theorem receiveLane_fed {d : Nat} (hd : d < 256) (hlt : l < t.lanes) {bs : List Byte}
    (h : recs.find? (fun x => x.1 == l) = some (l, bs)) :
    (t.receiveLane d recs l).Holds d l bs ∧ (t.receiveLane d recs l).mask.getLsbD l = t.mask.getLsbD l ∧
      (t.receiveLane d recs l).helper.getLsbD l = false := by
  simp only [Team.receiveLane, h]
  exact ⟨putRecord_holds t bs hd hl hlt, by rw [putRecord_mask], getLsbD_and_not_lane_self _ hl⟩

theorem receiveLane_beside {d : Nat} (hd : d < 256) (hlt : l < t.lanes) (h : recs.find? (fun x => x.1 == l) = none)
    (hq : ∃ x ∈ recs, x.1 / 4 = l / 4) :
    (t.receiveLane d recs l).Holds d l [] ∧ (t.receiveLane d recs l).mask.getLsbD l = t.mask.getLsbD l ∧
      (t.receiveLane d recs l).helper.getLsbD l = true := by
  have hquad : (recs.map fun x => x.1 / 4).contains (l / 4) = true := by simpa using hq
  simp only [Team.receiveLane, h, if_pos hquad]
  exact ⟨putRecord_holds t [] hd hl hlt, by rw [putRecord_mask], getLsbD_or_lane_self _ hl⟩

theorem receiveLane_apart (h : recs.find? (fun x => x.1 == l) = none) (hq : ¬∃ x ∈ recs, x.1 / 4 = l / 4) :
    (t.receiveLane d recs l).mask.getLsbD l = false := by
  have hquad : ¬(recs.map fun x => x.1 / 4).contains (l / 4) = true := by simpa using hq
  simp only [Team.receiveLane, h, if_neg hquad]
  exact getLsbD_and_not_lane_self _ hl

end

end

/-- The pairs of receivers and records, in order. -/
theorem find?_zip {α : Type} {ls : List Nat} (hnd : ls.Nodup) {recs : List α} {k l : Nat} {r : α} (hl : ls[k]? = some l)
    (hr : recs[k]? = some r) : (ls.zip recs).find? (fun x => x.1 == l) = some (l, r) := by
  induction ls generalizing recs k with
  | nil => simp at hl
  | cons m ls ih =>
    obtain ⟨hm, hls⟩ := List.nodup_cons.mp hnd
    cases recs with
    | nil => simp at hr
    | cons q recs =>
      rw [List.zip_cons_cons]
      cases k with
      | zero =>
        cases hl
        cases hr
        exact List.find?_cons_of_pos (by simp)
      | succ k =>
        have hne : m ≠ l := fun h => hm (h ▸ List.mem_of_getElem? hl)
        rw [List.find?_cons_of_neg (by simpa using hne)]
        exact ih hls hl hr

/-- A receiver that gets one of `n` records. -/
def Fed (ls : List Nat) (n l : Nat) : Prop := ∃ k, k < n ∧ ls[k]? = some l

theorem mem_zip_fst {α : Type} {ls : List Nat} {recs : List α} {l : Nat} :
    (∃ x ∈ ls.zip recs, x.1 = l) ↔ Fed ls recs.length l := by
  constructor
  · rintro ⟨x, hx, rfl⟩
    obtain ⟨k, hk, rfl⟩ := List.mem_iff_getElem.mp hx
    rw [List.length_zip, Nat.lt_min] at hk
    exact ⟨k, hk.2, by simp [List.getElem?_eq_getElem hk.1]⟩
  · rintro ⟨k, hk, hl⟩
    obtain ⟨hkl, rfl⟩ := List.getElem?_eq_some_iff.mp hl
    exact ⟨(ls[k], recs[k]), List.mem_iff_getElem.mpr ⟨k, by simp [hkl, hk], by simp⟩, rfl⟩

/-- Receivers are active lanes of their team. -/
def Team.Receivers (t : Team) (ls : List Nat) : Prop := ls.Nodup ∧ ∀ l ∈ ls, l < 1024 ∧ l < t.lanes ∧ t.mask.getLsbD l = true

theorem list_receivers (t : Team) (h : Hdr) : t.Receivers (t.list (t.act h)) := by
  refine ⟨List.nodup_range.filter _, fun l hl => ?_⟩
  obtain ⟨hlt, hact⟩ := mem_list.mp hl
  rw [Team.act, BitVec.getLsbD_and, Bool.and_eq_true] at hact
  exact ⟨BitVec.lt_of_getLsbD hact.1, hlt, hact.1⟩

section
variable {t : Team} {ls : List Nat} {recs : List (List Byte)}

theorem receive_other {d l : Nat} (hl : l ∉ ls) : t.LaneKept l (t.receive d ls recs) := by
  rw [receive_eq]
  exact foldl_laneKept (fun t _ _ h => receiveLane_laneKept t d _ h) ls hl t

theorem find?_zip_of_not_fed {l : Nat} (h : ¬Fed ls recs.length l) : (ls.zip recs).find? (fun x => x.1 == l) = none := by
  rw [List.find?_eq_none]
  intro x hx hxl
  exact h (mem_zip_fst.mp ⟨x, hx, by simpa using hxl⟩)

theorem quad_fed {l : Nat} : (∃ x ∈ ls.zip recs, x.1 / 4 = l / 4) ↔ ∃ l', Fed ls recs.length l' ∧ l' / 4 = l / 4 := by
  constructor
  · rintro ⟨x, hx, hq⟩
    exact ⟨x.1, mem_zip_fst.mp ⟨x, hx, rfl⟩, hq⟩
  · rintro ⟨l', hl', hq⟩
    obtain ⟨x, hx, rfl⟩ := mem_zip_fst.mpr hl'
    exact ⟨x, hx, hq⟩

variable (hls : t.Receivers ls)
include hls

theorem receive_fed {d : Nat} (hd : d < 256) {k l : Nat} {bs : List Byte} (hl : ls[k]? = some l) (hr : recs[k]? = some bs) :
    (t.receive d ls recs).Holds d l bs ∧ (t.receive d ls recs).mask.getLsbD l = true ∧
      (t.receive d ls recs).helper.getLsbD l = false := by
  obtain ⟨hlow, hlt, hactive⟩ := hls.2 l (List.mem_of_getElem? hl)
  rw [receive_eq]
  obtain ⟨u, hu, hafter⟩ := foldl_lane (fun t _ _ h => receiveLane_laneKept t d (ls.zip recs) h) hls.1 (List.mem_of_getElem? hl) t
  obtain ⟨hholds, hmask, hhelper⟩ := receiveLane_fed u (ls.zip recs) hlow hd (hu.lanes ▸ hlt) (find?_zip hls.1 hl hr)
  exact ⟨hafter.holds hlow hholds, hafter.active.trans (hmask.trans (hu.active.trans hactive)), hafter.helper.trans hhelper⟩

theorem receive_beside {d : Nat} (hd : d < 256) {l : Nat} (hl : l ∈ ls) (hf : ¬Fed ls recs.length l)
    (hq : ∃ l', Fed ls recs.length l' ∧ l' / 4 = l / 4) :
    (t.receive d ls recs).Holds d l [] ∧ (t.receive d ls recs).mask.getLsbD l = true ∧
      (t.receive d ls recs).helper.getLsbD l = true := by
  obtain ⟨hlow, hlt, hactive⟩ := hls.2 l hl
  rw [receive_eq]
  obtain ⟨u, hu, hafter⟩ := foldl_lane (fun t _ _ h => receiveLane_laneKept t d (ls.zip recs) h) hls.1 hl t
  obtain ⟨hholds, hmask, hhelper⟩ := receiveLane_beside u (ls.zip recs) hlow hd (hu.lanes ▸ hlt) (find?_zip_of_not_fed hf)
    (quad_fed.mpr hq)
  exact ⟨hafter.holds hlow hholds, hafter.active.trans (hmask.trans (hu.active.trans hactive)), hafter.helper.trans hhelper⟩

theorem receive_apart {d l : Nat} (hl : l ∈ ls) (hf : ¬Fed ls recs.length l) (hq : ¬∃ l', Fed ls recs.length l' ∧ l' / 4 = l / 4) :
    (t.receive d ls recs).mask.getLsbD l = false := by
  rw [receive_eq]
  obtain ⟨u, -, hafter⟩ := foldl_lane (fun t _ _ h => receiveLane_laneKept t d (ls.zip recs) h) hls.1 hl t
  exact hafter.active.trans (receiveLane_apart u d (ls.zip recs) (hls.2 l hl).1 (find?_zip_of_not_fed hf) (mt quad_fed.mp hq))

end

/-! ### DONE (R394) -/

/-- No joined child of the team is left. -/
def Env.Childless (e : Env) : Prop := ∀ fr, e.t.frame = some fr → e.s.join e.owner fr = 0

/-- The state in which a team's run has retired and its frame is back in the free list. -/
def Env.retired (e : Env) : State :=
  let r := (e.source e.s).doneRun e.owner e.t false
  match e.t.frame with
  | some fr => r.1.giveFrame e.owner (e.b.seg 13) fr
  | none => r.1

/-- A team without its run and its frame. -/
def Env.freed (e : Env) : Team := { ((e.source e.s).doneRun e.owner e.t false).2 with frame := none }

theorem doneRun_team (s : State) (w : Who) (t : Team) (bad : Bool) : ∃ d, (s.doneRun w t bad).2 = { t with run := none, done := d } := by
  unfold State.doneRun
  dsimp only
  split
  · exact ⟨_, rfl⟩
  · exact ⟨t.done, rfl⟩

theorem freed_eq (e : Env) : ∃ d, e.freed = { e.t with run := none, frame := none, done := d } := by
  obtain ⟨d, hd⟩ := doneRun_team (e.source e.s) e.owner e.t false
  exact ⟨d, by rw [Env.freed, hd]⟩

section
variable {e : Env}

theorem doneNow_of_children {fr : Nat} (hf : e.t.frame = some fr) (hj : e.s.join e.owner fr ≠ 0) : e.doneNow = none := by
  simp [Env.doneNow, hf, hj]

theorem doneNow_of_childless (h : e.Childless) : e.doneNow = some { e with s := e.target e.retired, t := e.freed } := by
  obtain ⟨d, hd⟩ := doneRun_team (e.source e.s) e.owner e.t false
  unfold Env.doneNow Env.retired Env.freed
  cases hf : e.t.frame with
  | none =>
    have hframe : ((e.source e.s).doneRun e.owner e.t false).2.frame = none := by rw [hd]; exact hf
    have hsame : ({ ((e.source e.s).doneRun e.owner e.t false).2 with frame := none } : Team) =
        ((e.source e.s).doneRun e.owner e.t false).2 := by rw [← hframe]
    rw [hsame]
    simp [hframe]
  | some fr =>
    have hframe : ((e.source e.s).doneRun e.owner e.t false).2.frame = some fr := by rw [hd]; exact hf
    simp [h fr hf, hframe]

theorem doneNow_some {e1 : Env} (h : e.doneNow = some e1) : e1 = { e with s := e.target e.retired, t := e.freed } := by
  by_cases hc : e.Childless
  · rw [doneNow_of_childless hc] at h
    exact (Option.some.inj h).symm
  · obtain ⟨fr, hf, hj⟩ : ∃ fr, e.t.frame = some fr ∧ e.s.join e.owner fr ≠ 0 := by simpa [Env.Childless] using hc
    rw [doneNow_of_children hf hj] at h
    cases h

variable {f : FV} {s : State} (h : s.ready (.done f) = some e)
include h

theorem exec_done_helpers (hw : e.t.mask &&& ~~~e.t.helper = 0) : exec (.done f) s = .next (e.stepped (.done f) e.s e.t none) := by
  show execDone f s = _
  exact (issue_of_ready h _).trans (if_pos hw)

variable (hw : e.t.mask &&& ~~~e.t.helper ≠ 0)
include hw

theorem exec_done_waits {fr : Nat} (hf : e.t.frame = some fr) (hj : e.s.join e.owner fr ≠ 0) :
    exec (.done f) s = .next (e.waiting 9) := by
  show execDone f s = _
  refine (issue_of_ready h _).trans ((if_neg hw).trans ?_)
  rw [doneNow_of_children hf hj]
  rfl

theorem exec_done_retires (hc : e.Childless) : exec (.done f) s = .next (e.stepped (.done f) (e.target e.retired) e.freed none) := by
  obtain ⟨d, hd⟩ := freed_eq e
  show execDone f s = _
  refine (issue_of_ready h _).trans ((if_neg hw).trans ?_)
  rw [doneNow_of_childless hc, hd]
  rfl

end

/-! ### RECG (R393) -/

/-- The queue of a node once a block's RECG has taken a run. -/
def Node.handedOut (n : Node) (blk : Nat) (run : List QEntry) : List QEntry :=
  n.queue.map fun (q : QEntry) => if q.seq ∈ run.map QEntry.seq then { q with block := some blk, taken := true } else q

/-- A team that takes a run whose first record is `q`, for its receivers. -/
def Team.takes (t : Team) (d : Nat) (ls : List Nat) (run : List QEntry) (q : QEntry) : Team :=
  { t.receive d ls (run.map QEntry.bytes) with run := some { first := q.seq, len := run.length, shared := false } }

/-- RECG of a team that holds no run, on a node whose records are not shared. -/
def Env.handOut (e : Env) (f : FV) (ls : List Nat) : Out :=
  if ls.isEmpty then e.skip (.recg f)
  else match e.s.node? e.b.node with
  | none => e.leave (.recg f) (e.t.receive f.d.toNat ls []) (e.nextPc (.recg f))
  | some n =>
    let run := n.recgRun e.b.id ls.length
    let seqs := run.map QEntry.seq
    let mark (q : QEntry) : QEntry := if seqs.contains q.seq then { q with block := some e.b.id, taken := true } else q
    let s := if run.isEmpty then e.s else e.target (e.s.putNode { n with queue := n.queue.map mark })
    let t := e.t.receive f.d.toNat ls (run.map QEntry.bytes)
    let held : Option RecRun := run.head?.map fun q => { first := q.seq, len := run.length, shared := false }
    let t : Team := { t with run := held }
    let s := ({ e with s := s } : Env).noteRun held
    if t.mask = 0 then ({ e with s := s } : Env).leave (.recg f) t (e.nextPc (.recg f)) else ({ e with s := s } : Env).done (.recg f) t none

/-- A team as it takes records: without a run, or after the DONE that it performs first. -/
def Env.Before (e e1 : Env) : Prop := (e.t.run = none ∧ e1 = e) ∨ (e.t.run ≠ none ∧ e.doneNow = some e1)

theorem Env.Before.team {e e1 : Env} (h : e.Before e1) : ∃ s1 t1, e1 = { e with s := s1, t := t1 } ∧ t1.lanes = e.t.lanes ∧
    t1.mask = e.t.mask := by
  rcases h with ⟨-, rfl⟩ | ⟨-, h⟩
  · exact ⟨_, _, rfl, rfl, rfl⟩
  · obtain ⟨d, hd⟩ := freed_eq e
    exact ⟨_, _, doneNow_some h, by rw [hd], by rw [hd]⟩

section
variable {e : Env} {f : FV} {s : State} (h : s.ready (.recg f) = some e)
include h

theorem exec_recg_shared (hs : e.b.shared.isSome = true) : exec (.recg f) s =
    if (e.t.list (e.t.act f.h)).isEmpty then .next (e.stepped (.recg f) e.s e.t none)
    else .next (e.stepped (.recg f) (e.target (e.noteRun e.runNow))
      ((e.t.list (e.t.act f.h)).foldl (fun (t : Team) l => t.putRecord f.d.toNat l e.b.record) e.t) none) := by
  show execRecg f s = _
  exact (issue_of_ready h _).trans (if_pos hs)

theorem exec_recg_waits (hs : e.b.shared = none) (hr : e.t.run ≠ none) (hd : e.doneNow = none) :
    exec (.recg f) s = .next (e.waiting 9) := by
  show execRecg f s = _
  refine (issue_of_ready h _).trans ((if_neg (by simp [hs])).trans ((if_pos (Option.isSome_iff_ne_none.mpr hr)).trans ?_))
  rw [hd]
  rfl

theorem exec_recg {e1 : Env} (hs : e.b.shared = none) (h1 : e.Before e1) :
    exec (.recg f) s = e1.handOut f (e.t.list (e.t.act f.h)) := by
  show execRecg f s = _
  refine (issue_of_ready h _).trans ((if_neg (by simp [hs])).trans ?_)
  rcases h1 with ⟨hr, rfl⟩ | ⟨hr, hd⟩
  · exact if_neg (by simp [hr])
  · refine (if_pos (Option.isSome_iff_ne_none.mpr hr)).trans ?_
    rw [hd]
    rfl

end

section
variable {e : Env} {f : FV} {ls : List Nat} (hne : ls ≠ []) {n : Node} (hn : e.s.node? e.b.node = some n)
include hne hn

/-- RECG that has records to hand out. -/
theorem handOut_of_records {q : QEntry} (hq : (n.recgRun e.b.id ls.length).head? = some q)
    (hm : (e.t.receive f.d.toNat ls ((n.recgRun e.b.id ls.length).map QEntry.bytes)).mask ≠ 0) :
    let run := n.recgRun e.b.id ls.length
    let t := e.t.takes f.d.toNat ls run q
    e.handOut f ls = .next (e.stepped (.recg f)
      (({ e with s := e.target (e.s.putNode { n with queue := n.handedOut e.b.id run }) } : Env).noteRun t.run) t none) := by
  have hrun : n.recgRun e.b.id ls.length ≠ [] := fun hnil => by simp [hnil] at hq
  unfold Env.handOut Node.handedOut Team.takes
  simp only [List.isEmpty_iff, hne, hrun, if_false, hn, hq, Option.map_some, hm, List.contains_iff_mem]
  rfl

/-- RECG that finds no record, while other lanes stay in the mask. -/
theorem handOut_of_none (hrun : n.recgRun e.b.id ls.length = []) (hm : (e.t.receive f.d.toNat ls []).mask ≠ 0) :
    e.handOut f ls = .next (e.stepped (.recg f) (e.noteRun none) { e.t.receive f.d.toNat ls [] with run := none } none) := by
  unfold Env.handOut
  simp only [List.isEmpty_iff, hne, if_false, hn, hrun, List.map_nil, List.head?_nil, Option.map_none, hm, if_true]
  rfl

end

/-! ### AWAIT and AWAIT.steal (R395) -/

section
variable {e : Env} {i : Instr}

/-- The state in which a wait for children has returned. -/
def Env.returned (e : Env) (i : Instr) : State :=
  e.stepped i ((e.target e.s).takeRays e.t).1 ((e.target e.s).takeRays e.t).2 none

theorem await_of_no_frame (hf : e.t.frame = none) : e.await i = .next (e.stepped i e.s e.t none) := by
  simp only [Env.await, hf]
  rfl

theorem parkIn_of_frame {fr : Nat} (hf : e.t.frame = some fr) (st : Status) : e.parkIn st =
    .next (({ e with s := e.s.frameFlags e.owner fr 2 } : Env).counted.putTeam
      { e.t.fixLoads e.op with status := st, stall := 9, latches := [], region := none }) := by
  simp only [Env.parkIn, hf]
  rfl

theorem await_of_frame {fr : Nat} (hf : e.t.frame = some fr) : e.await i =
    if e.s.join e.owner fr = 0 then .next (e.returned i)
    else .next (({ e with s := e.s.frameFlags e.owner fr 2 } : Env).counted.putTeam
      { e.t.fixLoads e.op with status := .await, stall := 9, latches := [], region := none }) := by
  simp only [Env.await, hf, parkIn_of_frame hf]
  rfl

/-- When `.steal` does nothing (R166, R306, R395). -/
theorem plainAwait_iff (e : Env) : e.plainAwait = true ↔
    e.b.ratep = true ∨ e.b.gangN ≠ 0 ∨ e.b.roles = true ∨ (e.t.stack ≠ [] ∧ e.b.live = 0) := by
  simp [Env.plainAwait, or_assoc]

end

section
variable {e : Env} {f : FV} {s : State}

theorem exec_await (h : s.ready (.await f) = some e) : exec (.await f) s =
    if e.t.act f.h = 0 then .next (e.stepped (.await f) e.s e.t none) else e.await (.await f) := by
  show execAwait f s = _
  exact issue_of_ready h _

variable (h : s.ready (.awaitSteal f) = some e)
include h

theorem exec_awaitSteal_none (hw : e.t.act f.h = 0) : exec (.awaitSteal f) s = .next (e.stepped (.awaitSteal f) e.s e.t none) := by
  show execAwaitSteal f s = _
  exact (issue_of_ready h _).trans (if_pos hw)

theorem exec_awaitSteal_plain (hw : e.t.act f.h ≠ 0) (hp : e.plainAwait = true) : exec (.awaitSteal f) s = e.await (.awaitSteal f) := by
  show execAwaitSteal f s = _
  exact (issue_of_ready h _).trans ((if_neg hw).trans (if_pos hp))

theorem exec_awaitSteal_steals (hw : e.t.act f.h ≠ 0) (hp : ¬e.plainAwait = true) : exec (.awaitSteal f) s =
    e.withFrame (fun e fr =>
      if e.s.join e.owner fr = 0 then .next (e.returned (.awaitSteal f))
      else if e.engBusy = true then .next (e.waiting 8)
      else .next (({ e with s := e.counted } : Env).saveCont fr (e.nextPc (.awaitSteal f)) none))
      fun e => .next (e.counted.takeTrap e.t (e.raise (.awaitSteal f) .frameExhausted)) := by
  show execAwaitSteal f s = _
  exact (issue_of_ready h _).trans ((if_neg hw).trans (if_neg hp))

end

/-! ### The statement -/

theorem mask_ne_zero {w : Lanes} {l : Nat} (h : w.getLsbD l = true) : w ≠ 0 := by
  rintro rfl
  simp at h

/-- The lanes of a run of records of a node (R393). -/
theorem receive_run {t : Team} {ls : List Nat} (hls : t.Receivers ls) {d : Nat} (hd : d < 256) (run : List QEntry) :
    let u := t.receive d ls (run.map QEntry.bytes)
    (∀ (k : Nat) (q : QEntry), run[k]? = some q → ∀ l, ls[k]? = some l →
      u.Holds d l q.bytes ∧ u.mask.getLsbD l = true ∧ u.helper.getLsbD l = false) ∧
    (∀ l ∈ ls, ¬Fed ls run.length l → (∃ l', Fed ls run.length l' ∧ l' / 4 = l / 4) →
      u.Holds d l [] ∧ u.mask.getLsbD l = true ∧ u.helper.getLsbD l = true) ∧
    (∀ l ∈ ls, ¬Fed ls run.length l → (¬∃ l', Fed ls run.length l' ∧ l' / 4 = l / 4) → u.mask.getLsbD l = false) ∧
    ∀ l, l ∉ ls → u.mask.getLsbD l = t.mask.getLsbD l ∧ u.helper.getLsbD l = t.helper.getLsbD l := by
  have hlen : run.length = (run.map QEntry.bytes).length := (List.length_map _).symm
  rw [hlen]
  refine ⟨fun k q hq l hl => receive_fed hls hd hl (by rw [List.getElem?_map, hq]; rfl), fun l hl hf hq => receive_beside hls hd hl hf hq,
    fun l hl hf hq => receive_apart hls hl hf hq, fun l hl => ?_⟩
  obtain ⟨-, -, hactive, hhelper⟩ := receive_other (t := t) (recs := run.map QEntry.bytes) (d := d) hl
  exact ⟨hactive, hhelper⟩

/-- Receivers that get nothing leave the mask. -/
theorem receive_nothing {t : Team} {ls : List Nat} (hls : t.Receivers ls) (d l : Nat) :
    (t.receive d ls []).mask.getLsbD l = (t.mask.getLsbD l && decide (l ∉ ls)) := by
  by_cases hl : l ∈ ls
  · have hfed (k : Nat) : ¬Fed ls ([] : List (List Byte)).length k := fun ⟨_, hk, _⟩ => absurd hk (Nat.not_lt_zero _)
    rw [receive_apart hls hl (hfed l) fun ⟨k, hk, _⟩ => hfed k hk]
    simp [hl]
  · rw [(receive_other hl).active]
    simp [hl]

/-- The first receiver stays in the mask where there is a record. -/
theorem receive_mask_ne_zero {t : Team} {ls : List Nat} (hls : t.Receivers ls) {d : Nat} (hd : d < 256) (hne : ls ≠ [])
    {run : List QEntry} {q : QEntry} (hq : run.head? = some q) : (t.receive d ls (run.map QEntry.bytes)).mask ≠ 0 := by
  obtain ⟨l, ks, rfl⟩ := List.exists_cons_of_ne_nil hne
  obtain ⟨hfed, -⟩ := receive_run hls hd run
  obtain ⟨-, hmask, -⟩ := hfed 0 q (by rw [← List.head?_eq_getElem?, hq]) l rfl
  exact mask_ne_zero hmask

/-- A shared record in every receiver. -/
theorem foldl_putRecord {t : Team} {ls : List Nat} (hls : t.Receivers ls) {d : Nat} (hd : d < 256) (bs : List Byte) :
    (ls.foldl (fun (t : Team) l => t.putRecord d l bs) t).mask = t.mask ∧
      ∀ l ∈ ls, (ls.foldl (fun (t : Team) l => t.putRecord d l bs) t).Holds d l bs := by
  refine ⟨?_, fun l hl => ?_⟩
  · clear hls
    induction ls generalizing t with
    | nil => rfl
    | cons l ls ih => exact ih.trans (putRecord_mask t d bs l)
  · obtain ⟨hlow, hlt, -⟩ := hls.2 l hl
    obtain ⟨u, hu, hafter⟩ := foldl_lane (fun t _ _ h => putRecord_laneKept t d bs h) hls.1 hl t
    exact hafter.holds hlow (putRecord_holds u bs hd hlow (hu.lanes ▸ hlt))

/-- Settles O50: RECG by the run that it takes and by what each receiver sees of it, DONE by whether a child is left, and the waits by
the frame and its JOIN. -/
theorem recordsReceivedAndAwaited : Obligations.RecordsReceivedAndAwaited := by
  unfold Obligations.RecordsReceivedAndAwaited
  refine ⟨fun n blk max => ⟨recgRun_prefix n blk max, recgRun_length n blk max, recgRun_ne_nil, fun i q r => recgRun_consecutive⟩,
    fun f s e => ?_⟩
  have hd : f.d.toNat < 256 := f.d.isLt
  have hls := list_receivers e.t f.h
  refine ⟨fun h => ⟨fun hnone hs => ?_, fun hnone hs e1 h1 => ?_, fun hne hs => ?_, exec_recg_waits h, fun hne hs e1 h1 n hn => ?_⟩,
    fun h => ⟨exec_done_helpers h, fun hw => ⟨fun fr => exec_done_waits h hw, fun hc => ?_⟩⟩,
    fun h => ⟨fun hw => ?_, fun fr hw hf => ?_⟩,
    fun h => ⟨exec_awaitSteal_none h, fun hw hp hf => ?_, fun hw hp fr hf => ?_, fun hw hp s0 hf ht => ?_,
      fun hw hp s0 t0 fr hfr => ?_⟩⟩
  · exact (exec_recg_shared h hs).trans (if_pos (List.isEmpty_iff.mpr hnone))
  · exact (exec_recg h hs h1).trans (if_pos (List.isEmpty_iff.mpr hnone))
  · obtain ⟨hmask, hholds⟩ := foldl_putRecord hls hd e.b.record
    exact ⟨_, (exec_recg_shared h hs).trans (if_neg fun hnone => hne (List.isEmpty_iff.mp hnone)), hmask, hholds⟩
  · have hexec := exec_recg h hs h1
    obtain ⟨s1, t1, rfl, hlanes, hmask⟩ := Env.Before.team h1
    have hls1 : t1.Receivers (e.t.list (e.t.act f.h)) := by rwa [Team.Receivers, hlanes, hmask]
    refine ⟨fun q hq => ⟨t1.takes f.d.toNat (e.t.list (e.t.act f.h)) (n.recgRun e.b.id (e.t.list (e.t.act f.h)).length) q, _,
      hexec.trans (handOut_of_records hne hn hq (receive_mask_ne_zero hls1 hd hne hq)), rfl, rfl, receive_run hls1 hd _⟩,
      fun hrun hother => ⟨_, hexec.trans (handOut_of_none hne hn hrun ?_), rfl, receive_nothing hls1 _⟩⟩
    obtain ⟨l, hl, hnot⟩ := hother
    refine mask_ne_zero (l := l) ?_
    rw [receive_nothing hls1, hl, decide_eq_true hnot, Bool.true_and]
  · obtain ⟨d, hfreed⟩ := freed_eq e
    refine ⟨_, exec_done_retires h hw hc, ?_⟩
    rw [hfreed]
    exact ⟨rfl, rfl, fun n l => rfl, rfl, rfl, rfl⟩
  · rw [exec_await h]
    split
    · rfl
    · rename_i hact
      exact await_of_no_frame (hw.resolve_left hact)
  · exact (exec_await h).trans ((if_neg hw).trans (await_of_frame hf))
  · exact (exec_awaitSteal_plain h hw ((plainAwait_iff e).mpr hp)).trans (await_of_no_frame hf)
  · exact (exec_awaitSteal_plain h hw ((plainAwait_iff e).mpr hp)).trans (await_of_frame hf)
  · exact (exec_awaitSteal_steals h hw (mt (plainAwait_iff e).mp hp)).trans (withFrame_of_empty hf ht _ _)
  · have hexec := (exec_awaitSteal_steals h hw (mt (plainAwait_iff e).mp hp)).trans (withFrame_of_framed hfr _ _)
    obtain rfl := Env.Framed.team hfr
    exact hexec

end Sys2Proof.Machine
end

section
/-! RKILL: a load in flight that it does not mark. -/

namespace Sys2Proof.Machine

/-- An RKILL of the coarse-pixel tier, in the lanes of p0. -/
def killField : FV := { h := { rate := 5, gp := 0 }, d := 0, sa := 0, sb := 0, sc := 0, fn := 0 }

/-- A load of v1 on its way, which a halt would read anew. -/
def killFlight : Flight :=
  { gen := 0, seq := 0, pc := 0, dst := 1, word := 0, size := 2, space := 0, pol := 0, lanes := 0xF, addr := [], vals := [],
    latchOnly := false, inRegion := false }

/-- A quad of four elements of the coarse-pixel tier, of which p0 names the first, with a load on its way. -/
def killTeam : Team :=
  { placedTeam State.reset with
    mask := 0xF, tier := 5, elems := (List.range 4).map fun l => (l, { live := true }), preds := [(0, 1)], flights := [killFlight],
    issued := 1 }

/-- The block of a rate program. -/
def killBlock : Block := { placedBlock State.reset with header := BitVec.ofNat 64 (2 ^ 53) }

/-- The team of a rate program that is selected. -/
def killState : State := { placedOver [] with teams := [killTeam], blocks := [killBlock] }

/-- The team as it executes RKILL. -/
def killEnv : Env := { s := killState, t := killTeam, b := killBlock, op := 0xDC }

/-- Of each load in flight of the team that is selected after an instruction, whether a halt would not read it anew. -/
def loadsFixed : Out → Option (List Bool)
  | .next s => s.curTeam.map fun t => t.flights.map Flight.fixed
  | _ => none

theorem killState_ready : killState.ready (.rkill killField) = some killEnv := by decide +kernel

/-- A lane is killed, and lanes stay in the mask. -/
theorem killState_stays : killEnv.t.actNH killField.h ≠ 0 ∧ (killEnv.t.kill (killEnv.t.actNH killField.h)).unretry.mask ≠ 0 := by
  decide +kernel

/-- RKILL leaves the load as it was. -/
theorem killState_leaves : loadsFixed (exec (.rkill killField) killState) = some [false] := by decide +kernel

/-- The completion that the statement names marks it. -/
theorem killState_said : loadsFixed (.next (killEnv.stepped (.rkill killField) killEnv.s
    (killEnv.t.kill (killEnv.t.actNH killField.h)) none)) = some [true] := by decide +kernel

/-- Refutes O53: an RKILL that leaves lanes in the mask goes on by `Env.leave`, which does not mark the team's loads in flight as
`Env.stepped` does. In the counterexample a load is on its way when RKILL executes. RKILL waits for every load before it issues, so no
step reaches that state, but the statement asks only that the instruction pass the checks of decode. -/
theorem not_rayAndKillInstructions : ¬ Obligations.RayAndKillInstructions := by
  unfold Obligations.RayAndKillInstructions
  intro h
  obtain ⟨-, hkill, -⟩ := h killField killState killEnv
  obtain ⟨hact, hmask⟩ := killState_stays
  have hloads := congrArg loadsFixed (hkill killState_ready hact hmask)
  rw [killState_leaves, killState_said] at hloads
  exact absurd hloads (by decide)

end Sys2Proof.Machine
end

section
/-! The selected team: one that stands where the selection names, and the choice that the end of each step makes anew. -/

namespace Sys2Proof.Machine

/-! ### The selected team (R142) -/

/-- The team of a slot is one of the machine's teams, resident, and stands there. -/
theorem teamAt_spec {s : State} {core slot half : Nat} {t : Team} (h : s.teamAt core slot half = some t) :
    t ∈ s.teams ∧ t.resident = true ∧ t.core = core ∧ t.slot = slot ∧ t.half = half := by
  have hp := List.find?_some (show List.find? _ s.teams = some t from h)
  simp only [Bool.and_eq_true, beq_iff_eq] at hp
  obtain ⟨⟨⟨hr, hc⟩, hs⟩, hh⟩ := hp
  exact ⟨List.mem_of_find?_eq_some h, hr, hc, hs, hh⟩

/-- Where a team is resident, its slot holds one. -/
theorem teamAt_of_resident {s : State} {t : Team} (ht : t ∈ s.teams) (hr : t.resident = true) :
    ∃ u, s.teamAt t.core t.slot t.half = some u :=
  Option.isSome_iff_exists.mp (List.find?_isSome.mpr ⟨t, ht, by simp [hr]⟩)

/-- While a team is resident, the free choice of the next team names the place of a resident one (log 21). -/
theorem pick_of_resident {s : State} (h : s.teams.any Team.resident = true) : ∃ t ∈ s.teams, t.resident = true ∧
    s.pick.core = t.core ∧ s.pick.slot = t.slot ∧ s.pick.half = t.half := by
  obtain ⟨r, hr, hres⟩ := List.any_eq_true.mp h
  have hlen : 0 < (s.teams.filter Team.resident).length := List.length_pos_of_mem (List.mem_filter.mpr ⟨hr, hres⟩)
  have hlt := Nat.mod_lt (Config.pickTeam s.tick) hlen
  obtain ⟨ht, htr⟩ := List.mem_filter.mp (List.getElem_mem hlt)
  refine ⟨_, ht, htr, ?_⟩
  simp only [State.pick, List.getElem?_eq_getElem hlt]
  exact ⟨trivial, trivial, trivial⟩

/-- The choice that ends a step selects a resident team, wherever the state before had its selection. -/
theorem curTeam_of_pick {s : State} (h : s.teams.any Team.resident = true) :
    ∃ t, ({ s with sel := s.pick } : State).curTeam = some t := by
  obtain ⟨t, ht, hr, hc, hs, hh⟩ := pick_of_resident h
  obtain ⟨u, hu⟩ := teamAt_of_resident ht hr
  refine ⟨u, ?_⟩
  rw [← hc, ← hs, ← hh] at hu
  exact hu

/-- Time passes last in a step, and what it does last is to choose the next team. -/
theorem pass_selects (s : State) : ∃ r : State, s.pass = { r with sel := r.pick } := ⟨_, rfl⟩

/-- Every step that answers a state ends with the passing of time. -/
theorem passed_next {s s' : State} {o : Out} (h : passed s o = .next s') : ∃ r : State, s' = r.pass := by
  cases o with
  | next r => exact ⟨_, (Host.Outcome.next.inj h).symm⟩
  | fault f => cases h
  | refused r => cases h

/-- Settles O7: whatever a step did, it ends with a choice among the resident teams, so that the invariant needs nothing of the
state before. -/
theorem selectedTeamIsResident : Obligations.SelectedTeamIsResident := by
  intro s s' _ hstep hres
  obtain ⟨q, rfl⟩ := passed_next hstep
  obtain ⟨r, hr⟩ := pass_selects q
  rw [hr] at hres ⊢
  obtain ⟨t, ht⟩ := curTeam_of_pick (s := r) hres
  obtain ⟨hmem, hrest⟩ := teamAt_spec ht
  exact ⟨t, ht, hmem, hrest⟩

end Sys2Proof.Machine
end

section
/-! Instructions of registers alone: each completes, and writes nothing but its destinations (R317, R320, R323, R325, R330, R335). -/

namespace Sys2Proof.Machine

/-! ### Tier reads: the conflict clk that they count (R137, R397) -/

/-- Conflict clk are counted in the contexts and in the clk that the selected team is held. -/
theorem bankedAt_eq (e : Env) (s : State) (n : Nat) (as : List LaneAcc) :
    ∃ ctxs k, e.bankedAt s n as = { s with ctxs := ctxs, sel := { s.sel with held := k } } := by
  unfold Env.bankedAt
  dsimp only
  split
  · exact ⟨s.ctxs, s.sel.held, rfl⟩
  · obtain ⟨c, hc⟩ := count_eq_ctxs { s with sel := { s.sel with held := s.sel.held + e.conflicts n as } } e.b.ctx 7 (e.conflicts n as)
    rw [hc]
    obtain ⟨c', hc'⟩ := count_eq_ctxs { s with ctxs := c, sel := { s.sel with held := s.sel.held + e.conflicts n as } } e.b.ctx 3
      (e.conflicts n as)
    exact ⟨c', _, hc'⟩

theorem counted_rateBanked (e : Env) (slot : Nat) (w : Lanes) (recs : Nat → List RsRec) : ∃ ctxs k,
    (e.rateBanked slot w recs).counted = { e.s with ctxs := ctxs, sel := { e.s.sel with held := k } } := by
  obtain ⟨ctxs, h⟩ := counted_eq_ctxs (e.rateBanked slot w recs)
  obtain ⟨_, k, hb⟩ := bankedAt_eq e e.s 4 ((e.t.list w).flatMap fun l => (recs l).map fun (r : RsRec) =>
      ({ lane := l, addr := e.b.rateBase + 16 * r.off + 16 + 4 * slot,
         tgt := some (.spad e.t.core (e.b.rateBase + 16 * r.off + 16 + 4 * slot)) } : LaneAcc))
  refine ⟨ctxs, k, ?_⟩
  rw [h]
  show { e.bankedAt e.s 4 _ with ctxs := ctxs } = _
  rw [hb]

/-- The team that a vector result leaves does not depend on the state that it is put into. -/
theorem vec_team (e : Env) (i : Instr) (d : Nat) (w : Lanes) (f : Nat → Word) : ∃ t : Team,
    (t.tid = e.t.tid ∧ t.resident = e.t.resident ∧ t.core = e.t.core ∧ t.slot = e.t.slot ∧ t.half = e.t.half) ∧
      ∀ s' : State, ({ e with s := s' } : Env).vec i d w f = .next (({ e with s := s' } : Env).counted.putTeam t) := by
  by_cases hw : i.hdr.ws == 1
  · refine ⟨{ ((e.t.fixLoads e.op).shift (some (mrow 0 e.t.lanes fun l => if w.getLsbD l then f l else 0))).unretry with
        pc := e.nextPc i }, ⟨by simp, by simp, by simp, by simp, by simp⟩, fun s' => ?_⟩
    rw [vec_eq, if_pos hw]
    rfl
  · refine ⟨{ (((e.t.putV d w f).fixLoads e.op).shift (some ((e.t.putV d w f).row d))).unretry with pc := e.nextPc i },
      ⟨by simp, by simp, by simp, by simp, by simp⟩, fun s' => ?_⟩
    rw [vec_eq, if_neg hw]
    rfl

/-- A vector result of a tier read: the frame is that of any vector result, in the state with the conflict clk counted. -/
theorem rateBanked_vec {i : Instr} {s : State} {e : Env} {d : Nat} {w : Lanes} {f : Nat → Word} (h : s.ready i = some e)
    (hc : Completes i e (e.vec i d w f)) (slot : Nat) (v : Lanes) (recs : Nat → List RsRec) :
    ∃ s' t, (e.rateBanked slot v recs).vec i d w f = .next s' ∧ TeamStep e (e.rateBanked slot v recs) s' t ∧ RegFrame i e t ∧
      t.pc = e.t.pc + BitVec.ofNat 48 i.size := by
  obtain ⟨t, ⟨hid, hr, hco, hs, hh⟩, hvec⟩ := vec_team e i d w f
  obtain ⟨ctxs, k, hcnt⟩ := counted_rateBanked e slot v recs
  obtain ⟨s1, u, hnext, hstep, hframe, hpc⟩ := hc
  have hu : u = t := by
    have hs1 : s1 = e.counted.putTeam t := Host.Outcome.next.inj (hnext.symm.trans (hvec e.s))
    have hcur := ready_curTeam h e.counted t (by simp) (by simp) hid hr hco hs hh
    rw [← hs1, hstep.current] at hcur
    exact Option.some.inj hcur
  subst hu
  refine ⟨_, u, hvec _, ⟨rfl, ?_, ?_, ?_⟩, hframe, hpc⟩
  · show ((e.rateBanked slot v recs).counted.putTeam u).curTeam = some u
    rw [hcnt]
    exact ready_curTeam h { e.s with ctxs := ctxs } u rfl rfl hid hr hco hs hh
  · show (e.rateBanked slot v recs).counted.cores = e.s.cores
    rw [hcnt]
  · intro chip a n
    show (e.rateBanked slot v recs).counted.homeRead chip a n = e.s.homeRead chip a n
    rw [hcnt]
    rfl

/-! ### Conversions (R330) -/

/-- WS is 0 in a conversion to a pair. -/
theorem cvt_ws {f : FVI} (hp : typePair (bits f.fn.toNat 7 4) = true) (h : encCheck (.cvt f) = none) : f.h.ws ≠ 1 := by
  intro hw
  have h' : encCheckVI f = none := h
  simp [encCheckVI, typeDst, hp, Dst.takesWs, hw] at h'
  split at h' <;> cases h'

/-- What a conversion writes. -/
theorem cvt_writes {e : Env} {f : FVI} (hw : f.h.ws ≠ 1) :
    e.writes (.cvt f) = dstRegs (typeDst (bits f.fn.toNat 7 4)) f.d.toNat := by
  have hw' : ((Instr.cvt f).hdr.ws == 1) = false := beq_eq_false_iff_ne.mpr hw
  unfold Env.writes regsWritten
  rw [hw']
  rfl

theorem cvt_completes {f : FVI} {s : State} {e : Env} (h : s.ready (.cvt f) = some e) : Completes (.cvt f) e (execCvt f s) := by
  refine completes_issue h _ ?_
  have hd := f.d.isLt
  dsimp only
  split
  · rename_i hp
    have hws := cvt_ws hp (ready_enc h)
    refine completes_run h _ _ _ (fun k hk => ⟨?_, ?_⟩) fun _ hl => hl
    · simp at hk; omega
    · rw [cvt_writes hws, typeDst, if_pos hp]
      simp at hk
      simp [dstRegs]; omega
  · rename_i hp
    refine completes_vec h _ _ _ (fun hws _ => ?_) (by omega) fun _ hl => hl
    rw [cvt_writes hws, typeDst, if_neg hp]
    exact List.mem_singleton_self _

/-- Settles O28: by the kind of an instruction's result, with the frame lemma of each kind of completion. -/
theorem registerInstructionsComplete : Obligations.RegisterInstructionsComplete := by
  intro i s e hr h
  cases i
  case add f | tadd f | sub f | neg f | abs f | mull f | mulh f | madl f | madw f | min f | max f | adif f | tlut f | shl f | shr f
    | sar f | rot f | funl f | ones f | clz f | bitr f | fext f | fdep f | pick f | mov f | scad f | bshuf f =>
    unfold exec; exact completes_issue h _ (int_v h rfl rfl (Nat.ne_of_beq_eq_false rfl) _ rfl _)
  case seti f w => unfold exec; exact completes_issue h _ (int_v h rfl rfl (Nat.ne_of_beq_eq_false rfl) _ rfl _)
  case sadd f | ssub f | smul f | slop f | sshf f | smov f | scmp f | slea f | ssel f =>
    unfold exec; exact completes_issue h _ (s_u h rfl rfl _)
  case smovi f w => unfold exec; exact completes_issue h _ (s_u h rfl rfl _)
  case sread f => unfold exec; exact completes_issue h _ (s_v h rfl rfl (Nat.ne_of_beq_eq_false rfl) rfl _)
  case fadd f | fmul f | ffma f | fmin f | fmax f | frnd f | fclass f | fscale f | frcp f | frsq f | fsqrt f | fexp2 f | flog2 f
    | fsin f | fcos f | ftanh f | hadd2 f | hmul2 f | hfma2 f | hmax2 f | qscale f | dot2 f | dot4 f | dot8 f | qswap f | qbcast f
    | qddx f | qddy f | xlane f | treduce f | ptov f | rcov f | rhit f =>
    unfold exec
    exact completes_issue h _ (vec_v h rfl (Nat.ne_of_beq_eq_false rfl) (List.mem_singleton_self _) _ (fun _ hl => hl) _)
  case pscan f =>
    unfold exec
    exact completes_issue h _ (vec_v h rfl (Nat.ne_of_beq_eq_false rfl) (List.mem_singleton_self _) _ (actNH_low e (.pscan f)) _)
  case dadd f | dmul f | dfma f | dmin f | dmax f =>
    unfold exec; exact completes_issue h _ (pair_v h rfl rfl (Nat.ne_of_beq_eq_false rfl) rfl _ (fun _ hl => hl) _)
  case cvt f => exact cvt_completes h
  case pcmpi f | pcmpf f | pcmpd f | plut f | pagree f | vtop f =>
    unfold exec; exact completes_issue h _ (pred_v h rfl rfl (Nat.ne_of_beq_eq_false rfl) rfl _ (fun _ hl => hl) _)
  case rget f =>
    show ∃ s' t, execRget f s = _ ∧ _
    rw [execRget, issue_of_ready h]
    exact rateBanked_vec h (vec_v h rfl (Nat.ne_of_beq_eq_false rfl) (List.mem_singleton_self _) _ (fun _ hl => hl) _) _ _ _
  case rbary f =>
    show ∃ s' t, execRbary f s = _ ∧ _
    rw [execRbary, issue_of_ready h]
    exact rateBanked_vec h (vec_v h rfl (Nat.ne_of_beq_eq_false rfl) (List.mem_singleton_self _) _ (fun _ hl => hl) _) _ _ _
  case rflat f =>
    show ∃ s' t, execRflat f s = _ ∧ _
    rw [execRflat, issue_of_ready h]
    exact rateBanked_vec h (vec_v h rfl (Nat.ne_of_beq_eq_false rfl) (List.mem_singleton_self _) _ (fun _ hl => hl) _) _ _ _
  all_goals cases hr

end Sys2Proof.Machine
end

section
/-! Guarded transfers: the groups of lanes by destination, in the order in which they run, and the pushes for those that wait
(R305 to R307, R312). -/

namespace Sys2Proof.Machine

/-! ### Groups in the order in which they run (R307) -/

/-- Groups ascend by destination, the calling one of a destination first: the order of one number. -/
def groupKey (dest : CodeOff) (calls : Bool) : Nat := 2 * dest.toNat + if calls then 0 else 1

/-- The place of a group among the groups of a transfer. -/
def Group307.key (g : Group307) : Nat := groupKey g.dest g.calls

theorem groupKey_inj {d d' : CodeOff} {c c' : Bool} : groupKey d c = groupKey d' c' ↔ d = d' ∧ c = c' := by
  unfold groupKey
  constructor
  · intro h
    refine ⟨BitVec.eq_of_toNat_eq ?_, ?_⟩
    · split at h <;> split at h <;> omega
    · cases c <;> cases c' <;> simp at h <;> first | rfl | omega
  · rintro ⟨rfl, rfl⟩; rfl

/-- Of two places, the one of the lower destination comes first, and of one destination the calling one. -/
theorem groupKey_lt {d d' : CodeOff} {c c' : Bool} (h : ¬ groupKey d' c' = groupKey d c) :
    (d.toNat < d'.toNat || (d == d' && c)) = true ↔ groupKey d c < groupKey d' c' := by
  rw [groupKey_inj, BitVec.toNat_eq] at h
  unfold groupKey
  simp only [Bool.or_eq_true, decide_eq_true_eq, Bool.and_eq_true, beq_iff_eq, BitVec.toNat_eq]
  cases c <;> cases c' <;> simp at h ⊢ <;> omega

/-- A lane's group is found, or put in at its place. -/
theorem addGroup_cons (d : CodeOff) (c : Bool) (l : Nat) (g : Group307) (gs : List Group307) :
    addGroup d c l (g :: gs) = if g.key = groupKey d c then { g with lanes := g.lanes ||| (1#1024 <<< l) } :: gs
      else if groupKey d c < g.key then { dest := d, calls := c, lanes := 1#1024 <<< l } :: g :: gs
      else g :: addGroup d c l gs := by
  have heq : (g.dest = d ∧ g.calls = c) = (g.key = groupKey d c) := propext groupKey_inj.symm
  rw [addGroup]
  simp only [heq]
  split
  · rfl
  · rename_i hne
    exact if_congr (groupKey_lt hne) rfl rfl

/-- The groups of the lanes `ls` by the place `f` that each lane names: in order, each with exactly its lanes. -/
structure Groups (f : Nat → Nat) (ls : List Nat) (gs : List Group307) : Prop where
  sorted : gs.Pairwise fun g h => g.key < h.key
  lanes : ∀ g ∈ gs, ∀ l, g.lanes.getLsbD l = true ↔ l ∈ ls ∧ f l = g.key
  named : ∀ g ∈ gs, ∃ l ∈ ls, f l = g.key
  held : ∀ l ∈ ls, ∃ g ∈ gs, g.key = f l

theorem Groups.nil (f : Nat → Nat) : Groups f [] [] where
  sorted := .nil
  lanes := by simp
  named := by simp
  held := by simp

/-- The places in a list of groups after a lane is added. -/
theorem mem_addGroup_key {d : CodeOff} {c : Bool} {l k : Nat} {gs : List Group307} :
    (∃ g ∈ addGroup d c l gs, g.key = k) ↔ k = groupKey d c ∨ ∃ g ∈ gs, g.key = k := by
  have hnew (x : Lanes) : (Group307.key { dest := d, calls := c, lanes := x } = k) ↔ k = groupKey d c := eq_comm
  induction gs with
  | nil => simp [addGroup, hnew]
  | cons g gs ih =>
    rw [addGroup_cons]
    split
    · rename_i h
      have hg (x : Lanes) : (Group307.key { g with lanes := x } = k) ↔ g.key = k := Iff.rfl
      simp only [List.exists_mem_cons_iff, hg, ← h]
      tauto
    split
    · simp only [List.exists_mem_cons_iff, hnew]
    · simp only [List.exists_mem_cons_iff, ih]
      tauto

/-- Adding a lane keeps the groups in order. -/
theorem addGroup_sorted {d : CodeOff} {c : Bool} {l : Nat} {gs : List Group307} (h : gs.Pairwise fun g h => g.key < h.key) :
    (addGroup d c l gs).Pairwise fun g h => g.key < h.key := by
  induction gs with
  | nil => simp [addGroup]
  | cons g gs ih =>
    rw [List.pairwise_cons] at h
    obtain ⟨hg, hgs⟩ := h
    rw [addGroup_cons]
    split
    · exact List.pairwise_cons.mpr ⟨hg, hgs⟩
    split
    · rename_i hlt
      refine List.pairwise_cons.mpr ⟨fun x hx => ?_, List.pairwise_cons.mpr ⟨hg, hgs⟩⟩
      rcases List.mem_cons.mp hx with rfl | hx
      · exact hlt
      · exact hlt.trans (hg x hx)
    · rename_i hne hlt
      refine List.pairwise_cons.mpr ⟨fun x hx => ?_, ih hgs⟩
      rcases mem_addGroup_key.mp ⟨x, hx, rfl⟩ with hk | ⟨y, hy, hk⟩
      · omega
      · exact hk ▸ hg y hy

/-- A lane joins the group of its place, and no other. -/
theorem mem_addGroup {d : CodeOff} {c : Bool} {l : Nat} {gs : List Group307} (h : gs.Pairwise fun g h => g.key < h.key)
    {x : Group307} (hx : x ∈ addGroup d c l gs) : (x.key ≠ groupKey d c ∧ x ∈ gs) ∨
      (x.key = groupKey d c ∧ x.lanes = 1#1024 <<< l ∧ ∀ g ∈ gs, g.key ≠ groupKey d c) ∨
      (x.key = groupKey d c ∧ ∃ g ∈ gs, g.key = groupKey d c ∧ x.lanes = g.lanes ||| (1#1024 <<< l)) := by
  induction gs with
  | nil =>
    rw [addGroup, List.mem_singleton] at hx
    subst hx
    exact .inr (.inl ⟨rfl, rfl, by simp⟩)
  | cons g gs ih =>
    rw [List.pairwise_cons] at h
    obtain ⟨hg, hgs⟩ := h
    rw [addGroup_cons] at hx
    split at hx
    · rename_i hk
      rcases List.mem_cons.mp hx with rfl | hx
      · exact .inr (.inr ⟨hk, g, List.mem_cons_self, hk, rfl⟩)
      · exact .inl ⟨by have := hg x hx; omega, List.mem_cons_of_mem _ hx⟩
    split at hx
    · rename_i hlt
      rcases List.mem_cons.mp hx with rfl | hx
      · refine .inr (.inl ⟨rfl, rfl, fun y hy => ?_⟩)
        rcases List.mem_cons.mp hy with rfl | hy
        · omega
        · have := hg y hy; omega
      · refine .inl ⟨?_, hx⟩
        rcases List.mem_cons.mp hx with rfl | hx
        · omega
        · have := hg x hx; omega
    · rename_i hne hlt
      rcases List.mem_cons.mp hx with rfl | hx
      · exact .inl ⟨hne, List.mem_cons_self⟩
      · rcases ih hgs hx with ⟨hk, hx⟩ | ⟨hk, hl, hno⟩ | ⟨hk, y, hy, hyk, hl⟩
        · exact .inl ⟨hk, List.mem_cons_of_mem _ hx⟩
        · exact .inr (.inl ⟨hk, hl, by simpa [hne] using hno⟩)
        · exact .inr (.inr ⟨hk, y, List.mem_cons_of_mem _ hy, hyk, hl⟩)

/-- The groups with one more lane. -/
theorem Groups.add {f : Nat → Nat} {ls : List Nat} {gs : List Group307} (h : Groups f ls gs) {d : CodeOff} {c : Bool} {l : Nat}
    (hl : l < 1024) (hf : f l = groupKey d c) : Groups f (ls ++ [l]) (addGroup d c l gs) where
  sorted := addGroup_sorted h.sorted
  lanes x hx m := by
    have hbit : (1#1024 <<< l).getLsbD m = true ↔ m = l := by
      rw [getLsbD_lane]
      simp only [decide_eq_true_eq]
      omega
    rw [List.mem_append, List.mem_singleton]
    rcases mem_addGroup h.sorted hx with ⟨hk, hx⟩ | ⟨hk, hlanes, hno⟩ | ⟨hk, g, hg, hgk, hlanes⟩
    · rw [h.lanes x hx]
      constructor
      · rintro ⟨hm, hfm⟩; exact ⟨.inl hm, hfm⟩
      · rintro ⟨hm | rfl, hfm⟩
        · exact ⟨hm, hfm⟩
        · exact absurd (hfm.symm.trans hf) hk
    · rw [hlanes, hbit]
      constructor
      · rintro rfl; exact ⟨.inr rfl, hf.trans hk.symm⟩
      · rintro ⟨hm | hm, hfm⟩
        · obtain ⟨g, hg, hgk⟩ := h.held m hm
          exact absurd (hgk.trans (hfm.trans hk)) (hno g hg)
        · exact hm
    · rw [hlanes, BitVec.getLsbD_or, Bool.or_eq_true, h.lanes g hg, hbit, hgk, hk]
      constructor
      · rintro (⟨hm, hfm⟩ | rfl)
        · exact ⟨.inl hm, hfm⟩
        · exact ⟨.inr rfl, hf⟩
      · rintro ⟨hm | hm, hfm⟩
        · exact .inl ⟨hm, hfm⟩
        · exact .inr hm
  named x hx := by
    rcases mem_addGroup_key.mp ⟨x, hx, rfl⟩ with hk | ⟨g, hg, hk⟩
    · exact ⟨l, by simp, hf.trans hk.symm⟩
    · obtain ⟨m, hm, hfm⟩ := h.named g hg
      exact ⟨m, by simp [hm], hfm.trans hk⟩
  held m hm := by
    rw [List.mem_append, List.mem_singleton] at hm
    refine mem_addGroup_key.mpr ?_
    rcases hm with hm | rfl
    · exact .inr (h.held m hm)
    · exact .inl hf

/-- Lanes that are added in their order. -/
theorem Groups.foldl {f : Nat → Nat} {dest : Nat → CodeOff} {calls : Nat → Bool} (hf : ∀ l, f l = groupKey (dest l) (calls l))
    (ms : List Nat) (hms : ∀ l ∈ ms, l < 1024) {ls : List Nat} {gs : List Group307} (h : Groups f ls gs) :
    Groups f (ls ++ ms) (ms.foldl (fun gs l => addGroup (dest l) (calls l) l gs) gs) := by
  induction ms generalizing ls gs with
  | nil => simpa using h
  | cons m ms ih =>
    have := ih (fun l hl => hms l (List.mem_cons_of_mem _ hl)) (h.add (hms m List.mem_cons_self) (hf m))
    simpa using this

/-- Groups of a kind are the groups of the lanes of that kind. -/
theorem Groups.filter {f : Nat → Nat} {ls : List Nat} {gs : List Group307} (h : Groups f ls gs) (p : Nat → Bool) :
    Groups f (ls.filter fun l => p (f l)) (gs.filter fun g => p g.key) where
  sorted := h.sorted.filter _
  lanes g hg l := by
    obtain ⟨hg, hp⟩ := List.mem_filter.mp hg
    rw [h.lanes g hg, List.mem_filter]
    constructor
    · rintro ⟨hl, hf⟩; exact ⟨⟨hl, by rw [hf, hp]⟩, hf⟩
    · rintro ⟨⟨hl, -⟩, hf⟩; exact ⟨hl, hf⟩
  named g hg := by
    obtain ⟨hg, hp⟩ := List.mem_filter.mp hg
    obtain ⟨l, hl, hf⟩ := h.named g hg
    exact ⟨l, List.mem_filter.mpr ⟨hl, by rw [hf, hp]⟩, hf⟩
  held l hl := by
    obtain ⟨hl, hp⟩ := List.mem_filter.mp hl
    obtain ⟨g, hg, hk⟩ := h.held l hl
    exact ⟨g, List.mem_filter.mpr ⟨hg, by rw [hk, hp]⟩, hk⟩

/-- The places of the groups, told by the places that the lanes name. -/
theorem Groups.keys {f : Nat → Nat} {ls : List Nat} {gs : List Group307} (h : Groups f ls gs) {ks : List Nat}
    (hs : ks.Pairwise (· < ·)) (hk : ∀ k, k ∈ ks ↔ ∃ l ∈ ls, f l = k) : gs.map Group307.key = ks := by
  have hsorted : (gs.map Group307.key).Pairwise (· < ·) := List.pairwise_map.mpr h.sorted
  refine List.Perm.eq_of_pairwise (fun a b _ _ hab hba => absurd (hab.trans hba) (lt_irrefl a)) hsorted hs ?_
  refine (List.perm_ext_iff_of_nodup (hsorted.imp ne_of_lt) (hs.imp ne_of_lt)).mpr fun k => ?_
  rw [hk, List.mem_map]
  constructor
  · rintro ⟨g, hg, rfl⟩; exact h.named g hg
  · rintro ⟨l, hl, rfl⟩; exact h.held l hl

/-! ### The groups of a transfer (R307, R312) -/

/-- The place that an active lane of a transfer names. -/
def Env.laneKey (e : Env) (i : Instr) (call : Bool) (target : Nat → CodeOff) (l : Nat) : Nat :=
  if (e.t.act i.hdr).getLsbD l then groupKey (target l) call else groupKey (e.nextPc i) false

theorem key_even (g : Group307) : (g.key % 2 == 0) = g.calls := by
  unfold Group307.key groupKey
  cases g.calls <;> simp

theorem mem_active {t : Team} {l : Nat} : l ∈ t.list t.mask ↔ l < t.lanes ∧ t.mask.getLsbD l = true := mem_list

theorem lt_of_bit {w : Lanes} {l : Nat} (h : w.getLsbD l = true) : l < 1024 := by
  by_contra hl
  rw [BitVec.getLsbD_of_ge _ _ (by omega)] at h
  cases h

/-- All groups of a transfer, in order of destination. -/
def Env.sortedGroups (e : Env) (i : Instr) (call : Bool) (target : Nat → CodeOff) : List Group307 :=
  (e.t.list e.t.mask).foldl (fun gs l => addGroup (if (e.t.act i.hdr).getLsbD l then target l else e.nextPc i)
    (if (e.t.act i.hdr).getLsbD l then call else false) l gs) []

theorem sortedGroups_spec (e : Env) (i : Instr) (call : Bool) (target : Nat → CodeOff) :
    Groups (e.laneKey i call target) (e.t.list e.t.mask) (e.sortedGroups i call target) := by
  refine Groups.foldl (fun l => ?_) (e.t.list e.t.mask) (fun l hl => lt_of_bit (mem_active.mp hl).2) (.nil _)
  unfold Env.laneKey
  split <;> rfl

/-- A transfer runs its groups in order of destination, the calling ones first. -/
theorem groups_eq (e : Env) (i : Instr) (call : Bool) (target : Nat → CodeOff) : e.groups i call target =
    if call then (e.sortedGroups i call target).filter Group307.calls ++ (e.sortedGroups i call target).filter fun g => !g.calls
    else e.sortedGroups i call target := by
  have hfold : (fun gs l => if (e.t.act i.hdr).getLsbD l then addGroup (target l) call l gs else addGroup (e.nextPc i) false l gs) =
      fun gs l => addGroup (if (e.t.act i.hdr).getLsbD l then target l else e.nextPc i)
        (if (e.t.act i.hdr).getLsbD l then call else false) l gs := by
    funext gs l
    split <;> rfl
  unfold Env.groups Env.sortedGroups
  dsimp only
  rw [hfold]

/-- The calling groups are those of the calling lanes. -/
theorem callGroups_spec (e : Env) (i : Instr) (target : Nat → CodeOff) : Groups (e.laneKey i true target)
    ((e.t.list e.t.mask).filter fun l => (e.t.act i.hdr).getLsbD l) ((e.sortedGroups i true target).filter Group307.calls) := by
  have h := (sortedGroups_spec e i true target).filter fun k => k % 2 == 0
  simp only [key_even] at h
  have hls (l : Nat) : (e.laneKey i true target l % 2 == 0) = (e.t.act i.hdr).getLsbD l := by
    unfold Env.laneKey groupKey
    cases (e.t.act i.hdr).getLsbD l <;> simp
  simpa only [hls] using h

/-- The group that does not call is that of the lanes whose guard fails. -/
theorem waitGroups_spec (e : Env) (i : Instr) (target : Nat → CodeOff) : Groups (e.laneKey i true target)
    ((e.t.list e.t.mask).filter fun l => !(e.t.act i.hdr).getLsbD l) ((e.sortedGroups i true target).filter fun g => !g.calls) := by
  have h := (sortedGroups_spec e i true target).filter fun k => !(k % 2 == 0)
  simp only [key_even] at h
  have hls (l : Nat) : (e.laneKey i true target l % 2 == 0) = (e.t.act i.hdr).getLsbD l := by
    unfold Env.laneKey groupKey
    cases (e.t.act i.hdr).getLsbD l <;> simp
  simpa only [hls] using h

/-- No lane, no group. -/
theorem Groups.eq_nil {f : Nat → Nat} {ls : List Nat} {gs : List Group307} (h : Groups f ls gs) (hls : ∀ l, l ∉ ls) : gs = [] := by
  have := h.keys (ks := []) .nil fun k => ⟨by simp, fun ⟨l, hl, _⟩ => absurd hl (hls l)⟩
  simpa using this

/-- Lanes of one destination are one group. -/
theorem Groups.eq_one {f : Nat → Nat} {ls : List Nat} {gs : List Group307} (h : Groups f ls gs) {d : CodeOff} {c : Bool}
    (hne : ∃ l, l ∈ ls) (hf : ∀ l ∈ ls, f l = groupKey d c) {w : Lanes} (hw : ∀ l, w.getLsbD l = true ↔ l ∈ ls) :
    gs = [{ dest := d, calls := c, lanes := w }] := by
  obtain ⟨l, hl⟩ := hne
  have hk := h.keys (ks := [groupKey d c]) (List.pairwise_singleton _ _) fun k => by
    rw [List.mem_singleton]
    exact ⟨fun hk => ⟨l, hl, hk ▸ hf l hl⟩, fun ⟨m, hm, hfm⟩ => hfm ▸ hf m hm⟩
  obtain ⟨g, rfl, hg⟩ := List.map_eq_singleton_iff.mp hk
  obtain ⟨hd, hc⟩ := groupKey_inj.mp hg
  have hlanes : g.lanes = w := BitVec.eq_of_getLsbD_eq fun m hm => by
    rw [Bool.eq_iff_iff, h.lanes g (List.mem_singleton_self _), hw]
    exact ⟨fun hx => hx.1, fun hx => ⟨hx, (hf m hx).trans hg.symm⟩⟩
  rw [← hd, ← hc, ← hlanes]

/-- Lanes of two destinations are two groups, the lower one first. -/
theorem Groups.eq_two {f : Nat → Nat} {ls : List Nat} {gs : List Group307} (h : Groups f ls gs) {d1 d2 : CodeOff} {c1 c2 : Bool}
    (hlt : groupKey d1 c1 < groupKey d2 c2) {w1 w2 : Lanes} (hf : ∀ l ∈ ls, f l = groupKey d1 c1 ∨ f l = groupKey d2 c2)
    (h1 : ∃ l ∈ ls, f l = groupKey d1 c1) (h2 : ∃ l ∈ ls, f l = groupKey d2 c2)
    (hw1 : ∀ l, w1.getLsbD l = true ↔ l ∈ ls ∧ f l = groupKey d1 c1) (hw2 : ∀ l, w2.getLsbD l = true ↔ l ∈ ls ∧ f l = groupKey d2 c2) :
    gs = [{ dest := d1, calls := c1, lanes := w1 }, { dest := d2, calls := c2, lanes := w2 }] := by
  have hk := h.keys (ks := [groupKey d1 c1, groupKey d2 c2]) (by simpa using hlt) fun k => by
    simp only [List.mem_cons, List.not_mem_nil, or_false]
    constructor
    · rintro (rfl | rfl)
      · exact h1
      · exact h2
    · rintro ⟨m, hm, rfl⟩; exact hf m hm
  obtain ⟨g, hs, rfl, hg, hhs⟩ := List.map_eq_cons_iff.mp hk
  obtain ⟨g', rfl, hg'⟩ := List.map_eq_singleton_iff.mp hhs
  have hlanes (x : Group307) (hx : x ∈ [g, g']) {w : Lanes} (hw : ∀ l, w.getLsbD l = true ↔ l ∈ ls ∧ f l = x.key) : x.lanes = w :=
    BitVec.eq_of_getLsbD_eq fun m _ => by rw [Bool.eq_iff_iff, h.lanes x hx, hw]
  have e1 := hlanes g (by simp) (w := w1) (by rw [hg]; exact hw1)
  have e2 := hlanes g' (by simp) (w := w2) (by rw [hg']; exact hw2)
  obtain ⟨hd1, hc1⟩ := groupKey_inj.mp hg
  obtain ⟨hd2, hc2⟩ := groupKey_inj.mp hg'
  rw [← hd1, ← hc1, ← hd2, ← hc2, ← e1, ← e2]

/-! ### What a transfer does with its groups (R305 to R307) -/

/-- Instructions below the memory opcodes mark no load in flight. -/
theorem fixLoads_of_low {op : Nat} (h : op < 0x80) (t : Team) : t.fixLoads op = t := by
  have : fixesLoads op = false := by
    unfold fixesLoads
    rw [decide_eq_false (by omega), Bool.false_and]
  unfold Team.fixLoads
  rw [this, Bool.false_and, if_neg Bool.false_ne_true]

/-- A team that completes at the next instruction waits for no fetch. -/
theorem doneAt_eq_moved {e : Env} (h : e.op < 0x80) (t : Team) (pc : CodeOff) : e.doneAt t none pc = .next (e.moved t pc false) := by
  rw [doneAt_eq, fixLoads_of_low h, Env.moved, unretry_eq]
  rfl

section
variable {e : Env} {i : Instr} {call : Bool} {target : Nat → CodeOff}

theorem transfer_of_nil (link : Option Nat) (hop : e.op < 0x80) (h : e.groups i call target = []) :
    e.transfer i call target link = .next (e.moved e.t (e.nextPc i) false) := by
  unfold Env.transfer
  dsimp only
  rw [h]
  exact doneAt_eq_moved hop _ _

/-- One group that does not call goes on with the stack as it was. -/
theorem transfer_of_one (link : Option Nat) {d : CodeOff} {w : Lanes}
    (h : e.groups i call target = [{ dest := d, calls := false, lanes := w }]) : e.transfer i call target link =
      .next (e.moved (e.t.putLink link (e.t.act i.hdr) (e.nextPc i)) d (d != e.nextPc i)) := by
  unfold Env.transfer
  dsimp only
  rw [h]
  rfl

/-- Groups that push: the others wait, and the first one runs. -/
theorem transfer_of_pushes (link : Option Nat) {run : Group307} {others : List Group307}
    (h : e.groups i call target = run :: others) (hp : others ≠ [] ∨ run.calls = true) : e.transfer i call target link =
      .next (e.moved { (e.t.pushAll (e.nextPc i) run others).putLink link (e.t.act i.hdr) (e.nextPc i) with mask := run.lanes }
        run.dest (run.calls || run.dest != e.nextPc i)) := by
  have hcond : ¬(others.isEmpty && !run.calls) = true := by
    rcases hp with hp | hp
    · rw [List.isEmpty_eq_false_iff.mpr hp]; simp
    · rw [hp]; simp
  unfold Env.transfer
  dsimp only
  rw [h]
  simp only [Env.pushes, if_neg hcond]
  rfl

end

/-! ### What the pushes leave (R305, R306) -/

/-- `u` is `t` after at most `n` pushes: the entries that stood before stand below them. -/
structure Team.Pushed (n : Nat) (t u : Team) : Prop where
  fore : u.fore = t.fore
  lanes : u.lanes = t.lanes
  mask : u.mask = t.mask
  stack : ∃ xs, xs.length ≤ n ∧ u.stack = t.stack ++ xs

theorem Team.Pushed.trans {m n : Nat} {t u v : Team} (a : t.Pushed m u) (b : u.Pushed n v) : t.Pushed (m + n) v := by
  obtain ⟨xs, hx, hu⟩ := a.stack
  obtain ⟨ys, hy, hv⟩ := b.stack
  refine ⟨b.fore.trans a.fore, b.lanes.trans a.lanes, b.mask.trans a.mask, xs ++ ys, ?_, ?_⟩
  · rw [List.length_append]; omega
  · rw [hv, hu, List.append_assoc]

theorem Team.Pushed.mono {m n : Nat} {t u : Team} (a : t.Pushed m u) (h : m ≤ n) : t.Pushed n u := by
  obtain ⟨xs, hx, hu⟩ := a.stack
  exact ⟨a.fore, a.lanes, a.mask, xs, hx.trans h, hu⟩

theorem Team.Pushed.refl (t : Team) : t.Pushed 0 t := ⟨rfl, rfl, rfl, [], le_rfl, (List.append_nil _).symm⟩

theorem waitOn_pushed (t : Team) (w : Lanes) (i : Nat) : t.Pushed 0 (t.waitOn w i) :=
  ⟨Team.putV_fore .., Team.putV_lanes .., Team.putV_mask .., [], le_rfl, (Team.putV_stack ..).trans (List.append_nil _).symm⟩

/-- A push puts its entry on top; v0 is cleared before the first. -/
theorem push_stack (t : Team) (x : Rejoin) : (t.push x).stack = t.stack ++ [x] := by
  unfold Team.push
  split <;> simp

theorem push_pushed (t : Team) (x : Rejoin) : t.Pushed 1 (t.push x) := by
  refine ⟨?_, ?_, ?_, [x], le_rfl, push_stack t x⟩ <;> unfold Team.push <;> split <;> simp

theorem pushGroup_pushed (t : Team) (x : Rejoin) (w : Lanes) : t.Pushed 1 (t.pushGroup x w) := by
  unfold Team.pushGroup
  split
  · split
    · exact (waitOn_pushed t w _).mono (Nat.zero_le 1)
    · exact (push_pushed t x).trans (waitOn_pushed _ w _)
  · exact (push_pushed t x).trans (waitOn_pushed _ w _)
  · exact push_pushed t x

/-- Entries that the lanes of a group take at most: its return, where it calls, and the entry on which it waits. -/
def Group307.pushes (g : Group307) : Nat := if g.calls then 2 else 1

theorem foldl_pushed (ret : CodeOff) (gs : List Group307) (t : Team) : t.Pushed (gs.map Group307.pushes).sum
    (gs.foldl (fun (t : Team) g => (if g.calls then t.push { pc := ret, kind := .call } else t).pushGroup
      { pc := g.dest, kind := .pending } g.lanes) t) := by
  induction gs generalizing t with
  | nil => exact .refl t
  | cons g gs ih =>
    rw [List.map_cons, List.sum_cons, List.foldl_cons]
    refine Team.Pushed.trans ?_ (ih _)
    unfold Group307.pushes
    split
    · exact (push_pushed t _).trans (pushGroup_pushed _ _ _)
    · exact pushGroup_pushed t _ _

theorem pushAll_pushed (t : Team) (ret : CodeOff) (run : Group307) (others : List Group307) :
    t.Pushed ((others.map Group307.pushes).sum + if run.calls then 1 else 0) (t.pushAll ret run others) := by
  have h := foldl_pushed ret others.reverse t
  rw [List.map_reverse, List.sum_reverse] at h
  unfold Team.pushAll
  dsimp only
  split
  · exact h.trans (push_pushed _ _)
  · exact h

/-- The depth limit is the same after the pushes. -/
theorem Team.Pushed.limit {n : Nat} {e : Env} {u : Team} (h : e.t.Pushed n u) : u.depthLimit = e.limit := by
  unfold Team.depthLimit Env.limit
  rw [h.fore]

/-- The check of the depth limit, where a transfer pushes (R305). -/
theorem pushes_over {e : Env} {i : Instr} {run : Group307} {others : List Group307} (hp : others ≠ [] ∨ run.calls = true) :
    ((e.pushes i (run :: others)).any fun t => decide (t.depthLimit < t.stack.length)) = true ↔
      e.limit < (e.t.pushAll (e.nextPc i) run others).stack.length := by
  have hcond : ¬(others.isEmpty && !run.calls) = true := by
    rcases hp with hp | hp
    · rw [List.isEmpty_eq_false_iff.mpr hp]; simp
    · rw [hp]; simp
  rw [Env.pushes, if_neg hcond, Option.any_some, decide_eq_true_eq, (pushAll_pushed e.t _ _ _).limit]

end Sys2Proof.Machine
end

section
/-! BRA and CALL: the lanes of each destination, and the pushes of those that wait (R306, R307). -/

namespace Sys2Proof.Machine

/-- An instruction that is ready is the one at issue. -/
theorem ready_op {i : Instr} {s : State} {e : Env} (h : s.ready i = some e) : e.op = i.opcode := by
  unfold State.ready at h
  split at h
  · cases h
  · dsimp only at h
    split at h
    · exact congrArg Env.op (Option.some.inj h).symm
    · cases h

theorem getLsbD_lanesOf_all (t : Team) (f : Nat → Bool) (l : Nat) :
    (t.lanesOf f).getLsbD l = true ↔ l < 1024 ∧ l < t.lanes ∧ f l = true := by
  by_cases hl : l < 1024
  · rw [getLsbD_lanesOf _ _ _ hl, Bool.and_eq_true, decide_eq_true_eq]
    simp [hl]
  · rw [BitVec.getLsbD_of_ge _ _ (by omega)]
    simp [hl]

/-- The active lanes as a set. -/
def Team.active (t : Team) : Lanes := t.lanesOf fun l => t.mask.getLsbD l

theorem getLsbD_active (t : Team) (l : Nat) : t.active.getLsbD l = true ↔ l ∈ t.list t.mask := by
  rw [Team.active, getLsbD_lanesOf_all, mem_active]
  exact ⟨fun h => h.2, fun h => ⟨lt_of_bit h.2, h⟩⟩

section
variable {e : Env} {i : Instr} {call : Bool} {target : Nat → CodeOff}

/-- Active lanes that all name one destination without a call are one group, and no lane is none. -/
theorem groups_of_one_dest {d : CodeOff} (hne : ∃ l, l ∈ e.t.list e.t.mask)
    (hf : ∀ l ∈ e.t.list e.t.mask, e.laneKey i call target l = groupKey d false) :
    e.groups i call target = [{ dest := d, calls := false, lanes := e.t.active }] := by
  have h := (sortedGroups_spec e i call target).eq_one hne hf (getLsbD_active e.t)
  rw [groups_eq, h]
  cases call <;> rfl

theorem groups_of_no_lane (hne : ∀ l, l ∉ e.t.list e.t.mask) : e.groups i call target = [] := by
  have h := (sortedGroups_spec e i call target).eq_nil hne
  rw [groups_eq, h]
  cases call <;> rfl

/-- A transfer all of whose lanes go to the next instruction leaves the stack and waits for no fetch. -/
theorem transfer_to_next (hop : e.op < 0x80)
    (hf : ∀ l ∈ e.t.list e.t.mask, e.laneKey i call target l = groupKey (e.nextPc i) false) :
    e.transfer i call target none = .next (e.moved e.t (e.nextPc i) false) := by
  by_cases hne : ∃ l, l ∈ e.t.list e.t.mask
  · rw [transfer_of_one none (groups_of_one_dest hne hf), bne_self_eq_false]
    rfl
  · exact transfer_of_nil none hop (groups_of_no_lane fun l hl => hne ⟨l, hl⟩)

/-- What a transfer whose lanes name one destination without a call would push: nothing. -/
theorem pushes_of_one_dest {d : CodeOff} (hf : ∀ l ∈ e.t.list e.t.mask, e.laneKey i call target l = groupKey d false) :
    e.pushes i (e.groups i call target) = none := by
  by_cases hne : ∃ l, l ∈ e.t.list e.t.mask
  · rw [groups_of_one_dest hne hf]
    rfl
  · rw [groups_of_no_lane fun l hl => hne ⟨l, hl⟩]
    rfl

end

/-! ### BRA (R307) -/

section
variable (f : FC) (e : Env)

theorem laneKey_of_go {i : Instr} {call : Bool} {target : Nat → CodeOff} {l : Nat} (h : (e.t.act i.hdr).getLsbD l = true) :
    e.laneKey i call target l = groupKey (target l) call := if_pos h

theorem laneKey_of_stay {i : Instr} {call : Bool} {target : Nat → CodeOff} {l : Nat} (h : ¬(e.t.act i.hdr).getLsbD l = true) :
    e.laneKey i call target l = groupKey (e.nextPc i) false := if_neg h

theorem exec_bra {s : State} (h : s.ready (.bra f) = some e) :
    exec (.bra f) s = e.transfer (.bra f) false (fun _ => e.offTarget f) none := by
  show execBra f s = _
  exact issue_of_ready h _

theorem exec_call {s : State} (h : s.ready (.call f) = some e) :
    exec (.call f) s = e.transfer (.call f) true (fun _ => e.offTarget f) none := by
  show execCall f s = _
  exact issue_of_ready h _

variable {f e}

/-- A BRA whose guard divides the active lanes between two destinations: the lower one's group comes first. -/
theorem bra_groups {target next : CodeOff} (htarget : e.offTarget f = target) (hnext : e.nextPc (.bra f) = next) {run wait : Lanes}
    (hne : target ≠ next) (hgo : ∃ l ∈ e.t.list e.t.mask, (e.t.act f.h).getLsbD l = true)
    (hstay : ∃ l ∈ e.t.list e.t.mask, ¬(e.t.act f.h).getLsbD l = true)
    (hrun : ∀ l, run.getLsbD l = true ↔ l ∈ e.t.list e.t.mask ∧ ((e.t.act f.h).getLsbD l = true ↔ target < next))
    (hwait : ∀ l, wait.getLsbD l = true ↔ l ∈ e.t.list e.t.mask ∧ ¬((e.t.act f.h).getLsbD l = true ↔ target < next)) :
    e.groups (.bra f) false (fun _ => e.offTarget f) =
      [{ dest := if target < next then target else next, calls := false, lanes := run },
       { dest := if target < next then next else target, calls := false, lanes := wait }] := by
  subst htarget hnext
  obtain ⟨g, hgl, hgg⟩ := hgo
  obtain ⟨r, hrl, hrr⟩ := hstay
  have hinj : ¬ groupKey (e.offTarget f) false = groupKey (e.nextPc (.bra f)) false := fun h => hne (groupKey_inj.mp h).1
  have hkg (l : Nat) (h : (e.t.act f.h).getLsbD l = true) :
      e.laneKey (.bra f) false (fun _ => e.offTarget f) l = groupKey (e.offTarget f) false := laneKey_of_go e h
  have hkr (l : Nat) (h : ¬(e.t.act f.h).getLsbD l = true) :
      e.laneKey (.bra f) false (fun _ => e.offTarget f) l = groupKey (e.nextPc (.bra f)) false := laneKey_of_stay e h
  have hspec := sortedGroups_spec e (.bra f) false (fun _ => e.offTarget f)
  rw [groups_eq, if_neg Bool.false_ne_true]
  by_cases hlt : e.offTarget f < e.nextPc (.bra f)
  · simp only [hlt, if_true, iff_true] at hrun hwait ⊢
    refine hspec.eq_two (by unfold groupKey; simpa [BitVec.lt_def] using hlt) (fun l _ => ?_) ⟨g, hgl, hkg g hgg⟩ ⟨r, hrl, hkr r hrr⟩
      (fun l => ?_) (fun l => ?_)
    · by_cases h : (e.t.act f.h).getLsbD l = true
      · exact .inl (hkg l h)
      · exact .inr (hkr l h)
    · rw [hrun]
      by_cases h : (e.t.act f.h).getLsbD l = true
      · simp [h, hkg l h]
      · simp [h, hkr l h, Ne.symm hinj]
    · rw [hwait]
      by_cases h : (e.t.act f.h).getLsbD l = true
      · simp [h, hkg l h, hinj]
      · simp [h, hkr l h]
  · simp only [hlt, if_false, iff_false, not_not] at hrun hwait ⊢
    have hgt : e.nextPc (.bra f) < e.offTarget f := by
      rw [BitVec.lt_def] at hlt ⊢
      have hv : (e.offTarget f).toNat ≠ (e.nextPc (.bra f)).toNat := fun h => hne (BitVec.eq_of_toNat_eq h)
      omega
    refine hspec.eq_two (by unfold groupKey; simpa [BitVec.lt_def] using hgt) (fun l _ => ?_) ⟨r, hrl, hkr r hrr⟩ ⟨g, hgl, hkg g hgg⟩
      (fun l => ?_) (fun l => ?_)
    · by_cases h : (e.t.act f.h).getLsbD l = true
      · exact .inr (hkg l h)
      · exact .inl (hkr l h)
    · rw [hrun]
      by_cases h : (e.t.act f.h).getLsbD l = true
      · simp [h, hkg l h, hinj]
      · simp [h, hkr l h]
    · rw [hwait]
      by_cases h : (e.t.act f.h).getLsbD l = true
      · simp [h, hkg l h]
      · simp [h, hkr l h, Ne.symm hinj]

end

/-- Settles O19: by the groups of BRA, one where its lanes go to one destination and two where its guard divides them. -/
theorem branchTakesLaneGroups : Obligations.BranchTakesLaneGroups := by
  intro f e active go target next first second pushed split
  have hact (l : Nat) : l ∈ e.t.list e.t.mask ↔ active l := mem_active
  have hnext : e.nextPc (.bra f) = next := rfl
  have hgroups (run wait : Lanes) (h : split run wait) : e.groups (.bra f) false (fun _ => e.offTarget f) =
      [{ dest := first, calls := false, lanes := run }, { dest := second, calls := false, lanes := wait }] := by
    obtain ⟨hne, ⟨g, hga, hgg⟩, ⟨r, hra, hrr⟩, hrun, hwait⟩ := h
    exact bra_groups (e := e) (f := f) (target := target) (next := next) rfl rfl hne ⟨g, (hact g).mpr hga, hgg⟩
      ⟨r, (hact r).mpr hra, hrr⟩ (fun l => by rw [hact]; exact hrun l) (fun l => by rw [hact]; exact hwait l)
  have hone (d : CodeOff) (h : (∀ l, active l → go l) ∧ d = target ∨ (∀ l, active l → ¬go l) ∧ d = next ∨ target = next ∧ d = next) :
      ∀ l ∈ e.t.list e.t.mask, e.laneKey (.bra f) false (fun _ => e.offTarget f) l = groupKey d false := by
    intro l hl
    by_cases hg : go l
    · rw [laneKey_of_go (i := .bra f) e hg]
      rcases h with ⟨-, rfl⟩ | ⟨hn, rfl⟩ | ⟨ht, rfl⟩
      · rfl
      · exact absurd hg (hn l ((hact l).mp hl))
      · exact congrArg (groupKey · false) ht
    · rw [laneKey_of_stay (i := .bra f) e hg]
      rcases h with ⟨ha, rfl⟩ | ⟨-, rfl⟩ | ⟨-, rfl⟩
      · exact absurd (ha l ((hact l).mp hl)) hg
      · rfl
      · rfl
  refine ⟨fun s hs => ⟨fun ⟨l, hl⟩ hall => ?_, fun hnone => ?_, fun heq => ?_, fun run wait h => ?_⟩, fun run wait h => ?_, fun h => ?_⟩
  · rw [exec_bra f e hs, transfer_of_one none (groups_of_one_dest ⟨l, (hact l).mpr hl⟩ (hone target (.inl ⟨hall, rfl⟩)))]
    rfl
  · rw [exec_bra f e hs]
    exact transfer_to_next ((ready_op hs).trans_lt (show 0x01 < 0x80 by decide)) (hone next (.inr (.inl ⟨hnone, rfl⟩)))
  · rw [exec_bra f e hs]
    exact transfer_to_next ((ready_op hs).trans_lt (show 0x01 < 0x80 by decide)) (hone next (.inr (.inr ⟨heq, rfl⟩)))
  · rw [exec_bra f e hs, transfer_of_pushes none (hgroups run wait h) (.inl (List.cons_ne_nil _ _))]
    rfl
  · have hover := pushes_over (e := e) (i := .bra f) (run := { dest := first, calls := false, lanes := run })
      (others := [{ dest := second, calls := false, lanes := wait }]) (.inl (List.cons_ne_nil _ _))
    rw [← hgroups run wait h] at hover
    exact hover
  · unfold Env.transferOver
    dsimp only
    obtain ⟨d, hd⟩ : ∃ d, ∀ l ∈ e.t.list e.t.mask, e.laneKey (.bra f) false (fun _ => e.offTarget f) l = groupKey d false := by
      rcases h with h | h | h
      · exact ⟨target, hone target (.inl ⟨h, rfl⟩)⟩
      · exact ⟨next, hone next (.inr (.inl ⟨h, rfl⟩))⟩
      · exact ⟨next, hone next (.inr (.inr ⟨h, rfl⟩))⟩
    rw [pushes_of_one_dest hd]
    rfl

/-! ### CALL (R307) -/

section
variable {f : FC} {e : Env}

/-- The lanes that wait at the next instruction while others call. -/
def callWaits (next : CodeOff) (wait : Lanes) : List Group307 :=
  if wait = 0 then [] else [{ dest := next, calls := false, lanes := wait }]

/-- A set of lanes that is not empty has a lane. -/
theorem exists_bit_of_ne_zero {w : Lanes} (h : w ≠ 0) : ∃ l, w.getLsbD l = true := by
  by_contra hno
  push Not at hno
  exact h (BitVec.eq_of_getLsbD_eq fun l _ => by simpa using hno l)

/-- The groups of a CALL that some lanes make: the calling ones, then those that wait at the next instruction. -/
theorem call_groups {run wait : Lanes} (hgo : ∃ l ∈ e.t.list e.t.mask, (e.t.act f.h).getLsbD l = true)
    (hrun : ∀ l, run.getLsbD l = true ↔ l ∈ e.t.list e.t.mask ∧ (e.t.act f.h).getLsbD l = true)
    (hwait : ∀ l, wait.getLsbD l = true ↔ l ∈ e.t.list e.t.mask ∧ ¬(e.t.act f.h).getLsbD l = true) :
    e.groups (.call f) true (fun _ => e.offTarget f) =
      { dest := e.offTarget f, calls := true, lanes := run } :: callWaits (e.nextPc (.call f)) wait := by
  have hcalls := (callGroups_spec e (.call f) fun _ => e.offTarget f).eq_one (d := e.offTarget f) (c := true) (w := run)
    (hgo.imp fun l hl => List.mem_filter.mpr hl) (fun l hl => laneKey_of_go e (List.mem_filter.mp hl).2)
    (fun l => by rw [hrun, List.mem_filter]; rfl)
  have hwaits : (e.sortedGroups (.call f) true fun _ => e.offTarget f).filter (fun g => !g.calls) =
      callWaits (e.nextPc (.call f)) wait := by
    have hmem (l : Nat) : l ∈ (e.t.list e.t.mask).filter (fun l => !(e.t.act (Instr.call f).hdr).getLsbD l) ↔
        wait.getLsbD l = true := by
      rw [hwait, List.mem_filter, Bool.not_eq_true', Bool.not_eq_true]
      rfl
    unfold callWaits
    split
    · rename_i h0
      refine (waitGroups_spec e (.call f) _).eq_nil fun l hl => ?_
      rw [hmem, h0] at hl
      simp at hl
    · rename_i h0
      refine (waitGroups_spec e (.call f) _).eq_one ?_ (fun l hl => ?_) fun l => (hmem l).symm
      · exact (exists_bit_of_ne_zero h0).imp fun l hl => (hmem l).mpr hl
      · refine laneKey_of_stay e ?_
        have := (List.mem_filter.mp hl).2
        simpa using this
  rw [groups_eq, if_pos rfl, hcalls, hwaits]
  rfl

end

/-- Settles O20: by the groups of CALL, the calling lanes first and then those that wait. -/
theorem callTakesLaneGroups : Obligations.CallTakesLaneGroups := by
  intro f e active go target next pushed split
  have hact (l : Nat) : l ∈ e.t.list e.t.mask ↔ active l := mem_active
  have hgroups (run wait : Lanes) (h : split run wait) : e.groups (.call f) true (fun _ => e.offTarget f) =
      { dest := target, calls := true, lanes := run } :: callWaits next wait := by
    obtain ⟨⟨g, hga, hgg⟩, hrun, hwait⟩ := h
    exact call_groups ⟨g, (hact g).mpr hga, hgg⟩ (fun l => by rw [hact]; exact hrun l) (fun l => by rw [hact]; exact hwait l)
  have hpushed (run wait : Lanes) :
      e.t.pushAll next { dest := target, calls := true, lanes := run } (callWaits next wait) = pushed wait := by
    unfold callWaits
    by_cases h0 : wait = 0
    · rw [if_pos h0]
      exact congrArg (fun t => Team.push t { pc := next, kind := .call }) (if_pos h0).symm
    · rw [if_neg h0]
      exact congrArg (fun t => Team.push t { pc := next, kind := .call }) (if_neg h0).symm
  have hnone (h : ∀ l, active l → ¬go l) :
      ∀ l ∈ e.t.list e.t.mask, e.laneKey (.call f) true (fun _ => e.offTarget f) l = groupKey next false :=
    fun l hl => laneKey_of_stay (i := .call f) e (h l ((hact l).mp hl))
  refine ⟨fun s hs => ⟨fun h => ?_, fun run wait h => ?_⟩, fun run wait h => ?_, fun h => ?_⟩
  · rw [exec_call f e hs]
    exact transfer_to_next ((ready_op hs).trans_lt (show 0x03 < 0x80 by decide)) (hnone h)
  · rw [exec_call f e hs, transfer_of_pushes none (hgroups run wait h) (.inr rfl), ← hpushed run wait]
    rfl
  · have hover := pushes_over (e := e) (i := .call f) (run := { dest := target, calls := true, lanes := run })
      (others := callWaits next wait) (.inr rfl)
    rw [← hgroups run wait h] at hover
    rw [← hpushed run wait]
    exact hover
  · unfold Env.transferOver
    dsimp only
    rw [pushes_of_one_dest (hnone h)]
    rfl

end Sys2Proof.Machine
end

section
/-! BRX and CALLX: lanes with targets of their own (R305, R307, R312). -/

namespace Sys2Proof.Machine

section
variable {f : FV} {e : Env}

theorem exec_brx {s : State} (h : s.ready (.brx f) = some e) :
    exec (.brx f) s = e.transfer (.brx f) false (e.laneTarget f) none := by
  show execBrx f s = _
  exact issue_of_ready h _

theorem exec_callx {s : State} (h : s.ready (.callx f) = some e) :
    exec (.callx f) s = e.transfer (.callx f) true (e.laneTarget f) (some f.d.toNat) := by
  show execCallx f s = _
  exact issue_of_ready h _

/-! ### Lanes with one target -/

/-- A CALLX that every active lane makes to one target: one calling group. -/
theorem callx_groups_of_one {d : CodeOff} {run : Lanes} (hne : ∃ l, l ∈ e.t.list e.t.mask)
    (hd : ∀ l ∈ e.t.list e.t.mask, (e.t.act f.h).getLsbD l = true ∧ e.laneTarget f l = d)
    (hrun : ∀ l, run.getLsbD l = true ↔ l ∈ e.t.list e.t.mask) :
    e.groups (.callx f) true (e.laneTarget f) = [{ dest := d, calls := true, lanes := run }] := by
  have h := (sortedGroups_spec e (.callx f) true (e.laneTarget f)).eq_one (d := d) (c := true) hne (fun l hl => by
    rw [laneKey_of_go (i := .callx f) e (hd l hl).1, (hd l hl).2]) hrun
  rw [groups_eq, if_pos rfl, h]
  rfl

end

/-- Settles O21: by the one group of lanes whose targets are one. -/
theorem indirectTransferToOneTarget : Obligations.IndirectTransferToOneTarget := by
  intro f e active go target next
  have hact (l : Nat) : l ∈ e.t.list e.t.mask ↔ active l := mem_active
  have hstay {i : Instr} {call : Bool} (hi : i.hdr = f.h) (hn : e.nextPc i = next) (h : ∀ l, active l → ¬go l) :
      ∀ l ∈ e.t.list e.t.mask, e.laneKey i call (e.laneTarget f) l = groupKey next false := fun l hl => by
    rw [laneKey_of_stay e (by rw [hi]; exact h l ((hact l).mp hl)), hn]
  have hto (d : CodeOff) (h : ∀ l, active l → go l ∧ target l = d) :
      ∀ l ∈ e.t.list e.t.mask, e.laneKey (.brx f) false (e.laneTarget f) l = groupKey d false := fun l hl => by
    obtain ⟨hg, ht⟩ := h l ((hact l).mp hl)
    rw [laneKey_of_go (i := .brx f) e hg]
    exact congrArg (groupKey · false) ht
  have hcall (d : CodeOff) (run : Lanes) (hne : ∃ l, active l) (h : ∀ l, active l → go l ∧ target l = d)
      (hrun : ∀ l, run.getLsbD l = true ↔ active l) :
      e.groups (.callx f) true (e.laneTarget f) = [{ dest := d, calls := true, lanes := run }] :=
    callx_groups_of_one (hne.imp fun l hl => (hact l).mpr hl) (fun l hl => h l ((hact l).mp hl)) fun l => by rw [hrun, hact]
  refine ⟨fun s hs => ⟨fun h => ?_, fun d hne h => ?_⟩, fun s hs => ⟨fun h => ?_, fun hne h => ?_, fun d run hne h hrun => ?_⟩,
    fun d hne h => ⟨?_, ?_⟩⟩
  · rw [exec_brx hs]
    exact transfer_to_next ((ready_op hs).trans_lt (show 0x02 < 0x80 by decide)) (hstay rfl rfl h)
  · rw [exec_brx hs, transfer_of_one none (groups_of_one_dest (hne.imp fun l hl => (hact l).mpr hl) (hto d h))]
    rfl
  · rw [exec_callx hs]
    exact transfer_of_nil _ ((ready_op hs).trans_lt (show 0x04 < 0x80 by decide)) (groups_of_no_lane fun l hl => h l ((hact l).mp hl))
  · rw [exec_callx hs, transfer_of_one _ (groups_of_one_dest (hne.imp fun l hl => (hact l).mpr hl) (hstay rfl rfl h))]
    exact congrArg (fun b => Host.Outcome.next (e.moved (e.t.putV f.d.toNat (e.t.act f.h) fun _ => next.truncate 32) next b))
      (bne_self_eq_false next)
  · rw [exec_callx hs, transfer_of_pushes _ (hcall d run hne h hrun) (.inr rfl)]
    rfl
  · unfold Env.transferOver
    dsimp only
    rw [pushes_of_one_dest (hto d h)]
    rfl
  · have hgroups := hcall d e.t.active hne h fun l => by rw [getLsbD_active, hact]
    have hover := pushes_over (e := e) (i := .callx f) (run := { dest := d, calls := true, lanes := e.t.active }) (others := [])
      (.inr rfl)
    rw [← hgroups, Team.pushAll, List.reverse_nil, List.foldl_nil, if_pos rfl, push_stack, List.length_append] at hover
    exact hover.trans Nat.lt_succ_iff

/-! ### Lanes with any targets -/

section
variable {f : FV} {e : Env}

/-- The groups of a transfer with an active lane: the first is that of the lowest destination, with exactly its lanes. -/
theorem Groups.first {F : Nat → Nat} {ls : List Nat} {gs : List Group307} (h : Groups F ls gs) (hne : ∃ l, l ∈ ls) :
    ∃ run others, gs = run :: others ∧ (∃ l ∈ ls, F l = run.key) ∧ (∀ l ∈ ls, run.key ≤ F l) ∧
      ∀ l, run.lanes.getLsbD l = true ↔ l ∈ ls ∧ F l = run.key := by
  obtain ⟨l, hl⟩ := hne
  obtain ⟨g, hg, -⟩ := h.held l hl
  cases gs with
  | nil => cases hg
  | cons run others =>
    refine ⟨run, others, rfl, h.named run List.mem_cons_self, fun m hm => ?_, h.lanes run List.mem_cons_self⟩
    obtain ⟨x, hx, hk⟩ := h.held m hm
    rw [← hk]
    rcases List.mem_cons.mp hx with rfl | hx
    · exact le_rfl
    · exact le_of_lt ((List.pairwise_cons.mp h.sorted).1 x hx)

theorem groupKey_le {d d' : CodeOff} {c : Bool} : groupKey d c ≤ groupKey d' c ↔ d ≤ d' := by
  unfold groupKey
  rw [BitVec.le_def]
  omega

/-- Groups of lanes that all name places of one kind are of that kind. -/
theorem Groups.calls_eq {F : Nat → Nat} {ls : List Nat} {gs : List Group307} (h : Groups F ls gs) {dest : Nat → CodeOff} {c : Bool}
    (hF : ∀ l ∈ ls, F l = groupKey (dest l) c) : ∀ g ∈ gs, g.calls = c := fun g hg => by
  obtain ⟨l, hl, hk⟩ := h.named g hg
  exact (groupKey_inj.mp (hk.symm.trans (hF l hl))).2

/-- There are no more groups than destinations. -/
theorem Groups.length_le {F : Nat → Nat} {ls : List Nat} {gs : List Group307} (h : Groups F ls gs) {dest : Nat → CodeOff}
    {c : Bool} (hF : ∀ l ∈ ls, F l = groupKey (dest l) c) : gs.length ≤ (ls.map dest).dedup.length := by
  have hnodup : (gs.map Group307.dest).Nodup := by
    refine List.pairwise_map.mpr (h.sorted.imp_of_mem fun {g g'} hg hg' hlt heq => ?_)
    have hk : g.key = g'.key := groupKey_inj.mpr ⟨heq, (h.calls_eq hF g hg).trans (h.calls_eq hF g' hg').symm⟩
    omega
  rw [← List.length_map (f := Group307.dest)]
  refine (hnodup.subperm fun d hd => ?_).length_le
  obtain ⟨g, hg, rfl⟩ := List.mem_map.mp hd
  obtain ⟨l, hl, hk⟩ := h.named g hg
  rw [List.mem_dedup]
  exact List.mem_map.mpr ⟨l, hl, (groupKey_inj.mp ((hF l hl).symm.trans hk)).1⟩

/-- A lane of the destination of BRX. -/
def Env.brxDest (e : Env) (f : FV) (l : Nat) : CodeOff := if (e.t.act f.h).getLsbD l = true then e.laneTarget f l else e.t.pc + 8

theorem laneKey_brx (l : Nat) : e.laneKey (.brx f) false (e.laneTarget f) l = groupKey (e.brxDest f l) false := by
  unfold Env.brxDest
  by_cases hg : (e.t.act f.h).getLsbD l = true
  · rw [laneKey_of_go (i := .brx f) e hg, if_pos hg]
  · rw [laneKey_of_stay (i := .brx f) e hg, if_neg hg]
    rfl

/-- BRX runs its first group behind the entries of the others. -/
theorem brx_runs {run : Group307} {others : List Group307} (hc : run.calls = false)
    (h : e.groups (.brx f) false (e.laneTarget f) = run :: others) :
    ∃ t : Team, e.transfer (.brx f) false (e.laneTarget f) none = .next (e.moved t run.dest (run.dest != e.t.pc + 8)) ∧
      e.t.stack <+: t.stack ∧ t.mask = if others = [] then e.t.mask else run.lanes := by
  by_cases ho : others = []
  · obtain ⟨d, c, w⟩ := run
    subst hc ho
    exact ⟨e.t, transfer_of_one none h, List.prefix_rfl, rfl⟩
  · obtain ⟨xs, -, hstack⟩ := (pushAll_pushed e.t (e.t.pc + 8) run others).stack
    refine ⟨{ e.t.pushAll (e.t.pc + 8) run others with mask := run.lanes }, ?_, ⟨xs, hstack.symm⟩, (if_neg ho).symm⟩
    rw [transfer_of_pushes none h (.inl ho), hc, Bool.false_or]
    rfl

/-- The groups of a CALLX that some lane makes: that of the lowest target of a calling lane runs first. -/
theorem callx_first (hne : ∃ l ∈ e.t.list e.t.mask, (e.t.act f.h).getLsbD l = true) :
    ∃ run others, e.groups (.callx f) true (e.laneTarget f) = run :: others ∧ run.calls = true ∧
      (∃ l ∈ e.t.list e.t.mask, (e.t.act f.h).getLsbD l = true ∧ e.laneTarget f l = run.dest) ∧
      (∀ l ∈ e.t.list e.t.mask, (e.t.act f.h).getLsbD l = true → run.dest ≤ e.laneTarget f l) ∧
      ∀ l, run.lanes.getLsbD l = true ↔
        l ∈ e.t.list e.t.mask ∧ (e.t.act f.h).getLsbD l = true ∧ e.laneTarget f l = run.dest := by
  have hmem (l : Nat) : l ∈ (e.t.list e.t.mask).filter (fun l => (e.t.act (Instr.callx f).hdr).getLsbD l) ↔
      l ∈ e.t.list e.t.mask ∧ (e.t.act f.h).getLsbD l = true := List.mem_filter
  have hF (l : Nat) (hl : l ∈ (e.t.list e.t.mask).filter fun l => (e.t.act (Instr.callx f).hdr).getLsbD l) :
      e.laneKey (.callx f) true (e.laneTarget f) l = groupKey (e.laneTarget f l) true := laneKey_of_go e ((hmem l).mp hl).2
  have hspec := callGroups_spec e (.callx f) (e.laneTarget f)
  obtain ⟨run, others, hgs, ⟨l, hl, hk⟩, hmin, hlanes⟩ := hspec.first (hne.imp fun l hl => (hmem l).mpr hl)
  have hc : run.calls = true := hspec.calls_eq hF run (by rw [hgs]; exact List.mem_cons_self)
  have hkey : run.key = groupKey run.dest true := by rw [Group307.key, hc]
  have hdest (m : Nat) (hm : m ∈ (e.t.list e.t.mask).filter fun l => (e.t.act (Instr.callx f).hdr).getLsbD l) :
      e.laneKey (.callx f) true (e.laneTarget f) m = run.key ↔ e.laneTarget f m = run.dest := by
    rw [hF m hm, hkey, groupKey_inj, and_iff_left rfl]
  refine ⟨run, others ++ (e.sortedGroups (.callx f) true (e.laneTarget f)).filter fun g => !g.calls, ?_, hc,
    ⟨l, ((hmem l).mp hl).1, ((hmem l).mp hl).2, (hdest l hl).mp hk⟩, fun m hm hg => ?_, fun m => ?_⟩
  · rw [groups_eq, if_pos rfl, hgs, List.cons_append]
  · have hm' := (hmem m).mpr ⟨hm, hg⟩
    have hle := hmin m hm'
    rwa [hF m hm', hkey, groupKey_le] at hle
  · rw [hlanes]
    constructor
    · rintro ⟨hm, hk⟩
      exact ⟨((hmem m).mp hm).1, ((hmem m).mp hm).2, (hdest m hm).mp hk⟩
    · rintro ⟨hm, hg, hd⟩
      have hm' := (hmem m).mpr ⟨hm, hg⟩
      exact ⟨hm', (hdest m hm').mpr hd⟩

/-- The entry of a calling group that runs stands on top. -/
theorem pushAll_last {t : Team} {ret : CodeOff} {run : Group307} {others : List Group307} (h : run.calls = true) :
    (t.pushAll ret run others).stack.getLast? = some { pc := ret, kind := .call } := by
  unfold Team.pushAll
  dsimp only
  rw [if_pos h, push_stack, List.getLast?_concat]

/-- Groups that do not call push at most one entry each. -/
theorem sum_pushes {gs : List Group307} (h : ∀ g ∈ gs, g.calls = false) : (gs.map Group307.pushes).sum = gs.length := by
  induction gs with
  | nil => rfl
  | cons g gs ih =>
    rw [List.map_cons, List.sum_cons, List.length_cons, ih fun x hx => h x (List.mem_cons_of_mem _ hx), Group307.pushes,
      h g List.mem_cons_self]
    simp only [Bool.false_eq_true, if_false]
    omega

end

/-- Settles O22: by the first of the groups in their order, that of the lowest destination. -/
theorem divergentTransferRunsLowestTarget : Obligations.DivergentTransferRunsLowestTarget := by
  intro f e active go target next dest
  have hact (l : Nat) : l ∈ e.t.list e.t.mask ↔ active l := mem_active
  have hspec : Groups (e.laneKey (.brx f) false (e.laneTarget f)) (e.t.list e.t.mask)
      (e.groups (.brx f) false (e.laneTarget f)) := by
    rw [groups_eq, if_neg Bool.false_ne_true]
    exact sortedGroups_spec e (.brx f) false (e.laneTarget f)
  have hF (l : Nat) (_ : l ∈ e.t.list e.t.mask) : e.laneKey (.brx f) false (e.laneTarget f) l = groupKey (dest l) false :=
    laneKey_brx l
  refine ⟨fun s hs ⟨a, ha⟩ => ?_, fun s hs ⟨a, ha, hg⟩ => ?_, fun h => ?_⟩
  · obtain ⟨run, others, hgs, ⟨l, hl, hk⟩, hmin, hlanes⟩ := hspec.first ⟨a, (hact a).mpr ha⟩
    have hc : run.calls = false := hspec.calls_eq hF run (by rw [hgs]; exact List.mem_cons_self)
    have hkey : run.key = groupKey run.dest false := by rw [Group307.key, hc]
    have hdest (m : Nat) (hm : active m) : e.laneKey (.brx f) false (e.laneTarget f) m = run.key ↔ dest m = run.dest := by
      rw [hF m ((hact m).mpr hm), hkey, groupKey_inj, and_iff_left rfl]
    obtain ⟨t, hexec, hpre, hmask⟩ := brx_runs hc hgs
    refine ⟨run.dest, t, (exec_brx hs).trans hexec, ⟨l, (hact l).mp hl, (hdest l ((hact l).mp hl)).mp hk⟩, fun m hm => ?_,
      fun m hm => ?_, hpre⟩
    · have hle := hmin m ((hact m).mpr hm)
      rwa [hF m ((hact m).mpr hm), hkey, groupKey_le] at hle
    · have hrun : run.lanes.getLsbD m = true ↔ active m ∧ dest m = run.dest := by
        rw [hlanes, hact]
        exact and_congr_right (hdest m)
      rw [hmask]
      split
      · rename_i ho
        refine ⟨fun hm' => hrun.mp ?_, fun h => h.1.2⟩
        obtain ⟨x, hx, hxk⟩ := hspec.held m ((hact m).mpr ⟨hm, hm'⟩)
        rw [hgs, ho, List.mem_singleton] at hx
        rw [hlanes, hact]
        exact ⟨⟨hm, hm'⟩, hx ▸ hxk.symm⟩
      · exact hrun
  · obtain ⟨run, others, hgs, hc, ⟨l, hl, hlg, hld⟩, hmin, hlanes⟩ := callx_first (f := f) ⟨a, (hact a).mpr ha, hg⟩
    have hpushed := pushAll_pushed e.t next run others
    obtain ⟨xs, -, hstack⟩ := hpushed.stack
    refine ⟨run.dest, { (e.t.pushAll next run others).putV f.d.toNat (e.t.act f.h) (fun _ => next.truncate 32) with
      mask := run.lanes }, ?_, ⟨l, (hact l).mp hl, hlg, hld⟩, fun m hm hmg => hmin m ((hact m).mpr hm) hmg,
      fun m _ => (hlanes m).trans (and_congr_left' (hact m)), ⟨xs, ?_⟩, ?_, fun m hm hml hmg => ?_⟩
    · rw [exec_callx hs, transfer_of_pushes _ hgs (.inr hc), hc, Bool.true_or]
      rfl
    · exact hstack.symm.trans (Team.putV_stack ..).symm
    · exact (congrArg List.getLast? (Team.putV_stack ..)).trans (pushAll_last hc)
    · refine (getV_putV (e.t.pushAll next run others) f.d.toNat (e.t.act f.h) (fun _ => next.truncate 32) f.d.toNat m hm).trans
        (if_pos ⟨rfl, hmg, ?_⟩)
      rw [hpushed.lanes]
      exact hml
  · obtain ⟨run, others, hgs⟩ : ∃ run others, e.groups (.brx f) false (e.laneTarget f) = run :: others := by
      cases hgs : e.groups (.brx f) false (e.laneTarget f) with
      | nil => rw [Env.transferOver] at h; dsimp only at h; rw [hgs] at h; cases h
      | cons run others => exact ⟨run, others, rfl⟩
    have hcalls (g : Group307) (hg : g ∈ run :: others) : g.calls = false := hspec.calls_eq hF g (hgs ▸ hg)
    have hc : run.calls = false := hcalls run List.mem_cons_self
    unfold Env.transferOver at h
    dsimp only at h
    rw [hgs] at h
    have ho : others ≠ [] := by
      rintro rfl
      rw [Env.pushes, hc] at h
      cases h
    rw [pushes_over (.inl ho)] at h
    obtain ⟨xs, hlen, hstack⟩ := (pushAll_pushed e.t (e.nextPc (.brx f)) run others).stack
    rw [hstack, List.length_append] at h
    rw [sum_pushes fun g hg => hcalls g (List.mem_cons_of_mem _ hg), hc, if_neg Bool.false_ne_true] at hlen
    have hle := hspec.length_le hF
    rw [hgs, List.length_cons] at hle
    omega

end Sys2Proof.Machine
end

section
/-! Delivery of a trap (R211 to R216), the handler window and its save rows (R136, R227). -/

namespace Sys2Proof.Machine

/-- Since when a team waits for a handler window: from its first try. -/
def Team.windowSince (t : Team) (now : Nat) : Nat := match t.status with | .window _ n => n | _ => now

/-! ### Delivery, in the order in which it decides (R211 to R216) -/

section
variable {s0 s : State} {t0 t : Team} {r : Raise} (hland : s0.landAll t0 = (s, t))
include hland

theorem takeTrap_guest (hc : r.cause = .guestPageFault) : s0.takeTrap t0 r = (s.putTeam
    { t with latches := [], region := none, status := .sorrel, stall := 0x0E, restore := none, mid := none, packets := [],
             table := none, fault := r.record, hold := some (t.trapState r (.granules []) (t.wordsOf r.lanes)) }).notify
      (s.blockOf t).part .guestPageFault := by
  unfold State.takeTrap
  rw [hland]
  exact if_pos (beq_iff_eq.mpr hc)

theorem takeTrap_double (hc : r.cause ≠ .guestPageFault) (hd : t.trap.isSome = true ∨ r.cause = .doubleTrap) :
    s0.takeTrap t0 r = (s.notify (s.blockOf t).part .doubleTrap).abortBlock (s.blockOf t) := by
  unfold State.takeTrap
  rw [hland]
  refine (if_neg fun h => hc (beq_iff_eq.mp h)).trans (if_pos ?_)
  rw [Bool.or_eq_true, beq_iff_eq]
  exact hd

variable (hc : r.cause ≠ .guestPageFault) (hd : r.cause ≠ .doubleTrap) (ht : t.trap = none)
include hc hd ht

theorem takeTrap_unhandled (he : (s.ctx (s.blockOf t).ctx).hvec.getLsbD 0 = false) :
    s0.takeTrap t0 r = s.abortBlock (s.blockOf t) := by
  have hdouble : ¬(t.trap.isSome || r.cause == .doubleTrap) = true := by simp [ht, hd]
  unfold State.takeTrap
  rw [hland]
  exact (if_neg fun h => hc (beq_iff_eq.mp h)).trans ((if_neg hdouble).trans (if_pos (by simp only [he]; rfl)))

/-- With a handler the window decides: granules, the save rows, or a wait. -/
theorem takeTrap_handled (he : (s.ctx (s.blockOf t).ctx).hvec.getLsbD 0 = true) :
    s0.takeTrap t0 r =
      let b := s.blockOf t
      let words := t.wordsOf r.lanes
      let entry : CodeOff := ((s.ctx b.ctx).hvec.truncate 48) &&& 0xFFFF_FFFF_FFF8
      if s.granulesUsed t.core b.part + s.reserve t.core b.part + words.length ≤ ((s.part b.part).quota t.core).granules then
        s.putTeam (t.inHandler r (.granules []) words entry)
      else if 1024 * words.length ≤ 384 * b.saveRows then
        (s.spill t b words).putTeam (t.inHandler r (.spill t.chunks) words entry)
      else s.putTeam { t with status := .window r (t.windowSince s.timeNs), stall := 0x0E, latches := [], region := none } := by
  have hdouble : ¬(t.trap.isSome || r.cause == .doubleTrap) = true := by simp [ht, hd]
  unfold State.takeTrap
  rw [hland]
  exact (if_neg fun h => hc (beq_iff_eq.mp h)).trans ((if_neg hdouble).trans (if_neg (by simp only [he]; decide)))

end

/-- Settles O12: by the three cases in which no handler runs. -/
theorem trapsWithoutHandler : Obligations.TrapsWithoutHandler := fun _ _ _ _ _ hland =>
  ⟨fun hc => ⟨_, takeTrap_guest hland hc, rfl, rfl, rfl, rfl, rfl, rfl, rfl, rfl⟩, takeTrap_double hland, takeTrap_unhandled hland⟩

/-! ### Entry of a handler (R136, R212) -/

/-- ENTRY of HVEC is its bits [47:3], an offset of whole words. -/
theorem entry_eq (x : DWord) :
    x.truncate 48 &&& (0xFFFF_FFFF_FFF8 : CodeOff) = BitVec.ofNat 48 (x.toNat % 2 ^ 48 / 8 * 8) := by
  have hmask : (0xFFFF_FFFF_FFF8 : CodeOff) = BitVec.allOnes 48 <<< 3 := by decide
  refine BitVec.eq_of_getLsbD_eq fun i hi => ?_
  rw [BitVec.getLsbD_and, hmask, BitVec.getLsbD_shiftLeft, BitVec.getLsbD_allOnes, BitVec.getLsbD_ofNat, show (8 : Nat) = 2 ^ 3 from rfl,
    Nat.testBit_mul_two_pow, Nat.testBit_div_two_pow, Nat.testBit_mod_two_pow, ← BitVec.getLsbD]
  by_cases h3 : i < 3
  · simp [h3, not_le.mpr h3]
  · have hsub : i - 3 + 3 = i := by omega
    have hone : i - 3 < 48 := by omega
    simp [h3, not_lt.mp h3, hi, hsub, hone]

/-- Settles O11: by the three cases of the handler window. -/
theorem trapEntryRunsHandler : Obligations.TrapEntryRunsHandler := by
  intro s0 s t0 t r hland hc hd ht he b words record entry fits
  have htake := takeTrap_handled hland hc hd ht he
  dsimp only at htake
  rw [entry_eq] at htake
  have hentry (w : Window) : t.inHandler r w words (BitVec.ofNat 48 ((s.ctx b.ctx).hvec.toNat % 2 ^ 48 / 8 * 8)) = entry w := by
    unfold Team.inHandler Team.trapState
    simp only [List.isEmpty_iff]
    rfl
  refine ⟨fun hfits => ?_, fun hfits hrows => ?_, fun hfits hrows => ⟨t.windowSince s.timeNs, ?_⟩⟩
  · rw [htake, ← hentry]
    exact if_pos hfits
  · rw [htake, ← hentry]
    exact (if_neg hfits).trans (if_pos hrows)
  · exact htake.trans ((if_neg hfits).trans (if_neg (not_le.mpr hrows)))

end Sys2Proof.Machine
end

section
/-! The save rows of a handler window: what trap entry spills and RTT restores (R136, R214, R227). -/

namespace Sys2Proof.Machine

/-! ### Runs of writes to registers -/

/-- Writes of registers one after another, from what a team keeps meanwhile, are writes of its registers alone. -/
theorem foldl_vregs {α : Type} (H : Team → α → Map Word → Map Word) (hH : ∀ t m x, H { t with vregs := m } x = H t x)
    (xs : List α) (t : Team) : xs.foldl (fun t x => { t with vregs := H t x t.vregs }) t =
      { t with vregs := xs.foldl (fun m x => H t x m) t.vregs } := by
  induction xs generalizing t with
  | nil => rfl
  | cons x xs ih =>
    rw [List.foldl_cons, ih]
    simp only [hH]
    rfl

/-- An entry that no write of a run names is as before. -/
theorem mget_foldl_other {α : Type} {key : α → Nat} {val : α → Word} {xs : List α} {q : Nat} (h : ∀ x ∈ xs, key x ≠ q) (m : Map Word) :
    mget 0 (xs.foldl (fun m x => mset 0 m (key x) (val x)) m) q = mget 0 m q := by
  induction xs generalizing m with
  | nil => rfl
  | cons x xs ih =>
    rw [List.foldl_cons, ih fun y hy => h y (List.mem_cons_of_mem _ hy), mget_mset, if_neg (h x List.mem_cons_self).symm]

/-- An entry that a run of writes to different places names takes its value. -/
theorem mget_foldl_of_mem {α : Type} {key : α → Nat} {val : α → Word} {xs : List α} {x : α} (hx : x ∈ xs)
    (h : ∀ y ∈ xs, key y = key x → y = x) (m : Map Word) :
    mget 0 (xs.foldl (fun m x => mset 0 m (key x) (val x)) m) (key x) = val x := by
  induction xs generalizing m with
  | nil => cases hx
  | cons y xs ih =>
    rw [List.foldl_cons]
    by_cases hin : x ∈ xs
    · exact ih hin (fun z hz => h z (List.mem_cons_of_mem _ hz)) _
    · obtain rfl : x = y := (List.mem_cons.mp hx).resolve_right hin
      rw [mget_foldl_other, mget_mset, if_pos rfl]
      exact fun z hz hk => hin (h z (List.mem_cons_of_mem _ hz) hk ▸ hz)

/-! ### What RTT restores (R214) -/

/-- A place of the save rows: the trapping word and its number among them, the register and the lane within it. -/
structure SaveCell where
  word : Nat
  n : Nat
  k : Nat
  l : Nat

/-- The places of one trapping word. -/
def wordCells (lanes j n : Nat) : List SaveCell := (List.range 8).flatMap fun k => (List.range lanes).map fun l => ⟨j, n, k, l⟩

/-- The places of the save rows of a team whose words hold `lanes` lanes. -/
def saveCells (words : List Nat) (lanes : Nat) : List SaveCell :=
  words.zipIdx.flatMap fun x => wordCells lanes x.1 x.2

theorem mem_saveCells {words : List Nat} {lanes : Nat} {x : SaveCell} :
    x ∈ saveCells words lanes ↔ words[x.n]? = some x.word ∧ x.k < 8 ∧ x.l < lanes := by
  obtain ⟨j, n, k, l⟩ := x
  unfold saveCells wordCells
  simp only [List.mem_flatMap, List.mem_map, List.mem_range, SaveCell.mk.injEq, Prod.exists, List.mem_zipIdx_iff_getElem?]
  constructor
  · rintro ⟨j', n', h, k', hk, l', hl, rfl, rfl, rfl, rfl⟩
    exact ⟨h, hk, hl⟩
  · rintro ⟨h, hk, hl⟩
    exact ⟨j, n, h, k, hk, l, hl, rfl, rfl, rfl, rfl⟩

/-- The register and lane that a place of the save rows keeps, for a team that held `c` chunks. -/
def SaveCell.key (c : Nat) (x : SaveCell) : Nat := 1024 * (32 * c - 8 + x.k) + 32 * x.word + x.l

/-- The value at a place of a team's save rows, which stand in the core scratchpad `spad`. -/
def Block.savedAt (b : Block) (spad : Map Byte) (t : Team) (x : SaveCell) : Word :=
  BitVec.ofNat 32 (leNat (mgetList 0 spad
    (b.saveAt t + 1024 * x.n + 128 * x.k + 4 * (if t.fore then 16 * t.half + x.l else x.l)) 4))

/-- The registers after some words' places of the save rows have gone back to them. -/
def State.restored (s : State) (b : Block) (c : Nat) (t : Team) (cells : List SaveCell) (m : Map Word) : Map Word :=
  cells.foldl (fun m x => mset 0 m (x.key c) (b.savedAt (s.coreSt t.core).spad t x)) m

/-- A word restored is writes of the registers alone. -/
theorem unspill_eq (s : State) (t : Team) (b : Block) (c n j : Nat) : s.unspill t b c n j =
    { t with vregs := s.restored b c t (wordCells (if t.fore then 16 else 32) j n) t.vregs } := by
  unfold State.unspill
  have hrow (core : Nat) (t : Team) (k : Nat) :=
    foldl_vregs (fun t l m => mset 0 m (SaveCell.key c ⟨j, n, k, l⟩) (b.savedAt (s.coreSt core).spad t ⟨j, n, k, l⟩))
      (fun _ _ _ => rfl) (List.range (if t.fore then 16 else 32)) t
  have hrows (core : Nat) := foldl_vregs (fun t k m => (List.range (if t.fore then 16 else 32)).foldl
    (fun m l => mset 0 m (SaveCell.key c ⟨j, n, k, l⟩) (b.savedAt (s.coreSt core).spad t ⟨j, n, k, l⟩)) m)
    (fun _ _ _ => rfl) (List.range 8) t
  rw [State.restored, wordCells, List.foldl_flatMap]
  simp only [List.foldl_map]
  rw [← hrows t.core]
  have hstep := congrArg (fun F => List.foldl F t (List.range 8)) (funext₂ (hrow t.core))
  simp only [SaveCell.key, Block.savedAt] at hstep ⊢
  exact hstep

/-- Words restored one after another are writes of the registers alone. -/
theorem foldl_unspill (s : State) (b : Block) (c : Nat) (words : List Nat) (t : Team) :
    words.zipIdx.foldl (fun t x => s.unspill t b c x.2 x.1) t =
      { t with vregs := s.restored b c t (saveCells words (if t.fore then 16 else 32)) t.vregs } := by
  have hwords := foldl_vregs (fun t (x : Nat × Nat) m => s.restored b c t (wordCells (if t.fore then 16 else 32) x.1 x.2) m)
    (fun _ _ _ => rfl) words.zipIdx t
  rw [State.restored, saveCells, List.foldl_flatMap]
  refine Eq.trans ?_ hwords
  exact congrArg (fun F => List.foldl F t words.zipIdx) (funext₂ fun t x => unspill_eq s t b c x.2 x.1)

theorem leaveHandler_vregs_spill {e : Env} {tr : TrapState} {c : Nat} (h : tr.window = .spill c) :
    (e.leaveHandler tr).vregs = e.s.restored e.b c e.t (saveCells tr.words (if e.t.fore then 16 else 32)) e.t.vregs := by
  unfold Env.leaveHandler
  rw [h]
  dsimp only
  rw [foldl_keeps Team.vregs (fun t (x : DWord × Nat) => t.putS (20 + x.2) x.1) fun _ _ => rfl, foldl_unspill]
  rfl

/-! ### What trap entry spills (R136, R227) -/

/-- A part of a part of a list is a part of the list. -/
theorem drop_take_drop_take {α : Type} (xs : List α) {a b w m : Nat} (h : b + m ≤ w) :
    (((xs.drop a).take w).drop b).take m = (xs.drop (a + b)).take m := by
  rw [List.drop_take, List.take_take, List.drop_drop, Nat.min_eq_left (by omega)]

/-- The register of a place of the save rows. -/
def Team.spilled (t u : Team) (j k l : Nat) : Word :=
  if t.fore then mget 0 (if l / 16 = t.half then t.vregs else u.vregs) (1024 * (32 * t.chunks - 8 + k) + l % 16)
  else mget 0 t.vregs (1024 * (32 * t.chunks - 8 + k) + 32 * j + l)

theorem spillBytes_eq (t u : Team) (j : Nat) : t.spillBytes u j =
    (List.range 8).flatMap fun k => (List.range 32).flatMap fun l => leBytes 4 (t.spilled u j k l).toNat := by
  unfold Team.spillBytes Team.spilled
  cases t.fore <;> rfl

theorem length_flatMap_of_length {α β : Type} {g : α → List β} {w : Nat} (hw : ∀ a, (g a).length = w) (as : List α) :
    (as.flatMap g).length = as.length * w := by
  rw [List.length_flatMap]
  simp [hw]

theorem spillRow_length (t u : Team) (j k : Nat) :
    ((List.range 32).flatMap fun l => leBytes 4 (t.spilled u j k l).toNat).length = 128 := by
  rw [length_flatMap_of_length fun _ => leBytes_length 4 _, List.length_range]

theorem spillBytes_length (t u : Team) (j : Nat) : (t.spillBytes u j).length = 1024 := by
  rw [spillBytes_eq, length_flatMap_of_length (spillRow_length t u j), List.length_range]

/-- The bytes of one register and lane among those that trap entry spills. -/
theorem spilled_bytes {t u : Team} {words : List Nat} {n j k l : Nat} (hn : words[n]? = some j) (hk : k < 8) (hl : l < 32) :
    ((words.flatMap (t.spillBytes u)).drop (1024 * n + 128 * k + 4 * l)).take 4 = leBytes 4 (t.spilled u j k l).toNat := by
  rw [Nat.add_assoc, ← drop_take_drop_take _ (w := 1024) (by omega), take_drop_flatMap (spillBytes_length t u), hn, Option.elim_some,
    spillBytes_eq, ← drop_take_drop_take _ (w := 128) (by omega), take_drop_flatMap (spillRow_length t u j),
    List.getElem?_range hk, Option.elim_some, take_drop_flatMap fun _ => leBytes_length 4 _, List.getElem?_range hl, Option.elim_some]

/-- What trap entry has spilled reads back from the save rows as the registers that it was. -/
theorem spill_reads_back (s : State) (t : Team) (b : Block) {words : List Nat} {n j k l : Nat} (hn : words[n]? = some j) (hk : k < 8)
    (hl : l < 32) : mgetList 0 ((s.spill t b words).coreSt t.core).spad (b.saveAt t + 1024 * n + 128 * k + 4 * l) 4 =
      leBytes 4 (t.spilled (s.mate t) j k l).toNat := by
  have hlen := length_flatMap_of_length (spillBytes_length t (s.mate t)) words
  have hlt := (List.getElem?_eq_some_iff.mp hn).1
  have hread := mget_msetList_range 0 (s.coreSt t.core).spad (b.saveAt t) (words.flatMap (t.spillBytes (s.mate t)))
    (1024 * n + 128 * k + 4 * l) 4 (by omega)
  rw [← spilled_bytes hn hk hl, ← hread, State.spill, spad_putSpad, mgetList]
  simp only [Nat.add_assoc]

/-- Settles O15: the places of the save rows differ, so each gives back its own register. -/
theorem rttRestoresSpilledRegisters : Obligations.RttRestoresSpilledRegisters := by
  refine ⟨fun e tr c hw hnd hwords hc => ⟨fun n j k l hn hk hl => ?_, fun r l hl hr => ?_⟩, fun s t b words n j k l hn hk hl => ?_⟩
  · rw [leaveHandler_vregs_spill hw]
    refine mget_foldl_of_mem (key := SaveCell.key c) (val := e.b.savedAt (e.s.coreSt e.t.core).spad e.t) (x := ⟨j, n, k, l⟩)
      (mem_saveCells.mpr ⟨hn, hk, hl⟩) (fun ⟨j', n', k', l'⟩ hy hkey => ?_) _
    obtain ⟨hn', hk', hl'⟩ := mem_saveCells.mp hy
    dsimp only at hn' hk' hl'
    have hj := hwords j (List.mem_of_getElem? hn)
    have hj' := hwords j' (List.mem_of_getElem? hn')
    have hl32 : l < 32 := hl.trans_le (by split <;> decide)
    have hl32' : l' < 32 := hl'.trans_le (by split <;> decide)
    simp only [SaveCell.key] at hkey
    obtain ⟨rfl, rfl, rfl⟩ : j' = j ∧ k' = k ∧ l' = l := by omega
    rw [(List.getElem?_inj (List.getElem?_eq_some_iff.mp hn').1 hnd).mp (hn'.trans hn.symm)]
  · rw [leaveHandler_vregs_spill hw]
    refine mget_foldl_other (fun ⟨j', n', k', l'⟩ hy hkey => ?_) _
    obtain ⟨hn', hk', hl'⟩ := mem_saveCells.mp hy
    dsimp only at hn' hk' hl'
    have hmem := List.mem_of_getElem? hn'
    have hj' := hwords j' hmem
    have hl32' : l' < 32 := hl'.trans_le (by split <;> decide)
    simp only [SaveCell.key] at hkey
    obtain rfl : j' = l / 32 := by omega
    rcases hr with hr | hr | hr | ⟨hf, hr⟩
    · omega
    · omega
    · exact hr hmem
    · rw [if_pos hf] at hl'
      omega
  · rw [spill_reads_back s t b hn hk hl, leNat_leBytes, Nat.mod_eq_of_lt (show _ < 256 ^ 4 from (t.spilled (s.mate t) j k l).isLt),
      BitVec.ofNat_toNat, BitVec.setWidth_eq]
    rfl

end Sys2Proof.Machine
end

section
/-! The return of a load (R132, R218), and the chunks of registers that a team takes and gives back (R128 to R130). -/

namespace Sys2Proof.Machine

/-! ### Returns of loads (R132, R218) -/

theorem vname_of_ge (t : Team) {r : Nat} (h : 256 ≤ r) : t.vname r = .inr r := by
  unfold Team.vname
  split
  · exact if_neg (by omega)
  · rfl

/-- The registers of a short run have different names, in a handler too. -/
theorem vname_run_ne (t : Team) (d : Nat) {j k : Nat} (hj : j < 16) (hk : k < 16) (hne : j ≠ k) : t.vname (d + j) ≠ t.vname (d + k) := by
  intro h
  by_cases hd : d < 256
  · exact hne (vname_run_injective t hd hj hk h)
  · rw [vname_of_ge t (by omega), vname_of_ge t (by omega), Sum.inr.injEq] at h
    omega

theorem Flight.regs_le (f : Flight) : f.regs ≤ 4 := by
  unfold Flight.regs sizeRegs fmtChannels
  split
  · split <;> decide
  · split <;> decide

/-- The values that a return brings to a register of its run. -/
def Flight.val (f : Flight) (k l : Nat) : Word := alookup 0 f.vals (1024 * (f.dst + k) + l)

/-- The registers after a return. -/
def Team.landRegs (t : Team) (f : Flight) : Team :=
  if f.latchOnly then t else t.putRun f.dst f.lanes ((List.range f.regs).map f.val)

/-- The latch `m` of a load after its return. -/
def Team.landRow (t : Team) (f : Flight) (m : Map Word) : Map Word :=
  mrow 0 t.lanes fun l => if f.lanes.getLsbD l then f.val 0 l else mget 0 m l

/-- The latches after a return. -/
def Team.landLatches (t : Team) (f : Flight) : List (Option (Map Word)) :=
  match t.latches[t.issued - f.seq - 1]? with
  | some (some m) =>
    if f.regs = 1 ∧ f.fmt = 0 ∧ f.seq < t.issued then
      t.latches.set (t.issued - f.seq - 1) (some (t.landRow f m))
    else t.latches
  | _ => t.latches

section
variable (t : Team) (f : Flight)

/-- A field that writes of registers keep is as before the return. -/
theorem landRegs_keeps {α : Type} (g : Team → α) (h : ∀ fs, g (t.putRun f.dst f.lanes fs) = g t) : g (t.landRegs f) = g t := by
  unfold Team.landRegs
  split
  · rfl
  · exact h _

theorem landRegs_landLatches : (t.landRegs f).landLatches f = t.landLatches f := by
  have hl := landRegs_keeps t f Team.latches fun _ => Team.putRun_latches ..
  have hi := landRegs_keeps t f Team.issued fun _ => Team.putRun_issued ..
  have hn := landRegs_keeps t f Team.lanes fun _ => Team.putRun_lanes ..
  unfold Team.landLatches Team.landRow
  rw [hl, hi, hn]

theorem land_of_gen (h : f.gen = t.gen) : t.land f = { t.landRegs f with latches := t.landLatches f } := by
  have hgen : ¬(f.gen != t.gen) = true := by simp [h]
  have hlatch (u : Team) :
      (match u.latches[u.issued - f.seq - 1]? with
        | some (some m) =>
          if f.regs = 1 ∧ f.fmt = 0 ∧ f.seq < u.issued then
            { u with latches := u.latches.set (u.issued - f.seq - 1) (some (u.landRow f m)) }
          else u
        | _ => u) = { u with latches := u.landLatches f } := by
    unfold Team.landLatches
    split
    · split <;> rfl
    · rfl
  rw [← landRegs_landLatches]
  unfold Team.land
  exact (if_neg hgen).trans (hlatch (t.landRegs f))

theorem getV_land (h : f.gen = t.gen) (r : Nat) : (t.land f).getV r = (t.landRegs f).getV r := by
  rw [land_of_gen t f h]
  rfl

/-- A register of the run in a due lane takes its word. -/
theorem getV_landRegs (hlatch : f.latchOnly = false) {k l : Nat} (hk : k < f.regs) (hl : l < 1024) (hlt : l < t.lanes)
    (hdue : f.lanes.getLsbD l = true) : (t.landRegs f).getV (f.dst + k) l = f.val k l := by
  have hle := f.regs_le
  rw [Team.landRegs, hlatch, if_neg Bool.false_ne_true]
  refine getV_putRun _ t f.dst f.lanes (by simp [hk]) (fun j hkj hj => ?_) hl hlt hdue
  rw [List.length_map, List.length_range] at hj
  exact vname_run_ne t f.dst (by omega) (by omega) (Nat.ne_of_lt hkj)

/-- Every other register and lane keeps its value. -/
theorem getV_landRegs_other {r l : Nat} (hl : l < 1024)
    (h : f.latchOnly = true ∨ (∀ k, k < f.regs → t.vname r ≠ t.vname (f.dst + k)) ∨ f.lanes.getLsbD l = false) :
    (t.landRegs f).getV r l = t.getV r l := by
  unfold Team.landRegs
  split
  · rfl
  · rename_i hlatch
    exact getV_putRun_other _ t _ _ _ _ hl (by simpa using h.resolve_left hlatch)

/-- The latch of a load of one register takes the due lanes. -/
theorem landLatches_mine {p : Nat} {m : Map Word} (hp : t.latches[p]? = some (some m))
    (hmine : f.regs = 1 ∧ f.fmt = 0 ∧ f.seq + 1 + p = t.issued) : (t.landLatches f)[p]? =
      some (some (t.landRow f m)) := by
  obtain ⟨hregs, hfmt, hseq⟩ := hmine
  obtain rfl : t.issued - f.seq - 1 = p := by omega
  rw [Team.landLatches, hp]
  dsimp only
  rw [if_pos ⟨hregs, hfmt, by omega⟩, List.getElem?_set_self (List.getElem?_eq_some_iff.mp hp).1]

/-- Every other latch keeps its values. -/
theorem landLatches_other {p : Nat} (h : t.latches[p]? = some none ∨ t.latches[p]? = none ∨
    ¬(f.regs = 1 ∧ f.fmt = 0 ∧ f.seq + 1 + p = t.issued)) : (t.landLatches f)[p]? = t.latches[p]? := by
  unfold Team.landLatches
  split
  · rename_i m hm
    split
    · rename_i hmine
      refine List.getElem?_set_ne fun hp => ?_
      rw [hp] at hm
      rcases h with h | h | h
      · cases hm.symm.trans h
      · cases hm.symm.trans h
      · exact h ⟨hmine.1, hmine.2.1, by omega⟩
    · rfl
  · rfl

end

/-- Settles O41: by what a return does with the registers and with the latches. -/
theorem loadReturnLands : Obligations.LoadReturnLands := by
  intro t f
  refine ⟨fun h => if_pos (bne_iff_ne.mpr h), fun h => ⟨?_, ?_, ?_, ?_, fun hlatch k l hk hl hlt hdue => ?_, fun r l hl hr => ?_,
    fun p => ⟨fun m hp hmine => ?_, fun hp => ?_⟩⟩⟩
  · rw [land_of_gen t f h]
    exact landRegs_keeps t f Team.pc fun _ => Team.putRun_pc ..
  · rw [land_of_gen t f h]
    exact landRegs_keeps t f Team.mask fun _ => Team.putRun_mask ..
  · rw [land_of_gen t f h]
    exact landRegs_keeps t f Team.preds fun _ => Team.putRun_preds ..
  · rw [land_of_gen t f h]
    exact landRegs_keeps t f Team.sregs fun _ => Team.putRun_sregs ..
  · rw [getV_land t f h]
    exact getV_landRegs t f hlatch hk hl hlt hdue
  · rw [getV_land t f h]
    exact getV_landRegs_other t f hl hr
  · rw [land_of_gen t f h]
    exact ⟨_, landLatches_mine t f hp hmine, fun l hl => (mget_mrow 0 t.lanes _ l).trans (if_pos hl)⟩
  · rw [land_of_gen t f h]
    exact landLatches_other t f hp

/-! ### Chunks of registers (R128 to R130) -/

section
variable {f : FC} {s : State} {e : Env}

theorem exec_vgrow (h : s.ready (.vgrow f) = some e) : exec (.vgrow f) s =
    if e.t.chunks = 8 ∨ ((e.s.part e.b.part).quota e.t.core).granules < e.t.words * (e.t.chunks + 1) then
      .next (e.counted.takeTrap e.t (e.raise (.vgrow f) .regLimit))
    else if e.s.canGrow e.t then .next (e.stepped (.vgrow f) e.s e.t.grow none)
    else e.park (.vgrow e.s.clk) 10 := by
  show execVgrow f s = _
  exact issue_of_ready h _

theorem exec_vshrink (h : s.ready (.vshrink f) = some e) : exec (.vshrink f) s =
    if e.t.chunks ≤ e.t.base then .next (e.stepped (.vshrink f) e.s e.t none)
    else .next (e.stepped (.vshrink f) e.s
      { e.t with chunks := e.t.chunks - 1, vregs := mclear e.t.vregs (32768 * (e.t.chunks - 1)) 32768 } none) := by
  show execVshrink f s = _
  exact issue_of_ready h _

/-- The registers of a chunk that is cleared read 0, and the others are as before. -/
theorem mget_clearChunk (m : Map Word) (c : Nat) {r l : Nat} (hl : l < 1024) :
    mget 0 (mclear m (32768 * c) 32768) (1024 * r + l) = if 32 * c ≤ r ∧ r < 32 * (c + 1) then 0 else mget 0 m (1024 * r + l) := by
  have hin : (32768 * c ≤ 1024 * r + l ∧ 1024 * r + l < 32768 * c + 32768) ↔ 32 * c ≤ r ∧ r < 32 * (c + 1) := by omega
  rw [mclear, mget_mput _ _ _ _ _ (by simp)]
  exact if_congr hin rfl rfl

end

/-- Settles O27: by the cases of VGROW and of VSHRINK. -/
theorem registerChunks : Obligations.RegisterChunks := by
  intro f s e
  refine ⟨fun h => ⟨fun hlimit => ?_, fun hchunks hroom hgrow => ?_, fun hchunks hroom hgrow => ?_⟩,
    fun h => ⟨fun hbase => ?_, fun hbase => ?_⟩⟩
  · rw [exec_vgrow h]
    exact if_pos hlimit
  · rw [exec_vgrow h, if_neg (not_or.mpr ⟨hchunks, not_lt.mpr hroom⟩), if_pos hgrow]
    exact ⟨_, rfl, rfl, fun r l hl => mget_clearChunk e.t.vregs e.t.chunks hl⟩
  · rw [exec_vgrow h, if_neg (not_or.mpr ⟨hchunks, not_lt.mpr hroom⟩), if_neg (by rw [hgrow]; exact Bool.false_ne_true)]
    rw [Env.park, fixLoads_of_low ((ready_op h).trans_lt (show 0x0C < 0x80 by decide))]
  · rw [exec_vshrink h, if_pos hbase]
  · rw [exec_vshrink h, if_neg (not_le.mpr hbase)]
    refine ⟨_, rfl, rfl, fun r l hl => ?_⟩
    have hcount : e.t.chunks - 1 + 1 = e.t.chunks := by omega
    have hclear := mget_clearChunk e.t.vregs (e.t.chunks - 1) (r := r) hl
    rwa [hcount] at hclear

end Sys2Proof.Machine
end

section
/-! EXIT: lanes that finish, and the end of a team or of its batch (R151, R309, R315, R402). -/

namespace Sys2Proof.Machine

/-! ### Going on, or leaving (R309, R315) -/

theorem resumeGo_of_mask {t : Team} (h : t.mask ≠ 0) (n : Nat) : Team.resumeGo n t = some t := by
  cases n with
  | zero => exact if_neg h
  | succ n => exact if_pos h

section
variable {e : Env} {i : Instr} {t : Team} {pc : CodeOff} (hr : t.restore = none)
include hr

theorem finish_of_no_restore (w : Lanes) : t.finish w = { t with mask := t.mask &&& ~~~w, helper := t.helper &&& ~~~w } := by
  unfold Team.finish
  rw [hr]
  rfl

theorem unretry_shift : (t.shift none).unretry = t.shift none := by
  unfold Team.unretry
  rw [show (t.shift none).restore = none from hr]

/-- Lanes are left: the team goes on at `pc`. -/
theorem resume_of_lanes (hm : t.mask ≠ 0) : Team.resumeGo t.stack.length { (t.shift none).unretry with pc := pc } =
    some { (t.shift none).unretry with pc := pc } := by
  refine resumeGo_of_mask ?_ _
  rw [unretry_shift hr]
  exact hm

/-- No lane is left, and none waits. -/
theorem resume_of_none (hm : t.mask = 0) (hs : t.stack = []) :
    Team.resumeGo t.stack.length { (t.shift none).unretry with pc := pc } = none := by
  rw [hs, unretry_shift hr]
  exact if_pos hm

theorem leave_of_lanes (hm : t.mask ≠ 0) : e.leave i t pc = .next (e.counted.putTeam { (t.shift none).unretry with pc := pc }) := by
  unfold Env.leave
  dsimp only
  rw [resume_of_lanes hr hm]
  refine congrArg (fun u => Host.Outcome.next (e.counted.putTeam u)) (if_neg ?_)
  rw [unretry_shift hr]
  exact hm

theorem mayLeave_of_lanes (hm : t.mask ≠ 0) : e.mayLeave t pc = true := by
  unfold Env.mayLeave
  rw [resume_of_lanes hr hm]
  rfl

variable (hm : t.mask = 0) (hs : t.stack = [])
include hm hs

theorem leave_of_none : e.leave i t pc =
    if e.busy then .next (e.waiting (if e.engBusy then 8 else 9))
    else if e.b.draw.isSome && e.exportBad then .next (e.counted.takeTrap e.t (e.raise i .regLimit))
    else
      match if e.t.trap.isSome then none else e.t.takeFailure true [0, 1, 2, 3] with
      | some (k, t, info, eaddr) => e.engineFault i k t info eaddr
      | none => if t.batch.isSome then .next ((e.counted.putTeam t).endBatch t) else .next ((e.counted.putTeam t).endTeam t false) := by
  unfold Env.leave
  dsimp only
  rw [resume_of_none hr hm hs]
  rfl

theorem mayLeave_of_none : e.mayLeave t pc = (!e.busy && !(e.b.draw.isSome && e.exportBad) &&
    (e.t.trap.isSome || (e.t.takeFailure true [0, 1, 2, 3]).isNone)) := by
  unfold Env.mayLeave
  rw [resume_of_none hr hm hs]
  rfl

end

/-! ### EXIT (R315) -/

/-- The environment in which rays that the exiting lanes hold have ended (R402). -/
def Env.raysEnded (e : Env) (f : FC) : Env :=
  if e.t.tier = 7 then e.returnRays (e.raysOf (e.t.actNH f.h)) fun _ => [0, 0, 0, 0] else e

/-- Rays that end leave the team and its block's program as they are. -/
theorem returnRays_eq (e : Env) (rs : List (Nat × Ray)) (val : Nat → List Word) :
    e.returnRays rs val = { e with s := (e.returnRays rs val).s } := by
  unfold Env.returnRays
  cases e.b.draw <;> rfl

theorem raysEnded_eq (e : Env) (f : FC) : e.raysEnded f = { e with s := (e.raysEnded f).s } := by
  unfold Env.raysEnded
  split
  · exact returnRays_eq ..
  · rfl

section
variable {f : FC} {s : State} {e : Env} (h : s.ready (.exit f) = some e)
include h

theorem exec_exit : exec (.exit f) s = (if e.t.tier = 7 ∧ e.mayLeave (e.t.finish (e.t.act f.h)) (e.nextPc (.exit f)) then
      e.returnRays (e.raysOf (e.t.actNH f.h)) fun _ => [0, 0, 0, 0] else e).leave
        (.exit f) (e.t.finish (e.t.act f.h)) (e.nextPc (.exit f)) := by
  show execExit f s = _
  exact issue_of_ready h _

/-- An EXIT that completes now. -/
theorem exec_exit_may (hm : e.mayLeave (e.t.finish (e.t.act f.h)) (e.nextPc (.exit f)) = true) :
    exec (.exit f) s = (e.raysEnded f).leave (.exit f) (e.t.finish (e.t.act f.h)) (e.nextPc (.exit f)) := by
  rw [exec_exit h, hm]
  simp only [and_true]
  rfl

/-- An EXIT that waits or traps ends no ray. -/
theorem exec_exit_not (hm : e.mayLeave (e.t.finish (e.t.act f.h)) (e.nextPc (.exit f)) = false) :
    exec (.exit f) s = e.leave (.exit f) (e.t.finish (e.t.act f.h)) (e.nextPc (.exit f)) := by
  rw [exec_exit h, hm]
  simp only [Bool.false_eq_true, and_false, if_false]

end

/-- Settles O26: by whether lanes are left, and by what EXIT waits for and reports where none is. -/
theorem exitFinishesLanes : Obligations.ExitFinishesLanes := by
  intro f s e h hrestore w t noExport x
  have ht : e.t.finish (e.t.act f.h) = t := finish_of_no_restore hrestore w
  have hx : e.raysEnded f = x := rfl
  have hxe : x = { e with s := x.s } := raysEnded_eq e f
  have hr : t.restore = none := hrestore
  have hgood : noExport ↔ (e.b.draw.isSome && e.exportBad) = false := by
    rw [Bool.and_eq_false_iff, Option.isSome_eq_false_iff, Option.isNone_iff_eq_none]
  refine ⟨fun hm => ?_, fun hm hs => ⟨fun hbusy => ?_, fun hbusy => ⟨fun hexport => ?_, fun hexport htrap k u info eaddr hfail => ?_,
    fun hexport hfail hxbusy => ?_⟩⟩⟩
  · rw [exec_exit_may h (by rw [ht]; exact mayLeave_of_lanes hr hm), hx, ht, leave_of_lanes hr hm]
    have hop : x.op < 0x80 := by
      rw [hxe]
      exact (ready_op h).trans_lt (show 0x0A < 0x80 by decide)
    rw [Env.stepped, Env.after, fixLoads_of_low hop, hxe]
    rfl
  · rw [exec_exit_not h, ht, leave_of_none hr hm hs, if_pos hbusy]
    rw [ht, mayLeave_of_none hr hm hs, hbusy]
    rfl
  · have hbad : (e.b.draw.isSome && e.exportBad) = true := by
      by_contra hok
      exact hexport (hgood.mpr (Bool.eq_false_iff.mpr hok))
    rw [exec_exit_not h, ht, leave_of_none hr hm hs, hbusy, if_neg Bool.false_ne_true, if_pos hbad]
    rw [ht, mayLeave_of_none hr hm hs, hbad]
    simp
  · have hnot : e.mayLeave t (e.nextPc (.exit f)) = false := by
      rw [mayLeave_of_none hr hm hs, hfail, htrap]
      simp
    rw [exec_exit_not h (by rw [ht]; exact hnot), ht, leave_of_none hr hm hs, hbusy, if_neg Bool.false_ne_true, hgood.mp hexport,
      if_neg Bool.false_ne_true, htrap, Option.isSome_none, if_neg Bool.false_ne_true, hfail]
    rfl
  · have hnofail : (if e.t.trap.isSome then none else e.t.takeFailure true [0, 1, 2, 3]) = none := by
      rcases hfail with hfail | hfail
      · rw [if_pos hfail]
      · rw [hfail, ite_self]
    have hmay : e.mayLeave t (e.nextPc (.exit f)) = true := by
      rw [mayLeave_of_none hr hm hs, hbusy, hgood.mp hexport]
      rcases hfail with hfail | hfail <;> simp [hfail]
    have hxexport : (x.b.draw.isSome && x.exportBad) = false := by
      rw [hxe]
      exact hgood.mp hexport
    have hxfail : (if x.t.trap.isSome then none else x.t.takeFailure true [0, 1, 2, 3]) = none := by
      rw [hxe]
      exact hnofail
    rw [exec_exit_may h (by rw [ht]; exact hmay), hx, ht, leave_of_none hr hm hs, hxbusy, if_neg Bool.false_ne_true, hxexport,
      if_neg Bool.false_ne_true, hxfail]
    refine ⟨fun hbatch => if_neg ?_, fun hbatch => if_pos hbatch⟩
    rw [show t.batch = none from hbatch]
    exact Bool.false_ne_true

end Sys2Proof.Machine
end

section
/-! Results of the uniform and predicate instructions (R317 to R319, R323, R324). -/

namespace Sys2Proof.Machine

/-! ### Shifts as operations of words -/

theorem ofNat_shlAt {w : Nat} (x : BitVec w) (n : Nat) : BitVec.ofNat w (shlAt w x.toNat n) = x <<< n := by
  refine BitVec.eq_of_toNat_eq ?_
  rw [BitVec.toNat_ofNat, BitVec.toNat_shiftLeft, Nat.shiftLeft_eq, shlAt]
  split
  · rename_i h
    rw [Nat.zero_mod, Nat.mod_eq_zero_of_dvd (Dvd.dvd.mul_left (Nat.pow_dvd_pow 2 h) _)]
  · rw [Nat.mod_mod]

theorem ofNat_shrAt {w : Nat} (x : BitVec w) (n : Nat) : BitVec.ofNat w (shrAt w x.toNat n) = x >>> n := by
  refine BitVec.eq_of_toNat_eq ?_
  rw [BitVec.toNat_ofNat, BitVec.toNat_ushiftRight, Nat.shiftRight_eq_div_pow, shrAt]
  split
  · rename_i h
    rw [Nat.zero_mod, Nat.div_eq_of_lt (x.isLt.trans_le (Nat.pow_le_pow_right (by decide) h))]
  · exact Nat.mod_eq_of_lt ((Nat.div_le_self _ _).trans_lt x.isLt)

theorem ofNat_wrapNat (w : Nat) (x : Int) : BitVec.ofNat w (wrapNat w x) = BitVec.ofInt w x := by
  refine BitVec.eq_of_toNat_eq ?_
  rw [BitVec.toNat_ofNat, BitVec.toNat_ofInt, wrapNat]
  refine Nat.mod_eq_of_lt ?_
  have hpos : (0 : Int) < ((2 ^ w : Nat) : Int) := by exact_mod_cast Nat.two_pow_pos w
  have hlt := Int.emod_lt_of_pos x hpos
  omega

theorem sextInt_toNat {w : Nat} (hw : 0 < w) (x : BitVec w) : sextInt w x.toNat = x.toInt := by
  have hpow : 2 ^ w = 2 * 2 ^ (w - 1) := by rw [← pow_succ', Nat.sub_add_cancel hw]
  rw [sextInt, BitVec.toInt_eq_toNat_cond, Nat.mod_eq_of_lt x.isLt]
  refine if_congr ?_ rfl rfl
  omega

theorem ediv_eq_neg_one {x p : Int} (hp : 0 < p) (hlo : -p ≤ x) (hx : x < 0) : x / p = -1 := by
  have hneg := Int.ediv_neg_of_neg_of_pos hx hp
  have hge : -1 ≤ x / p := (Int.le_ediv_iff_mul_le hp).mpr (by omega)
  omega

/-- An arithmetic shift by the width or more leaves the sign in every bit. -/
theorem toInt_div_pow {w : Nat} (x : BitVec w) {n : Nat} (h : w ≤ n) : x.toInt / ((2 ^ n : Nat) : Int) = x.toInt / ((2 ^ w : Nat) : Int) := by
  have hx := x.isLt
  have hle : (2 : Nat) ^ w ≤ 2 ^ n := Nat.pow_le_pow_right (by decide) h
  rw [BitVec.toInt_eq_toNat_cond]
  split
  · rw [Int.ediv_eq_zero_of_lt (by omega) (by omega), Int.ediv_eq_zero_of_lt (by omega) (by omega)]
  · rw [ediv_eq_neg_one (by omega) (by omega) (by omega), ediv_eq_neg_one (by omega) (by omega) (by omega)]

theorem ofNat_sarAt {w : Nat} (hw : 0 < w) (x : BitVec w) (n : Nat) : BitVec.ofNat w (sarAt w x.toNat n) = x.sshiftRight n := by
  rw [sarAt, ofNat_wrapNat, sextInt_toNat hw, BitVec.sshiftRight, Int.shiftRight_eq_div_pow]
  congr 1
  rcases Nat.le_total n w with h | h
  · rw [show Nat.min n w = n from Nat.min_eq_left h]
  · rw [show Nat.min n w = w from Nat.min_eq_right h, toInt_div_pow x h]

theorem ofNat_rotAt {w : Nat} (hw : 0 < w) (x : BitVec w) (n : Nat) : BitVec.ofNat w (rotAt w x.toNat n) = x.rotateLeft n := by
  have hk : n % w < w := Nat.mod_lt _ hw
  have hand : x <<< (n % w) &&& x >>> (w - n % w) = 0#w := by
    refine BitVec.eq_of_getLsbD_eq fun i hi => ?_
    rw [BitVec.getLsbD_and, BitVec.getLsbD_shiftLeft, BitVec.getLsbD_ushiftRight, BitVec.getLsbD_zero]
    by_cases h : i < n % w
    · simp [h]
    · rw [BitVec.getLsbD_of_ge x (w - n % w + i) (by omega), Bool.and_false]
  rw [BitVec.rotateLeft_def, ← BitVec.add_eq_or_of_and_eq_zero _ _ hand]
  refine BitVec.eq_of_toNat_eq ?_
  rw [BitVec.toNat_add, BitVec.toNat_ofNat, BitVec.toNat_shiftLeft, BitVec.toNat_ushiftRight, Nat.shiftLeft_eq, Nat.shiftRight_eq_div_pow,
    rotAt]
  simp

/-! ### Destinations and lanes -/

/-- The destination of a format V instruction has the kind that its encoding names. -/
theorem dst_ok_of_enc {i : Instr} {f : FV} (hb : i.body = .v f) (h : encCheck i = none) :
    (shapeV i.opcode f.fn.toNat ((i.second.map BitVec.toNat).getD 0)).d.ok f.d.toNat = true := by
  unfold encCheck at h
  rw [hb] at h
  simp only [encCheckV] at h
  split at h
  · cases h
  · split at h
    · rename_i hfields
      simp only [Bool.and_eq_true] at hfields
      exact hfields.1.1.1.1.2
    · cases h

theorem list_any {t : Team} {w : Lanes} {p : Nat → Bool} : (t.list w).any p = true ↔ ∃ l, l < t.lanes ∧ w.getLsbD l = true ∧ p l = true := by
  rw [List.any_eq_true]
  simp only [mem_list, and_assoc]

theorem list_all {t : Team} {w : Lanes} {p : Nat → Bool} : (t.list w).all p = true ↔ ∀ l, l < t.lanes → w.getLsbD l = true → p l = true := by
  rw [List.all_eq_true]
  simp only [mem_list, and_imp]

/-- The lowest lane of a set stands first in its list. -/
theorem list_lowest {t : Team} {w : Lanes} {l0 : Nat} (hw : w.getLsbD l0 = true) (hl : l0 < t.lanes)
    (hlow : ∀ l, l < l0 → w.getLsbD l = false) : ∃ ls, t.list w = l0 :: ls := by
  have hsorted : (t.list w).Pairwise (· < ·) := List.pairwise_lt_range.filter _
  have hmem : l0 ∈ t.list w := mem_list.mpr ⟨hl, hw⟩
  cases hls : t.list w with
  | nil => rw [hls] at hmem; cases hmem
  | cons l ls =>
    rw [hls] at hmem hsorted
    rcases List.mem_cons.mp hmem with rfl | hin
    · exact ⟨ls, rfl⟩
    · have hlt := (List.pairwise_cons.mp hsorted).1 l0 hin
      have hl' : l ∈ t.list w := by rw [hls]; exact List.mem_cons_self
      have hbit := (mem_list.mp hl').2
      rw [hlow l hlt] at hbit
      cases hbit

/-- No lane, no list. -/
theorem list_empty {t : Team} {w : Lanes} (h : ∀ l, l < t.lanes → w.getLsbD l = false) : t.list w = [] :=
  List.filter_eq_nil_iff.mpr fun l hl => by rw [h l (List.mem_range.mp hl)]; exact Bool.false_ne_true


/-! ### Votes and packed predicates (R319) -/

/-- The vote of PAGREE over the lanes that vote. -/
theorem agree_list {t : Team} {w : Lanes} {p : Nat → Bool} {m : Nat} {v : Bool}
    (h : v = true ↔ if m % 4 = 0 then ∀ l, (l < t.lanes ∧ w.getLsbD l = true) → p l = true
      else if m % 4 = 1 then ∃ l, (l < t.lanes ∧ w.getLsbD l = true) ∧ p l = true
      else (∀ l, (l < t.lanes ∧ w.getLsbD l = true) → p l = true) ∨ ∀ l, (l < t.lanes ∧ w.getLsbD l = true) → p l = false) :
    agree (m % 4) ((t.list w).map p) = v := by
  rw [Bool.eq_iff_iff, h]
  unfold agree
  split
  · rename_i h0
    rw [if_pos h0, List.all_map, list_all]
    simp [and_imp]
  · rename_i h1
    rw [if_neg (by omega), if_pos h1, List.any_map, list_any]
    simp [and_assoc]
  · rename_i h0 h1
    rw [if_neg h0, if_neg h1, Bool.or_eq_true, List.all_map, List.all_map, list_all, list_all]
    simp [and_imp]

/-- A sum of different powers of two has the bits that are told. -/
theorem testBit_sum_pow (p : Nat → Bool) (n : Nat) :
    ((List.range n).map fun j => if p j then 2 ^ j else 0).sum < 2 ^ n ∧
      ∀ k, ((List.range n).map fun j => if p j then 2 ^ j else 0).sum.testBit k = (decide (k < n) && p k) := by
  induction n with
  | zero => simp
  | succ n ih =>
    obtain ⟨hlt, hbit⟩ := ih
    rw [List.range_succ, List.map_append, List.sum_append, List.map_singleton, List.sum_singleton]
    generalize ((List.range n).map fun j => if p j then 2 ^ j else 0).sum = x at hlt hbit
    have hpow : 2 ^ (n + 1) = 2 ^ n + 2 ^ n := by omega
    refine ⟨by split <;> omega, fun k => ?_⟩
    rw [Nat.add_comm]
    rcases Nat.lt_trichotomy k n with hk | rfl | hk
    · split
      · rw [Nat.testBit_two_pow_add_gt hk, hbit]
        simp [hk, Nat.lt_succ_of_lt hk]
      · rw [Nat.zero_add, hbit]
        simp [hk, Nat.lt_succ_of_lt hk]
    · split
      · rename_i hp
        rw [Nat.testBit_two_pow_add_eq, Nat.testBit_lt_two_pow hlt, hp]
        simp
      · rename_i hp
        rw [Nat.zero_add, Nat.testBit_lt_two_pow hlt]
        simp [hp]
    · have hle : 2 ^ (n + 1) ≤ 2 ^ k := Nat.pow_le_pow_right (by decide) hk
      rw [Nat.testBit_lt_two_pow (by split <;> omega)]
      simp
      omega

/-! ### Results of an issue -/

section
variable {i : Instr} {s : State} {e : Env} {d : Nat} (h : s.ready i = some e)
include h

theorem issue_sOut {o : Out} {y : Env → DWord} {x : DWord} (hi : exec i s = o) (ho : o = issue i s fun e => e.sOut i d (y e))
    (hy : y e = x) :
    e.givesS i d x (exec i s) := by
  rw [hi, ho, issue_of_ready h, hy]
  exact sOut_gives e d x

theorem issue_predOut {o : Out} {y : Env → Nat → Bool} {x : Nat → Bool} (hi : exec i s = o)
    (ho : o = issue i s fun e => e.predOut i d (e.t.act i.hdr) (y e)) (hd : d < 7) (hy : y e = x) : e.givesPred i d x (exec i s) := by
  rw [hi, ho, issue_of_ready h, hy]
  exact predOut_gives e d x hd

theorem issue_vec {o : Out} {y : Env → Nat → Word} {x : Nat → Word} (hi : exec i s = o)
    (ho : o = issue i s fun e => e.vec i d (e.t.act i.hdr) (y e)) (hy : y e = x) : e.gives32 i d x (exec i s) := by
  rw [hi, ho, issue_of_ready h, hy]
  exact vec_gives e d x

/-- The destination of an instruction that gives a predicate is one of p0 to p6. -/
theorem pred_dest {f : FV} (hb : i.body = .v f)
    (hs : (shapeV i.opcode f.fn.toNat ((i.second.map BitVec.toNat).getD 0)).d = .pred) : f.d.toNat < 7 := by
  have hok := dst_ok_of_enc hb (ready_enc h)
  rw [hs] at hok
  exact of_decide_eq_true hok

end

/-- A choice among four by FN. -/
theorem match_fn {α : Type} (fn : BitVec 4) (w x y z : α) : (match fn.toNat with | 0 => w | 1 => x | 2 => y | _ => z) =
    if fn = 0 then w else if fn = 1 then x else if fn = 2 then y else z := by
  by_cases h0 : fn = 0
  · subst h0; rfl
  by_cases h1 : fn = 1
  · subst h1; rfl
  by_cases h2 : fn = 2
  · subst h2; rfl
  rw [if_neg h0, if_neg h1, if_neg h2]
  split
  · rename_i h; exact absurd (BitVec.eq_of_toNat_eq h) h0
  · rename_i h; exact absurd (BitVec.eq_of_toNat_eq h) h1
  · rename_i h; exact absurd (BitVec.eq_of_toNat_eq h) h2
  · rfl

theorem sshf_eq (fn : BitVec 4) (a b : DWord) :
    BitVec.ofNat 64 ((match fn.toNat with | 0 => shlAt | 1 => shrAt | 2 => sarAt | _ => rotAt) 64 a.toNat b.toNat) =
      if fn = 0 then a <<< b.toNat else if fn = 1 then a >>> b.toNat else if fn = 2 then a.sshiftRight b.toNat
      else a.rotateLeft b.toNat := by
  rw [match_fn, ← ofNat_shlAt, ← ofNat_shrAt, ← ofNat_sarAt (by decide), ← ofNat_rotAt (by decide)]
  split_ifs <;> rfl

theorem truncate_48 (x : DWord) : x.truncate 48 = x.extractLsb' 0 48 := by
  refine BitVec.eq_of_getLsbD_eq fun i hi => ?_
  simp [hi]

/-- The value that SFROMV takes. -/
def Env.fromV (e : Env) (f : FV) : Word :=
  match e.t.list (e.t.mask &&& ~~~e.t.helper) with | [] => 0 | l :: _ => e.src32 f.sa.toNat l

theorem exec_sfromv {f : FV} {s : State} {e : Env} (h : s.ready (.sfromv f) = some e) : exec (.sfromv f) s =
    if f.fn.getLsbD 0 && (e.t.list (e.t.mask &&& ~~~e.t.helper)).any fun l => e.src32 f.sa.toNat l != e.fromV f then
      .next (e.counted.takeTrap e.t (e.raise (.sfromv f) .nonuniform))
    else e.sOut (.sfromv f) f.d.toNat ((e.fromV f).zeroExtend 64) := by
  show execSfromv f s = _
  exact issue_of_ready h _

theorem fromV_lowest {e : Env} (f : FV) {l0 : Nat} (hw : (e.t.mask &&& ~~~e.t.helper).getLsbD l0 = true) (hl : l0 < e.t.lanes)
    (hlow : ∀ l, l < l0 → (e.t.mask &&& ~~~e.t.helper).getLsbD l = false) : e.fromV f = e.src32 f.sa.toNat l0 := by
  obtain ⟨ls, hls⟩ := list_lowest hw hl hlow
  rw [Env.fromV, hls]

/-- Settles O31: by the operands of format U, and by the lanes that vote and compare. -/
theorem uniformAndPredicateResults : Obligations.UniformAndPredicateResults := by
  refine ⟨fun f w2 s e => ?_, fun f s e => ⟨fun h => ?_, fun l0 hl0 hlt hlow h => ⟨fun hv => ?_, fun hfn hv => ?_⟩, fun hnone h => ?_,
    fun h => ?_, fun h => ?_, fun h => ?_, fun h => ?_, fun h v hv => ?_, fun h => ?_, fun h x hx => ?_⟩⟩
  · intro a b gives
    refine ⟨fun h => issue_sOut (o := execSadd f s) h rfl rfl rfl, fun h => issue_sOut (o := execSsub f s) h rfl rfl rfl, fun h => issue_sOut (o := execSmul f s) h rfl rfl rfl,
      fun h => issue_sOut (o := execSlop f s) h rfl rfl ?_, fun _ h => issue_sOut (o := execSshf f s) h rfl rfl ?_, fun h => issue_sOut (o := execSmov f s) h rfl rfl rfl, fun h => issue_sOut (o := execSmovi f w2 s) h rfl rfl rfl,
      fun h => issue_sOut (o := execScmp f s) h rfl rfl rfl, fun h => issue_sOut (o := execSlea f s) h rfl rfl ?_, fun h => issue_sOut (o := execSsel f s) h rfl rfl ?_⟩
    · exact match_fn f.fn (a &&& b) (a ||| b) (a ^^^ b) (a &&& ~~~b)
    · exact sshf_eq f.fn a b
    · exact congrArg (BitVec.signExtend 64) (truncate_48 (a + b))
    · exact ite_not ..
  · exact issue_sOut (o := execSread f s) h rfl rfl rfl
  · have hx := fromV_lowest f hl0 hlt hlow
    rw [exec_sfromv h, if_neg, hx]
    · exact sOut_gives e _ _
    · rw [hx, Bool.and_eq_true, list_any]
      rintro ⟨hchk, l, hl, hw, hne⟩
      rcases hv with hv | hv
      · rw [hv] at hchk
        cases hchk
      · exact bne_iff_ne.mp hne (hv l hl hw)
  · obtain ⟨l, hl, hw, hne⟩ := hv
    rw [exec_sfromv h, if_pos]
    rw [fromV_lowest f hl0 hlt hlow, Bool.and_eq_true, list_any]
    exact ⟨hfn, l, hl, hw, bne_iff_ne.mpr hne⟩
  · have hls := list_empty hnone
    have hx : e.fromV f = 0 := by rw [Env.fromV, hls]
    rw [exec_sfromv h, if_neg, hx]
    · exact sOut_gives e _ _
    · rw [hls, List.any_nil, Bool.and_false]
      exact Bool.false_ne_true
  · exact issue_predOut (o := execPcmpi f s) h rfl rfl (pred_dest h rfl rfl) rfl
  · exact issue_predOut (o := execPcmpf f s) h rfl rfl (pred_dest h rfl rfl) rfl
  · exact issue_predOut (o := execPcmpd f s) h rfl rfl (pred_dest h rfl rfl) rfl
  · exact issue_predOut (o := execPlut f s) h rfl rfl (pred_dest h rfl rfl) rfl
  · refine issue_predOut (o := execPagree f s) h rfl rfl (pred_dest h rfl rfl) (funext fun _ => agree_list hv)
  · exact issue_predOut (o := execVtop f s) h rfl rfl (pred_dest h rfl rfl) rfl
  · refine issue_vec (o := execPtov f s) h rfl rfl (funext fun l => BitVec.eq_of_getLsbD_eq fun k hk => ?_)
    rw [hx l k hk, BitVec.getLsbD_ofNat, (testBit_sum_pow _ 8).2]
    simp [hk]

end Sys2Proof.Machine
end

section
/-! The causes of decode in the order of their priorities, and the codes of all causes (R207, R208). -/

namespace Sys2Proof.Machine

/-! ### Codes (R207) -/

/-- All causes, in the order of their codes. -/
def allCauses : List Cause :=
  [.illegalOpcode, .reservedField, .rateMismatch, .regLimit, .divergedUniform, .latchRegion, .privilege, .trap, .syscall, .bkpt,
    .nonuniform, .descInvalid, .frameExhausted, .barrierState, .nodeUnknown, .engineFault, .segLimit, .misaligned, .rangeLocked,
    .pageFault, .guestPageFault, .partBounds, .accessFault, .linkLost, .dataError, .doubleTrap]

theorem mem_allCauses (c : Cause) : c ∈ allCauses := by cases c <;> decide

theorem code_injective {c d : Cause} (h : c.code = d.code) : c = d :=
  List.inj_on_of_nodup_map (show (allCauses.map Cause.code).Nodup by decide) (mem_allCauses c) (mem_allCauses d) h

theorem code_lt (c : Cause) : c.code < 256 := by cases c <;> decide

/-- The word that the fault record keeps of a cause: its code, the counter of an ENGINE_FAULT, and whether it is async. -/
def Raise.word (r : Raise) : Nat :=
  r.cause.code + (if r.cause == .engineFault then 256 * r.k else 0) + if r.cause.isAsync then 1024 else 0

/-- The fields of that word do not overlap. -/
theorem word_fields (r : Raise) (hk : r.k < 4) : r.word % 256 = r.cause.code ∧
    r.word / 256 % 4 = (if r.cause = .engineFault then r.k else 0) ∧
    r.word / 1024 = if r.cause = .linkLost ∨ r.cause = .engineFault then 1 else 0 := by
  have hcode := code_lt r.cause
  have hasync : (r.cause.isAsync = true) = (r.cause = .linkLost ∨ r.cause = .engineFault) := by
    simp only [Cause.isAsync, Bool.or_eq_true, beq_iff_eq]
  unfold Raise.word
  simp only [beq_iff_eq, hasync]
  by_cases he : r.cause = .engineFault
  · simp only [he, or_true, if_true] at hcode ⊢
    omega
  · simp only [he, or_false, if_false]
    split <;> omega

/-! ### Causes of decode (R208) -/

section
variable {e : Env} {i : Instr}

/-- An instruction that meets neither of the first two causes. -/
structure Env.WellFormed (e : Env) (i : Instr) : Prop where
  enc : encCheck i = none
  gen : e.t.fore = false ∨ gen2Illegal i.opcode = false
  selector : e.selectorBad i = false

theorem decodeCause_illegal (h : encCheck i = some .illegal ∨ (e.t.fore = true ∧ gen2Illegal i.opcode = true)) :
    e.decodeCause i = some .illegalOpcode := by
  refine if_pos ?_
  simpa using h

/-- The first condition of decode fails. -/
theorem not_illegal (henc : encCheck i ≠ some .illegal) (hgen : e.t.fore = false ∨ gen2Illegal i.opcode = false) :
    ¬(encCheck i = some .illegal || (e.t.fore && gen2Illegal i.opcode)) = true := by
  rcases hgen with h | h <;> simp [henc, h]

theorem decodeCause_reserved (henc : encCheck i ≠ some .illegal) (hgen : e.t.fore = false ∨ gen2Illegal i.opcode = false)
    (h : encCheck i = some .reserved ∨ e.selectorBad i = true) : e.decodeCause i = some .reservedField := by
  refine (if_neg (not_illegal henc hgen)).trans (if_pos ?_)
  simpa using h

/-- The causes of a well-formed instruction, in their order. -/
theorem decodeCause_wellFormed (h : e.WellFormed i) : e.decodeCause i =
    if e.rateBad i then some .rateMismatch
    else if e.regBad i || e.transferOver i then some .regLimit
    else if e.divergedBad i then some .divergedUniform
    else if e.latchBad i then some .latchRegion
    else if e.privBad i then some .privilege
    else none := by
  have hres : ¬(encCheck i = some .reserved || e.selectorBad i) = true := by simp [h.enc, h.selector]
  exact (if_neg (not_illegal (by simp [h.enc]) h.gen)).trans (if_neg hres)

theorem divergedBad_iff : e.divergedBad i = true ↔
    e.t.stack ≠ [] ∧ e.t.trap = none ∧ ∃ r ∈ regsRead i 0 ++ regsWritten i 0, 1024 ≤ r ∧ r < 2048 := by
  unfold Env.divergedBad
  simp only [Bool.and_eq_true, Bool.not_eq_true', List.isEmpty_eq_false_iff, Option.isNone_iff_eq_none, List.any_eq_true,
    decide_eq_true_eq, and_assoc]

theorem divergedBad_of_none (h : e.t.stack = [] ∨ e.t.trap.isSome = true ∨ ∀ r ∈ regsRead i 0 ++ regsWritten i 0, r < 1024 ∨ 2048 ≤ r) :
    e.divergedBad i = false := by
  refine Bool.eq_false_iff.mpr fun hbad => ?_
  obtain ⟨hstack, htrap, r, hr, hlo, hhi⟩ := divergedBad_iff.mp hbad
  rcases h with h | h | h
  · exact hstack h
  · rw [htrap] at h
    cases h
  · rcases h r hr with h | h <;> omega

theorem privBad_of_op (ht : e.t.trap = none) (hop : i.opcode = 0xE1 ∨ i.opcode = 0xE8) : e.privBad i = true := by
  unfold Env.privBad
  rcases hop with hop | hop <;> simp [ht, hop]

theorem privBad_csrw {f : FV} (ht : e.t.trap = none) (h : (e.uval f.sa.toNat).toNat ≤ 0x12) : e.privBad (.csrw f) = true := by
  have hsel : e.selector (.csrw f) = some (e.uval f.sa.toNat) := rfl
  unfold Env.privBad
  rw [hsel, ht]
  simp [Instr.opcode, h]

theorem privBad_of_none (h : e.t.trap.isSome = true ∨ (i.opcode ≠ 0xE1 ∧ i.opcode ≠ 0xE8 ∧ i.opcode ≠ 0xE4)) :
    e.privBad i = false := by
  unfold Env.privBad
  rcases h with h | ⟨h1, h8, h4⟩
  · rw [Option.isNone_eq_false_iff.mpr h, Bool.false_and]
  · simp [h1, h8, h4]

end

/-- Settles O10: by the chain of decode, and by the list of all causes. -/
theorem decodeCausesByPriority : Obligations.DecodeCausesByPriority := by
  refine ⟨fun e i => ⟨fun h => decodeCause_illegal (.inl h), fun hf hg => decodeCause_illegal (.inr ⟨hf, hg⟩), fun henc hgen =>
    ⟨decodeCause_reserved henc hgen, fun hnone hsel => ?_⟩⟩, rfl, fun c d => code_injective, fun r hk => ⟨r.word, rfl, word_fields r hk⟩⟩
  have hchain := decodeCause_wellFormed ⟨hnone, hgen, hsel⟩
  refine ⟨fun hrate => ?_, fun hrate hreg => ?_, fun hrate hreg hstack htrap hr => ?_, fun hrate hreg hdiv => ?_⟩
  · rw [hchain, if_pos hrate]
  · rw [hchain, hrate, if_neg Bool.false_ne_true, if_pos hreg]
  · rw [hchain, hrate, if_neg Bool.false_ne_true, hreg, if_neg Bool.false_ne_true, if_pos (divergedBad_iff.mpr ⟨hstack, htrap, hr⟩)]
  · rw [hrate, if_neg Bool.false_ne_true, hreg, if_neg Bool.false_ne_true, divergedBad_of_none hdiv, if_neg Bool.false_ne_true] at hchain
    refine ⟨fun hlatch => ?_, fun hlatch htrap hop => ?_, fun f hf hlatch htrap hsmall => ?_, fun hlatch hop => ?_⟩
    · rw [hchain, if_pos hlatch]
    · rw [hchain, hlatch, if_neg Bool.false_ne_true, if_pos (privBad_of_op htrap hop)]
    · subst hf
      rw [hchain, hlatch, if_neg Bool.false_ne_true, if_pos (privBad_csrw htrap hsmall)]
    · rw [hchain, hlatch, if_neg Bool.false_ne_true, privBad_of_none hop, if_neg Bool.false_ne_true]

end Sys2Proof.Machine
end

section
/-! A step of the selected team: what it fetches, what holds it back, and the halves of a pair (R142, R144, R182, R228). -/

namespace Sys2Proof.Machine

/-! ### The issue of a team that may issue -/

/-- What a team that may issue does by what it has fetched. -/
def State.issueOf (s : State) (t : Team) (ex : Instr → State → Out) : Fetched → Out
  | .instr i =>
    match t.blocker (s.blockOf t).rtRun i with
    | some n => .next ((s.landFlight t n).1.putTeam (s.landFlight t n).2)
    | none => s.jointly t i ex (noted i s (ex i s))
  | f => s.fetchStop t f

theorem issueTeam_of_ready {s s' : State} {t : Team} {f : Fetched} (ex : Instr → State → Out) (hc : s.canIssue t = true)
    (hp : t.packets = []) (ha : t.async = [] ∨ t.trap.isSome = true ∨ t.cursor ≠ 0) (hf : s.fetched t = (s', f)) :
    s.issueTeam t ex = s'.issueOf t.merge ex f := by
  have hs : t.status = .ready := by simp [State.canIssue] at hc; tauto
  have hasync : (!t.async.isEmpty && t.trap.isNone && t.cursor == 0) = false := by
    rcases ha with h | h | h <;> simp +contextual [h, Option.isSome_iff_ne_none.mp]
  unfold State.issueTeam
  simp only [hs, hc, hp, hasync, hf, Bool.not_true, Bool.false_eq_true, if_false]
  cases f <;> rfl

section
variable {s s' s1 s2 : State} {t u : Team} {i : Instr} {ex : Instr → State → Out}

/-- An upper half that joins issues after its lower half, unless that one has not issued or holds it. -/
theorem jointly_of_joins (hj : s.joins t i = some u) (hissued : ∀ t1, s1.team? t.tid = some t1 → t1.issued ≠ t.issued)
    (hcan : ∃ u1, s1.team? u.tid = some u1 ∧ s1.canIssue u1 = true)
    (h2 : s2 = { s1 with sel := { core := t.core, slot := t.slot, half := 1, joint := true } }) :
    s.jointly t i ex (.next s1) = noted i s2 (ex i s2) := by
  obtain ⟨u1, hu, hc⟩ := hcan
  have hno : (s1.team? t.tid).any (fun t' => t'.issued == t.issued) = false := by
    rw [Bool.eq_false_iff, Ne, Option.any_eq_true]
    rintro ⟨t1, ht1, heq⟩
    exact hissued t1 ht1 (beq_iff_eq.mp heq)
  unfold State.jointly
  subst h2
  simp only [hj, hno, hu, Option.any_some, hc]
  rfl

/-! ### The lower half of a pair, whose upper half is selected (R228) -/

theorem lowerFirst_of_no_lower (h : t.fore = false ∨ t.half ≠ 1 ∨ s.teamAt t.core t.slot 0 = none) : s.lowerFirst t ex = none := by
  unfold State.lowerFirst
  rcases h with h | h | h
  · simp [h]
  · simp [h]
  · rw [h]
    exact ite_self _

variable (hf : t.fore = true) (hh : t.half = 1) (hu : s.teamAt t.core t.slot 0 = some u)
include hf hh hu

theorem lowerFirst_of_lower : s.lowerFirst t ex =
    match s.fetched u with
    | (s', .instr i) =>
      if !s'.readyFor u.merge i then none
      else
        match ({ s with sel := { s.sel with half := 0 } } : State).issueTeam u ex with
        | .next s2 => if (s2.team? u.tid).any fun v => v.issued == u.issued && v.status == .ready && v.stall != 0 then none
            else some (.next s2)
        | o => some o
    | _ => none := by
  unfold State.lowerFirst
  simp only [hf, hh, hu]
  rfl

theorem lowerFirst_of_unfetched (h : ∀ i, (s.fetched u).2 ≠ .instr i) : s.lowerFirst t ex = none := by
  rw [lowerFirst_of_lower hf hh hu]
  split
  · rename_i s' i hx
    exact absurd (congrArg Prod.snd hx) (h i)
  · rfl

variable (hx : s.fetched u = (s1, .instr i))
include hx

theorem lowerFirst_of_unready (h : s1.readyFor u.merge i = false) : s.lowerFirst t ex = none := by
  rw [lowerFirst_of_lower hf hh hu, hx]
  simp [h]

theorem lowerFirst_of_ready (h : s1.readyFor u.merge i = true)
    (hs2 : ({ s with sel := { s.sel with half := 0 } } : State).issueTeam u ex = .next s2) : s.lowerFirst t ex =
      if (s2.team? u.tid).any fun v => v.issued == u.issued && v.status == .ready && v.stall != 0 then none
      else some (.next s2) := by
  rw [lowerFirst_of_lower hf hh hu, hx]
  simp [h, hs2]

end

theorem step_of_lower {s s2 : State} {t : Team} (hi : s.inputs = []) (hp : s.pkg.powered = true) (ht : s.curTeam = some t)
    (hl : s.lowerFirst t exec = some (.next s2)) : step s = passed s (.next s2) := by
  simp [step, State.advanceWith, hi, hp, ht, hl]

/-- Settles O4: by the issue of the selected team, the halves of a pair, and what fetch reads. -/
theorem stepRunsFetchedInstruction : Obligations.StepRunsFetchedInstruction := by
  refine ⟨fun s s' t f hi hp ht hl hc hpk ha hx => ?_, fun s t => lowerFirst_of_no_lower,
    fun s s1 s2 t u i hi hp ht hf hh hu hx => ⟨lowerFirst_of_unready hf hh hu hx, fun hr hs2 hv => ?_, fun hr hs2 hv => ?_⟩,
    fun s t u => lowerFirst_of_unfetched, fun s s1 t f hw => ?_, fun s s1 t w hw => ⟨fun h1 => ?_, fun h2 s2 => ⟨fun w2 hw2 => ?_,
    fun f hw2 => ?_⟩⟩, fun e pc va s1 ps => fetchWord_of_unwritten⟩
  · rw [step_of_issue hi hp ht hl, issueTeam_of_ready exec hc hpk ha hx]
    refine ⟨fun i hfi hb => ⟨fun hj => ?_, fun u s1 s2 hj hn hissued hcan h2 => ?_⟩, fun i n hfi hb => ?_, fun w n hfi => ?_,
      fun w x hfi => ?_⟩
    · rw [hfi, State.issueOf, hb]
      exact congrArg (passed s) (jointly_of_no_joins exec _ hj)
    · rw [hfi, State.issueOf, hb, hn]
      refine congrArg (passed s) (jointly_of_joins hj ?_ hcan ?_)
      · simpa using hissued
      · simpa using h2
    · rw [hfi, State.issueOf, hb]
    · rw [hfi]
      rfl
    · rw [hfi]
      rfl
  · refine step_of_lower hi hp ht ?_
    rw [lowerFirst_of_ready hf hh hu hx hr hs2, if_neg]
    rw [Option.any_eq_true]
    rintro ⟨v, hv2, hst⟩
    simp only [Bool.and_eq_true, beq_iff_eq, bne_iff_ne] at hst
    obtain ⟨⟨hiss, hready⟩, hstall⟩ := hst
    exact hstall (hv v hv2 hiss hready)
  · obtain ⟨v, hv2, hiss, hready, hstall⟩ := hv
    rw [lowerFirst_of_ready hf hh hu hx hr hs2, if_pos]
    rw [Option.any_eq_true]
    exact ⟨v, hv2, by simp [hiss, hready, hstall]⟩
  · unfold State.fetched Env.fetch
    rw [hw]
  · unfold State.fetched Env.fetch
    rw [hw]
    exact if_neg (by rw [h1]; exact Bool.false_ne_true)
  · unfold State.fetched Env.fetch
    rw [hw]
    refine (if_pos h2).trans ?_
    rw [hw2]
  · unfold State.fetched Env.fetch
    rw [hw]
    refine (if_pos h2).trans ?_
    rw [hw2]

end Sys2Proof.Machine
end

section
/-! MRD, MWR and MTAG: the walk over bands, the cells that they read and write, and the tags (R141, R388, R389). -/

namespace Sys2Proof.Machine

/-! ### Tags (R141) -/

theorem getLsbD_one_shiftLeft {w : Nat} (k j : Nat) (hj : j < w) : (1#w <<< k).getLsbD j = decide (j = k) := by
  rw [BitVec.getLsbD_shiftLeft, BitVec.getLsbD_one, Bool.eq_iff_iff]
  simp
  omega

/-- A tag that is set, of every band. -/
theorem tagAt_putTag (v : BitVec 128) {p b q c : Nat} (x : Bool) (hb : b < 8) (hq : q < 16) (hc : c < 8) :
    tagAt (putTag v p b x) q c = if q = p ∧ c = b then x else tagAt v q c := by
  have hlt : 8 * q + c < 128 := by omega
  have hbit : (1#128 <<< (8 * p + b)).getLsbD (8 * q + c) = decide (q = p ∧ c = b) := by
    rw [getLsbD_one_shiftLeft _ _ hlt]
    exact decide_eq_decide.mpr (by omega)
  unfold putTag tagAt
  cases x
  · rw [if_neg Bool.false_ne_true, BitVec.getLsbD_and, BitVec.getLsbD_not, hbit]
    by_cases h : q = p ∧ c = b <;> simp [h, hlt]
  · rw [if_pos rfl, BitVec.getLsbD_or, hbit]
    by_cases h : q = p ∧ c = b <;> simp [h]

/-! ### The walk over bands (R141) -/

/-- What a band does to the core and to what has been read, with its tag update. -/
def bandStep (p : Nat) (use : Option BandUse) (act : CoreSt → Map Word → Nat → CoreSt × Map Word) (x : CoreSt × Map Word) (b : Nat) :
    CoreSt × Map Word :=
  ((match use with | some u => (act x.1 x.2 b).1.tagDone u p b | none => (act x.1 x.2 b).1), (act x.1 x.2 b).2)

section
variable {e : Env} {tile p : Nat} {use : Option BandUse} {act : CoreSt → Map Word → Nat → CoreSt × Map Word}

/-- Whether a band is free, with its tag wait over. -/
def CoreSt.bandOpen (c : CoreSt) (blk tile p : Nat) (use : Option BandUse) (b : Nat) : Bool :=
  !c.bandTaken blk tile b && use.all fun u => c.tagReady u p b

/-- A walk passes an open band. -/
theorem bandWalk_open (hp : e.b.phys tile = p) {c : CoreSt} {b : Nat} (h : c.bandOpen e.b.id tile p use b = true) (m : Map Word)
    (seen bs : List Nat) : e.bandWalk tile use act c seen m (b :: bs) =
      e.bandWalk tile use act (bandStep p use act (c, m) b).1 (seen ++ [b]) (bandStep p use act (c, m) b).2 bs := by
  rw [Env.bandWalk.eq_def]
  dsimp only
  rw [hp]
  unfold CoreSt.bandOpen at h
  cases use with
  | none => exact if_neg (by simpa using h)
  | some u => exact if_neg (by simpa using h)

/-- A walk whose bands are and stay open passes them all. -/
theorem bandWalk_ends (hp : e.b.phys tile = p) (bs : List Nat) (hnd : bs.Nodup)
    (hstep : ∀ x b b', b ∈ bs → b' ∈ bs → b' ≠ b →
      (bandStep p use act x b).1.bandOpen e.b.id tile p use b' = x.1.bandOpen e.b.id tile p use b') (c : CoreSt) (m : Map Word) (seen : List Nat)
    (hopen : ∀ b ∈ bs, c.bandOpen e.b.id tile p use b = true) : e.bandWalk tile use act c seen m bs =
      ((bs.foldl (bandStep p use act) (c, m)).1, seen ++ bs, (bs.foldl (bandStep p use act) (c, m)).2, true) := by
  induction bs generalizing c m seen with
  | nil => simp [Env.bandWalk]
  | cons b bs ih =>
    rw [List.nodup_cons] at hnd
    obtain ⟨hb, hnd⟩ := hnd
    have hrest := ih hnd (fun x y y' hy hy' => hstep x y y' (List.mem_cons_of_mem _ hy) (List.mem_cons_of_mem _ hy'))
      (bandStep p use act (c, m) b).1 (bandStep p use act (c, m) b).2 (seen ++ [b]) fun b' hb' => by
        rw [hstep (c, m) b b' List.mem_cons_self (List.mem_cons_of_mem _ hb') fun h => hb (h ▸ hb')]
        exact hopen b' (List.mem_cons_of_mem _ hb')
    rw [bandWalk_open hp (hopen b List.mem_cons_self), hrest, List.append_assoc]
    rfl

/-- An instruction whose bands are and stay open completes with what they do. -/
theorem bands_ends {need : List Nat} {fin : Env → Map Word → Out} (hmid : e.t.mid = none) (hp : e.b.phys tile = p) (hnd : need.Nodup)
    (hstep : ∀ x b b', b ∈ need → b' ∈ need → b' ≠ b →
      (bandStep p use act x b).1.bandOpen e.b.id tile p use b' = x.1.bandOpen e.b.id tile p use b')
    (hopen : ∀ b ∈ need, (e.s.coreSt e.t.core).bandOpen e.b.id tile p use b = true) : e.bands tile need use act fin =
      fin { e with s := e.s.putCore e.t.core (need.foldl (bandStep p use act) (e.s.coreSt e.t.core, [])).1 }
        (need.foldl (bandStep p use act) (e.s.coreSt e.t.core, [])).2 := by
  have ht : ({ e.t with mid := none } : Team) = e.t := by rw [← hmid]
  have hdue : (need.filter fun b => !([] : List Nat).contains b) = need := List.filter_eq_self.mpr fun _ _ => rfl
  unfold Env.bands
  rw [hmid]
  dsimp only [Option.getD_none]
  rw [hdue, bandWalk_ends hp need hnd hstep _ _ _ hopen, ht]
  rfl

end

/-! ### MRD (R388) -/

/-- What MRD does at a band: its lanes read their cells. -/
def Env.mrdAct (e : Env) (conv base p : Nat) (ok : Lanes) (c : CoreSt) (m : Map Word) (b : Nat) : CoreSt × Map Word :=
  (c, (e.t.list ok).foldl (fun (m : Map Word) l =>
    if e.cellOf base l / 512 = b then mset 0 m l (mrdVal conv (c.cell p (e.cellOf base l))) else m) m)

/-- How MRD meets a band. -/
def mrdUse (f : FV) : BandUse := if f.fn.getLsbD 3 then .consume else .read

theorem mget_foldl_if {P : Nat → Prop} [DecidablePred P] {v : Nat → Word} (ls : List Nat) (m : Map Word) (l : Nat) :
    mget 0 (ls.foldl (fun (m : Map Word) l => if P l then mset 0 m l (v l) else m) m) l =
      if l ∈ ls ∧ P l then v l else mget 0 m l := by
  induction ls generalizing m with
  | nil => simp
  | cons k ls ih =>
    rw [List.foldl_cons, ih]
    simp only [List.mem_cons]
    by_cases hl : l ∈ ls ∧ P l
    · rw [if_pos hl, if_pos ⟨.inr hl.1, hl.2⟩]
    · rw [if_neg hl]
      by_cases hk : l = k
      · subst hk
        by_cases hP : P l
        · rw [if_pos hP, mget_mset, if_pos rfl, if_pos ⟨.inl rfl, hP⟩]
        · rw [if_neg hP, if_neg fun h => hP h.2]
      · have hnot : ¬((l = k ∨ l ∈ ls) ∧ P l) := fun h => hl ⟨h.1.resolve_left hk, h.2⟩
        rw [if_neg hnot]
        split
        · rw [mget_mset, if_neg hk]
        · rfl

section
variable {e : Env} {f : FV} {conv base p : Nat} {ok : Lanes}

/-- The core after an MRD has passed a band. -/
theorem mrd_step_core (x : CoreSt × Map Word) (b : Nat) : (bandStep p (some (mrdUse f)) (e.mrdAct conv base p ok) x b).1 =
    if f.fn.getLsbD 3 then { x.1 with tagC := putTag x.1.tagC p b true } else x.1 := by
  unfold mrdUse
  cases f.fn.getLsbD 3 <;> rfl

/-- What MRD leaves of the core's tags, and what its lanes have read. -/
theorem mrd_fold (bs : List Nat) (hbs : ∀ b ∈ bs, b < 8) (c : CoreSt) (m : Map Word) :
    let r := bs.foldl (bandStep p (some (mrdUse f)) (e.mrdAct conv base p ok)) (c, m)
    ({ r.1 with tagC := 0 } : CoreSt) = { c with tagC := 0 } ∧
      (∀ q b, q < 16 → b < 8 → tagAt r.1.tagC q b = (tagAt c.tagC q b || (f.fn.getLsbD 3 && decide (q = p ∧ b ∈ bs)))) ∧
      ∀ l, mget 0 r.2 l = if l ∈ e.t.list ok ∧ e.cellOf base l / 512 ∈ bs then mrdVal conv (c.cell p (e.cellOf base l))
        else mget 0 m l := by
  induction bs generalizing c m with
  | nil => simp
  | cons b bs ih =>
    have hb := hbs b List.mem_cons_self
    have hcore := mrd_step_core (e := e) (f := f) (conv := conv) (base := base) (p := p) (ok := ok) (c, m) b
    obtain ⟨hrest, htags, hvals⟩ := ih (fun b' h => hbs b' (List.mem_cons_of_mem _ h))
      (bandStep p (some (mrdUse f)) (e.mrdAct conv base p ok) (c, m) b).1
      (bandStep p (some (mrdUse f)) (e.mrdAct conv base p ok) (c, m) b).2
    have hcells : (bandStep p (some (mrdUse f)) (e.mrdAct conv base p ok) (c, m) b).1.cells = c.cells := by
      rw [hcore]
      split <;> rfl
    refine ⟨hrest.trans ?_, fun q b' hq hb' => (htags q b' hq hb').trans ?_, fun l => (hvals l).trans ?_⟩
    · rw [hcore]
      split <;> rfl
    · rw [hcore]
      simp only [List.mem_cons]
      by_cases hfn : f.fn.getLsbD 3 = true
      · rw [if_pos hfn, tagAt_putTag _ _ hb hq hb', hfn]
        by_cases h1 : q = p ∧ b' = b
        · simp [h1]
        · have hiff : (q = p ∧ b' ∈ bs) ↔ (q = p ∧ (b' = b ∨ b' ∈ bs)) := by tauto
          rw [if_neg h1, decide_eq_decide.mpr hiff]
      · rw [if_neg hfn, Bool.eq_false_iff.mpr hfn, Bool.false_and, Bool.false_and]
    · have hcell : CoreSt.cell (bandStep p (some (mrdUse f)) (e.mrdAct conv base p ok) (c, m) b).1 p (e.cellOf base l) =
          c.cell p (e.cellOf base l) := by
        unfold CoreSt.cell
        rw [hcells]
      have hread : mget 0 (bandStep p (some (mrdUse f)) (e.mrdAct conv base p ok) (c, m) b).2 l =
          if l ∈ e.t.list ok ∧ e.cellOf base l / 512 = b then mrdVal conv (c.cell p (e.cellOf base l)) else mget 0 m l :=
        mget_foldl_if _ _ _
      rw [hcell, hread]
      simp only [List.mem_cons]
      split_ifs <;> tauto

/-- The lanes of a set whose cell exists, and those whose cell does not. -/
def Env.cellLanes (e : Env) (base : Nat) (w : Lanes) : Lanes := w &&& e.t.lanesOf fun l => decide (e.cellOf base l < 4096)

/-- MRD once its bands have passed. -/
def Env.mrdEnd (f : FV) (w : Lanes) (e : Env) (m : Map Word) : Out :=
  let bad := w &&& ~~~e.t.helper &&& e.t.lanesOf fun l => decide (4096 ≤ e.cellOf f.sa.toNat l)
  e.cellEnd bad (.mrd f) 0 (e.t.putV f.d.toNat (w &&& ~~~bad) fun l => mget 0 m l)
    (e.vec (.mrd f) f.d.toNat (w &&& ~~~bad) fun l => mget 0 m l)

theorem exec_mrd {s : State} (h : s.ready (.mrd f) = some e) : exec (.mrd f) s =
    if e.t.act f.h ≠ 0 ∧ 4 ≤ (e.uval f.sb.toNat).toNat % 2 ^ 32 then
      .next (e.counted.takeTrap e.t (e.raise (.mrd f) .descInvalid))
    else e.bands f.sc.toNat (e.bandsOf f.sa.toNat (e.cellLanes f.sa.toNat (e.t.act f.h))) (some (mrdUse f))
      (e.mrdAct ((e.uval f.sb.toNat).toNat % 2 ^ 32) f.sa.toNat (e.b.phys f.sc.toNat) (e.cellLanes f.sa.toNat (e.t.act f.h)))
      (Env.mrdEnd f (e.t.act f.h)) := by
  show execMrd f s = _
  unfold execMrd
  rw [issue_of_ready h]
  rfl

end

/-! ### The lanes and bands of cells -/

section
variable {e : Env} {base : Nat} {w : Lanes}

theorem getLsbD_cellLanes {l : Nat} : (e.cellLanes base w).getLsbD l = true ↔ l ∈ e.t.list w ∧ e.cellOf base l < 4096 := by
  rw [mem_list, Env.cellLanes, BitVec.getLsbD_and, Bool.and_eq_true, getLsbD_lanesOf_all, decide_eq_true_eq]
  constructor
  · rintro ⟨hw, -, hl, hc⟩; exact ⟨⟨hl, hw⟩, hc⟩
  · rintro ⟨⟨hl, hw⟩, hc⟩; exact ⟨hw, lt_of_bit hw, hl, hc⟩

theorem mem_cellLanes {l : Nat} : l ∈ e.t.list (e.cellLanes base w) ↔ l ∈ e.t.list w ∧ e.cellOf base l < 4096 := by
  rw [mem_list, getLsbD_cellLanes]
  exact ⟨fun h => h.2, fun h => ⟨(mem_list.mp h.1).1, h⟩⟩

theorem mem_bandsOf {b : Nat} : b ∈ e.bandsOf base w ↔ b < 8 ∧ ∃ l ∈ e.t.list w, e.cellOf base l / 512 = b := by
  unfold Env.bandsOf
  simp only [List.mem_filter, List.mem_range, List.any_eq_true, beq_iff_eq]

theorem bandsOf_nodup : (e.bandsOf base w).Nodup := List.nodup_range.filter _

/-- The bands of the cells that exist: those of the lanes whose cell is below the tile's end. -/
theorem mem_bandsOf_cellLanes {b : Nat} (hb : b < 8) :
    b ∈ e.bandsOf base (e.cellLanes base w) ↔ ∃ l ∈ e.t.list w, e.cellOf base l / 512 = b := by
  rw [mem_bandsOf]
  constructor
  · rintro ⟨-, l, hl, hc⟩; exact ⟨l, (mem_cellLanes.mp hl).1, hc⟩
  · rintro ⟨l, hl, hc⟩; exact ⟨hb, l, mem_cellLanes.mpr ⟨hl, by omega⟩, hc⟩

/-- Where every lane of a set has a cell, or is a helper, no lane fails. -/
theorem no_bad_lane {v : Lanes} (h : ∀ l ∈ e.t.list w, v.getLsbD l = true → e.cellOf base l < 4096) :
    w &&& v &&& e.t.lanesOf (fun l => decide (4096 ≤ e.cellOf base l)) = 0 := by
  refine BitVec.eq_of_getLsbD_eq fun l hl => ?_
  rw [BitVec.getLsbD_and, BitVec.getLsbD_and, show (0 : Lanes) = 0#1024 from rfl, BitVec.getLsbD_zero, Bool.eq_false_iff]
  intro hbit
  rw [Bool.and_eq_true, Bool.and_eq_true, getLsbD_lanesOf_all, decide_eq_true_eq] at hbit
  obtain ⟨⟨hw, hv⟩, -, hlt, hbad⟩ := hbit
  have hgood := h l (mem_list.mpr ⟨hlt, hw⟩) hv
  omega

end

/-! ### What completes with a changed core -/

/-- Only the core's own state is another one. -/
theorem putCore_only (s : State) (n : Nat) (c : CoreSt) : (s.putCore n c).coreSt n = c ∧
    (∀ k, k ≠ n → (s.putCore n c).coreSt k = s.coreSt k) ∧ ({ s.putCore n c with cores := [] } : State) = { s with cores := [] } :=
  ⟨coreSt_putCore_same s n c, fun k hk => (mget_mset ({} : CoreSt) s.cores n k c).trans (if_neg hk), rfl⟩

/-- A team that completes at the next instruction keeps that it has no progress to keep. -/
theorem done_mid {t : Team} (h : t.mid = none) (op : Nat) (pc : CodeOff) :
    ({ ((t.fixLoads op).shift none).unretry with pc := pc } : Team) =
      { ((t.fixLoads op).shift none).unretry with mid := none, pc := pc } := by
  have hmid : ((t.fixLoads op).shift none).unretry.mid = none := by simpa using h
  rw [← hmid]

section
variable {f : FV} {e : Env}

/-- MRD, once its bands have passed and no lane fails, gives what its lanes have read. -/
theorem mrdEnd_gives (m : Map Word) (h : ∀ l ∈ e.t.list (e.t.act f.h), e.cellOf f.sa.toNat l < 4096 ∨ e.t.helper.getLsbD l = true) :
    e.gives32 (.mrd f) f.d.toNat (fun l => mget 0 m l) (Env.mrdEnd f (e.t.act f.h) e m) := by
  have hbad := no_bad_lane (e := e) (base := f.sa.toNat) (w := e.t.act f.h) (v := ~~~e.t.helper) fun l hl hv => by
    rw [BitVec.getLsbD_not, Bool.and_eq_true, Bool.not_eq_true'] at hv
    exact (h l hl).resolve_right (by rw [hv.2]; exact Bool.false_ne_true)
  have hall : e.t.act f.h &&& ~~~(0 : Lanes) = e.t.act f.h := by
    rw [show ~~~(0 : Lanes) = BitVec.allOnes 1024 from BitVec.not_zero, BitVec.and_allOnes]
  unfold Env.mrdEnd
  dsimp only
  rw [hbad, hall, Env.cellEnd, if_pos rfl]
  exact vec_gives e f.d.toNat _

end

/-! ### MWR (R388) -/

/-- What MWR does at a band: the cells of its lanes take their values. -/
def Env.mwrAct (e : Env) (conv base src p : Nat) (ok : Lanes) (c : CoreSt) (m : Map Word) (b : Nat) : CoreSt × Map Word :=
  let old := mslice c.cells (4096 * p + 512 * b) 512
  let b0 := e.cellOf base 0
  ({ c with cells := mput c.cells (4096 * p + 512 * b) 512 (mrow 0 512 fun k =>
    let n := 512 * b + k
    let c := mget 0 old k
    if b0 ≤ n && ok.getLsbD (n - b0) then mwrVal conv c (e.src32 src (n - b0)) else c) }, m)

section
variable {e : Env} {f : FV} {conv base src p : Nat} {ok : Lanes}

/-- The cells after an MWR has passed a band. -/
theorem mwr_step_cell (hp : p < 16) {b : Nat} (hb : b < 8) (x : CoreSt × Map Word) {q n : Nat} (hn : n < 4096) :
    (bandStep p (some .overwrite) (e.mwrAct conv base src p ok) x b).1.cell q n =
      if q = p ∧ n / 512 = b ∧ e.cellOf base 0 ≤ n ∧ ok.getLsbD (n - e.cellOf base 0) = true then
        mwrVal conv (x.1.cell p n) (e.src32 src (n - e.cellOf base 0))
      else x.1.cell q n := by
  have hcells : (bandStep p (some .overwrite) (e.mwrAct conv base src p ok) x b).1.cells = (e.mwrAct conv base src p ok x.1 x.2 b).1.cells := rfl
  unfold CoreSt.cell
  rw [hcells, Env.mwrAct]
  dsimp only
  rw [mget_mput _ _ _ _ _ (mrow_keys _ _ _)]
  by_cases hin : 4096 * p + 512 * b ≤ 4096 * q + n ∧ 4096 * q + n < 4096 * p + 512 * b + 512
  · obtain ⟨rfl, hband⟩ : q = p ∧ n / 512 = b := by omega
    have hk : 4096 * q + n - (4096 * q + 512 * b) = n - 512 * b := by omega
    have hk512 : n - 512 * b < 512 := by omega
    have hn' : 512 * b + (n - 512 * b) = n := by omega
    have hplace : 4096 * q + 512 * b + (n - 512 * b) = 4096 * q + n := by omega
    rw [if_pos hin, hk, mget_mrow, if_pos hk512, hn', mget_mslice, if_pos hk512, hplace]
    simp only [hband, true_and, Bool.and_eq_true, decide_eq_true_eq]
  · rw [if_neg hin, if_neg]
    rintro ⟨rfl, hband, -⟩
    omega

/-- The tags after an MWR has passed a band. -/
theorem mwr_step_tags (x : CoreSt × Map Word) (b : Nat) :
    (bandStep p (some .overwrite) (e.mwrAct conv base src p ok) x b).1.tagV = putTag x.1.tagV p b true ∧
    (bandStep p (some .overwrite) (e.mwrAct conv base src p ok) x b).1.tagC = putTag x.1.tagC p b false ∧
    (bandStep p (some .overwrite) (e.mwrAct conv base src p ok) x b).1.ops = x.1.ops := ⟨rfl, rfl, rfl⟩

/-- What MWR leaves of the cells and the tags of all tiles. -/
theorem mwr_fold (hp : p < 16) (bs : List Nat) (hnd : bs.Nodup) (hbs : ∀ b ∈ bs, b < 8) (c : CoreSt) (m : Map Word) :
    let r := bs.foldl (bandStep p (some .overwrite) (e.mwrAct conv base src p ok)) (c, m)
    (∀ q n, n < 4096 → r.1.cell q n =
      if q = p ∧ n / 512 ∈ bs ∧ e.cellOf base 0 ≤ n ∧ ok.getLsbD (n - e.cellOf base 0) = true then
        mwrVal conv (c.cell p n) (e.src32 src (n - e.cellOf base 0)) else c.cell q n) ∧
      ∀ q b, q < 16 → b < 8 → tagAt r.1.tagV q b = (if q = p ∧ b ∈ bs then true else tagAt c.tagV q b) ∧
        tagAt r.1.tagC q b = (if q = p ∧ b ∈ bs then false else tagAt c.tagC q b) := by
  induction bs generalizing c m with
  | nil => simp
  | cons b bs ih =>
    have hb := hbs b List.mem_cons_self
    rw [List.nodup_cons] at hnd
    obtain ⟨hnot, hnd⟩ := hnd
    obtain ⟨hcells, htags⟩ := ih hnd (fun b' h => hbs b' (List.mem_cons_of_mem _ h))
      (bandStep p (some .overwrite) (e.mwrAct conv base src p ok) (c, m) b).1
      (bandStep p (some .overwrite) (e.mwrAct conv base src p ok) (c, m) b).2
    obtain ⟨hv, hc, -⟩ := mwr_step_tags (e := e) (conv := conv) (base := base) (src := src) (p := p) (ok := ok) (c, m) b
    refine ⟨fun q n hn => (hcells q n hn).trans ?_, fun q b' hq hb' => ⟨(htags q b' hq hb').1.trans ?_, (htags q b' hq hb').2.trans ?_⟩⟩
    · rw [mwr_step_cell hp hb _ hn, mwr_step_cell hp hb _ hn]
      simp only [List.mem_cons]
      by_cases h1 : n / 512 = b
      · rw [h1]
        simp only [hnot, true_or, false_and, and_false, if_false, true_and]
      · simp only [h1, false_or, false_and, and_false, if_false]
    · rw [hv, tagAt_putTag _ _ hb hq hb']
      simp only [List.mem_cons]
      split_ifs <;> tauto
    · rw [hc, tagAt_putTag _ _ hb hq hb']
      simp only [List.mem_cons]
      split_ifs <;> tauto

/-- MWR once its bands have passed. -/
def Env.mwrEnd (f : FV) (w : Lanes) (e : Env) (_ : Map Word) : Out :=
  e.cellEnd (w &&& e.t.lanesOf fun l => decide (4096 ≤ e.cellOf f.sb.toNat l)) (.mwr f) 1 e.t (e.skip (.mwr f))

theorem exec_mwr {s : State} (h : s.ready (.mwr f) = some e) : exec (.mwr f) s =
    if e.t.act f.h ≠ 0 ∧ 4 ≤ (e.uval f.sc.toNat).toNat % 2 ^ 32 then
      .next (e.counted.takeTrap e.t (e.raise (.mwr f) .descInvalid))
    else e.bands f.d.toNat (e.bandsOf f.sb.toNat (e.cellLanes f.sb.toNat (e.t.actNH f.h))) (some .overwrite)
      (e.mwrAct ((e.uval f.sc.toNat).toNat % 2 ^ 32) f.sb.toNat f.sa.toNat (e.b.phys f.d.toNat)
        (e.cellLanes f.sb.toNat (e.t.actNH f.h)))
      (Env.mwrEnd f (e.t.actNH f.h)) := by
  show execMwr f s = _
  unfold execMwr
  rw [issue_of_ready h]
  rfl

/-- MWR, once its bands have passed and every lane has a cell, completes. -/
theorem mwrEnd_eq (m : Map Word) (h : ∀ l ∈ e.t.list (e.t.actNH f.h), e.cellOf f.sb.toNat l < 4096) :
    Env.mwrEnd f (e.t.actNH f.h) e m = e.skip (.mwr f) := by
  have hbad := no_bad_lane (e := e) (base := f.sb.toNat) (w := e.t.actNH f.h) (v := BitVec.allOnes 1024) fun l hl _ => h l hl
  rw [BitVec.and_allOnes] at hbad
  unfold Env.mwrEnd
  rw [hbad, Env.cellEnd, if_pos rfl]

end

/-! ### MTAG (R389) -/

/-- What MTAG does at a band. -/
def mtagAct (p tags : Nat) (c : CoreSt) (m : Map Word) (b : Nat) : CoreSt × Map Word :=
  (c.tag p b (tags.testBit 0) (tags.testBit 1), m)

section
variable {e : Env} {f : FV} {p tags : Nat}

/-- What MTAG leaves of the core: the tags of its bands as told. -/
theorem mtag_fold (bs : List Nat) (hbs : ∀ b ∈ bs, b < 8) (c : CoreSt) (m : Map Word) :
    let r := bs.foldl (bandStep p none (mtagAct p tags)) (c, m)
    ({ r.1 with tagV := 0, tagC := 0 } : CoreSt) = { c with tagV := 0, tagC := 0 } ∧
      ∀ q b, q < 16 → b < 8 → tagAt r.1.tagV q b = (if q = p ∧ b ∈ bs then tags.testBit 0 else tagAt c.tagV q b) ∧
        tagAt r.1.tagC q b = (if q = p ∧ b ∈ bs then tags.testBit 1 else tagAt c.tagC q b) := by
  induction bs generalizing c m with
  | nil => simp
  | cons b bs ih =>
    have hb := hbs b List.mem_cons_self
    obtain ⟨hrest, htags⟩ := ih (fun b' h => hbs b' (List.mem_cons_of_mem _ h)) (c.tag p b (tags.testBit 0) (tags.testBit 1)) m
    refine ⟨hrest, fun q b' hq hb' => ⟨(htags q b' hq hb').1.trans ?_, (htags q b' hq hb').2.trans ?_⟩⟩
    · rw [CoreSt.tag, tagAt_putTag _ _ hb hq hb']
      simp only [List.mem_cons]
      split_ifs <;> tauto
    · rw [CoreSt.tag, tagAt_putTag _ _ hb hq hb']
      simp only [List.mem_cons]
      split_ifs <;> tauto

theorem exec_mtag {s : State} (h : s.ready (.mtag f) = some e) : exec (.mtag f) s =
    if e.t.act f.h = 0 then .next (e.stepped (.mtag f) e.s e.t none)
    else if 256 ≤ (e.uval f.sa.toNat).toNat % 2 ^ 32 ∨ 4 ≤ (e.uval f.sb.toNat).toNat % 2 ^ 32 then
      .next (e.counted.takeTrap e.t (e.raise (.mtag f) .descInvalid))
    else e.bands f.d.toNat (setBits 8 ((e.uval f.sa.toNat).toNat % 2 ^ 32)) none
      (mtagAct (e.b.phys f.d.toNat) ((e.uval f.sb.toNat).toNat % 2 ^ 32)) fun e _ => e.skip (.mtag f) := by
  show execMtag f s = _
  unfold execMtag
  rw [issue_of_ready h]
  rfl

end

/-! ### Passing a band leaves the other bands open -/

section
variable {e : Env} {f : FV} {conv base src p tags blk tile : Nat} {ok : Lanes} {x : CoreSt × Map Word}

theorem mrd_keeps_open (b b' : Nat) :
    (bandStep p (some (mrdUse f)) (e.mrdAct conv base p ok) x b).1.bandOpen blk tile p (some (mrdUse f)) b' =
      x.1.bandOpen blk tile p (some (mrdUse f)) b' := by
  rw [mrd_step_core]
  unfold CoreSt.bandOpen mrdUse
  cases f.fn.getLsbD 3 <;> rfl

theorem mwr_keeps_open (hp : p < 16) {b b' : Nat} (hb : b < 8) (hb' : b' < 8) (hne : b' ≠ b) :
    (bandStep p (some .overwrite) (e.mwrAct conv base src p ok) x b).1.bandOpen blk tile p (some .overwrite) b' =
      x.1.bandOpen blk tile p (some .overwrite) b' := by
  obtain ⟨-, hc, hops⟩ := mwr_step_tags (e := e) (conv := conv) (base := base) (src := src) (p := p) (ok := ok) x b
  unfold CoreSt.bandOpen CoreSt.bandTaken
  simp only [Option.all_some, CoreSt.tagReady]
  rw [hc, hops, tagAt_putTag _ _ hb hp hb', if_neg fun h => hne h.2]

end

section
variable {f : FV} {s : State} {e : Env} {p : Nat}

/-- The core and what lanes have read after an MRD has passed its bands. -/
def Env.mrdWalked (e : Env) (f : FV) (p : Nat) : CoreSt × Map Word :=
  (e.bandsOf f.sa.toNat (e.cellLanes f.sa.toNat (e.t.act f.h))).foldl (bandStep p (some (mrdUse f))
    (e.mrdAct ((e.uval f.sb.toNat).toNat % 2 ^ 32) f.sa.toNat p (e.cellLanes f.sa.toNat (e.t.act f.h)))) (e.s.coreSt e.t.core, [])

/-- An MRD whose bands are free and tagged passes them. -/
theorem mrd_walks (h : s.ready (.mrd f) = some e) (hmid : e.t.mid = none) (hconv : (e.uval f.sb.toNat).toNat % 2 ^ 32 < 4)
    (hp : e.b.phys f.sc.toNat = p) (hbands : ∀ b, b < 8 → (∃ l ∈ e.t.list (e.t.act f.h), e.cellOf f.sa.toNat l / 512 = b) →
      (e.s.coreSt e.t.core).bandTaken e.b.id f.sc.toNat b = false ∧ tagAt (e.s.coreSt e.t.core).tagV p b = true) :
    exec (.mrd f) s = Env.mrdEnd f (e.t.act f.h) { e with s := e.s.putCore e.t.core (e.mrdWalked f p).1 } (e.mrdWalked f p).2 := by
  rw [exec_mrd h, if_neg fun hbad => absurd hbad.2 (not_le.mpr hconv), hp]
  refine bands_ends hmid hp bandsOf_nodup (fun x b b' _ _ _ => mrd_keeps_open b b') fun b hb => ?_
  have hb8 := (mem_bandsOf.mp hb).1
  obtain ⟨htaken, htag⟩ := hbands b hb8 ((mem_bandsOf_cellLanes hb8).mp hb)
  unfold CoreSt.bandOpen mrdUse
  rw [htaken]
  cases f.fn.getLsbD 3 <;> exact htag

/-- The core after an MWR has passed its bands. -/
def Env.mwrWalked (e : Env) (f : FV) (p : Nat) : CoreSt × Map Word :=
  (e.bandsOf f.sb.toNat (e.cellLanes f.sb.toNat (e.t.actNH f.h))).foldl (bandStep p (some .overwrite)
    (e.mwrAct ((e.uval f.sc.toNat).toNat % 2 ^ 32) f.sb.toNat f.sa.toNat p (e.cellLanes f.sb.toNat (e.t.actNH f.h))))
      (e.s.coreSt e.t.core, [])

/-- An MWR whose bands are free and may be overwritten passes them. -/
theorem mwr_walks (h : s.ready (.mwr f) = some e) (hmid : e.t.mid = none) (hconv : (e.uval f.sc.toNat).toNat % 2 ^ 32 < 4)
    (hp : e.b.phys f.d.toNat = p) (hp16 : p < 16)
    (hbands : ∀ b, b < 8 → (∃ l ∈ e.t.list (e.t.actNH f.h), e.cellOf f.sb.toNat l / 512 = b) →
      (e.s.coreSt e.t.core).bandTaken e.b.id f.d.toNat b = false ∧ tagAt (e.s.coreSt e.t.core).tagC p b = true) :
    exec (.mwr f) s = Env.mwrEnd f (e.t.actNH f.h) { e with s := e.s.putCore e.t.core (e.mwrWalked f p).1 } (e.mwrWalked f p).2 := by
  rw [exec_mwr h, if_neg fun hbad => absurd hbad.2 (not_le.mpr hconv), hp]
  refine bands_ends hmid hp bandsOf_nodup
    (fun x b b' hb hb' hne => mwr_keeps_open hp16 (mem_bandsOf.mp hb).1 (mem_bandsOf.mp hb').1 hne) fun b hb => ?_
  have hb8 := (mem_bandsOf.mp hb).1
  obtain ⟨htaken, htag⟩ := hbands b hb8 ((mem_bandsOf_cellLanes hb8).mp hb)
  unfold CoreSt.bandOpen
  rw [htaken]
  exact htag

/-- The core after an MTAG has passed its bands. -/
def Env.mtagWalked (e : Env) (f : FV) (p : Nat) : CoreSt × Map Word :=
  (setBits 8 ((e.uval f.sa.toNat).toNat % 2 ^ 32)).foldl (bandStep p none (mtagAct p ((e.uval f.sb.toNat).toNat % 2 ^ 32)))
    (e.s.coreSt e.t.core, [])

theorem mem_setBits {w x b : Nat} : b ∈ setBits w x ↔ b < w ∧ x.testBit b = true := by
  rw [setBits, List.mem_filter, List.mem_range]

/-- An MTAG whose bands are free passes them. -/
theorem mtag_walks (h : s.ready (.mtag f) = some e) (hmid : e.t.mid = none) (hact : e.t.act f.h ≠ 0)
    (hmask : (e.uval f.sa.toNat).toNat % 2 ^ 32 < 256) (htags : (e.uval f.sb.toNat).toNat % 2 ^ 32 < 4) (hp : e.b.phys f.d.toNat = p)
    (hbands : ∀ b, b < 8 → ((e.uval f.sa.toNat).toNat % 2 ^ 32).testBit b = true →
      (e.s.coreSt e.t.core).bandTaken e.b.id f.d.toNat b = false) :
    exec (.mtag f) s = ({ e with s := e.s.putCore e.t.core (e.mtagWalked f p).1 } : Env).skip (.mtag f) := by
  rw [exec_mtag h, if_neg hact, if_neg (by omega), hp]
  refine bands_ends hmid hp (List.nodup_range.filter _) (fun _ _ _ _ _ _ => rfl) fun b hb => ?_
  obtain ⟨hb8, hbit⟩ := mem_setBits.mp hb
  unfold CoreSt.bandOpen
  rw [hbands b hb8 hbit]
  rfl

end

/-- Settles O47: by the walk over bands that are free and tagged, and what each instruction does at a band. -/
theorem matrixCellInstructions : Obligations.MatrixCellInstructions := by
  intro f s e c num after hmid
  refine ⟨?_, ?_, ?_⟩
  · intro h conv
    refine ⟨fun hact hconv => (exec_mrd h).trans (if_pos ⟨hact, hconv⟩), fun hconv p hp hp16 hcells hbands => ?_⟩
    have hwalk := mrd_walks h hmid hconv hp hbands
    obtain ⟨hrest, htags, hvals⟩ := mrd_fold (e := e) (f := f) (conv := conv) (base := f.sa.toNat) (p := p)
      (ok := e.cellLanes f.sa.toNat (e.t.act f.h)) (e.bandsOf f.sa.toNat (e.cellLanes f.sa.toNat (e.t.act f.h)))
      (fun b hb => (mem_bandsOf.mp hb).1) c []
    obtain ⟨t, hexec, hpc, -, hres⟩ := mrdEnd_gives (e := { e with s := e.s.putCore e.t.core (e.mrdWalked f p).1 }) (f := f)
      (e.mrdWalked f p).2 hcells
    have hlanes (l : Nat) (hl : l ∈ e.t.list (e.t.act f.h)) :=
      hres l (lt_of_bit (mem_list.mp hl).2) (mem_list.mp hl).1 (mem_list.mp hl).2
    refine ⟨(e.mrdWalked f p).1, t, ⟨e.s.putCore e.t.core (e.mrdWalked f p).1, hwalk.trans hexec, putCore_only ..⟩, hpc,
      fun l hl => (hlanes l hl).1.trans ((hvals l).trans (if_congr ?_ rfl rfl)),
      fun hws l hl => ((hlanes l hl).2 hws).trans (hlanes l hl).1.symm, hrest, fun q b hq hb => ?_⟩
    · rw [mem_cellLanes]
      constructor
      · rintro ⟨⟨-, hlt⟩, -⟩; exact hlt
      · intro hlt
        have hband : e.cellOf f.sa.toNat l / 512 < 8 := Nat.div_lt_of_lt_mul hlt
        exact ⟨⟨hl, hlt⟩, (mem_bandsOf_cellLanes hband).mpr ⟨l, hl, rfl⟩⟩
    · refine (htags q b hq hb).trans ?_
      simp only [mem_bandsOf_cellLanes hb]
      rfl
  · intro h conv
    refine ⟨fun hact hconv => (exec_mwr h).trans (if_pos ⟨hact, hconv⟩), ?_⟩
    intro hconv p hp hp16 hcells hit hbands
    have hwalk := mwr_walks h hmid hconv hp hp16 hbands
    obtain ⟨hcell, htags⟩ := mwr_fold (e := e) (conv := conv) (base := f.sb.toNat) (src := f.sa.toNat) (p := p)
      (ok := e.cellLanes f.sb.toNat (e.t.actNH f.h)) hp16 (e.bandsOf f.sb.toNat (e.cellLanes f.sb.toNat (e.t.actNH f.h)))
      bandsOf_nodup (fun b hb => (mem_bandsOf.mp hb).1) c []
    rw [mwrEnd_eq (e := { e with s := e.s.putCore e.t.core (e.mwrWalked f p).1 }) _ hcells] at hwalk
    refine ⟨(e.mwrWalked f p).1, _, ⟨e.s.putCore e.t.core (e.mwrWalked f p).1, hwalk, putCore_only ..⟩, done_mid hmid _ _,
      fun q n hn => (hcell q n hn).trans (if_congr ?_ rfl rfl), fun q b hq hb => ?_⟩
    · have hzero : e.cellOf f.sb.toNat 0 = (e.uval f.sb.toNat).toNat % 2 ^ 32 := rfl
      rw [getLsbD_cellLanes, hzero]
      refine and_congr_right fun _ => ⟨fun ⟨_, hle, hl, _⟩ => ⟨hle, hl⟩, fun ⟨hle, hl⟩ => ?_⟩
      have hcellOf : e.cellOf f.sb.toNat (n - (e.uval f.sb.toNat).toNat % 2 ^ 32) = n := Nat.add_sub_of_le hle
      exact ⟨(mem_bandsOf_cellLanes (Nat.div_lt_of_lt_mul hn)).mpr ⟨_, hl, by rw [hcellOf]⟩, hle, hl, by rwa [hcellOf]⟩
    · obtain ⟨hv, hc⟩ := htags q b hq hb
      simp only [mem_bandsOf_cellLanes hb] at hv hc
      exact ⟨fun hyes => ⟨hv.trans (if_pos hyes), hc.trans (if_pos hyes)⟩, fun hno => ⟨hv.trans (if_neg hno), hc.trans (if_neg hno)⟩⟩
  · intro h mask tags
    refine ⟨fun hact => (exec_mtag h).trans (if_pos hact), fun hact hbad => ((exec_mtag h).trans (if_neg hact)).trans (if_pos hbad),
      fun hact hmask htags p hp hp16 hbands => ?_⟩
    have hwalk := mtag_walks h hmid hact hmask htags hp hbands
    obtain ⟨hrest, htag⟩ := mtag_fold (p := p) (tags := tags) (setBits 8 mask) (fun b hb => (mem_setBits.mp hb).1) c []
    refine ⟨(e.mtagWalked f p).1, _, ⟨e.s.putCore e.t.core (e.mtagWalked f p).1, hwalk, putCore_only ..⟩, done_mid hmid _ _,
      hrest, fun q b hq hb => ?_⟩
    obtain ⟨hv, hc⟩ := htag q b hq hb
    simp only [mem_setBits, hb, true_and] at hv hc
    exact ⟨hv, hc⟩

end Sys2Proof.Machine
end

section
/-! The passes of a load as flights (R218): which mask words have one, its lanes, and the values it carries. -/

namespace Sys2Proof.Machine

/-! ### Pairs by key -/

/-- A key that has one value is looked up to it. -/
theorem alookup_of_unique {β : Type} {d x : β} {ps : List (Nat × β)} {k : Nat} (hx : (k, x) ∈ ps) (hu : ∀ y, (k, y) ∈ ps → y = x) :
    alookup d ps k = x := by
  unfold alookup
  cases hf : ps.find? fun p => p.1 == k with
  | none => exact absurd (List.find?_eq_none.mp hf _ hx) (by simp)
  | some p =>
    have hk : p.1 = k := by simpa using List.find?_some hf
    have hp : (k, p.2) ∈ ps := by rw [← hk]; exact List.mem_of_find?_eq_some hf
    exact hu p.2 hp

/-- The words of the lanes of `vs`, kept by register and lane, are looked up to what they are. -/
theorem alookup_run {α : Type} {lane len : α → Nat} {val : α → Nat → Word} {vs : List α} {ps : List (Nat × Word)} {dst : Nat}
    (hps : ∀ p, p ∈ ps ↔ ∃ v ∈ vs, ∃ k, k < len v ∧ p = (1024 * (dst + k) + lane v, val v k)) (hl : ∀ v ∈ vs, lane v < 1024)
    (hinj : ∀ v ∈ vs, ∀ v' ∈ vs, lane v = lane v' → v = v') {v : α} (hv : v ∈ vs) {k : Nat} (hk : k < len v) :
    alookup 0 ps (1024 * (dst + k) + lane v) = val v k := by
  refine alookup_of_unique ((hps _).mpr ⟨v, hv, k, hk, rfl⟩) fun y hy => ?_
  obtain ⟨v', hv', k', -, heq⟩ := (hps _).mp hy
  obtain ⟨hkey, rfl⟩ := Prod.mk.inj heq
  have h1 := hl v hv
  have h2 := hl v' hv'
  obtain rfl : k = k' := by omega
  rw [hinj v hv v' hv' (by omega)]

/-- The images of a list's elements with their places. -/
theorem mem_map_zipIdx {α β : Type} {xs : List α} {g : α × Nat → β} (z : α) {p : β} :
    p ∈ xs.zipIdx.map g ↔ ∃ k, k < xs.length ∧ p = g (xs.getD k z, k) := by
  rw [List.mem_map]
  constructor
  · rintro ⟨⟨x, k⟩, hx, rfl⟩
    have hget := List.mem_zipIdx_iff_getElem?.mp hx
    refine ⟨k, (List.getElem?_eq_some_iff.mp hget).1, ?_⟩
    rw [List.getD_eq_getElem?_getD, hget]
    rfl
  · rintro ⟨k, hk, rfl⟩
    refine ⟨(xs.getD k z, k), List.mem_zipIdx_iff_getElem?.mpr ?_, rfl⟩
    rw [List.getElem?_eq_getElem hk, List.getD_eq_getElem _ _ hk]

/-! ### Lanes of a list as a set -/

/-- The lanes of a list are those that the set of its lanes holds. -/
theorem getLsbD_foldl_lanes {α : Type} {lane : α → Nat} (xs : List α) (m : Lanes) {l : Nat} (hl : l < 1024) :
    (xs.foldl (fun m a => m ||| (1#1024 <<< lane a)) m).getLsbD l = true ↔ m.getLsbD l = true ∨ l ∈ xs.map lane := by
  induction xs generalizing m with
  | nil => simp
  | cons x xs ih =>
    rw [List.foldl_cons, ih, BitVec.getLsbD_or, getLsbD_one_shiftLeft _ _ hl, Bool.or_eq_true, decide_eq_true_eq, List.map_cons,
      List.mem_cons, or_assoc]

/-- The mask word of a lane of the team is one of its words. -/
theorem word_lt_words {t : Team} {l : Nat} (h : l < t.lanes) : l / 32 < t.words := by
  unfold Team.words ceilDiv
  omega

/-! ### Passes -/

section
variable {e : Env} {pc : CodeOff} {dst size space pol : Nat} {ws : Bool} {as : List LaneAcc} {vals : List (Nat × Nat)}

/-- The lanes of a mask word, of a load's accesses. -/
def passLanes (as : List LaneAcc) (j : Nat) : List LaneAcc := as.filter fun a => a.lane / 32 == j

/-- The pass of a load for one mask word. -/
def Env.passOf (e : Env) (pc : CodeOff) (dst size space pol : Nat) (ws : Bool) (as : List LaneAcc) (vals : List (Nat × Nat)) (j : Nat) :
    Flight :=
  { gen := e.t.gen, seq := e.t.issued, pc := pc, dst := dst, word := j, size := size, space := space, pol := pol,
    lanes := (passLanes as j).foldl (fun m a => m ||| (1#1024 <<< a.lane)) 0,
    addr := (passLanes as j).foldl (fun m a => mset 0 m a.lane a.addr) [],
    vals := loadVals dst size (vals.filter fun v => v.1 / 32 == j),
    latchOnly := ws, inRegion := e.t.region.isSome,
    home := (passLanes as j).any fun a => a.tgt.any (Target.atHome pol) }

/-- A load has one pass for each mask word that holds a lane. -/
theorem flights_eq : e.flights pc dst size space pol ws as vals = (List.range e.t.words).filterMap fun j =>
    if passLanes as j = [] then none else some (e.passOf pc dst size space pol ws as vals j) := by
  refine List.filterMap_congr fun j _ => ?_
  unfold Env.passOf
  change (match passLanes as j with | [] => none | xs => _) = _
  cases passLanes as j with
  | nil => rfl
  | cons a as => exact (if_neg (List.cons_ne_nil _ _)).symm

theorem mem_flights {x : Flight} : x ∈ e.flights pc dst size space pol ws as vals ↔
    ∃ j, j < e.t.words ∧ passLanes as j ≠ [] ∧ e.passOf pc dst size space pol ws as vals j = x := by
  rw [flights_eq, List.mem_filterMap]
  simp only [List.mem_range, Option.ite_none_left_eq_some, Option.some.injEq, ne_eq]

/-- The lanes of a pass are those of its word. -/
theorem getLsbD_passLanes {j l : Nat} : ((passLanes as j).foldl (fun m a => m ||| (1#1024 <<< a.lane)) (0 : Lanes)).getLsbD l = true ↔
    l < 1024 ∧ l / 32 = j ∧ l ∈ as.map LaneAcc.lane := by
  refine ⟨fun h => ?_, fun ⟨hl, hj, hm⟩ => ?_⟩
  · have hl := lt_of_bit h
    have hm := ((getLsbD_foldl_lanes (lane := LaneAcc.lane) (passLanes as j) 0 hl).mp h).resolve_left (by simp)
    obtain ⟨a, ha, rfl⟩ := List.mem_map.mp hm
    obtain ⟨hin, hw⟩ := List.mem_filter.mp ha
    exact ⟨hl, by simpa using hw, List.mem_map_of_mem hin⟩
  · obtain ⟨a, ha, rfl⟩ := List.mem_map.mp hm
    refine (getLsbD_foldl_lanes (lane := LaneAcc.lane) (passLanes as j) 0 hl).mpr (.inr (List.mem_map_of_mem ?_))
    exact List.mem_filter.mpr ⟨ha, by simpa using hj⟩

/-- Every lane of a load stands in its mask word's pass. -/
theorem passLanes_ne_nil {l : Nat} (h : l ∈ as.map LaneAcc.lane) : passLanes as (l / 32) ≠ [] := by
  obtain ⟨a, ha, rfl⟩ := List.mem_map.mp h
  have hin : a ∈ passLanes as (a.lane / 32) := List.mem_filter.mpr ⟨ha, by simp⟩
  exact List.ne_nil_of_mem hin

end

end Sys2Proof.Machine
end

section
/-! Textures and render targets: TEX, TEXG, RTW, RTZ and RTR (R346 to R352). -/

namespace Sys2Proof.Machine

/-! ### The depth test (R188, R351) -/

theorem zTest_never (a b : Fl) : zTest 0 a b = false := by
  unfold zTest
  simp

theorem zTest_always (a b : Fl) : zTest 6 a b = true := rfl

theorem zTest_of_numbers {a b : Fl} (ha : a ≠ .nan) (hb : b ≠ .nan) :
    zTest 1 a b = decide (a.cmp b < 0) ∧ zTest 2 a b = decide (a.cmp b ≤ 0) ∧ zTest 3 a b = decide (0 < a.cmp b) ∧
    zTest 4 a b = decide (0 ≤ a.cmp b) ∧ zTest 5 a b = decide (a.cmp b = 0) := by
  have hn : ¬(a = .nan ∨ b = .nan) := not_or.mpr ⟨ha, hb⟩
  refine ⟨?_, ?_, ?_, ?_, ?_⟩ <;>
    exact (if_neg (by decide)).trans (if_neg hn)

/-! ### Tables that are read once (R331, R346) -/

section
variable {e : Env} {i : Instr} {w : Lanes} {va n : Nat} {ok : List Byte → Bool} {k : Env → Option (List Byte) → Out} {s1 : State}
  {d : List Byte}

theorem readTable_no_lane : e.readTable i 0 va n 1 ok k = k e none := by
  unfold Env.readTable
  exact if_pos rfl

theorem readTable_read (hw : w ≠ 0) (hr : e.readOnce e.s va n = (s1, .ok d)) : e.readTable i w va n 1 ok k =
    if ok d then k { e with s := s1 } (some d)
    else if w &&& ~~~e.t.helper = 0 then k { e with s := s1 } none else ({ e with s := s1 } : Env).trapTeam i .descInvalid := by
  unfold Env.readTable
  rw [if_neg hw, if_neg (by rw [Nat.mod_one]; exact not_not.mpr rfl), hr]

end

/-! ### Textures -/

section
variable {e : Env} {i : Instr} {f : FV} {plan : Env → List Byte → Nat → TexPlan} {s1 s2 : State} {d : List Byte}
  {vs : List (Nat × List Nat)}

theorem texture_no_lane (h : e.t.act i.hdr = 0) : e.texture i f plan =
    .next (e.stepped i e.s (e.t.putRun f.d.toNat (e.t.act i.hdr) (laneRuns 4 [])) none) := by
  unfold Env.texture
  rw [h, readTable_no_lane]
  rfl

theorem texture_invalid (h : e.t.act i.hdr ≠ 0) (hr : e.readOnce e.s (e.uval f.sb.toNat).toNat 32 = (s1, .ok d)) (hd : texOk d = false)
    (hn : e.t.act i.hdr &&& ~~~e.t.helper ≠ 0) : e.texture i f plan =
    .next (({ e with s := s1 } : Env).counted.takeTrap e.t (e.raise i .descInvalid)) := by
  unfold Env.texture
  rw [readTable_read h hr, hd, if_neg Bool.false_ne_true, if_neg hn]
  rfl

theorem texture_sampled (h : e.t.act i.hdr ≠ 0) (hr : e.readOnce e.s (e.uval f.sb.toNat).toNat 32 = (s1, .ok d)) (hd : texOk d = true)
    (hs : ({ e with s := s1 } : Env).sampleLanes (fieldOf d 0x10 1) (plan { e with s := s1 } d) s1 (e.t.list (e.t.act i.hdr)) =
      (s2, vs, [])) :
    e.texture i f plan = .next (e.stepped i s2 (e.t.putRun f.d.toNat (e.t.act i.hdr) (laneRuns 4 vs)) none) := by
  unfold Env.texture
  rw [readTable_read h hr, hd, if_pos rfl]
  dsimp only
  rw [hs]
  rfl

end

/-! ### Render targets without a draw or a surface -/

section
variable {s : State} {e : Env} {f : FV}

theorem exec_rtw_no_draw (h : s.ready (.rtw f) = some e) (hd : e.b.draw = none) :
    exec (.rtw f) s = .next (e.stepped (.rtw f) e.s e.t none) := by
  show execRtw f s = _
  unfold execRtw
  rw [issue_of_ready h, hd]
  rfl

theorem exec_rtz_no_draw (h : s.ready (.rtz f) = some e) (hd : e.b.draw = none) :
    exec (.rtz f) s = e.vec (.rtz f) f.d.toNat (e.t.act f.h) fun _ => 0 := by
  show execRtz f s = _
  unfold execRtz
  rw [issue_of_ready h, hd]

theorem exec_rtr_no_draw (h : s.ready (.rtr f) = some e) (hd : e.b.draw = none) :
    exec (.rtr f) s = .next (e.stepped (.rtr f) e.s (e.t.putRun f.d.toNat (e.t.act f.h) (laneRuns e.b.rtRun [])) none) := by
  show execRtr f s = _
  unfold execRtr
  rw [issue_of_ready h, hd]
  rfl

variable {d : Draw}

theorem exec_rtw_waits (h : s.ready (.rtw f) = some e) (hd : e.b.draw = some d) (hw : e.targetWait d (e.t.actNH f.h) = true) :
    exec (.rtw f) s = .next (e.waiting 5) := by
  show execRtw f s = _
  unfold execRtw
  rw [issue_of_ready h, hd]
  dsimp only
  rw [hw]
  rfl

theorem exec_rtz_waits (h : s.ready (.rtz f) = some e) (hd : e.b.draw = some d) (hw : e.targetWait d (e.t.actNH f.h) = true) :
    exec (.rtz f) s = .next (e.waiting 5) := by
  show execRtz f s = _
  unfold execRtz
  rw [issue_of_ready h, hd]
  dsimp only
  rw [hw]
  rfl

theorem exec_rtr_waits (h : s.ready (.rtr f) = some e) (hd : e.b.draw = some d) (hw : e.targetWait d (e.t.actNH f.h) = true) :
    exec (.rtr f) s = .next (e.waiting 5) := by
  show execRtr f s = _
  unfold execRtr
  rw [issue_of_ready h, hd]
  dsimp only
  rw [hw]
  rfl

theorem exec_rtw_no_surface (h : s.ready (.rtw f) = some e) (hd : e.b.draw = some d) (hw : e.targetWait d (e.t.actNH f.h) = false)
    (hs : fieldOf d.target 0 8 = 0) : exec (.rtw f) s = .next (e.stepped (.rtw f) e.s e.t none) := by
  show execRtw f s = _
  unfold execRtw
  rw [issue_of_ready h, hd]
  dsimp only
  rw [hw, if_neg Bool.false_ne_true, if_pos hs]
  rfl

theorem exec_rtr_no_surface (h : s.ready (.rtr f) = some e) (hd : e.b.draw = some d) (hw : e.targetWait d (e.t.actNH f.h) = false)
    (hs : fieldOf d.target 0 8 = 0) :
    exec (.rtr f) s = .next (e.stepped (.rtr f) e.s (e.t.putRun f.d.toNat (e.t.act f.h) (laneRuns e.b.rtRun [])) none) := by
  show execRtr f s = _
  unfold execRtr
  rw [issue_of_ready h, hd]
  dsimp only
  rw [hw, if_neg Bool.false_ne_true, if_pos hs]
  rfl

/-! ### RTZ -/

/-- A lane's result of RTZ from the positions that passed in each lane. -/
def Env.zResult (e : Env) (r : List (Nat × List Spot)) (l : Nat) : Word :=
  BitVec.ofNat 32 (((alookup [] r l).map fun p => 2 ^ spotBit e.t.tier p).sum)

/-- The test of a lane's positions, after those of the lanes before it. -/
def Env.zLane (e : Env) (f : FV) (d : Draw) (a : State × List (Nat × List Spot)) (x : Nat × List (Spot × Target)) :
    State × List (Nat × List Spot) :=
  ((e.zSpots (fieldOf d.target 0x1E 1) (e.t.getV f.sa.toNat x.1) a.1 x.2).1,
    a.2 ++ [(x.1, (e.zSpots (fieldOf d.target 0x1E 1) (e.t.getV f.sa.toNat x.1) a.1 x.2).2)])

theorem exec_rtz_no_surface (h : s.ready (.rtz f) = some e) (hd : e.b.draw = some d) (hw : e.targetWait d (e.t.actNH f.h) = false)
    (hs : fieldOf d.target 8 8 = 0) : exec (.rtz f) s = e.vec (.rtz f) f.d.toNat (e.t.act f.h)
      (e.zResult ((e.t.list (e.t.actNH f.h)).map fun l => (l, (mget {} e.t.elems l).spots e.t.tier))) := by
  show execRtz f s = _
  unfold execRtz
  rw [issue_of_ready h, hd]
  dsimp only
  rw [hw, if_neg Bool.false_ne_true, if_pos hs]
  rfl

theorem exec_rtz_surface (h : s.ready (.rtz f) = some e) (hd : e.b.draw = some d) (hw : e.targetWait d (e.t.actNH f.h) = false)
    (hs : fieldOf d.target 8 8 ≠ 0) {s1 : State} {ls : List (Nat × List (Spot × Target))}
    (hl : e.spotLanes .write (spotAddr (fieldOf d.target 8 8) (fieldOf d.target 0x14 4) 4) 4 id e.s (e.t.list (e.t.actNH f.h)) =
      (s1, ls, [])) :
    exec (.rtz f) s = ({ e with s := (ls.foldl (e.zLane f d) (s1, [])).1 } : Env).vec (.rtz f) f.d.toNat (e.t.act f.h)
      (e.zResult (ls.foldl (e.zLane f d) (s1, [])).2) := by
  show execRtz f s = _
  unfold execRtz
  rw [issue_of_ready h, hd]
  dsimp only
  rw [hw, if_neg Bool.false_ne_true, if_neg hs, hl]
  rfl

theorem alookup_map_list {α : Type} {g : Nat → α} {z : α} (ls : List Nat) (l : Nat) :
    alookup z (ls.map fun l => (l, g l)) l = if l ∈ ls then g l else z := by
  induction ls with
  | nil => rfl
  | cons k ls ih =>
    by_cases hk : k = l
    · subst hk
      simp [alookup]
    · have hk' : (k == l) = false := beq_eq_false_iff_ne.mpr hk
      have hcons : alookup z ((k :: ls).map fun l => (l, g l)) l = alookup z (ls.map fun l => (l, g l)) l := by
        unfold alookup
        rw [List.map_cons, List.find?_cons_of_neg (by simp [hk])]
      rw [hcons, ih]
      simp [Ne.symm hk]

/-! ### RTW -/

/-- What RTW writes at each position of a lane (R350). -/
def Env.rtwBytes (e : Env) (f : FV) (fmt l : Nat) : List Byte :=
  (List.range (fmtChannels fmt)).flatMap fun k => leBytes (fmtChanBytes fmt) (chanEnc fmt (e.t.getV (f.sa.toNat + k) l).toNat)

theorem exec_rtw_surface (h : s.ready (.rtw f) = some e) (hd : e.b.draw = some d) (hw : e.targetWait d (e.t.actNH f.h) = false)
    (hs : fieldOf d.target 0 8 ≠ 0) {s1 : State} {ls : List (Nat × List (Spot × Target))}
    (hl : e.spotLanes .write (spotAddr (fieldOf d.target 0 8) (fieldOf d.target 0x10 4) (fmtBytes (fieldOf d.target 0x1C 1)))
      (fmtBytes (fieldOf d.target 0x1C 1)) id e.s (e.t.list (e.t.actNH f.h)) = (s1, ls, [])) :
    exec (.rtw f) s = .next (e.stepped (.rtw f) (ls.foldl (fun s x =>
      x.2.foldl (fun s p => e.putSpot s p.2 (e.rtwBytes f (fieldOf d.target 0x1C 1) x.1)) s) s1) e.t none) := by
  show execRtw f s = _
  unfold execRtw
  rw [issue_of_ready h, hd]
  dsimp only
  rw [hw, if_neg Bool.false_ne_true, if_neg hs, hl]
  rfl

/-! ### RTR -/

/-- A lane's read of RTR, after those of the lanes before it (R352). -/
def Env.rtrLane (e : Env) (fmt : Nat) (a : State × List (Nat × List Nat)) (x : Nat × List (Spot × Target)) :
    State × List (Nat × List Nat) :=
  match x.2 with
  | [] => a
  | p :: _ => ((e.getSpot a.1 p.2 (fmtBytes fmt)).1, a.2 ++ [(x.1, texelChans fmt (e.getSpot a.1 p.2 (fmtBytes fmt)).2)])

/-- The team after an RTR: the lanes without a position have zeros, the others wait for the passes on their way. -/
def Env.rtrTeam (e : Env) (f : FV) (fl : List Flight) (vs : List (Nat × List Nat)) : Team :=
  let rest := e.t.putRun f.d.toNat (e.t.act f.h &&& ~~~laneSet (vs.map Prod.fst)) ((List.range e.b.rtRun).map fun _ _ => 0)
  { rest with flights := rest.flights ++ fl }

theorem exec_rtr_surface (h : s.ready (.rtr f) = some e) (hd : e.b.draw = some d) (hw : e.targetWait d (e.t.actNH f.h) = false)
    (hs : fieldOf d.target 0 8 ≠ 0) {s1 : State} {ls : List (Nat × List (Spot × Target))}
    (hl : e.spotLanes .read (spotAddr (fieldOf d.target 0 8) (fieldOf d.target 0x10 4) (fmtBytes (fieldOf d.target 0x1C 1)))
      (fmtBytes (fieldOf d.target 0x1C 1)) (List.take 1) e.s (e.t.list (e.t.actNH f.h)) = (s1, ls, [])) :
    let r := ls.foldl (e.rtrLane (fieldOf d.target 0x1C 1)) (s1, [])
    exec (.rtr f) s = .next (e.stepped (.rtr f) r.1
      (e.rtrTeam f (e.rtrFlights f.d.toNat (fieldOf d.target 0x1C 1) ls r.2) r.2) none) := by
  show execRtr f s = _
  unfold execRtr
  rw [issue_of_ready h, hd]
  dsimp only
  rw [hw, if_neg Bool.false_ne_true, if_neg hs, hl]
  rfl

end

/-! ### The passes of an RTR (R218, R352) -/

section
variable {e : Env} {kind : AccKind} {addr : Spot → Nat} {n : Nat} {pick : List Spot → List Spot}

theorem checkVa_va {s s1 : State} {w : Who} {va : Nat} {t : Target} (h : s.checkVa w kind va n = (s1, .ok t)) :
    ∃ ps, t = .va va ps := by
  rw [checkVa_eq] at h
  split at h
  · cases h
  · split at h <;> cases h
    exact ⟨_, rfl⟩

theorem checkSpots_va {w : Who} {ps : List Spot} {s s1 : State} {ts : List (Spot × Target)}
    (h : s.checkSpots w kind addr n ps = (s1, .ok ts)) : ∀ p ∈ ts, ∃ a qs, p.2 = .va a qs := by
  induction ps generalizing s s1 ts with
  | nil => cases h; simp
  | cons p ps ih =>
    unfold State.checkSpots at h
    split at h
    · cases h
    · rename_i hc
      split at h
      · cases h
      · rename_i hr
        cases h
        obtain ⟨qs, rfl⟩ := checkVa_va hc
        exact List.forall_mem_cons.mpr ⟨⟨_, _, rfl⟩, ih hr⟩

/-- The lanes whose positions pass are lanes checked, and their positions stand in memory. -/
theorem spotLanes_sound {ks : List Nat} {s s1 : State} {ls : List (Nat × List (Spot × Target))} {fs : List LaneFault}
    (h : e.spotLanes kind addr n pick s ks = (s1, ls, fs)) :
    (ls.map Prod.fst).Sublist ks ∧ ∀ x ∈ ls, ∀ p ∈ x.2, ∃ a qs, p.2 = .va a qs := by
  induction ks generalizing s s1 ls fs with
  | nil => cases h; simp
  | cons k ks ih =>
    unfold Env.spotLanes at h
    split at h
    · rename_i hc
      cases h
      obtain ⟨hsub, hva⟩ := ih rfl
      exact ⟨hsub.cons_cons k, List.forall_mem_cons.mpr ⟨checkSpots_va hc, hva⟩⟩
    · cases h
      obtain ⟨hsub, hva⟩ := ih rfl
      exact ⟨hsub.cons k, hva⟩

end

/-- The access of RTR in a lane. -/
def rtrAcc (x : Nat × List (Spot × Target)) : Option LaneAcc :=
  match x.2 with
  | (_, .va a ps) :: _ => some { lane := x.1, addr := a, tgt := some (.va a ps) : LaneAcc }
  | _ => none

/-- The lanes that RTR accesses are those with a position. -/
theorem rtrAcc_lanes {ls : List (Nat × List (Spot × Target))} (h : ∀ x ∈ ls, ∀ p ∈ x.2, ∃ a qs, p.2 = .va a qs) :
    (ls.filterMap rtrAcc).map LaneAcc.lane = (ls.filter fun x => !x.2.isEmpty).map Prod.fst := by
  induction ls with
  | nil => rfl
  | cons x ls ih =>
    obtain ⟨hx, hls⟩ := List.forall_mem_cons.mp h
    obtain ⟨l, ps⟩ := x
    cases ps with
    | nil => exact ih hls
    | cons p ps =>
      obtain ⟨q, t⟩ := p
      obtain ⟨a, qs, rfl⟩ := hx (q, t) List.mem_cons_self
      exact congrArg (l :: ·) (ih hls)

section
variable {e : Env} {fmt dst : Nat}

/-- The lanes that RTR reads are those with a position, and each gets the channels of the format. -/
theorem rtr_reads (ls : List (Nat × List (Spot × Target))) (a : State × List (Nat × List Nat)) :
    (ls.foldl (e.rtrLane fmt) a).2.map Prod.fst = a.2.map Prod.fst ++ (ls.filter fun x => !x.2.isEmpty).map Prod.fst := by
  induction ls generalizing a with
  | nil => simp
  | cons x ls ih =>
    rw [List.foldl_cons, ih]
    obtain ⟨l, ps⟩ := x
    cases ps with
    | nil => rfl
    | cons p ps => simp [Env.rtrLane]

/-- A pass of an RTR, for a mask word. -/
def Env.rtrPass (e : Env) (dst fmt : Nat) (as : List LaneAcc) (vs : List (Nat × List Nat)) (j : Nat) : Flight :=
  { e.passOf e.t.pc dst (sizeCode (fmtBytes fmt)) 0 1 false as [] j with
    fmt := fmt, home := true,
    vals := (vs.filter fun v => v.1 / 32 == j).flatMap fun v =>
      v.2.zipIdx.map fun (x, k) => (1024 * (dst + k) + v.1, BitVec.ofNat 32 x) }

theorem mem_rtrFlights {ls : List (Nat × List (Spot × Target))} {vs : List (Nat × List Nat)} {x : Flight} :
    x ∈ e.rtrFlights dst fmt ls vs ↔ ∃ j, j < e.t.words ∧ passLanes (ls.filterMap rtrAcc) j ≠ [] ∧
      e.rtrPass dst fmt (ls.filterMap rtrAcc) vs j = x := by
  change x ∈ (e.flights e.t.pc dst (sizeCode (fmtBytes fmt)) 0 1 false (ls.filterMap rtrAcc) []).map _ ↔ _
  rw [List.mem_map]
  refine ⟨fun ⟨y, hy, hx⟩ => ?_, fun ⟨j, hj, hne, hx⟩ => ⟨_, mem_flights.mpr ⟨j, hj, hne, rfl⟩, hx⟩⟩
  obtain ⟨j, hj, hne, rfl⟩ := mem_flights.mp hy
  exact ⟨j, hj, hne, hx⟩

theorem rtrPass_lanes {as : List LaneAcc} {vs : List (Nat × List Nat)} {j l : Nat} :
    (e.rtrPass dst fmt as vs j).lanes.getLsbD l = true ↔ l < 1024 ∧ l / 32 = j ∧ l ∈ as.map LaneAcc.lane :=
  getLsbD_passLanes

/-- The values of a pass of an RTR: the channels of its lanes. -/
theorem mem_rtrPass_vals {as : List LaneAcc} {vs : List (Nat × List Nat)} {j : Nat} {p : Nat × Word} :
    p ∈ (e.rtrPass dst fmt as vs j).vals ↔ ∃ v ∈ vs.filter (fun v => v.1 / 32 == j), ∃ k, k < v.2.length ∧
      p = (1024 * (dst + k) + v.1, BitVec.ofNat 32 (v.2.getD k 0)) := by
  unfold Env.rtrPass
  rw [List.mem_flatMap]
  exact exists_congr fun v => and_congr_right fun _ => mem_map_zipIdx 0

theorem rtrPass_vals {as : List LaneAcc} {vs : List (Nat × List Nat)} (hl : ∀ v ∈ vs, v.1 < 1024) (hnd : (vs.map Prod.fst).Nodup)
    {v : Nat × List Nat} (hv : v ∈ vs) {k : Nat} (hk : k < v.2.length) :
    alookup 0 (e.rtrPass dst fmt as vs (v.1 / 32)).vals (1024 * (dst + k) + v.1) = BitVec.ofNat 32 (v.2.getD k 0) := by
  refine alookup_run (len := fun v : Nat × List Nat => v.2.length) (val := fun v k => BitVec.ofNat 32 (v.2.getD k 0))
    (fun _ => mem_rtrPass_vals) (fun v hv => hl v (List.mem_of_mem_filter hv)) (fun v hv v' hv' h => ?_)
    (List.mem_filter.mpr ⟨hv, by simp⟩) hk
  exact List.inj_on_of_nodup_map hnd (List.mem_of_mem_filter hv) (List.mem_of_mem_filter hv') h

end

/-- What the passes of an RTR carry (R218, R352). -/
theorem rtrFlights_spec {e : Env} {dst fmt : Nat} {w : Lanes} {addr : Spot → Nat} {s1 : State} {ls : List (Nat × List (Spot × Target))}
    (hl : e.spotLanes .read addr (fmtBytes fmt) (List.take 1) e.s (e.t.list w) = (s1, ls, [])) :
    let vs := (ls.foldl (e.rtrLane fmt) (s1, [])).2
    (∀ x ∈ e.rtrFlights dst fmt ls vs, ∀ l, x.lanes.getLsbD l = true → l ∈ vs.map Prod.fst) ∧
      ∀ v ∈ vs, ∃ x ∈ e.rtrFlights dst fmt ls vs, x.gen = e.t.gen ∧ x.seq = e.t.issued ∧ x.dst = dst ∧ x.fmt = fmt ∧
        x.latchOnly = false ∧ x.lanes.getLsbD v.1 = true ∧
        ∀ k, k < v.2.length → alookup 0 x.vals (1024 * (dst + k) + v.1) = BitVec.ofNat 32 (v.2.getD k 0) := by
  intro vs
  obtain ⟨hsub, hva⟩ := spotLanes_sound hl
  have hlanes : (ls.filterMap rtrAcc).map LaneAcc.lane = vs.map Prod.fst := (rtrAcc_lanes hva).trans (rtr_reads ls (s1, [])).symm
  have hvs : (vs.map Prod.fst).Sublist (e.t.list w) := by
    rw [← hlanes, rtrAcc_lanes hva]
    exact (List.filter_sublist.map _).trans hsub
  have hnd : (vs.map Prod.fst).Nodup := hvs.nodup (List.nodup_range.filter _)
  have hmem : ∀ v ∈ vs, v.1 < e.t.lanes ∧ w.getLsbD v.1 = true := fun v hv => mem_list.mp (hvs.subset (List.mem_map_of_mem hv))
  refine ⟨fun x hx l hbit => ?_, fun v hv => ?_⟩
  · obtain ⟨j, -, -, rfl⟩ := mem_rtrFlights.mp hx
    rw [← hlanes]
    exact (rtrPass_lanes.mp hbit).2.2
  · obtain ⟨hlt, hbit⟩ := hmem v hv
    have hin : v.1 ∈ (ls.filterMap rtrAcc).map LaneAcc.lane := by rw [hlanes]; exact List.mem_map_of_mem hv
    refine ⟨e.rtrPass dst fmt (ls.filterMap rtrAcc) vs (v.1 / 32), mem_rtrFlights.mpr ⟨_, word_lt_words hlt, ?_, rfl⟩,
      rfl, rfl, rfl, rfl, rfl,
      rtrPass_lanes.mpr ⟨lt_of_bit hbit, rfl, hin⟩, fun k hk => ?_⟩
    · exact passLanes_ne_nil hin
    · exact rtrPass_vals (fun v hv => lt_of_bit (hmem v hv).2) hnd hv hk

/-! ### The obligation -/

/-- Settles O52: by the cases of each instruction (no lane, no draw, a wait, no surface, a surface), and for RTR by the lanes of its
passes, which are those with a position. -/
theorem textureAndTargetAccesses : Obligations.TextureAndTargetAccesses := by
  unfold Obligations.TextureAndTargetAccesses
  refine ⟨fun a b => ⟨zTest_never a b, zTest_always a b, zTest_of_numbers⟩, fun f s e => ?_⟩
  intro act put texture
  have htex : ∀ i plan, exec i s = issue i s (fun e => e.texture i f plan) → i.hdr = f.h → texture i plan := by
    intro i plan hex hi h
    rw [hex, issue_of_ready h]
    have hact : e.t.act i.hdr = act := by rw [hi]
    refine ⟨fun h0 => ?_, fun s1 d h0 hr => ⟨fun hd hn => ?_, fun hd s2 vs hs => ?_⟩⟩
    · exact (texture_no_lane (hact.trans h0)).trans (by rw [hact]; rfl)
    · exact texture_invalid (by rwa [hact]) hr hd (by rwa [hact])
    · exact (texture_sampled (by rwa [hact]) hr hd (by rwa [hact])).trans (by rw [hact]; rfl)
  refine ⟨htex (.tex f) _ rfl rfl, htex (.texg f) _ rfl rfl, fun hd => ⟨fun h => exec_rtw_no_draw h hd, fun h => ?_,
    fun h => exec_rtr_no_draw h hd⟩, fun d hd => ?_⟩
  · rw [exec_rtz_no_draw h hd]
    exact vec_gives e _ _
  intro w lanes spots fmt n colour depth bit
  refine ⟨fun hw i hi h => ?_, fun hw => ⟨fun h => ⟨exec_rtw_no_surface h hd hw, fun s1 ls hs hl => exec_rtw_surface h hd hw hs hl⟩,
    fun h hs => ?_, fun h hs s1 ls hl => ?_, fun h => ⟨exec_rtr_no_surface h hd hw, fun s1 ls hs hl => ?_⟩⟩⟩
  · simp only [List.mem_cons, List.not_mem_nil, or_false] at hi
    rcases hi with rfl | rfl | rfl
    · exact exec_rtw_waits h hd hw
    · exact exec_rtz_waits h hd hw
    · exact exec_rtr_waits h hd hw
  · have hres : e.zResult (lanes.map fun l => (l, spots l)) =
        fun l => BitVec.ofNat 32 (if l ∈ lanes then ((spots l).map bit).sum else 0) := by
      funext l
      unfold Env.zResult
      rw [alookup_map_list lanes l]
      split <;> rfl
    rw [exec_rtz_no_surface h hd hw hs, ← hres]
    exact vec_gives e _ _
  · refine ⟨_, _, rfl, ?_⟩
    rw [exec_rtz_surface h hd hw hs hl]
    exact vec_gives _ _ _
  · exact ⟨_, exec_rtr_surface h hd hw hs hl, rtrFlights_spec hl⟩

end Sys2Proof.Machine
end

section
/-! Loads and stores of the core's scratchpad (R126, R137, R171, R342). -/

namespace Sys2Proof.Machine

/-! ### What is performed before an access of the scratchpad (R197, R198) -/

theorem readLoads_eq_loadQ (s : State) (sel : LoadEnt → Bool) : ∃ q, s.readLoads sel = { s with loadQ := q } := by
  unfold State.readLoads
  split
  · exact ⟨_, rfl⟩
  · exact ⟨s.loadQ, rfl⟩

theorem settleLoads_eq_loadQ (s : State) (tid seq : Nat) (xs : List HomeRange) :
    ∃ q, s.settleLoads tid seq xs = { s with loadQ := q } := by
  unfold State.settleLoads
  dsimp only
  split
  · exact ⟨s.loadQ, rfl⟩
  · exact readLoads_eq_loadQ _ _

/-- A team without a store on its way reads at most its loads on their way before an access of the scratchpad. -/
theorem beforeSpad_eq_loadQ {s : State} {w : Who} (h : ∀ x ∈ s.storeQ, x.tid ≠ w.tid) (write : Bool) :
    ∃ q, s.beforeSpad w write = { s with loadQ := q } := by
  have hfirst : ∃ q, (if write then s.readLoads fun e => e.tid == w.tid else s.settleLoads w.tid w.seq [(false, 2 ^ 60, 0)]) =
      { s with loadQ := q } := by
    cases write
    · exact settleLoads_eq_loadQ _ _ _ _
    · exact readLoads_eq_loadQ _ _
  obtain ⟨q, hq⟩ := hfirst
  obtain ⟨q', hq'⟩ := readLoads_eq_loadQ { s with loadQ := q } LoadEnt.passed
  refine ⟨q', ?_⟩
  unfold State.beforeSpad
  dsimp only
  rw [hq, if_neg, State.settlePassed, hq']
  rw [Bool.not_eq_true, List.any_eq_false]
  intro x hx
  simp [h x hx]

/-- A team without a remote write on its way applies none. -/
theorem flushRemote_of_none {s : State} {tid : Nat} (h : ∀ x ∈ s.remoteQ, x.tid ≠ tid) : (s.flushRemote fun r => r.tid == tid) = s := by
  have hnone : (s.remoteQ.filter fun r => r.tid == tid) = [] := List.filter_eq_nil_iff.mpr fun x hx => by simp [h x hx]
  have hall : (s.remoteQ.filter fun r => !(r.tid == tid)) = s.remoteQ := List.filter_eq_self.mpr fun x hx => by simp [h x hx]
  unfold State.flushRemote
  split
  · rfl
  · rw [hnone, hall]
    rfl

/-! ### Accesses without their addresses -/

/-- An access without the address that it is reported by: the target alone says what it does. -/
def LaneAcc.bare (x : LaneAcc) : LaneAcc := { x with addr := 0 }

theorem conflicts_bare (e : Env) (n : Nat) (as : List LaneAcc) : e.conflicts n (as.map LaneAcc.bare) = e.conflicts n as := by
  have hword : ∀ j, ((as.map LaneAcc.bare).filter fun x => x.lane / 32 == j) = (as.filter fun x => x.lane / 32 == j).map LaneAcc.bare :=
    fun j => List.filter_map
  unfold Env.conflicts
  simp only [hword, List.flatMap_map]
  rfl

theorem storeLanes_bare (s : State) (w : Who) (pol : Nat) (priv : Bool) (n : Nat) (val : Nat → Nat) (as : List LaneAcc) :
    s.storeLanes w pol priv n val (as.map LaneAcc.bare) = s.storeLanes w pol priv n val as := by
  induction as generalizing s with
  | nil => rfl
  | cons a as ih => exact ih _

theorem loadLanes_bare (s : State) (w : Who) (pol : Nat) (priv : Bool) (n : Nat) (as : List LaneAcc) :
    s.loadLanes w pol priv n (as.map LaneAcc.bare) = s.loadLanes w pol priv n as := by
  induction as generalizing s with
  | nil => rfl
  | cons a as ih =>
    unfold State.loadLanes
    rw [List.map_cons]
    dsimp only [LaneAcc.bare]
    cases a.tgt <;> simp only [ih]

/-! ### The lanes' checks -/

/-- A lane's access of its own core's scratchpad at byte `p`, where it passes the checks. -/
def spadAcc (core l p : Nat) (ok : Bool) : LaneAcc := { lane := l, addr := 0, tgt := if ok then some (.spad core p) else none }

/-- Lanes that pass their checks, or are helpers, all have their access. -/
theorem checkLanes_spad {e : Env} {s : State} {chk : State → Nat → State × Except MFault Target} {addr place : Nat → Nat}
    {ok : Nat → Bool} {ls : List Nat} (hok : ∀ l ∈ ls, ok l = true → chk s l = (s, .ok (.spad e.t.core (place l))))
    (hbad : ∀ l ∈ ls, ok l = false → e.t.helper.getLsbD l = true ∧ ∃ x, chk s l = (s, .error x)) :
    ∃ as, e.checkLanes chk addr s ls = (s, as, []) ∧ as.map LaneAcc.bare = ls.map fun l => spadAcc e.t.core l (place l) (ok l) := by
  induction ls with
  | nil => exact ⟨[], rfl, rfl⟩
  | cons l ls ih =>
    obtain ⟨as, has, hbare⟩ := ih (fun l hl => hok l (List.mem_cons_of_mem _ hl)) fun l hl => hbad l (List.mem_cons_of_mem _ hl)
    unfold Env.checkLanes
    cases h : ok l with
    | true =>
      rw [hok l List.mem_cons_self h]
      dsimp only
      rw [has]
      refine ⟨_, rfl, ?_⟩
      rw [List.map_cons, hbare, List.map_cons, h]
      rfl
    | false =>
      obtain ⟨hhelp, x, hx⟩ := hbad l List.mem_cons_self h
      rw [hx]
      dsimp only
      rw [has, if_pos hhelp]
      refine ⟨_, rfl, ?_⟩
      rw [List.map_cons, hbare, List.map_cons, h]
      rfl

/-- Whether an access of the own scratchpad passes the checks of R171, R204 and R207. -/
def Env.spadPasses (e : Env) (n : Nat) (a : Int) (write : Bool) : Bool :=
  e.b.spadOk a n && !e.s.locked e.t.core e.b.ctx 1 e.b.id a.toNat n write &&
    (write || !e.s.targetBad e.who .read (.spad e.t.core (384 * e.b.row0 + a.toNat)) n)

section
variable {e : Env} {seg n : Nat} {val off : Int}

/-- The check of a load or a store of the own scratchpad. -/
theorem check_spad {kind : AccKind} (hk : kind = .write ∨ kind = .read) : ∃ x, e.check e.s kind 1 seg val off n =
    (e.s, if e.spadPasses n (accessOffset val off) (kind != .read) then
      .ok (.spad e.t.core (384 * e.b.row0 + (accessOffset val off).toNat)) else .error x) := by
  unfold Env.spadPasses
  cases hspad : e.b.spadOk (accessOffset val off) n with
  | false => exact ⟨_, check_of_error (by rw [checkAddr_block, hspad]; rfl)⟩
  | true =>
    cases hlock : e.s.locked e.t.core e.b.ctx 1 e.b.id (accessOffset val off).toNat n (kind != .read) with
    | true => exact ⟨_, check_of_error (by rw [checkAddr_block, hspad]; exact if_pos hlock)⟩
    | false =>
      refine ⟨{ cause := .dataError }, ?_⟩
      rw [check_of_ok (by rw [checkAddr_block, hspad]; exact if_neg (Bool.eq_false_iff.mp hlock))]
      rcases hk with rfl | rfl
      · rw [targetBad_of_clean _ _ (.inl rfl)]
        rfl
      · cases e.s.targetBad e.who .read (.spad e.t.core (384 * e.b.row0 + (accessOffset val off).toNat)) n <;> rfl

end

/-! ### Stores -/

/-- A state that differs from another in the bytes of a core's scratchpad, in their marks of errors and in the loads on their way that
have their values. -/
structure SpadOnly (core : Nat) (s s' : State) : Prop where
  rest : ({ s' with cores := [], loadQ := [], spadPoison := [] } : State) = { s with cores := [], loadQ := [], spadPoison := [] }
  others : ∀ c, c ≠ core → s'.coreSt c = s.coreSt c
  own : ({ s'.coreSt core with spad := [] } : CoreSt) = { s.coreSt core with spad := [] }

theorem SpadOnly.refl (core : Nat) (s : State) : SpadOnly core s s := ⟨rfl, fun _ _ => rfl, rfl⟩

theorem SpadOnly.trans {core : Nat} {s s1 s2 : State} (h : SpadOnly core s s1) (h' : SpadOnly core s1 s2) : SpadOnly core s s2 :=
  ⟨h'.rest.trans h.rest, fun c hc => (h'.others c hc).trans (h.others c hc), h'.own.trans h.own⟩

theorem SpadOnly.storeQ {core : Nat} {s s' : State} (h : SpadOnly core s s') : s'.storeQ = s.storeQ := by
  have := congrArg State.storeQ h.rest
  exact this

theorem SpadOnly.remoteQ {core : Nat} {s s' : State} (h : SpadOnly core s s') : s'.remoteQ = s.remoteQ := by
  have := congrArg State.remoteQ h.rest
  exact this

section
variable {s : State} {w : Who} {pol : Nat} {priv : Bool} {a n : Nat}

/-- A byte of a value's little-endian form. -/
theorem getD_leBytes {n v i : Nat} (h : i < n) : (leBytes n v).getD i 0 = BitVec.ofNat 8 (v / 2 ^ (8 * i)) := by
  induction n generalizing v i with
  | zero => omega
  | succ n ih =>
    cases i with
    | zero => simp [leBytes]
    | succ i =>
      show (leBytes n (v / 256)).getD i 0 = _
      rw [ih (by omega), Nat.div_div_eq_div_mul, show (256 : Nat) = 2 ^ 8 from rfl, ← pow_add]
      congr 3
      omega

theorem mem_spadPoison_cleanSpad {core len : Nat} {x : Nat × Nat} : x ∈ (s.cleanSpad core a len).spadPoison ↔
    x ∈ s.spadPoison ∧ ¬(x.1 = core ∧ a < 4 * x.2 + 4 ∧ 4 * x.2 < a + len) := by
  unfold State.cleanSpad
  split
  · rename_i h
    rw [List.isEmpty_iff.mp h]
    simp
  · rw [List.mem_filter, Bool.not_eq_true', ← Bool.not_eq_true]
    simp only [Bool.and_eq_true, beq_iff_eq, decide_eq_true_eq, and_assoc]

theorem putSpad_only (s : State) (core a : Nat) (bs : List Byte) : SpadOnly core s (s.putSpad core a bs) := by
  obtain ⟨q, hq⟩ : ∃ q, s.putSpad core a bs =
      { s.putCore core { s.coreSt core with spad := msetList 0 (s.coreSt core).spad a bs } with spadPoison := q } := by
    unfold State.putSpad State.cleanSpad
    dsimp only
    split
    · exact ⟨_, rfl⟩
    · exact ⟨_, rfl⟩
  obtain ⟨hown, hothers, -⟩ := putCore_only s core { s.coreSt core with spad := msetList 0 (s.coreSt core).spad a bs }
  rw [hq]
  refine ⟨rfl, hothers, ?_⟩
  show ({ (s.putCore core _).coreSt core with spad := [] } : CoreSt) = _
  rw [hown]

/-- A team without stores and remote writes on their way stores to its own core's scratchpad at once. -/
theorem storeAt_own (hst : ∀ x ∈ s.storeQ, x.tid ≠ w.tid) (hrem : ∀ x ∈ s.remoteQ, x.tid ≠ w.tid) (bs : List Byte) :
    ∃ q, s.storeAt w pol priv (.spad w.core a) bs = ({ s with loadQ := q } : State).putSpad w.core a bs := by
  obtain ⟨q, hq⟩ := beforeSpad_eq_loadQ hst true
  refine ⟨q, ?_⟩
  unfold State.storeAt
  dsimp only
  rw [if_pos rfl, hq]
  dsimp only
  rw [flushRemote_of_none (s := { s with loadQ := q }) hrem]

/-- What a lane's store to the own core's scratchpad does. -/
theorem storeAt_own_spec (hst : ∀ x ∈ s.storeQ, x.tid ≠ w.tid) (hrem : ∀ x ∈ s.remoteQ, x.tid ≠ w.tid) (v : Nat) :
    let s' := s.storeAt w pol priv (.spad w.core a) (leBytes n v)
    SpadOnly w.core s s' ∧
      (∀ x, x ∈ s'.spadPoison ↔ x ∈ s.spadPoison ∧ ¬(x.1 = w.core ∧ a < 4 * x.2 + 4 ∧ 4 * x.2 < a + n)) ∧
      ∀ x, mget 0 (s'.coreSt w.core).spad x =
        if a ≤ x ∧ x < a + n then BitVec.ofNat 8 (v / 2 ^ (8 * (x - a))) else mget 0 (s.coreSt w.core).spad x := by
  obtain ⟨q, hq⟩ := storeAt_own (pol := pol) (priv := priv) (a := a) hst hrem (leBytes n v)
  intro s'
  have hs' : s' = ({ s with loadQ := q } : State).putSpad w.core a (leBytes n v) := hq
  rw [hs']
  refine ⟨SpadOnly.trans (s1 := { s with loadQ := q }) ⟨rfl, fun _ _ => rfl, rfl⟩ (putSpad_only _ _ _ _), fun x => ?_, fun x => ?_⟩
  · unfold State.putSpad
    rw [mem_spadPoison_cleanSpad, leBytes_length]
    rfl
  · rw [spad_putSpad, mget_msetList, leBytes_length]
    by_cases h : a ≤ x ∧ x < a + n
    · rw [if_pos h, if_pos h, getD_leBytes (by omega)]
    · rw [if_neg h, if_neg h]
      rfl

end

/-- The lane that a byte of the scratchpad is stored by: the highest-numbered one that covers it (R137). -/
def lastCovering (place : Nat → Nat) (n : Nat) (ls : List Nat) (x : Nat) : Option Nat :=
  (ls.filter fun l => decide (place l ≤ x) && decide (x < place l + n)).getLast?

theorem lastCovering_cons (place : Nat → Nat) (n l : Nat) (ls : List Nat) (x : Nat) : lastCovering place n (l :: ls) x =
    (lastCovering place n ls x).or (if place l ≤ x ∧ x < place l + n then some l else none) := by
  unfold lastCovering
  by_cases h : place l ≤ x ∧ x < place l + n
  · rw [List.filter_cons_of_pos (by simpa using h), if_pos h, List.getLast?_cons]
    cases (ls.filter fun l => decide (place l ≤ x) && decide (x < place l + n)).getLast? <;> rfl
  · rw [List.filter_cons_of_neg (by simpa using h), if_neg h, Option.or_none]

/-- What the lanes' stores to the own core's scratchpad do. -/
theorem storeLanes_own_spec {s : State} {w : Who} {pol n : Nat} {priv : Bool} {place : Nat → Nat} {val : Nat → Nat} (ls : List Nat)
    (hst : ∀ x ∈ s.storeQ, x.tid ≠ w.tid) (hrem : ∀ x ∈ s.remoteQ, x.tid ≠ w.tid) :
    let s' := s.storeLanes w pol priv n val (ls.map fun l => spadAcc w.core l (place l) true)
    SpadOnly w.core s s' ∧
      (∀ x, x ∈ s'.spadPoison ↔ x ∈ s.spadPoison ∧
        ∀ l ∈ ls, ¬(x.1 = w.core ∧ place l < 4 * x.2 + 4 ∧ 4 * x.2 < place l + n)) ∧
      ∀ x, mget 0 (s'.coreSt w.core).spad x =
        match lastCovering place n ls x with
        | some l => BitVec.ofNat 8 (val l / 2 ^ (8 * (x - place l)))
        | none => mget 0 (s.coreSt w.core).spad x := by
  induction ls generalizing s with
  | nil => exact ⟨SpadOnly.refl _ _, fun x => by simp [State.storeLanes], fun x => rfl⟩
  | cons l ls ih =>
    obtain ⟨honly, hmarks, hbytes⟩ := storeAt_own_spec (pol := pol) (priv := priv) (a := place l) (n := n) hst hrem (val l)
    obtain ⟨honly', hmarks', hbytes'⟩ := ih (s := s.storeAt w pol priv (.spad w.core (place l)) (leBytes n (val l)))
      (by rwa [honly.storeQ]) (by rwa [honly.remoteQ])
    refine ⟨honly.trans honly', fun x => (hmarks' x).trans ?_, fun x => (hbytes' x).trans ?_⟩
    · rw [hmarks, List.forall_mem_cons, and_assoc]
    · rw [lastCovering_cons]
      cases lastCovering place n ls x with
      | some k => rfl
      | none =>
        dsimp only [Option.none_or]
        rw [hbytes x]
        split <;> rfl

/-! ### Loads -/

/-- The value that a lane of a load of the own scratchpad has: 0 in a helper that fails (R124). -/
def spadValue (spad : Map Byte) (p n : Nat) (ok : Bool) : Nat := if ok then leNat (mgetList 0 spad p n) else 0

section
variable {s : State} {w : Who} {pol n : Nat} {priv : Bool}

theorem loadLanes_cons_none (core l p : Nat) (as : List LaneAcc) : s.loadLanes w pol priv n (spadAcc core l p false :: as) =
    ((s.loadLanes w pol priv n as).1, (l, 0) :: (s.loadLanes w pol priv n as).2) := rfl

theorem loadLanes_cons_own (hst : ∀ x ∈ s.storeQ, x.tid ≠ w.tid) (l p : Nat) : ∃ q, ∀ as,
    s.loadLanes w pol priv n (spadAcc w.core l p true :: as) =
      ((({ s with loadQ := q } : State).loadLanes w pol priv n as).1,
        (l, leNat (mgetList 0 (s.coreSt w.core).spad p n)) :: (({ s with loadQ := q } : State).loadLanes w pol priv n as).2) := by
  obtain ⟨q, hq⟩ := beforeSpad_eq_loadQ hst false
  refine ⟨q, fun as => ?_⟩
  have hload : s.loadAt w pol priv (.spad w.core p) n = ({ s with loadQ := q }, mgetList 0 (s.coreSt w.core).spad p n) := by
    unfold State.loadAt State.settleRemote
    dsimp only
    rw [if_pos rfl, hq]
    rfl
  conv_lhs => unfold State.loadLanes spadAcc
  rw [if_pos rfl]
  dsimp only
  rw [hload]

theorem loadLanes_own_spec {place : Nat → Nat} {ok : Nat → Bool} (ls : List Nat) (hst : ∀ x ∈ s.storeQ, x.tid ≠ w.tid) :
    ∃ q, s.loadLanes w pol priv n (ls.map fun l => spadAcc w.core l (place l) (ok l)) =
      ({ s with loadQ := q }, ls.map fun l => (l, spadValue (s.coreSt w.core).spad (place l) n (ok l))) := by
  induction ls generalizing s with
  | nil => exact ⟨s.loadQ, rfl⟩
  | cons l ls ih =>
    rw [List.map_cons, List.map_cons]
    cases ok l with
    | false =>
      obtain ⟨q, hq⟩ := ih hst
      exact ⟨q, by rw [loadLanes_cons_none, hq]; rfl⟩
    | true =>
      obtain ⟨q, hq⟩ := loadLanes_cons_own (pol := pol) (n := n) (priv := priv) hst l (place l)
      obtain ⟨q', hq'⟩ := ih (s := { s with loadQ := q }) hst
      exact ⟨q', by rw [hq, hq']; rfl⟩

/-- An access of the own scratchpad waits at no home. -/
theorem queueLoads_spad {as : List LaneAcc} (h : ∀ x ∈ as, ∀ t, x.tgt = some t → ∃ c a, t = .spad c a) :
    s.queueLoads w pol n as = s := by
  have hnone : (as.filterMap fun a => (a.tgt.bind (Target.late pol n)).map fun ps =>
      ({ tid := w.tid, core := w.core, part := w.part, seq := w.seq, lane := a.lane, pieces := ps, val := none } : LoadEnt)) = [] := by
    rw [List.filterMap_eq_nil_iff]
    intro x hx
    cases ht : x.tgt with
    | none => rfl
    | some t =>
      obtain ⟨c, a, rfl⟩ := h x hx t ht
      rfl
  unfold State.queueLoads
  rw [hnone]

end

theorem loadWords_length (size x : Nat) : (loadWords size x).length = sizeRegs size := by
  match size with
  | 0 | 1 | 2 | 3 | 4 | 5 | 6 => rfl
  | _ + 7 => rfl

/-- The words that a pass of a load carries. -/
theorem mem_loadVals {dst size : Nat} {vals : List (Nat × Nat)} {p : Nat × Word} : p ∈ loadVals dst size vals ↔
    ∃ v ∈ vals, ∃ k, k < sizeRegs size ∧ p = (1024 * (dst + k) + v.1, (loadWords size v.2).getD k 0) := by
  unfold loadVals
  rw [List.mem_flatMap]
  refine exists_congr fun v => and_congr_right fun _ => (mem_map_zipIdx 0).trans ?_
  rw [loadWords_length]

/-- What the pass of a lane's mask word carries for the lane. -/
theorem passOf_vals {e : Env} {pc : CodeOff} {dst size space pol : Nat} {ws : Bool} {as : List LaneAcc} {ls : List Nat} {x : Nat → Nat}
    (hls : ∀ l ∈ ls, l < 1024) {l k : Nat} (hl : l ∈ ls) (hk : k < sizeRegs size) :
    alookup 0 (e.passOf pc dst size space pol ws as (ls.map fun l => (l, x l)) (l / 32)).vals (1024 * (dst + k) + l) =
      (loadWords size (x l)).getD k 0 := by
  have hmem : ∀ v ∈ (ls.map fun l => (l, x l)).filter (fun v => v.1 / 32 == l / 32), v.1 ∈ ls ∧ v.2 = x v.1 := fun v hv => by
    obtain ⟨k, hk, rfl⟩ := List.mem_map.mp (List.mem_of_mem_filter hv)
    exact ⟨hk, rfl⟩
  have h := alookup_run (lane := Prod.fst) (len := fun _ => sizeRegs size) (val := fun v k => (loadWords size v.2).getD k 0)
    (fun _ => mem_loadVals) (fun v hv => hls v.1 (hmem v hv).1)
    (fun v hv v' hv' heq => Prod.ext heq (by rw [(hmem v hv).2, (hmem v' hv').2, heq]))
    (List.mem_filter.mpr ⟨List.mem_map_of_mem hl, by simp⟩) hk (dst := dst)
  exact h

/-- What the passes of a load carry for its lanes (R218, R281). -/
theorem flights_carry {e : Env} {pc : CodeOff} {dst size space pol : Nat} {ws : Bool} {as : List LaneAcc} {w : Lanes}
    (hlanes : as.map LaneAcc.lane = e.t.list w) (value : Nat → Nat) {l : Nat} (hl : l ∈ e.t.list w) :
    ∃ x ∈ e.flights pc dst size space pol ws as ((e.t.list w).map fun l => (l, value l)), x.gen = e.t.gen ∧ x.seq = e.t.issued ∧
      x.fmt = 0 ∧ x.dst = dst ∧ x.size = size ∧ x.lanes.getLsbD l = true ∧ x.latchOnly = ws ∧
      ∀ k, k < sizeRegs size → alookup 0 x.vals (1024 * (dst + k) + l) = (loadWords size (value l)).getD k 0 := by
  obtain ⟨hlt, hbit⟩ := mem_list.mp hl
  have hin : l ∈ as.map LaneAcc.lane := by rw [hlanes]; exact hl
  exact ⟨_, mem_flights.mpr ⟨l / 32, word_lt_words hlt, passLanes_ne_nil hin, rfl⟩, rfl, rfl, rfl, rfl, rfl,
    getLsbD_passLanes.mpr ⟨lt_of_bit hbit, rfl, hin⟩, rfl, fun k hk => passOf_vals (fun l hl => lt_of_bit (mem_list.mp hl).2) hl hk⟩

/-! ### The obligation -/

theorem bankedAt_bare (e : Env) (s : State) (n : Nat) (as : List LaneAcc) : e.bankedAt s n (as.map LaneAcc.bare) = e.bankedAt s n as := by
  unfold Env.bankedAt
  rw [conflicts_bare]

/-- The conflict clk leave the cores and what is on its way. -/
theorem bankedAt_keeps (e : Env) (s : State) (n : Nat) (as : List LaneAcc) : (∀ c, (e.bankedAt s n as).coreSt c = s.coreSt c) ∧
    (e.bankedAt s n as).storeQ = s.storeQ ∧ (e.bankedAt s n as).remoteQ = s.remoteQ ∧ (e.bankedAt s n as).spadPoison = s.spadPoison := by
  obtain ⟨ctxs, k, h⟩ := bankedAt_eq e s n as
  rw [h]
  exact ⟨fun _ => rfl, rfl, rfl, rfl⟩

theorem banked_one (e : Env) (s : State) (n : Nat) (as : List LaneAcc) : e.banked s 1 n as = e.bankedAt s n (as.map LaneAcc.bare) :=
  (if_pos (.inl rfl)).trans (bankedAt_bare e s n as).symm

section
variable {f : FM} {s : State} {e : Env}

/-- The offset of a lane's store. -/
def Env.storeOffset (e : Env) (f : FM) (l : Nat) : Int := accessOffset (e.t.getV f.data.toNat l).toNat f.off.toInt
/-- The offset of a lane's load. -/
def Env.loadOffset (e : Env) (f : FM) (l : Nat) : Int := accessOffset (e.addrVal f.addr.toNat l) f.off.toInt

/-- The accesses of lanes of SPACE 1. -/
def Env.spadAccs (e : Env) (n : Nat) (a : Nat → Int) (write : Bool) (w : Lanes) : List LaneAcc :=
  (e.t.list w).map fun l => spadAcc e.t.core l (384 * e.b.row0 + (a l).toNat) (e.spadPasses n (a l) write)

/-- A store of SPACE 1 whose lanes all pass writes them in ascending order, with their conflict clk counted. -/
theorem exec_st_spad (hf : f.space = 1) (h : s.ready (.st f) = some e)
    (hok : ∀ l ∈ e.t.list (e.t.actNH f.h), e.spadPasses (sizeBytes f.size.toNat) (e.storeOffset f l) true = true) :
    let n := sizeBytes f.size.toNat
    let accs := e.spadAccs n (e.storeOffset f) true (e.t.actNH f.h)
    exec (.st f) s = .next (e.stepped (.st f) ((e.bankedAt e.s n accs).storeLanes e.who f.pol.toNat false n (e.storeVal f)
      ((e.t.list (e.t.actNH f.h)).map fun l => spadAcc e.t.core l (384 * e.b.row0 + (e.storeOffset f l).toNat) true)) e.t none) := by
  intro n accs
  have hall : ((e.t.list (e.t.actNH f.h)).map fun l => spadAcc e.t.core l (384 * e.b.row0 + (e.storeOffset f l).toNat) true) = accs :=
    List.map_congr_left fun l hl => by rw [hok l hl]
  have hspace : f.space.toNat = 1 := by rw [hf]; rfl
  obtain ⟨as, hc, hbare⟩ := checkLanes_spad (e := e) (s := e.s)
    (chk := fun s l => e.check s .write f.space.toNat f.seg.toNat (e.t.getV f.data.toNat l).toNat (laneOff f false l) (sizeBytes f.size.toNat))
    (addr := fun l => ((e.t.getV f.data.toNat l).toNat + laneOff f false l).toNat)
    (place := fun l => 384 * e.b.row0 + (e.storeOffset f l).toNat)
    (ok := fun l => e.spadPasses (sizeBytes f.size.toNat) (e.storeOffset f l) true) (ls := e.t.list (e.t.actNH f.h))
    (fun l _ hl => by
      obtain ⟨x, hx⟩ := check_spad (e := e) (seg := f.seg.toNat) (n := sizeBytes f.size.toNat)
        (val := (e.t.getV f.data.toNat l).toNat) (off := f.off.toInt) (kind := .write) (.inl rfl)
      rw [hspace, laneOff_false, hx]
      exact congrArg (Prod.mk e.s) (if_pos hl))
    (fun l hl hbad => by rw [hok l hl] at hbad; cases hbad)
  have hwait : e.mustWait f.space.toNat (e.t.actNH f.h) (fun l => (e.t.getV f.data.toNat l).toNat + laneOff f false l) = false := by
    rw [hspace]
    rfl
  have hbank : e.banked e.s f.space.toNat (sizeBytes f.size.toNat) as = e.bankedAt e.s (sizeBytes f.size.toNat) accs := by
    rw [hspace, banked_one, hbare]
    rfl
  rw [exec_st h, storeM_eq, hwait, if_neg Bool.false_ne_true, store_of_clean rfl hc, hbank, ← storeLanes_bare _ _ _ _ _ _ as, hbare, hall]
  rfl

/-- What a store of SPACE 1 whose lanes all pass leaves. -/
theorem exec_st_spad_spec (hf : f.space = 1) (h : s.ready (.st f) = some e)
    (hok : ∀ l ∈ e.t.list (e.t.actNH f.h), e.spadPasses (sizeBytes f.size.toNat) (e.storeOffset f l) true = true)
    (hst : ∀ x ∈ e.s.storeQ, x.tid ≠ e.t.tid) (hrem : ∀ x ∈ e.s.remoteQ, x.tid ≠ e.t.tid) :
    let n := sizeBytes f.size.toNat
    let place (l : Nat) : Nat := 384 * e.b.row0 + (e.storeOffset f l).toNat
    let ls := e.t.list (e.t.actNH f.h)
    ∃ s', exec (.st f) s = .next (e.stepped (.st f) s' e.t none) ∧
      SpadOnly e.t.core (e.bankedAt e.s n (e.spadAccs n (e.storeOffset f) true (e.t.actNH f.h))) s' ∧
      (∀ x, x ∈ s'.spadPoison ↔ x ∈ e.s.spadPoison ∧
        ∀ l ∈ ls, ¬(x.1 = e.t.core ∧ place l < 4 * x.2 + 4 ∧ 4 * x.2 < place l + n)) ∧
      ∀ x, mget 0 (s'.coreSt e.t.core).spad x =
        match lastCovering place n ls x with
        | some l => BitVec.ofNat 8 (e.storeVal f l / 2 ^ (8 * (x - place l)))
        | none => mget 0 (e.s.coreSt e.t.core).spad x := by
  intro n place ls
  obtain ⟨hcores, hstores, hremotes, hpoison⟩ := bankedAt_keeps e e.s n (e.spadAccs n (e.storeOffset f) true (e.t.actNH f.h))
  have hspec := storeLanes_own_spec (s := e.bankedAt e.s n (e.spadAccs n (e.storeOffset f) true (e.t.actNH f.h))) (w := e.who)
    (pol := f.pol.toNat) (n := n) (priv := false) (place := place) (val := e.storeVal f) ls (by rwa [hstores]) (by rwa [hremotes])
  dsimp only at hspec
  rw [hpoison, hcores] at hspec
  exact ⟨_, exec_st_spad hf h hok, hspec⟩

/-- A load of SPACE 1 whose lanes pass, or are helpers, reads them and has its passes on their way. -/
theorem exec_ld_spad (hf : f.space = 1) (h : s.ready (.ld f) = some e)
    (hok : ∀ l ∈ e.t.list (e.t.act f.h), e.spadPasses (sizeBytes f.size.toNat) (e.loadOffset f l) false = true ∨
      e.t.helper.getLsbD l = true) (hst : ∀ x ∈ e.s.storeQ, x.tid ≠ e.t.tid) :
    let n := sizeBytes f.size.toNat
    let accs := e.spadAccs n (e.loadOffset f) false (e.t.act f.h)
    let value (l : Nat) : Nat := spadValue (e.s.coreSt e.t.core).spad (384 * e.b.row0 + (e.loadOffset f l).toNat) n
      (e.spadPasses n (e.loadOffset f l) false)
    let passes (as : List LaneAcc) : List Flight := e.flights e.t.pc f.data.toNat f.size.toNat 1 f.pol.toNat (f.h.ws == 1) as
      ((e.t.list (e.t.act f.h)).map fun l => (l, value l))
    ∃ q as lat, as.map LaneAcc.lane = e.t.list (e.t.act f.h) ∧
      exec (.ld f) s = .next (e.stepped (.ld f) { e.bankedAt e.s n accs with loadQ := q }
        { e.t with flights := e.t.flights ++ passes as } lat) := by
  intro n accs value passes
  have hspace : f.space.toNat = 1 := by rw [hf]; rfl
  have hchk : ∀ l, ∃ x, e.check e.s .read f.space.toNat f.seg.toNat (e.addrVal f.addr.toNat l) (laneOff f false l) n =
      (e.s, if e.spadPasses n (e.loadOffset f l) false then .ok (.spad e.t.core (384 * e.b.row0 + (e.loadOffset f l).toNat))
        else .error x) := fun l => by
    rw [hspace, laneOff_false]
    exact check_spad (.inr rfl)
  obtain ⟨as, hc, hbare⟩ := checkLanes_spad (e := e) (s := e.s)
    (chk := fun s l => e.check s .read f.space.toNat f.seg.toNat (e.addrVal f.addr.toNat l) (laneOff f false l) n)
    (addr := fun l => (e.addrVal f.addr.toNat l + laneOff f false l).toNat)
    (place := fun l => 384 * e.b.row0 + (e.loadOffset f l).toNat)
    (ok := fun l => e.spadPasses n (e.loadOffset f l) false) (ls := e.t.list (e.t.act f.h))
    (fun l _ hl => by
      obtain ⟨x, hx⟩ := hchk l
      exact hx.trans (congrArg (Prod.mk e.s) (if_pos hl)))
    (fun l hl hbad => by
      obtain ⟨x, hx⟩ := hchk l
      refine ⟨(hok l hl).resolve_left (by rw [hbad]; exact Bool.false_ne_true), x, ?_⟩
      exact hx.trans (congrArg (Prod.mk e.s) (if_neg (by rw [hbad]; exact Bool.false_ne_true))))
  have hlanes : as.map LaneAcc.lane = e.t.list (e.t.act f.h) := by
    have := congrArg (List.map LaneAcc.lane) hbare
    rw [List.map_map, List.map_map] at this
    exact this.trans (List.map_id _)
  have hspads : ∀ x ∈ as, ∀ t, x.tgt = some t → ∃ c a, t = .spad c a := fun x hx t ht => by
    obtain ⟨l, -, hl⟩ := List.mem_map.mp (hbare ▸ List.mem_map_of_mem hx : x.bare ∈ _)
    have htgt : (spadAcc e.t.core l (384 * e.b.row0 + (e.loadOffset f l).toNat) (e.spadPasses n (e.loadOffset f l) false)).tgt = some t :=
      (congrArg LaneAcc.tgt hl).trans ht
    unfold spadAcc at htgt
    split at htgt
    · exact ⟨_, _, (Option.some.inj htgt).symm⟩
    · cases htgt
  have hwait : e.mustWait f.space.toNat (e.t.act f.h) (fun l => e.addrVal f.addr.toNat l + laneOff f false l) = false := by
    rw [hspace]
    rfl
  have hbank : e.banked e.s f.space.toNat n as = e.bankedAt e.s n accs := by
    rw [hspace, banked_one, hbare]
    rfl
  obtain ⟨hcores, hstores, -, -⟩ := bankedAt_keeps e e.s n accs
  have hst' : ∀ x ∈ (e.bankedAt e.s n accs).storeQ, x.tid ≠ e.who.tid := by rwa [hstores]
  obtain ⟨q, hq⟩ := loadLanes_own_spec (pol := f.pol.toNat) (priv := false) (n := n)
    (place := fun l => 384 * e.b.row0 + (e.loadOffset f l).toNat)
    (ok := fun l => e.spadPasses n (e.loadOffset f l) false) (e.t.list (e.t.act f.h)) hst'
  rw [hcores] at hq
  have hload : (e.banked e.s f.space.toNat n as).loadLanes e.who f.pol.toNat false n as =
      ({ e.bankedAt e.s n accs with loadQ := q }, (e.t.list (e.t.act f.h)).map fun l => (l, value l)) := by
    rw [hbank, ← loadLanes_bare, hbare]
    exact hq
  refine ⟨q, as, if sizeRegs f.size.toNat = 1 then some (if f.h.ws = 1 then [] else e.t.row f.data.toNat) else none, hlanes, ?_⟩
  rw [exec_ld h, loadM_eq, hwait, if_neg Bool.false_ne_true, load_of_clean rfl hc hload, queueLoads_spad hspads, hspace]

end

/-- Settles O40: the lanes' checks leave the state, each store writes its bytes and clears their marks, each load reads, and a lane's
value stands in the pass of its mask word. -/
theorem scratchpadAccesses : Obligations.ScratchpadAccesses := by
  unfold Obligations.ScratchpadAccesses
  intro f s e hf n place ok accs counted spad hst hrem
  refine ⟨?_, ?_⟩
  · intro h a val hok
    obtain ⟨s', hexec, honly, hmarks, hbytes⟩ := exec_st_spad_spec hf h hok hst hrem
    have hcores : ∀ c, (counted (accs a true (e.t.actNH f.h))).coreSt c = e.s.coreSt c := (bankedAt_keeps e e.s n _).1
    exact ⟨s', hexec, honly.rest, hmarks, fun c hc => (honly.others c hc).trans (hcores c),
      honly.own.trans (congrArg (fun c : CoreSt => { c with spad := [] }) (hcores _)), hbytes⟩
  · intro h a hok
    obtain ⟨q, as, lat, hlanes, hexec⟩ := exec_ld_spad hf h hok hst
    refine ⟨_, _, lat, hexec, rfl, fun l hl => ?_⟩
    obtain ⟨x, hx, hgen, hseq, hfmt, hdst, hsize, hbit, hws, hvals⟩ := flights_carry hlanes _ hl
    exact ⟨x, hx, hgen, hseq, hfmt, hdst, hsize, hbit, hws, 
      fun k hk => ⟨_, fun hgood => if_pos hgood, fun hbad => if_neg (Bool.eq_false_iff.mp hbad), hvals k hk⟩⟩

end Sys2Proof.Machine
end

section
/-! Lanes that meet causes: the one that is reported, the lanes that trap, and what the others have completed (R183, R207, R209,
R342, R344, R355 to R357). -/

namespace Sys2Proof.Machine

/-! ### The reported cause (R207) -/

/-- Whether the cause of a lane is reported before that of another: by its priority, then by its lane. -/
def LaneFault.before (x y : LaneFault) : Bool :=
  x.f.cause.prio < y.f.cause.prio || (x.f.cause.prio == y.f.cause.prio && x.lane < y.lane)

theorem LaneFault.not_before_iff (x y : LaneFault) : x.before y = false ↔
    y.f.cause.prio ≤ x.f.cause.prio ∧ (x.f.cause.prio = y.f.cause.prio → y.lane ≤ x.lane) := by
  simp only [LaneFault.before, Bool.or_eq_false_iff, Bool.and_eq_false_imp, decide_eq_false_iff_not, beq_iff_eq, not_lt]

/-- The first two causes of a list count as the one of them that is reported before the other. -/
theorem topFault_cons_cons (x y : LaneFault) (fs : List LaneFault) :
    topFault (x :: y :: fs) = topFault ((if y.before x then y else x) :: fs) := by
  show List.foldl _ (if y.before x then some y else some x) fs = _
  split <;> rfl

/-- The reported cause is one of those met, and none is before it. -/
theorem topFault_cons (x : LaneFault) (fs : List LaneFault) :
    ∃ top ∈ x :: fs, topFault (x :: fs) = some top ∧ ∀ y ∈ x :: fs, y.before top = false := by
  induction fs generalizing x with
  | nil => exact ⟨x, List.mem_cons_self, rfl, fun y hy => by simp [List.mem_singleton.mp hy, LaneFault.before]⟩
  | cons y fs ih =>
    rw [topFault_cons_cons]
    cases hyx : y.before x with
    | true =>
      obtain ⟨top, hmem, htop, hleast⟩ := ih y
      refine ⟨top, List.mem_cons_of_mem _ hmem, htop, List.forall_mem_cons.mpr ⟨?_, hleast⟩⟩
      have hy := hleast y List.mem_cons_self
      simp only [LaneFault.before, Bool.or_eq_true, Bool.and_eq_true, decide_eq_true_eq, beq_iff_eq] at hyx
      rw [LaneFault.not_before_iff] at hy ⊢
      omega
    | false =>
      obtain ⟨top, hmem, htop, hleast⟩ := ih x
      obtain ⟨hx, hrest⟩ := List.forall_mem_cons.mp hleast
      refine ⟨top, ?_, htop, List.forall_mem_cons.mpr ⟨hx, List.forall_mem_cons.mpr ⟨?_, hrest⟩⟩⟩
      · rcases List.mem_cons.mp hmem with rfl | h
        · exact List.mem_cons_self
        · exact List.mem_cons_of_mem _ (List.mem_cons_of_mem _ h)
      · rw [LaneFault.not_before_iff] at hyx hx ⊢
        omega

/-! ### What the trap records (R183, R209) -/

/-- The lanes of causes. -/
def faultLanes (fs : List LaneFault) : Lanes := fs.foldl (fun a x => a ||| (1#1024 <<< x.lane)) 0

/-- A field of the causes by lane. -/
def faultField (val : LaneFault → DWord) (fs : List LaneFault) : Map DWord :=
  fs.foldl (fun m x => mset 0 m x.lane (val x)) []

/-- The causes that are the reported one. -/
def sameFaults (fs : List LaneFault) (top : LaneFault) : List LaneFault := fs.filter fun x => x.f.cause == top.f.cause

theorem getLsbD_faultLanes {fs : List LaneFault} (h : ∀ x ∈ fs, x.lane < 1024) (l : Nat) :
    (faultLanes fs).getLsbD l = true ↔ ∃ x ∈ fs, x.lane = l := by
  rw [← List.mem_map]
  by_cases hl : l < 1024
  · exact (getLsbD_foldl_lanes fs 0 hl).trans (by simp)
  · rw [BitVec.getLsbD_of_ge _ _ (not_lt.mp hl)]
    refine iff_of_false Bool.false_ne_true fun hmem => hl ?_
    obtain ⟨x, hx, rfl⟩ := List.mem_map.mp hmem
    exact h x hx

theorem mem_sameFaults {fs : List LaneFault} {top x : LaneFault} :
    x ∈ sameFaults fs top ↔ x ∈ fs ∧ x.f.cause = top.f.cause := by
  simp [sameFaults]

/-- The lane of one cause alone has that cause's field. -/
theorem mget_faultField {fs : List LaneFault} {x : LaneFault} (val : LaneFault → DWord) (hx : x ∈ fs)
    (huniq : ∀ y ∈ fs, y.lane = x.lane → y = x) : mget 0 (faultField val fs) x.lane = val x := by
  induction fs using List.reverseRecOn with
  | nil => cases hx
  | append_singleton fs y ih =>
    rw [faultField, List.foldl_append, List.foldl_cons, List.foldl_nil, mget_mset]
    split
    · next h => rw [huniq y (by simp) h.symm]
    · next h =>
      have hin : x ∈ fs := (List.mem_append.mp hx).resolve_right fun hy => h (by rw [List.mem_singleton.mp hy])
      exact ih hin fun z hz => huniq z (List.mem_append_left _ hz)

section
variable (e : Env) (i : Instr) (t : Team) (fs : List LaneFault) (seg space size kind : Nat)

/-- The trap of lanes that met causes: those that met the reported one trap, and all of them are pending outside a region. -/
def Env.laneRaise (top : LaneFault) : Raise :=
  { cause := top.f.cause, lanes := faultLanes (sameFaults fs top),
    pending := if t.region.isSome then e.t.mask else faultLanes fs, full := t.region.isSome, pc := e.t.pc, insn := i.word,
    resume := (e.t.resumeAt i).1, size := (e.t.resumeAt i).2,
    va := faultField (fun x => BitVec.ofNat 64 x.f.va) (sameFaults fs top),
    gpa := faultField (fun x => BitVec.ofNat 64 x.f.gpa) (sameFaults fs top), info := infoOf seg space size kind top.f }

variable {fs}

theorem trapLanes_of_top {top : LaneFault} (s : State) (h : topFault fs = some top) :
    e.trapLanes i s t fs seg space size kind = .next (State.takeTrap
      (if top.f.cause = .rangeLocked then ({ e with s := s } : Env).counted.count e.b.ctx 8 1
        else ({ e with s := s } : Env).counted) t (e.laneRaise i t fs seg space size kind top)) := by
  unfold Env.trapLanes
  rw [h]
  simp only [← beq_iff_eq (a := top.f.cause)]
  rfl

theorem laneRaise_lanes {top : LaneFault} (h : ∀ x ∈ fs, x.lane < 1024) (l : Nat) :
    (e.laneRaise i t fs seg space size kind top).lanes.getLsbD l = true ↔ ∃ x ∈ fs, x.lane = l ∧ x.f.cause = top.f.cause := by
  refine (getLsbD_faultLanes (fun x hx => h x (mem_sameFaults.mp hx).1) l).trans ?_
  simp only [mem_sameFaults, and_assoc, and_comm (a := _ = l)]

/-- Inside a region the whole mask runs again. -/
theorem laneRaise_pending_region (top : LaneFault) (h : t.region.isSome = true) :
    (e.laneRaise i t fs seg space size kind top).pending = e.t.mask := if_pos h

theorem laneRaise_pending {top : LaneFault} (ht : t.region = none) (h : ∀ x ∈ fs, x.lane < 1024) (l : Nat) :
    (e.laneRaise i t fs seg space size kind top).pending.getLsbD l = true ↔ ∃ x ∈ fs, x.lane = l := by
  rw [← getLsbD_faultLanes h]
  simp [Env.laneRaise, ht]

/-- Each trapping lane has its own VA and GPA in the record. -/
theorem laneRaise_addresses {top x : LaneFault} (h : fs.Pairwise fun x y => x.lane ≠ y.lane) (hx : x ∈ fs)
    (hc : x.f.cause = top.f.cause) :
    mget 0 (e.laneRaise i t fs seg space size kind top).va x.lane = BitVec.ofNat 64 x.f.va ∧
      mget 0 (e.laneRaise i t fs seg space size kind top).gpa x.lane = BitVec.ofNat 64 x.f.gpa := by
  have huniq : ∀ y ∈ sameFaults fs top, y.lane = x.lane → y = x := fun y hy hlane =>
    List.inj_on_of_nodup_map (List.pairwise_map.mpr h) (mem_sameFaults.mp hy).1 hx hlane
  have hsame : x ∈ sameFaults fs top := mem_sameFaults.mpr ⟨hx, hc⟩
  exact ⟨mget_faultField _ hsame huniq, mget_faultField _ hsame huniq⟩

end

/-! ### Loads and stores (R342, R344) -/

section
variable {e : Env} {i : Instr} {f : FM} {seg : Nat} {priv : Bool} {chk : State → Nat → State × Except MFault Target}
  {addr : Nat → Nat} {s1 : State} {as : List LaneAcc} {fs : List LaneFault}

/-- Inside a region a load with causes reads nothing: the region runs again from its start. -/
theorem load_of_faults_in_region (hi : i.hdr = f.h) (hc : e.checkLanes chk addr e.s (e.t.list (e.t.act f.h)) = (s1, as, fs))
    (hfs : fs ≠ []) (hr : e.t.region.isSome = true) : e.load i f seg priv chk addr =
      e.trapLanes i (e.banked s1 f.space.toNat (sizeBytes f.size.toNat) as) e.t fs seg f.space.toNat f.size.toNat 0 := by
  simp only [Env.load, hi, hc, List.isEmpty_iff, if_neg hfs, hr, if_true]

/-- Outside a region the lanes without a cause have their values at once (log 54). -/
theorem load_of_faults (hi : i.hdr = f.h) (hc : e.checkLanes chk addr e.s (e.t.list (e.t.act f.h)) = (s1, as, fs))
    (hfs : fs ≠ []) (hr : e.t.region = none) : e.load i f seg priv chk addr =
      let got := (e.banked s1 f.space.toNat (sizeBytes f.size.toNat) as).loadLanes e.who f.pol.toNat priv (sizeBytes f.size.toNat) as
      e.trapLanes i got.1 ((e.flights e.t.pc f.data.toNat f.size.toNat f.space.toNat f.pol.toNat false as got.2).foldl Team.land
        { e.t with latches := [] }) fs seg f.space.toNat f.size.toNat 0 := by
  simp only [Env.load, hi, hc, List.isEmpty_iff, if_neg hfs, hr, Option.isSome_none, Bool.false_eq_true, if_false]

theorem store_of_faults (hi : i.hdr = f.h) (hc : e.checkLanes chk addr e.s (e.t.list (e.t.actNH f.h)) = (s1, as, fs))
    (hfs : fs ≠ []) : e.store i f seg priv chk addr =
      e.trapLanes i ((e.banked s1 f.space.toNat (sizeBytes f.size.toNat) as).storeLanes e.who f.pol.toNat priv
        (sizeBytes f.size.toNat) (e.storeVal f) as) e.t fs seg f.space.toNat f.size.toNat 1 := by
  simp only [Env.store, hi, hc, List.isEmpty_iff, if_neg hfs]
  rfl

end

/-! ### Atomics (R355 to R357) -/

/-- The steps of the lanes without a cause are performed between the two ends, and their results stand when the others trap. -/
theorem atomic_of_faults {e : Env} {f : FV} {w2 : BitVec 64} {i : Instr} (hi : i.hdr = f.h) (step : AtomF → Nat → Nat → Nat)
    (fin : AtomF → Team → List (Nat × Nat) → Lanes → Team)
    (hwait : e.mustWait (atomF f w2).space (e.t.actNH f.h) (e.atomAddr f w2) = false) (hfs : (e.atomChecked f w2).2.2 ≠ []) :
    e.atomic i f w2 step fin = e.trapLanes i (e.atomAfter f w2 (step (atomF f w2)))
      (fin (atomF f w2) e.t (e.atomSteps f w2 (step (atomF f w2))).2
        (((e.atomSteps f w2 (step (atomF f w2))).2.map Prod.fst).foldl (fun m l => m ||| (1#1024 <<< l)) 0 |||
          (e.t.act f.h &&& e.t.helper)))
      (e.atomChecked f w2).2.2 (atomF f w2).seg (atomF f w2).space (if (atomF f w2).wide then 3 else 2) 2 := by
  obtain ⟨s, as, fs, hc⟩ : ∃ s as fs, e.atomChecked f w2 = (s, as, fs) := ⟨_, _, _, rfl⟩
  unfold Env.atomAfter Env.atomSteps Env.atomBefore Env.atomSome
  rw [hc] at hfs ⊢
  unfold Env.atomChecked Env.atomCheck Env.atomAddr at hc
  unfold Env.atomAddr at hwait
  unfold Env.atomic
  simp only [hi, hwait, hc, Bool.false_eq_true, if_false, List.isEmpty_iff, if_neg hfs]
  rfl

/-- AWAITV meets the cause of its one word in every lane of its guard that is no helper. -/
theorem exec_awaitv_faults {f : FV} {w2 : BitVec 64} {s s1 : State} {e : Env} {x : MFault} (h : s.ready (.awaitv f w2) = some e)
    (hnh : e.t.actNH f.h ≠ 0) (hw : e.mustWait (atomF f w2).space (e.t.actNH f.h) (fun _ => e.atomAddr f w2 0) = false)
    (hc : e.atomCheck f w2 e.s 0 = (s1, .error x)) : exec (.awaitv f w2) s =
      e.trapLanes (.awaitv f w2) s1 e.t (faultAll e.t (e.t.actNH f.h) x) (atomF f w2).seg (atomF f w2).space
        (if (atomF f w2).wide then 3 else 2) 2 := by
  show execAwaitv f w2 s = _
  rw [execAwaitv, issue_of_ready h]
  refine (if_neg (act_ne_zero_of_actNH hnh)).trans ((if_neg hnh).trans ((if_neg (ne_true_of_eq_false hw)).trans ?_))
  unfold Env.atomCheck at hc
  rw [hc]

/-- Settles O39: no cause met is before the reported one, whose trap names the lanes; then instruction by instruction, by what each
performs in the lanes that its checks let pass. -/
theorem laneCausesTrap : Obligations.LaneCausesTrap := by
  unfold Obligations.LaneCausesTrap
  refine ⟨fun e i s t fs seg space size kind hne hlt hdist => ?_,
    fun f s e => ⟨fun h hw s1 as fs hc hfs => ?_, fun h hw s1 as fs hc hfs => ?_, fun h s1 as fs hc hfs => ?_,
      fun h hw s1 as fs hc hfs => ?_, fun h hw s1 as fs hc hfs => ?_, fun h s1 as fs hc hfs => ?_⟩,
    fun f w2 s e => ⟨fun h hw hfs => ?_, fun h hw hfs => ?_, fun h hw hfs => ?_, fun h hw hfs => ?_,
      fun s1 x hc h hnh hw => exec_awaitv_faults h hnh hw hc⟩⟩
  · obtain ⟨x, rest, rfl⟩ := List.exists_cons_of_ne_nil hne
    obtain ⟨top, hmem, htop, hleast⟩ := topFault_cons x rest
    simp only [LaneFault.not_before_iff] at hleast
    exact ⟨top, hmem, e.laneRaise i t (x :: rest) seg space size kind top, fun y hy => (hleast y hy).1,
      fun y hy => (hleast y hy).2, trapLanes_of_top e i t seg space size kind s htop, rfl, rfl, rfl, rfl,
      laneRaise_lanes e i t seg space size kind hlt, laneRaise_pending_region e i t seg space size kind top,
      fun ht => laneRaise_pending e i t seg space size kind ht hlt,
      fun y hy hy' => laneRaise_addresses e i t seg space size kind hdist hy hy'⟩
  · have hload := (exec_ld h).trans ((loadM_eq e _ f false).trans (if_neg (ne_true_of_eq_false hw)))
    exact ⟨fun hr => hload.trans (load_of_faults_in_region rfl hc hfs hr), fun hr => hload.trans (load_of_faults rfl hc hfs hr)⟩
  · have hload := (exec_ldv h).trans ((loadM_eq e _ f true).trans (if_neg (ne_true_of_eq_false hw)))
    exact ⟨fun hr => hload.trans (load_of_faults_in_region rfl hc hfs hr), fun hr => hload.trans (load_of_faults rfl hc hfs hr)⟩
  · simp only [← checkPriv_eq] at hc
    exact ⟨fun hr => (exec_ldl h).trans (load_of_faults_in_region rfl hc hfs hr),
      fun hr => (exec_ldl h).trans (load_of_faults rfl hc hfs hr)⟩
  · exact (exec_st h).trans ((storeM_eq e _ f false).trans ((if_neg (ne_true_of_eq_false hw)).trans (store_of_faults rfl hc hfs)))
  · exact (exec_stv h).trans ((storeM_eq e _ f true).trans ((if_neg (ne_true_of_eq_false hw)).trans (store_of_faults rfl hc hfs)))
  · simp only [← checkPriv_eq] at hc
    exact (exec_stl h).trans (store_of_faults rfl hc hfs)
  · exact (exec_atom h).trans (atomic_of_faults rfl _ _ hw hfs)
  · exact (exec_acas h).trans (atomic_of_faults rfl _ _ hw hfs)
  · exact (exec_red h).trans (atomic_of_faults rfl _ _ hw hfs)
  · exact (exec_atoms h).trans (atomic_of_faults rfl _ _ hw hfs)

end Sys2Proof.Machine
end

section
/-! Engine instructions at issue: the room that an operation waits for, the format block and the tables that the matrix
instructions read first (R204, R363 to R367, R371, R372, R377, R384, R385). -/

namespace Sys2Proof.Machine

/-! ### An operation enters its engine (R204, R363) -/

/-- Whether the queue of an operation's engine and the lock tables of its ranges have room for it. -/
def Env.hasRoom (e : Env) (o : EngOp) (locks : List (Nat × Lock)) : Prop :=
  ((e.s.coreSt e.t.core).ops.filter fun x => sameQueue x.eng o.eng).length < queueRoom o.eng ∧
    ∀ l ∈ locks, (e.s.coreSt l.1).locks.length + (locks.filter fun m => m.1 == l.1).length ≤ lockRoom

/-- The state after the issue of an operation: behind the source end and the invalidation of R200 its locks stand in their tables,
it is the last of its core and open in its counter. -/
def Env.opEntered (e : Env) (i : Instr) (o : EngOp) (locks : List (Nat × Lock)) : State :=
  let s1 := (e.target (e.source e.s)).addLocks locks
  let s2 := s1.putCore e.t.core { s1.coreSt e.t.core with ops := (s1.coreSt e.t.core).ops ++ [o] }
  let k := e.t.counters.getD o.k {}
  e.stepped i { s2 with nextId := s2.nextId + 1 }
    { e.t with counters := e.t.counters.set o.k { k with opened := k.opened ++ [o.id] } } none

section
variable {e : Env} {o : EngOp} {locks : List (Nat × Lock)} (i : Instr)

theorem full_or_tight_iff : (decide (queueRoom o.eng ≤ ((e.s.coreSt e.t.core).ops.filter fun x => sameQueue x.eng o.eng).length) ||
    locks.any fun l => lockRoom < (e.s.coreSt l.1).locks.length + (locks.filter fun m => m.1 == l.1).length) = true ↔
      ¬e.hasRoom o locks := by
  simp [Env.hasRoom, imp_iff_not_or]

theorem enqueue_of_room (h : e.hasRoom o locks) : e.enqueue i o locks = .next (e.opEntered i o locks) :=
  if_neg fun hfull => full_or_tight_iff.mp hfull h

theorem enqueue_of_full (h : ¬e.hasRoom o locks) : e.enqueue i o locks = .next (e.waiting 8) := if_pos (full_or_tight_iff.mpr h)

end

/-! ### Operations whose operands say all (R363 to R367, R384, R385) -/

section
variable {f : FV} {w2 : BitVec 64} {s : State} {e : Env}

theorem bulk_eq {i : Instr} (hi : i.hdr = f.h) (g : Engine) (kind : EngKind) : e.bulk i f w2 g kind =
    let o := e.newOp f w2 g kind
    if e.t.act f.h = 0 then .next (e.stepped i e.s e.t none)
    else if e.engBad o = true then .next (e.counted.takeTrap e.t (e.raise i .descInvalid))
    else e.enqueue i o (o.spans.1.flatMap (e.lockOf o false 0) ++ o.spans.2.flatMap (e.lockOf o true o.mcast)) := by
  unfold Env.bulk
  rw [hi]
  rfl

theorem exec_cpy (h : s.ready (.cpy f w2) = some e) : exec (.cpy f w2) s = e.bulk (.cpy f w2) f w2 .copy .cpy := by
  show execCpy f w2 s = _
  exact issue_of_ready h _

theorem exec_cpyt (h : s.ready (.cpyt f w2) = some e) : exec (.cpyt f w2) s = e.bulk (.cpyt f w2) f w2 .copy .cpyt := by
  show execCpyt f w2 s = _
  exact issue_of_ready h _

theorem exec_gath (h : s.ready (.gath f w2) = some e) : exec (.gath f w2) s = e.bulk (.gath f w2) f w2 .gather .gath := by
  show execGath f w2 s = _
  exact issue_of_ready h _

theorem exec_scat (h : s.ready (.scat f w2) = some e) : exec (.scat f w2) s = e.bulk (.scat f w2) f w2 .gather .scat := by
  show execScat f w2 s = _
  exact issue_of_ready h _

theorem exec_mzero (h : s.ready (.mzero f) = some e) : exec (.mzero f) s =
    if e.t.act f.h = 0 then .next (e.stepped (.mzero f) e.s e.t none)
    else e.enqueue (.mzero f) { e.newOp f 0 .move .mzero with tile := f.d.toNat } [] := by
  show execMzero f s = _
  exact issue_of_ready h _

theorem exec_mldt (h : s.ready (.mldt f w2) = some e) : exec (.mldt f w2) s =
    let o : EngOp := { e.newOp f w2 .move .mldt with tile := f.d.toNat }
    if e.t.act f.h = 0 then .next (e.stepped (.mldt f w2) e.s e.t none)
    else if o.lspace = 4 ∨ 5 ≤ o.conv ∨ o.a.toNat % 16 ≠ 0 then
      .next (e.counted.takeTrap e.t (e.raise (.mldt f w2) .descInvalid))
    else e.enqueue (.mldt f w2) o
      (e.lockOf o false 0 { space := o.lspace, seg := o.lseg, val := o.a, len := o.lstride * 63 + 64 * o.lsize }) := by
  show execMldt f w2 s = _
  exact issue_of_ready h _

end

/-! ### Blocks and tables that a team reads once (R331, R377) -/

section
variable {e : Env} {i : Instr} {w : Lanes} {va n align : Nat} {ok : List Byte → Bool} {k : Env → Option (List Byte) → Out}
  {s1 : State} {d : List Byte} (hnh : w &&& ~~~e.t.helper ≠ 0)
include hnh

theorem lanes_ne_zero_of_working : w ≠ 0 := by
  rintro rfl
  exact hnh (by simp)

theorem readTable_unaligned (ha : va % align ≠ 0) : e.readTable i w va n align ok k =
    .next (e.counted.takeTrap e.t (e.raise i .descInvalid)) := by
  unfold Env.readTable
  rw [if_neg (lanes_ne_zero_of_working hnh), if_pos ha, if_neg hnh]
  rfl

theorem readTable_aligned (ha : va % align = 0) (hr : e.readOnce e.s va n = (s1, .ok d)) : e.readTable i w va n align ok k =
    if ok d then k { e with s := s1 } (some d)
    else .next (({ e with s := s1 } : Env).counted.takeTrap e.t (e.raise i .descInvalid)) := by
  unfold Env.readTable
  rw [if_neg (lanes_ne_zero_of_working hnh), if_neg (not_not.mpr ha), hr]
  dsimp only
  rw [if_neg hnh]
  rfl

end

/-- The read of one table of a format block: no bytes where the block names none. -/
def Env.readTab (e : Env) (i : Instr) (w : Lanes) (va : Nat) (k : Env → List Byte → Out) : Out :=
  if va = 0 then k e [] else e.readTable i w va 256 64 tableOk fun e bs => k e (bs.getD [])

theorem readTabs_eq (e : Env) (i : Instr) (o : EngOp) (k : Env → EngOp → Out) : e.readTabs i o k =
    e.readTab i (e.t.act i.hdr) (o.tabAt false) fun e1 ta =>
      e1.readTab i (e.t.act i.hdr) (o.tabAt true) fun e2 tb => k e2 { o with tabA := ta, tabB := tb } := rfl

/-- A read of a table in state `s` gives the valid table `t` and leaves `s'`; where the block names no table, nothing is read. -/
def Env.ReadsTab (e : Env) (s s' : State) (va : Nat) (t : List Byte) : Prop :=
  if va = 0 then s' = s ∧ t = [] else va % 64 = 0 ∧ e.readOnce s va 256 = (s', .ok t) ∧ tableOk t = true

section
variable {e : Env} {i : Instr} {w : Lanes} {va : Nat} {s1 : State} {t : List Byte} (hnh : w &&& ~~~e.t.helper ≠ 0)
include hnh

theorem readTab_of_reads (h : e.ReadsTab e.s s1 va t) (k : Env → List Byte → Out) :
    e.readTab i w va k = k { e with s := s1 } t := by
  unfold Env.readTab
  unfold Env.ReadsTab at h
  by_cases hva : va = 0
  · obtain ⟨rfl, rfl⟩ := (if_pos hva).mp h
    exact if_pos hva
  · obtain ⟨ha, hr, hok⟩ := (if_neg hva).mp h
    rw [if_neg hva, readTable_aligned hnh ha hr, if_pos hok]
    rfl

theorem readTab_of_invalid (hva : va ≠ 0) (ha : va % 64 = 0) (hr : e.readOnce e.s va 256 = (s1, .ok t)) (hok : tableOk t = false)
    (k : Env → List Byte → Out) : e.readTab i w va k =
      .next (({ e with s := s1 } : Env).counted.takeTrap e.t (e.raise i .descInvalid)) := by
  unfold Env.readTab
  rw [if_neg hva, readTable_aligned hnh ha hr, if_neg (ne_true_of_eq_false hok)]

end

/-! ### Operations that a format block describes (R371, R372, R377) -/

/-- What MMA, MMAL and MDRAIN do once the operation `o` holds its format block. -/
def Env.ofBlock (e : Env) (i : Instr) (o : EngOp) (bad : EngOp → Bool) (locks : Env → EngOp → List (Nat × Lock)) : Out :=
  if o.pair && decide (e.b.tiles.length ≤ o.tile + 1) then e.trapTeam i .regLimit
  else if bad o then e.trapTeam i .descInvalid
  else e.readTabs i o fun e o => e.enqueue i o (locks e o)

/-- What MMA, MMAL and MDRAIN do with an operation that holds no format block yet. -/
def Env.fromBlock (e : Env) (i : Instr) (o : EngOp) (bad : EngOp → Bool) (locks : Env → EngOp → List (Nat × Lock)) : Out :=
  if e.t.actNH i.hdr = 0 then e.skip i
  else if o.aTile.any fun t => e.b.tiles.length ≤ t then e.trapTeam i .regLimit
  else e.readTable i (e.t.act i.hdr) o.c.toNat 32 32 (fun _ => true) fun e bs => e.ofBlock i { o with fmt := bs.getD [] } bad locks

section
variable {e : Env} {i : Instr} {o : EngOp} {bad : EngOp → Bool} {locks : Env → EngOp → List (Nat × Lock)} {s1 s2 s3 : State}

theorem ofBlock_unpaired (h : ¬(o.pair = true → o.tile + 1 < e.b.tiles.length)) : e.ofBlock i o bad locks =
    .next (e.counted.takeTrap e.t (e.raise i .regLimit)) := by
  have hpair : (o.pair && decide (e.b.tiles.length ≤ o.tile + 1)) = true := by simpa using h
  exact if_pos hpair

section
variable (hp : o.pair = true → o.tile + 1 < e.b.tiles.length)
include hp

theorem pair_held : ¬(o.pair && decide (e.b.tiles.length ≤ o.tile + 1)) = true := by simpa using hp

theorem ofBlock_bad (hb : bad o = true) : e.ofBlock i o bad locks = .next (e.counted.takeTrap e.t (e.raise i .descInvalid)) :=
  (if_neg (pair_held hp)).trans (if_pos hb)

theorem ofBlock_good (hb : bad o = false) : e.ofBlock i o bad locks =
    e.readTab i (e.t.act i.hdr) (o.tabAt false) fun e1 ta => e1.readTab i (e.t.act i.hdr) (o.tabAt true) fun e2 tb =>
      e2.enqueue i { o with tabA := ta, tabB := tb } (locks e2 { o with tabA := ta, tabB := tb }) :=
  (if_neg (pair_held hp)).trans ((if_neg (ne_true_of_eq_false hb)).trans (readTabs_eq e i o _))

variable (hnh : e.t.actNH i.hdr ≠ 0) (hb : bad o = false) {ta tb : List Byte}
include hnh hb

/-- A table of side A that names an invalid entry (R377). -/
theorem ofBlock_bad_table (hta : o.tabAt false ≠ 0) (ha : o.tabAt false % 64 = 0)
    (hr : e.readOnce e.s (o.tabAt false) 256 = (s1, .ok ta)) (hok : tableOk ta = false) : e.ofBlock i o bad locks =
      .next (({ e with s := s1 } : Env).counted.takeTrap e.t (e.raise i .descInvalid)) :=
  (ofBlock_good hp hb).trans (readTab_of_invalid hnh hta ha hr hok _)

theorem ofBlock_enqueues (hA : e.ReadsTab e.s s1 (o.tabAt false) ta) (hB : e.ReadsTab s1 s2 (o.tabAt true) tb) :
    e.ofBlock i o bad locks = ({ e with s := s2 } : Env).enqueue i { o with tabA := ta, tabB := tb }
      (locks { e with s := s2 } { o with tabA := ta, tabB := tb }) := by
  rw [ofBlock_good hp hb, readTab_of_reads hnh hA]
  exact readTab_of_reads (e := { e with s := s1 }) hnh hB _

end

theorem fromBlock_none (h : e.t.actNH i.hdr = 0) : e.fromBlock i o bad locks = .next (e.stepped i e.s e.t none) := if_pos h

variable (hnh : e.t.actNH i.hdr ≠ 0)
include hnh

theorem fromBlock_unheld (h : ∃ t ∈ o.aTile, e.b.tiles.length ≤ t) : e.fromBlock i o bad locks =
    .next (e.counted.takeTrap e.t (e.raise i .regLimit)) := by
  have hany : (o.aTile.any fun t => e.b.tiles.length ≤ t) = true := by simpa using h
  exact (if_neg hnh).trans (if_pos hany)

variable (hheld : ∀ t ∈ o.aTile, t < e.b.tiles.length)
include hheld

omit hnh in
theorem tiles_held : ¬(o.aTile.any fun t => e.b.tiles.length ≤ t) = true := by simpa using hheld

theorem fromBlock_unaligned (hc : o.c.toNat % 32 ≠ 0) : e.fromBlock i o bad locks =
    .next (e.counted.takeTrap e.t (e.raise i .descInvalid)) :=
  (if_neg hnh).trans ((if_neg (tiles_held hheld)).trans (readTable_unaligned hnh hc))

theorem fromBlock_read (hc : o.c.toNat % 32 = 0) {bs : List Byte} (hr : e.readOnce e.s o.c.toNat 32 = (s1, .ok bs)) :
    e.fromBlock i o bad locks = ({ e with s := s1 } : Env).ofBlock i { o with fmt := bs } bad locks :=
  (if_neg hnh).trans ((if_neg (tiles_held hheld)).trans ((readTable_aligned hnh hc hr).trans (if_pos rfl)))

end

/-- A side that passes the checks of R377 names no table, or one that is aligned. -/
theorem tabAt_aligned {o : EngOp} {second : Bool} (h : o.sideBad second = false) : o.tabAt second % 64 = 0 := by
  simp only [EngOp.sideBad, Bool.or_eq_false_iff, Bool.and_eq_false_imp, bne_iff_ne, bne_eq_false_iff_eq] at h
  obtain ⟨-, htab⟩ := h
  by_cases hz : o.tabAt second = 0
  · rw [hz]
  · exact (htab hz).2

theorem sideBad_of_mmaBad {o : EngOp} (h : o.mmaBad = false) : o.sideBad false = false := by
  simp only [EngOp.mmaBad, Bool.or_eq_false_iff] at h
  tauto

theorem sideBad_of_mdrainBad {o : EngOp} (h : o.mdrainBad = false) : o.sideBad false = false := by
  simp only [EngOp.mdrainBad, EngOp.drainBad, Bool.or_eq_false_iff] at h
  tauto

/-! ### MMA, MMAL and MDRAIN -/

/-- The operation of MMA, or of MMAL, without its format block. -/
def Env.mmaOp (e : Env) (f : FV) (w2 : DWord) (many : Bool) : EngOp :=
  { e.newOp f w2 .step .mma with tile := f.d.toNat, fn := f.fn.toNat + (if many then 256 else 0) }

/-- The range locks of a step's operands and scales; against reads only that of the rows of A (log 129). -/
def Env.mmaLocks (e : Env) (o : EngOp) : List (Nat × Lock) :=
  ((o.operandSpans false).zipIdx.flatMap fun x => (e.lockOf o false 0 x.1).map fun l =>
    (l.1, { l.2 with noRead := x.2 == 0 && o.opSpace false != 4 })) ++ (o.operandSpans true).flatMap (e.lockOf o false 0)

/-- The operation of MDRAIN without its format block. -/
def Env.mdrainOp (e : Env) (f : FV) (w2 : DWord) : EngOp := { e.newOp f w2 .move .mdrain with tile := f.d.toNat }

/-- The range locks of what a drain writes. -/
def Env.mdrainLocks (e : Env) (o : EngOp) : List (Nat × Lock) :=
  (o.drainSpans false ++ (if o.trans then o.drainSpans true else [])).flatMap (e.lockOf o true 0)

section
variable {f : FV} {w2 : BitVec 64} {s : State} {e : Env}

theorem exec_mma (h : s.ready (.mma f w2) = some e) : exec (.mma f w2) s =
    e.fromBlock (.mma f w2) (e.mmaOp f w2 false) EngOp.mmaBad Env.mmaLocks := by
  show execMma f w2 s = _
  exact issue_of_ready h _

theorem exec_mmal (h : s.ready (.mmal f w2) = some e) : exec (.mmal f w2) s =
    e.fromBlock (.mmal f w2) (e.mmaOp f w2 true) EngOp.mmaBad Env.mmaLocks := by
  show execMmal f w2 s = _
  exact issue_of_ready h _

/-- MDRAIN names no tile-space A. -/
theorem exec_mdrain (h : s.ready (.mdrain f w2) = some e) : exec (.mdrain f w2) s =
    e.fromBlock (.mdrain f w2) (e.mdrainOp f w2) EngOp.mdrainBad Env.mdrainLocks := by
  have hno : ¬((e.mdrainOp f w2).aTile.any fun t => e.b.tiles.length ≤ t) = true := Bool.false_ne_true
  show execMdrain f w2 s = _
  unfold Env.fromBlock
  rw [if_neg hno]
  exact issue_of_ready h _

end

/-! ### The obligation -/

/-- Settles O45: the copies and gathers by one equation, MMA, MMAL and MDRAIN by what a format block and its tables say, and every
operation by whether it finds room. -/
theorem engineInstructionsIssue : Obligations.EngineInstructionsIssue := by
  unfold Obligations.EngineInstructionsIssue
  intro f w2 s e act room issued stalled bulk fromBlock mma mmaLocks ld ldLocks
  have hbulk (i : Instr) (g : Engine) (kind : EngKind) (hi : i.hdr = f.h)
      (hx : s.ready i = some e → exec i s = e.bulk i f w2 g kind) : bulk i g kind := by
    intro h o locks
    have heq := (hx h).trans (bulk_eq hi g kind)
    exact ⟨fun hz => heq.trans (if_pos hz), fun hz hb => heq.trans ((if_neg hz).trans (if_pos hb)),
      fun hz hb hr => heq.trans ((if_neg hz).trans ((if_neg (ne_true_of_eq_false hb)).trans (enqueue_of_room i hr))),
      fun hz hb hr => heq.trans ((if_neg hz).trans ((if_neg (ne_true_of_eq_false hb)).trans (enqueue_of_full i hr)))⟩
  have hblock (i : Instr) (o : EngOp) (bad : EngOp → Bool) (locks : Env → EngOp → List (Nat × Lock)) (hi : i.hdr = f.h)
      (hx : s.ready i = some e → exec i s = e.fromBlock i o bad locks)
      (hside : ∀ x, bad x = false → x.sideBad false = false) : fromBlock i o bad locks := by
    intro h
    rw [hx h, ← hi]
    refine ⟨fromBlock_none, fun hnh _ ht => fromBlock_unheld hnh ht, fun hnh hheld hc => fromBlock_unaligned hnh hheld hc,
      fun hnh hheld hc s1 bs hr => ?_⟩
    rw [fromBlock_read hnh hheld hc hr]
    refine ⟨fun hp => ofBlock_unpaired hp, fun hp hb => ofBlock_bad hp hb,
      fun hp hb s2 t hta hrt hok => ofBlock_bad_table hp hnh hb hta (tabAt_aligned (hside _ hb)) hrt hok,
      fun hp hb s2 s3 ta tb => ?_⟩
    intro table hA hB
    rw [ofBlock_enqueues (e := { e with s := s1 }) hp hnh hb hA hB]
    exact ⟨fun hr => enqueue_of_room i hr, fun hr => enqueue_of_full i hr⟩
  refine ⟨hbulk _ _ _ rfl exec_cpy, hbulk _ _ _ rfl exec_cpyt, hbulk _ _ _ rfl exec_gath, hbulk _ _ _ rfl exec_scat,
    fun h => ?_, fun h => ?_, hblock _ _ _ _ rfl exec_mma fun _ => sideBad_of_mmaBad,
    hblock _ _ _ _ rfl exec_mmal fun _ => sideBad_of_mmaBad, hblock _ _ _ _ rfl exec_mdrain fun _ => sideBad_of_mdrainBad⟩
  · rw [exec_mzero h]
    exact ⟨fun hz => if_pos hz, fun hz hr => (if_neg hz).trans (enqueue_of_room _ hr),
      fun hz hr => (if_neg hz).trans (enqueue_of_full _ hr)⟩
  · rw [exec_mldt h]
    exact ⟨fun hz => if_pos hz, fun hz hb => (if_neg hz).trans (if_pos hb),
      fun hz hb hr => (if_neg hz).trans ((if_neg hb).trans (enqueue_of_room _ hr)),
      fun hz hb hr => (if_neg hz).trans ((if_neg hb).trans (enqueue_of_full _ hr))⟩

end Sys2Proof.Machine
end

section
/-! Batches of engine operations: ECLOSE, and the waits EWAIT and EWAITO as they issue and as they return (R200, R204, R210, R213,
R369, R370). -/

namespace Sys2Proof.Machine

/-! ### What a wait is over and what it reports (R369, R370) -/

theorem waitOver_atMost_iff (c : Counter) (n : Nat) :
    c.waitOver true n = true ↔ (c.batches.filter fun b => !b.ops.isEmpty).length ≤ n := decide_eq_true_iff

theorem waitOver_upTo_iff (c : Counter) (n : Nat) :
    c.waitOver false n = true ↔ ∀ b ∈ c.batches, b.ops ≠ [] → 2 ^ 31 ≤ (BitVec.ofNat 32 n - b.num).toNat := by
  unfold Counter.waitOver Counter.incomplete
  simp [or_iff_not_imp_left]

/-- The oldest batch that is complete and has failed. -/
def Counter.failedBatch (c : Counter) : Option Batch := c.batches.find? fun b => b.failed && b.ops.isEmpty

/-- A counter without its batches that are complete and have failed. -/
def Counter.cleared (c : Counter) : Counter := { c with batches := c.batches.filter fun b => !(b.failed && b.ops.isEmpty) }

theorem failure_wait (c : Counter) : c.failure false = c.failedBatch.map fun b => (b.fault, b.eaddr) := by
  unfold Counter.failure Counter.failedBatch
  split
  · next b hb => rw [hb]; rfl
  · next hb => rw [hb]; rfl

theorem reported_wait (c : Counter) : c.reported false = c.cleared := by
  unfold Counter.reported Counter.cleared
  rw [Bool.not_false, Bool.and_true]

/-- A wait, unlike EXIT, reports no failure of operations that are still open. -/
theorem takeFailure_wait (c : Counter) : c.takeFailure false = c.failedBatch.map fun b => (c.cleared, b.fault, b.eaddr) := by
  unfold Counter.takeFailure
  rw [failure_wait, reported_wait, Option.map_map]
  rfl

/-! ### ECLOSE (R204, R369) -/

/-- The batch that ECLOSE makes of a counter's open operations: those outstanding are due. -/
def Env.newBatch (e : Env) (c : Counter) : Batch :=
  { num := c.closed, ops := c.opened.filter (e.s.opLive e.t.core), all := c.opened, failed := c.openFailed, fault := c.openFault,
    eaddr := c.openEaddr }

/-- The counter that ECLOSE leaves: a batch that is complete without a failure is forgotten. -/
def Env.closedCounter (e : Env) (c : Counter) : Counter :=
  { opened := [], closed := c.closed + 1, batches := (c.batches ++ [e.newBatch c]).filter fun b => b.failed || !b.ops.isEmpty }

theorem exec_eclose {f : FV} {s : State} {e : Env} (h : s.ready (.eclose f) = some e) : exec (.eclose f) s =
    let k := bits f.fn.toNat 1 0
    let c := e.t.counters.getD k {}
    if e.t.act f.h = 0 then .next (e.stepped (.eclose f) e.s e.t none)
    else if 65536 ≤ c.incomplete.length then .next (e.waiting 8)
    else .next (e.stepped (.eclose f)
      (if (e.newBatch c).ops = [] then e.s.dropLocks fun l => c.opened.contains l.op else e.s)
      { e.t with counters := e.t.counters.set k (e.closedCounter c) } none) := by
  show execEclose f s = _
  unfold execEclose
  rw [issue_of_ready h]
  simp only [List.isEmpty_iff]
  rfl

/-! ### EWAIT and EWAITO at issue (R200, R213, R370) -/

/-- The ENGINE_FAULT that a wait reports of a batch. -/
def Env.waitRaise (e : Env) (i : Instr) (k : Nat) (b : Batch) : Raise :=
  { e.raise i .engineFault with resume := e.t.pc, size := i.size, info := b.fault, eaddr := b.eaddr, k := k }

/-- The cause that a wait in a handler keeps until RTT (log 66). -/
def Team.waitCause (t : Team) (insn : DWord) (k : Nat) (b : Batch) : AsyncCause :=
  { cause := .engineFault, pc := t.pc, insn := insn, lanes := t.mask &&& ~~~t.helper, info := b.fault, eaddr := b.eaddr, k := k }

/-- A team after a wait on counter `k` has observed its failures. -/
def Team.observed (t : Team) (k : Nat) : Team := { t with counters := t.counters.set k (t.counters.getD k {}).cleared }

section
variable {e : Env} {i : Instr} {f : FV} {most : Bool}

theorem ewait_none (h : e.t.act i.hdr = 0) : e.ewait i f most = .next (e.stepped i e.s e.t none) := if_pos h

variable (hact : e.t.act i.hdr ≠ 0)
include hact

theorem ewait_parks (hw : (e.t.counters.getD (bits f.fn.toNat 1 0) {}).waitOver most ((e.uval f.sa.toNat).toNat % 2 ^ 32) = false) :
    e.ewait i f most = .next (e.counted.putTeam { e.t.fixLoads e.op with
      status := .engine (bits f.fn.toNat 1 0) most ((e.uval f.sa.toNat).toNat % 2 ^ 32), stall := 8, latches := [],
      region := none }) := by
  unfold Env.ewait
  simp only [hw, Bool.not_false, if_true]
  exact if_neg hact

variable (hw : (e.t.counters.getD (bits f.fn.toNat 1 0) {}).waitOver most ((e.uval f.sa.toNat).toNat % 2 ^ 32) = true)
include hw

theorem ewait_completes (hf : (e.t.counters.getD (bits f.fn.toNat 1 0) {}).failedBatch = none) :
    e.ewait i f most = .next (e.stepped i (e.target e.s) e.t none) := by
  unfold Env.ewait
  simp only [hw, Bool.not_true, Bool.false_eq_true, if_false, if_neg hact, takeFailure_wait, hf]
  rfl

theorem ewait_fails {b : Batch} (hf : (e.t.counters.getD (bits f.fn.toNat 1 0) {}).failedBatch = some b) :
    e.ewait i f most =
      let k := bits f.fn.toNat 1 0
      let t := e.t.observed k
      .next (if e.t.trap.isSome then
          e.stepped i (e.target e.s) { t with async := t.async ++ [t.waitCause i.word k b] } none
        else ({ e with s := e.target e.s } : Env).counted.takeTrap t (e.waitRaise i k b)) := by
  unfold Env.ewait
  simp only [hw, Bool.not_true, Bool.false_eq_true, if_false, if_neg hact, takeFailure_wait, hf]
  exact (apply_ite Host.Outcome.next (e.t.trap.isSome = true) _ _).symm

end

theorem exec_ewait {f : FV} {s : State} {e : Env} (h : s.ready (.ewait f) = some e) :
    exec (.ewait f) s = e.ewait (.ewait f) f false := by
  show execEwait f s = _
  exact issue_of_ready h _

theorem exec_ewaito {f : FV} {s : State} {e : Env} (h : s.ready (.ewaito f) = some e) :
    exec (.ewaito f) s = e.ewait (.ewaito f) f true := by
  show execEwaito f s = _
  exact issue_of_ready h _

theorem exec_ewait_either {f : FV} {s : State} {e : Env} {i : Instr} {most : Bool}
    (hi : (i = .ewait f ∧ most = false) ∨ (i = .ewaito f ∧ most = true)) (h : s.ready i = some e) :
    i.hdr = f.h ∧ exec i s = e.ewait i f most := by
  obtain ⟨rfl, rfl⟩ | ⟨rfl, rfl⟩ := hi
  · exact ⟨rfl, exec_ewait h⟩
  · exact ⟨rfl, exec_ewaito h⟩

/-! ### The return of a parked wait (R213, R214, R370) -/

theorem wake_eq (t : Team) (size : Nat) : t.wake size =
    { t with status := .ready, stall := 0, pc := t.pc + BitVec.ofNat 48 size, restore := none,
             mask := (t.restore.getD (t.mask, t.helper)).1, helper := (t.restore.getD (t.mask, t.helper)).2 } := by
  unfold Team.wake
  rw [unretry_eq]

section
variable {core slot half : Nat} {s : State} {t : Team} {k n : Nat} {most : Bool} (ht : s.teamAt core slot half = some t)
  (hs : t.status = .engine k most n) (hw : (t.counters.getD k {}).waitOver most n = true)
include ht hs hw

theorem exec_ewaitReturn_completes (hf : (t.counters.getD k {}).failedBatch = none) : exec (.ewaitReturn core slot half) s =
    .next ((s.targetEnd t.core (s.blockOf t).ctx false).putTeam (t.wake ((s.envOf t).codeAt t.pc).2)) := by
  show execEwaitReturn core slot half s = _
  simp only [execEwaitReturn, ht, hs, hw, Bool.not_true, Bool.false_eq_true, if_false, takeFailure_wait, hf, Option.map_none]

theorem exec_ewaitReturn_fails {b : Batch} (hf : (t.counters.getD k {}).failedBatch = some b) :
    exec (.ewaitReturn core slot half) s =
      let code := (s.envOf t).codeAt t.pc
      let s1 := s.targetEnd t.core (s.blockOf t).ctx false
      let u := t.observed k
      .next (if t.trap.isSome then s1.putTeam (({ u with async := u.async ++ [u.waitCause code.1 k b] } : Team).wake code.2)
        else s1.takeTrap { u with status := .ready }
          { cause := .engineFault, lanes := t.mask &&& ~~~t.helper, pending := t.mask, full := true, pc := t.pc, insn := code.1,
            resume := t.pc, size := code.2, info := b.fault, eaddr := b.eaddr, k := k }) := by
  show execEwaitReturn core slot half s = _
  simp only [execEwaitReturn, ht, hs, hw, Bool.not_true, Bool.false_eq_true, if_false, takeFailure_wait, hf, Option.map_some]
  rw [← hs]
  exact (apply_ite Host.Outcome.next (t.trap.isSome = true) _ _).symm

end

/-! ### The obligation -/

/-- Settles O46: ECLOSE by its counter, and a wait, at issue and on its return, by whether it is over and whether one of the batches
that it observes has failed. -/
theorem batchesAndWaits : Obligations.BatchesAndWaits := by
  unfold Obligations.BatchesAndWaits
  refine ⟨fun c n => ⟨waitOver_atMost_iff c n, waitOver_upTo_iff c n⟩, fun f s e => ⟨fun h => ?_, fun i most hi h => ?_⟩,
    fun core slot half s t k n most ht hs hw => ?_⟩
  · rw [exec_eclose h]
    exact ⟨fun hz => if_pos hz, fun hz hfull => (if_neg hz).trans (if_pos hfull),
      fun hz hroom => (if_neg hz).trans (if_neg (Nat.not_le.mpr hroom))⟩
  · obtain ⟨hhdr, heq⟩ := exec_ewait_either hi h
    rw [heq, ← hhdr]
    exact ⟨ewait_none, fun hz hw => ewait_parks hz hw, fun hz hw =>
      ⟨fun hf => ewait_completes hz hw hf, fun b hf => ewait_fails hz hw hf⟩⟩
  · refine ⟨fun hf => ?_, fun b hf => ?_⟩
    · rw [exec_ewaitReturn_completes ht hs hw hf, wake_eq]
    · rw [exec_ewaitReturn_fails ht hs hw hf]
      simp only [wake_eq]
      rfl

end Sys2Proof.Machine
end

section
/-! Traps that an instruction takes at decode (R208), the trap instructions (R404, R406), and the return from a handler (R214,
R407). -/

namespace Sys2Proof.Machine

/-! ### Decode comes before every instruction's meaning (R208) -/

/-- Every Lereb instruction is issued through the checks of decode; only its meaning `k` is its own. -/
theorem exec_eq_issue {i : Instr} (h : i.isEvent = false) (s : State) : ∃ k, exec i s = issue i s k := by
  cases i
  case
    -- control
    nop f | bra f | brx f | call f | callx f | ret f | mark f | join f | brk f | loop f | exit f | yield f | vgrow f | vshrink f
    -- integer and uniform
    | add f | tadd f | sub f | neg f | abs f | mull f | mulh f | madl f | madw f | min f | max f | adif f | tlut f | shl f | shr f
    | sar f | rot f | funl f | ones f | clz f | bitr f | fext f | fdep f | pick f | mov f | seti f w | scad f | bshuf f | sadd f
    | ssub f | smul f | slop f | sshf f | smov f | smovi f w | scmp f | slea f | ssel f | sfromv f | sread f
    -- floating point, conversion and dot products
    | fadd f | fmul f | ffma f | fmin f | fmax f | frnd f | fclass f | fscale f | frcp f | frsq f | fsqrt f | fexp2 f | flog2 f
    | fsin f | fcos f | ftanh f | dadd f | dmul f | dfma f | dmin f | dmax f | hadd2 f | hmul2 f | hfma2 f | hmax2 f | cvt f
    | pack f | unpack f | qscale f | cmpd f | icmpd f | dot2 f | dot4 f | dot8 f
    -- cross-lane and predicates
    | qswap f | qbcast f | qddx f | qddy f | xlane f | pscan f | treduce f | pcmpi f | pcmpf f | pcmpd f | plut f | pagree f | ptov f
    | vtop f
    -- memory, textures and barriers
    | ld f | st f | ldv f | stv f | ldl f | stl f | pfetch f | tex f | texg f | rtw f | rtz f | rtr f | atom f w | acas f w | red f w
    | atoms f w | awaitv f w | bari f | bara f | barw f | baraw f | bart f | barx f
    -- engines and matrix
    | cpy f w | cpyt f w | gath f w | scat f w | eclose f | ewait f | ewaito f | mma f w | mmal f w | mzero f | mldt f w | mrd f
    | mwr f | mdrain f w | mtag f
    -- spawn and tiers
    | spawn f | spawnd f | await f | awaitSteal f | recg f | done f | nodeq f | rget f | rbary f | rflat f | rcov f | rkill f
    | trace f | rret f | rhit f
    -- system
    | trap f | rttRetry f | rttSkip f | rttKill f | syscall f | csrr f | csrw f | bkpt f | pmark f | clock f | tlbi f | coll f w
    | frec f =>
    unfold exec
    exact ⟨_, rfl⟩
  all_goals cases h -- an event of the part

/-- A team cause is delivered as `Env.raise` gives it (R209), in a state that has counted the instruction or has not. -/
theorem teamTrap_eq (e : Env) (s : State) (i : Instr) (c : Cause) : e.teamTrap s i c = .next (s.takeTrap e.t (e.raise i c)) := rfl

/-- Settles O9: no instruction has any of its meaning before the checks of decode have passed. -/
theorem decodeCauseTrapsBeforeEffect : Obligations.DecodeCauseTrapsBeforeEffect := by
  intro i s t c hi ht hc
  obtain ⟨k, hk⟩ := exec_eq_issue hi s
  exact hk.trans ((issue_of_cause ht hc k).trans (teamTrap_eq _ _ i c))

/-! ### TRAP, SYSCALL and BKPT (R404, R406) -/

section
variable {e : Env} {i : Instr}

theorem trapTeam_eq (c : Cause) : e.trapTeam i c = .next (e.counted.takeTrap e.t (e.raise i c)) := teamTrap_eq e e.counted i c

/-- A system opcode by whether an active lane is no helper (R404). -/
theorem system_next (s : State) :
    e.system i (.next s) = .next (if e.t.mask &&& ~~~e.t.helper = 0 then e.stepped i e.s e.t none else s) := by
  split
  case isTrue h => exact system_of_helpers _ (not_not.mpr h)
  case isFalse h => exact system_of_acts _ h

end

section
variable {f : FV} {s : State} {e : Env}

theorem exec_trap (h : s.ready (.trap f) = some e) : exec (.trap f) s = e.system (.trap f) (e.trapTeam (.trap f) .trap) := by
  show execTrap f s = _
  exact issue_of_ready h _

theorem exec_syscall (h : s.ready (.syscall f) = some e) :
    exec (.syscall f) s = e.system (.syscall f) (e.trapTeam (.syscall f) .syscall) := by
  show execSyscall f s = _
  exact issue_of_ready h _

theorem exec_bkpt (h : s.ready (.bkpt f) = some e) : exec (.bkpt f) s =
    e.system (.bkpt f) (if e.s.pkg.cowslip then e.park .cowslip 0x0E else e.trapTeam (.bkpt f) .bkpt) := by
  show execBkpt f s = _
  exact issue_of_ready h _

end

/-- BKPT of an acting team: Cowslip holds it, or it traps. -/
theorem bkptOut_eq (e : Env) (i : Instr) : (if e.s.pkg.cowslip then e.park .cowslip 0x0E else e.trapTeam i .bkpt) =
    .next (if e.s.pkg.cowslip = true then
        e.counted.putTeam { e.t.fixLoads e.op with status := .cowslip, stall := 0x0E, latches := [], region := none }
      else e.counted.takeTrap e.t (e.raise i .bkpt)) :=
  (apply_ite Host.Outcome.next _ _ _).symm

/-- Settles O13: each acts only where an active lane is no helper, and then traps, but for a BKPT that Cowslip holds. -/
theorem trapInstructionsTrap : Obligations.TrapInstructionsTrap := by
  refine fun f s e => ⟨fun h => ?_, fun h => ?_, fun h => ?_⟩
  · rw [exec_trap h, trapTeam_eq, system_next]
  · rw [exec_syscall h, trapTeam_eq, system_next]
  · rw [exec_bkpt h, bkptOut_eq, system_next]

/-! ### What every mode of RTT restores (R214) -/

/-- Successive writes of s registers are one run of their file. -/
theorem foldl_putS (n : Nat) (xs : List DWord) (k : Nat) (t : Team) :
    (xs.zipIdx k).foldl (fun t x => t.putS (n + x.2) x.1) t = { t with sregs := msetList 0 t.sregs (n + k) xs } := by
  induction xs generalizing k t with
  | nil => rfl
  | cons x xs ih =>
    rw [List.zipIdx_cons, List.foldl_cons, ih]
    rfl

/-- With a window of granules a handler leaves the vector registers as they are. -/
theorem leaveHandler_of_granules {e : Env} {tr : TrapState} {g : Map Word} (h : tr.window = .granules g) :
    e.leaveHandler tr =
      { e.t with trap := none, sregs := msetList 0 e.t.sregs 20 tr.s20, preds := mset 0 e.t.preds 6 tr.p6, latches := [],
                 region := none, packets := e.t.packets ++ tr.later } := by
  unfold Env.leaveHandler
  rw [h]
  dsimp only
  rw [foldl_putS]

section
variable {t u : Team} {tr : TrapState}

/-- A team whose s20 to s23 are those of a trap state. -/
theorem sreg_restored (hu : u.sregs = msetList 0 t.sregs 20 tr.s20) (hlen : tr.s20.length = 4) :
    (∀ k, k < 4 → u.sreg (20 + k) = tr.s20.getD k 0) ∧ ∀ k, k < 20 → u.sreg k = t.sreg k := by
  unfold Team.sreg
  rw [hu]
  refine ⟨fun k hk => ?_, fun k hk => ?_⟩
  · rw [mget_msetList, if_pos (by omega), Nat.add_sub_cancel_left]
  · rw [mget_msetList, if_neg (by omega)]

/-- A team whose p6 is that of a trap state. -/
theorem pred_restored (hu : u.preds = mset 0 t.preds 6 tr.p6) : u.pred 6 = tr.p6 ∧ ∀ p, p < 6 → u.pred p = t.pred p := by
  unfold Team.pred
  rw [hu]
  refine ⟨?_, fun p hp => ?_⟩
  · rw [if_neg (by decide), mget_mset_same]
  · rw [if_neg (by omega), if_neg (by omega), mget_mset_other _ _ _ (by omega)]

end

/-- `u` is the team `t` of a handler after what every mode of RTT restores from the trap state (R214), of whose window no register
returns. -/
def Team.LeftHandler (t u : Team) (tr : TrapState) : Prop :=
  u.trap = none ∧ u.latches = [] ∧ u.region = none ∧ u.vregs = t.vregs ∧ (∀ k, k < 4 → u.sreg (20 + k) = tr.s20.getD k 0) ∧
    (∀ k, k < 20 → u.sreg k = t.sreg k) ∧ u.pred 6 = tr.p6 ∧ (∀ p, p < 6 → u.pred p = t.pred p) ∧ u.stack = t.stack ∧
    u.chunks = t.chunks ∧ u.fault = t.fault

theorem leftHandler_of_granules {e : Env} {tr : TrapState} {g : Map Word} (hwin : tr.window = .granules g)
    (hlen : tr.s20.length = 4) : e.t.LeftHandler (e.leaveHandler tr) tr := by
  have heq := leaveHandler_of_granules (e := e) hwin
  obtain ⟨h20, hlow⟩ := sreg_restored (t := e.t) (congrArg Team.sregs heq) hlen
  obtain ⟨h6, hpred⟩ := pred_restored (t := e.t) (congrArg Team.preds heq)
  rw [heq] at h20 hlow h6 hpred ⊢
  exact ⟨rfl, rfl, rfl, rfl, h20, hlow, h6, hpred, rfl, rfl, rfl⟩

/-! ### The modes of RTT (R214, R316, R407) -/

section
variable {e : Env} {i : Instr} {tr : TrapState} {k : TrapState → Team → Out} (htrap : e.t.trap = some tr)
  (hact : e.t.mask &&& ~~~e.t.helper ≠ 0)
include htrap hact

theorem rtt_of_depth (hd : e.t.stack.length = tr.depth) : e.rtt i k = k tr (e.leaveHandler tr) := by
  unfold Env.rtt
  rw [system_of_acts _ hact, htrap]
  exact if_neg (not_not.mpr hd)

theorem rtt_of_other_depth (hd : e.t.stack.length ≠ tr.depth) :
    e.rtt i k = .next (e.counted.takeTrap e.t (e.raise i .doubleTrap)) := by
  unfold Env.rtt
  rw [system_of_acts _ hact, htrap]
  exact if_pos hd

end

/-- The team of RTT.retry, from what every mode leaves. -/
def Team.retried (t : Team) (tr : TrapState) : Team :=
  let t := { t with packets := tr.packets ++ t.packets, pc := tr.resume, mid := tr.mid }
  if tr.full then { t with mask := tr.mask, helper := tr.helper }
  else { t with mask := tr.pending, helper := tr.helper &&& tr.pending, restore := some (tr.mask, tr.helper), cursor := tr.cursor,
                table := tr.table }

theorem retried_of_full {t : Team} {tr : TrapState} (h : tr.full = true) : t.retried tr =
    { t with packets := tr.packets ++ t.packets, pc := tr.resume, mid := tr.mid, mask := tr.mask, helper := tr.helper } := if_pos h

theorem retried_of_pending {t : Team} {tr : TrapState} (h : tr.full = false) : t.retried tr =
    { t with packets := tr.packets ++ t.packets, pc := tr.resume, mid := tr.mid, mask := tr.pending,
             helper := tr.helper &&& tr.pending, restore := some (tr.mask, tr.helper), cursor := tr.cursor, table := tr.table } :=
  if_neg (ne_true_of_eq_false h)

/-- The team of RTT.skip, from what every mode leaves. -/
def Team.skipped (t : Team) (tr : TrapState) : Team :=
  { t with pc := tr.resume + BitVec.ofNat 48 tr.size, mask := tr.mask, helper := tr.helper, mid := none }

section
variable {f : FV} {s : State} {e : Env}

theorem exec_rttRetry (h : s.ready (.rttRetry f) = some e) :
    exec (.rttRetry f) s = e.rtt (.rttRetry f) fun tr t => .next (e.counted.putTeam (t.retried tr)) := by
  show execRttRetry f s = _
  exact issue_of_ready h _

theorem exec_rttSkip (h : s.ready (.rttSkip f) = some e) :
    exec (.rttSkip f) s = e.rtt (.rttSkip f) fun tr t => .next (e.counted.putTeam (t.skipped tr)) := by
  show execRttSkip f s = _
  exact issue_of_ready h _

theorem exec_rttKill (h : s.ready (.rttKill f) = some e) :
    exec (.rttKill f) s = e.rtt (.rttKill f) fun _ t => .next ((e.counted.putTeam t).abortBlock e.b) := by
  show execRttKill f s = _
  exact issue_of_ready h _

end

/-- Settles O14: RTT at the depth of the trap goes on from what every mode restores, and at another depth traps. -/
theorem rttReturns : Obligations.RttReturns := by
  intro f s e tr g htrap hact hwin hlen back
  have hback : back (e.leaveHandler tr) := leftHandler_of_granules hwin hlen
  rw [leaveHandler_of_granules hwin] at hback
  refine ⟨fun h hd => ?_, fun h hd => ?_, fun h hd => ?_, fun h hd => ?_, fun h hd => ?_, fun h hd => ?_⟩
  · refine ⟨_, (exec_rttRetry h).trans (rtt_of_depth htrap hact hd), ?_⟩
    rw [leaveHandler_of_granules hwin]
    cases hfull : tr.full with
    | true =>
      rw [retried_of_full hfull]
      exact ⟨hback, rfl, rfl, rfl, fun _ => ⟨rfl, rfl, rfl⟩, fun h => nomatch h⟩
    | false =>
      rw [retried_of_pending hfull]
      exact ⟨hback, rfl, rfl, rfl, fun h => (nomatch h), fun _ => ⟨rfl, rfl, rfl, rfl, rfl⟩⟩
  · refine ⟨_, (exec_rttSkip h).trans (rtt_of_depth htrap hact hd), ?_⟩
    rw [leaveHandler_of_granules hwin]
    exact ⟨hback, rfl, rfl, rfl, rfl, rfl⟩
  · refine ⟨_, (exec_rttKill h).trans (rtt_of_depth htrap hact hd), ?_⟩
    rw [leaveHandler_of_granules hwin]
    exact hback
  · exact (exec_rttRetry h).trans (rtt_of_other_depth htrap hact hd)
  · exact (exec_rttSkip h).trans (rtt_of_other_depth htrap hact hd)
  · exact (exec_rttKill h).trans (rtt_of_other_depth htrap hact hd)

end Sys2Proof.Machine
end

section
/-! Results of the floating point instructions (R325 to R329, R333). -/

namespace Sys2Proof.Machine

/-- The format of a paired-half instruction (R329). -/
def halfFmt (fn : BitVec 9) : Fmt := if fn.toNat % 64 = 0 then f16 else bf16

/-- Half `k` of a paired-half result: the operation on that half of each operand, under `.ftz` (R231, R329). -/
def Env.halfOut (e : Env) (f : FV) (op : Fmt → Rnd → (Nat → Fl) → Nat) (l k : Nat) : Nat :=
  (halfFmt f.fn).outCode (fnFtz f.fn) (op (halfFmt f.fn) (fnMode f.fn) fun c =>
    (halfFmt f.fn).dec ((halfFmt f.fn).inCode (fnFtz f.fn) (e.halfCode (halfFmt f.fn) c l k)))

section
variable {i : Instr} {s : State} {e : Env} {f : FV} (h : s.ready i = some e)
include h

/-- An instruction whose meaning is a 64-bit result gives it in its pair. -/
theorem issue_pair {d : Nat} {y : Env → Nat → DWord} {x : Nat → DWord} {o : Out}
    (hi : exec i s = o) (ho : o = issue i s fun e => e.pair i d (e.t.act i.hdr) (y e)) (hy : y e = x) : e.gives64 i d x (exec i s) := by
  rw [hi, ho, issue_of_ready h, hy]
  exact pair_gives e d x

/-- A binary32 or binary16 instruction gives what its operation makes of the operands of the lane, under `.ftz` (R231, R325). -/
theorem issue_fpOut {op : Env → Fmt → Rnd → (Nat → Fl) → Nat → Nat} {x : Nat → Word} {o : Out}
    (hi : exec i s = o) (ho : o = issue i s fun e => e.fpOut i f (op e))
    (hx : (fun l => BitVec.ofNat 32 ((selFmt f.fn).outCode (fnFtz f.fn)
      (op e (selFmt f.fn) (fnMode f.fn) (e.fp (selFmt f.fn) (fnFtz f.fn) · l) l))) = x) :
    e.gives32 i f.d.toNat x (exec i s) :=
  issue_vec h hi ho hx

/-- A binary64 instruction gives what its operation makes of the pairs (R328). -/
theorem issue_fp64Out {op : Rnd → (Nat → Fl) → Nat} {x : Nat → DWord} {o : Out} (hi : exec i s = o)
    (ho : o = issue i s fun e => e.fp64Out i f op)
    (hx : (fun l => BitVec.ofNat 64 (op (fnMode f.fn) (e.fp f64 false · l))) = x) : e.gives64 i f.d.toNat x (exec i s) :=
  issue_pair h hi ho hx

/-- A paired-half instruction gives both halves (R329). -/
theorem issue_halves {op : Fmt → Rnd → (Nat → Fl) → Nat} {x : Nat → Word} {o : Out} (hi : exec i s = o)
    (ho : o = issue i s fun e => e.halves i f op)
    (hx : (fun l => BitVec.ofNat 32 (e.halfOut f op l 0 + 65536 * e.halfOut f op l 1)) = x) : e.gives32 i f.d.toNat x (exec i s) :=
  issue_vec h hi ho hx

end

/-- Settles O32: each instruction hands its operation the decoded operands of the lane and rounds once. -/
theorem floatResults : Obligations.FloatResults := by
  intro f s e m z r v out gives d gives2 n hf outH givesH
  exact ⟨
    -- binary32 and binary16 (R326, R327)
    fun h => issue_fpOut h (o := execFadd f s) rfl rfl rfl,
    fun h => issue_fpOut h (o := execFmul f s) rfl rfl rfl,
    fun h => issue_fpOut h (o := execFfma f s) rfl rfl rfl,
    fun h => issue_fpOut h (o := execFmin f s) rfl rfl rfl,
    fun h => issue_fpOut h (o := execFmax f s) rfl rfl rfl,
    fun h => issue_fpOut h (o := execFrnd f s) rfl rfl rfl,
    fun h => issue_fpOut h (o := execFscale f s) rfl rfl rfl,
    fun h => issue_fpOut h (o := execFrcp f s) rfl rfl rfl,
    fun h => issue_fpOut h (o := execFsqrt f s) rfl rfl rfl,
    fun h => issue_fpOut h (o := execFrsq f s) rfl rfl rfl,
    fun h => issue_fpOut h (o := execFexp2 f s) rfl rfl rfl,
    fun h => issue_fpOut h (o := execFlog2 f s) rfl rfl rfl,
    fun h => issue_fpOut h (o := execFsin f s) rfl rfl rfl,
    fun h => issue_fpOut h (o := execFcos f s) rfl rfl rfl,
    fun h => issue_fpOut h (o := execFtanh f s) rfl rfl rfl,
    -- a class, which is not flushed (R327)
    fun h => issue_vec (o := execFclass f s) h rfl rfl rfl,
    -- binary64 (R328)
    fun h => issue_fp64Out h (o := execDadd f s) rfl rfl rfl,
    fun h => issue_fp64Out h (o := execDmul f s) rfl rfl rfl,
    fun h => issue_fp64Out h (o := execDfma f s) rfl rfl rfl,
    fun h => issue_fp64Out h (o := execDmin f s) rfl rfl rfl,
    fun h => issue_fp64Out h (o := execDmax f s) rfl rfl rfl,
    -- paired halves (R329)
    fun h => issue_halves h (o := execHadd2 f s) rfl rfl rfl,
    fun h => issue_halves h (o := execHmul2 f s) rfl rfl rfl,
    fun h => issue_halves h (o := execHfma2 f s) rfl rfl rfl,
    fun h => issue_halves h (o := execHmax2 f s) rfl rfl rfl,
    -- an S16 scale (R333)
    fun h => issue_vec (o := execQscale f s) h rfl rfl rfl⟩

end Sys2Proof.Machine
end

section
/-! Results of conversions, packed dot products, packing and companding (R330 to R334). -/

namespace Sys2Proof.Machine

/-! ### Companding tables (R331) -/

/-- What an instruction over the lanes `w` takes its companding table from, with the environment that it goes on in: a register that is
0 or no guarded lane (no table), the table that its first passes have read, or a read of a valid table. -/
def Env.TakesTable (e : Env) (w : Lanes) (va : Nat) (e' : Env) (t : Option (List Byte)) : Prop :=
  (va = 0 ∧ e' = e ∧ t = none) ∨ (e.t.table = none ∧ w = 0 ∧ e' = e ∧ t = none) ∨
    (∃ bs, va ≠ 0 ∧ e.t.table = some bs ∧ e' = e ∧ t = if bs = [] then none else some bs) ∨
    ∃ s' bs, va ≠ 0 ∧ e.t.table = none ∧ va % 64 = 0 ∧ w ≠ 0 ∧ e.readOnce e.s va 256 = (s', .ok bs) ∧ tableOk bs = true ∧
      e' = { e with s := s' } ∧ t = some bs

section
variable {e : Env} {i : Instr} {w : Lanes} {c : Nat} {k : Env → Option (List Byte) → Out}

theorem companding_zero (hva : (e.uval c).toNat = 0) : e.companding i w c k = k e none := if_pos hva

theorem companding_kept (hva : (e.uval c).toNat ≠ 0) {bs : List Byte} (ht : e.t.table = some bs) :
    e.companding i w c k = k e (if bs = [] then none else some bs) := by
  unfold Env.companding
  rw [if_neg hva, ht]
  exact congrArg (k e) (if_congr List.isEmpty_iff rfl rfl)

theorem companding_unread (hva : (e.uval c).toNat ≠ 0) (ht : e.t.table = none) :
    e.companding i w c k = e.readTable i w (e.uval c).toNat 256 64 tableOk k := by
  unfold Env.companding
  rw [if_neg hva, ht]

theorem readTable_of_no_lane {va n align : Nat} {ok : List Byte → Bool} (hw : w = 0) : e.readTable i w va n align ok k = k e none :=
  if_pos hw

theorem readTable_valid {va n align : Nat} {ok : List Byte → Bool} {s1 : State} {bs : List Byte} (hw : w ≠ 0) (ha : va % align = 0)
    (hr : e.readOnce e.s va n = (s1, .ok bs)) (hok : ok bs = true) : e.readTable i w va n align ok k = k { e with s := s1 } (some bs) := by
  unfold Env.readTable
  rw [if_neg hw, if_neg (not_not.mpr ha), hr]
  exact if_pos hok

/-- An instruction that takes a table goes on with it. -/
theorem companding_of_takes {e' : Env} {t : Option (List Byte)} (h : e.TakesTable w (e.uval c).toNat e' t) :
    e.companding i w c k = k e' t := by
  rcases h with ⟨hva, rfl, rfl⟩ | ⟨ht, hw, rfl, rfl⟩ | ⟨bs, hva, ht, rfl, rfl⟩ | ⟨s', bs, hva, ht, ha, hw, hr, hok, rfl, rfl⟩
  · exact companding_zero hva
  · by_cases hva : (e'.uval c).toNat = 0
    · exact companding_zero hva
    · rw [companding_unread hva ht, readTable_of_no_lane hw]
  · exact companding_kept hva ht
  · rw [companding_unread hva ht, readTable_valid hw ha hr hok]

/-- A table address that is not aligned traps where a guarded lane is no helper. -/
theorem companding_unaligned (ht : e.t.table = none) (hnh : w &&& ~~~e.t.helper ≠ 0) (ha : (e.uval c).toNat % 64 ≠ 0) :
    e.companding i w c k = .next (e.counted.takeTrap e.t (e.raise i .descInvalid)) := by
  have hva : (e.uval c).toNat ≠ 0 := fun h0 => ha (by rw [h0])
  rw [companding_unread hva ht, readTable_unaligned hnh ha]

end

/-! ### Instructions that take a table -/

/-- The result of PACK with the table `t` (R332). -/
def Env.packed (e : Env) (f : FV) (t : Option (List Byte)) (l : Nat) : Word :=
  let ty := bits f.fn.toNat 3 0
  BitVec.ofNat 32 (packElems ty ((List.range (packCount ty)).map fun k =>
    let y := (f32.dec (e.t.getV (f.sa.toNat + k) l).toNat).mul (e.fp f32 false f.sb.toNat l)
    elemSat ty (fnMode f.fn) (match t with | some tab => compand tab (f32.dec (f32.rne y)) | none => y)))

/-- Element `k` of UNPACK with the table `t` (R332). -/
def Env.unpacked (e : Env) (f : FV) (t : Option (List Byte)) (k l : Nat) : Word :=
  let x := elemDec (bits f.fn.toNat 3 0) (elemCode (bits f.fn.toNat 3 0) (e.src32 f.sa.toNat l).toNat k)
  BitVec.ofNat 32 (f32.rne (match t with | some tab => uncompand tab x | none => x))

/-- The result of CMPD and ICMPD with the table `t` (R333). -/
def Env.compandedBy (e : Env) (f : FV) (op : List Byte → Fl → Fl) (t : Option (List Byte)) (l : Nat) : Word :=
  let x := e.fp f32 false f.sa.toNat l
  BitVec.ofNat 32 (f32.rne (match t with | some tab => op tab x | none => x))

section
variable {f : FV} {s : State} {e : Env}

theorem exec_cmpd (h : s.ready (.cmpd f) = some e) : exec (.cmpd f) s =
    e.companding (.cmpd f) (e.t.act f.h) f.sb.toNat fun e' t => e'.vec (.cmpd f) f.d.toNat (e.t.act f.h) (e'.compandedBy f compand t) := by
  show execCmpd f s = _
  exact issue_of_ready h _

theorem exec_icmpd (h : s.ready (.icmpd f) = some e) : exec (.icmpd f) s =
    e.companding (.icmpd f) (e.t.act f.h) f.sb.toNat fun e' t =>
      e'.vec (.icmpd f) f.d.toNat (e.t.act f.h) (e'.compandedBy f uncompand t) := by
  show execIcmpd f s = _
  exact issue_of_ready h _

theorem exec_pack (h : s.ready (.pack f) = some e) : exec (.pack f) s =
    e.companding (.pack f) (e.t.act f.h) f.sc.toNat fun e' t => e'.vec (.pack f) f.d.toNat (e.t.act f.h) (e'.packed f t) := by
  show execPack f s = _
  refine (issue_of_ready h _).trans (congrArg (e.companding (.pack f) (e.t.act f.h) f.sc.toNat)
    (funext fun e' => funext fun t => congrArg (e'.vec _ _ _) (funext fun l => ?_)))
  unfold Env.packed
  cases t <;> rfl

theorem exec_unpack (h : s.ready (.unpack f) = some e) : exec (.unpack f) s =
    e.companding (.unpack f) (e.t.act f.h) f.sb.toNat fun e' t =>
      .next (e'.stepped (.unpack f) e'.s
        (e'.t.putRun f.d.toNat (e.t.act f.h) ((List.range (packCount (bits f.fn.toNat 3 0))).map (e'.unpacked f t))) none) := by
  show execUnpack f s = _
  exact issue_of_ready h _

end

/-- The team whose lanes are guarded is the same behind the read of a table. -/
theorem takesTable_team {e e' : Env} {w : Lanes} {va : Nat} {t : Option (List Byte)} (h : e.TakesTable w va e' t) : e'.t = e.t := by
  rcases h with ⟨_, rfl, _⟩ | ⟨_, _, rfl, _⟩ | ⟨_, _, _, rfl, _⟩ | ⟨_, _, _, _, _, _, _, _, rfl, _⟩ <;> rfl

/-- A vector result with a companding table. -/
theorem companded_gives {e e' : Env} {i : Instr} {c d : Nat} {t : Option (List Byte)} {x : Env → Option (List Byte) → Nat → Word} {o : Out}
    (ho : o = e.companding i (e.t.act i.hdr) c fun e' t => e'.vec i d (e.t.act i.hdr) (x e' t))
    (ht : e.TakesTable (e.t.act i.hdr) (e.uval c).toNat e' t) : e'.gives32 i d (x e' t) o := by
  rw [ho, companding_of_takes ht, ← takesTable_team ht]
  exact vec_gives e' d _

theorem typePair_iff {ty : Nat} : typePair ty = true ↔ ty = 0 ∨ ty = 6 ∨ ty = 7 := by simp [typePair, or_assoc]

/-! ### Packed dot products (R249, R334) -/

section
variable {i : Instr} {s : State} {e : Env} {f : FV} (h : s.ready i = some e)
include h

/-- The products of `n` packed elements (R334). -/
def Env.dotProds (e : Env) (f : FV) (n l : Nat) : List Fl :=
  let ty := bits f.fn.toNat 3 0
  (List.range n).map fun k =>
    (elemDec ty (e.elemAt ty f.sa.toNat l k)).mul (elemDec ty (e.elemAt ty f.sb.toNat l k))

theorem issue_dot_float {n : Nat} {o : Out} (hi : exec i s = o) (ho : o = issue i s fun e => e.dot i f n)
    (hty : elemFloat (bits f.fn.toNat 3 0) = true) :
    e.gives32 i f.d.toNat (fun l => BitVec.ofNat 32 (f32.rnd (fnMode f.fn)
      (sumFl (fnMode f.fn == .rd) (e.dotProds f n l ++ [e.fp f32 false f.sc.toNat l])))) (exec i s) :=
  issue_vec h hi ho (funext fun _ => if_pos hty)

theorem issue_dot_int {n : Nat} {o : Out} (hi : exec i s = o) (ho : o = issue i s fun e => e.dot i f n)
    (hty : elemFloat (bits f.fn.toNat 3 0) = false) :
    e.gives32 i f.d.toNat (fun l =>
      let c : Int := if bits f.fn.toNat 3 0 = 9 ∨ bits f.fn.toNat 3 0 = 11 then (e.src32 f.sc.toNat l).toNat
        else (e.src32 f.sc.toNat l).toInt
      let x := ((e.dotProds f n l).map fun p => p.units 0).sum + c
      BitVec.ofInt 32 (if f.fn.getLsbD 4 then satI32 x else x)) (exec i s) := by
  refine issue_vec h hi ho (funext fun l => ?_)
  have huns : (bits f.fn.toNat 3 0 == 9 || bits f.fn.toNat 3 0 == 11) = true ↔ bits f.fn.toNat 3 0 = 9 ∨ bits f.fn.toNat 3 0 = 11 := by
    simp
  refine (if_neg (ne_true_of_eq_false hty)).trans ((ofNat_wrapNat 32 _).trans ?_)
  dsimp only
  rw [if_congr huns rfl rfl]
  rfl

end

/-- Settles O36: a conversion and a dot product round or clamp once, and a companding instruction goes on with the table that it takes
or traps before any result. -/
theorem conversionAndTableResults : Obligations.ConversionAndTableResults := by
  refine ⟨fun f s e h => ?_, fun f s e => ?_⟩
  · have hexec : exec (.cvt f) s = _ := (show execCvt f s = _ from issue_of_ready h _)
    intro n x
    rw [hexec]
    split
    · rename_i hpair
      rw [if_pos (typePair_iff.mpr hpair)]
      exact pair_gives e _ _
    · rename_i hpair
      rw [if_neg (mt typePair_iff.mp hpair)]
      exact vec_gives e _ _
  · intro ty r code prod dot w tab invalid comp uncomp
    have hdot (i : Instr) (n : Nat) (o : Out) (hi : exec i s = o) (ho : o = issue i s fun e => e.dot i f n) : dot i n := fun h =>
      ⟨fun hty => issue_dot_float h hi ho hty, fun hty => (issue_dot_int h hi ho hty :)⟩
    exact ⟨hdot _ 2 (execDot2 f s) rfl rfl, hdot _ 4 (execDot4 f s) rfl rfl, hdot _ 8 (execDot8 f s) rfl rfl,
      fun e' t ⟨h, ht⟩ => companded_gives (exec_cmpd h) ht, fun e' t ⟨h, ht⟩ => companded_gives (exec_icmpd h) ht,
      fun e' t ⟨h, ht⟩ => companded_gives (exec_pack h) ht, fun e' t ⟨h, ht⟩ => (exec_unpack h).trans (companding_of_takes ht),
      fun ⟨ht, hnh, ha⟩ => ⟨fun h => (exec_cmpd h).trans (companding_unaligned ht hnh ha),
        fun h => (exec_icmpd h).trans (companding_unaligned ht hnh ha), fun h => (exec_unpack h).trans (companding_unaligned ht hnh ha)⟩,
      fun ⟨ht, hnh, ha⟩ h => (exec_pack h).trans (companding_unaligned ht hnh ha)⟩

end Sys2Proof.Machine
end

section
/-! Exact arithmetic in rational numbers, and where one rounding puts a value between the codes of a format (R229, R233, R244, R326). -/

namespace Sys2Proof.Machine

/-- The rational number of a finite value; 0 for the others. -/
def Fl.val : Fl → ℚ
  | .fin neg m e => (if neg then -1 else 1) * m * (2 : ℚ) ^ e
  | _ => 0

theorem val_pos (m : Nat) (e : Int) : (Fl.fin false m e).val = m * (2 : ℚ) ^ e := by simp [Fl.val]

/-- A multiple of 2^e counted in the smaller unit 2^q. -/
theorem natCast_scale {q e : Int} (h : q ≤ e) (m : Nat) : ((m * 2 ^ (e - q).toNat : Nat) : ℚ) * 2 ^ q = m * 2 ^ e := by
  obtain ⟨d, rfl⟩ := Int.le.dest h
  rw [add_sub_cancel_left, Int.toNat_natCast, zpow_add₀ two_ne_zero, zpow_natCast]
  push_cast
  ring

/-! ### Products and sums (R244, R326) -/

theorem val_mul (n k : Bool) (m p : Nat) (a b : Int) :
    ((Fl.fin n m a).mul (.fin k p b)).val = (Fl.fin n m a).val * (Fl.fin k p b).val := by
  have hsign : (if (n != k) = true then (-1 : ℚ) else 1) = (if n = true then -1 else 1) * if k = true then -1 else 1 := by
    cases n <;> cases k <;> norm_num
  simp only [Fl.mul, Fl.val]
  rw [hsign, zpow_add₀ two_ne_zero, Nat.cast_mul]
  ring

theorem val_units {q e : Int} (h : q ≤ e) (n : Bool) (m : Nat) : ((Fl.fin n m e).units q : ℚ) * 2 ^ q = (Fl.fin n m e).val := by
  simp only [Fl.units, Fl.val]
  rw [Int.cast_mul, mul_assoc, Int.cast_natCast, natCast_scale h]
  cases n <;> simp

theorem val_ofUnits (k q : Int) (z : Bool) : (Fl.ofUnits k q z).val = k * 2 ^ q := by
  unfold Fl.ofUnits Fl.val
  rcases lt_trichotomy k 0 with hk | rfl | hk
  · simp [hk.ne, hk, Nat.cast_natAbs, abs_of_neg hk]
  · simp
  · simp [hk.ne', not_lt_of_gt hk, Nat.cast_natAbs, abs_of_pos hk]

/-- Whether a value is finite. -/
def Fl.Finite (x : Fl) : Prop := ∃ n m e, x = .fin n m e

theorem sumSpecial_finite {ts : List Fl} (h : ∀ t ∈ ts, t.Finite) : sumSpecial ts = none := by
  have hne (x : Fl) (hx : ∀ n m e, x ≠ .fin n m e) : ts.any (· == x) = false := by
    rw [List.any_eq_false]
    intro t ht heq
    obtain ⟨n, m, e, rfl⟩ := h t ht
    exact hx n m e (beq_iff_eq.mp heq).symm
  unfold sumSpecial
  rw [hne .nan nofun, hne (.inf true) nofun, hne (.inf false) nofun]
  rfl

/-- No term that counts has a last place below the unit of the sum. -/
theorem minExpo_le {ts : List Fl} {n : Bool} {m : Nat} {e : Int} (ht : .fin n m e ∈ ts) (hm : m ≠ 0) : minExpo ts ≤ e := by
  have hexpo : Fl.expo 0 (.fin n m e) = e := by
    unfold Fl.expo
    split <;> simp_all
  have hmem : e ∈ (ts.filter fun t => !t.isZero).map (Fl.expo 0) := by
    refine List.mem_map.mpr ⟨_, List.mem_filter.mpr ⟨ht, ?_⟩, hexpo⟩
    unfold Fl.isZero
    split <;> simp_all
  unfold minExpo
  split
  · rename_i hnil
    rw [hnil] at hmem
    cases hmem
  · rename_i x xs hcons
    rw [hcons] at hmem
    exact (List.min?_eq_some_iff.mp (List.min?_cons' (x := x) (xs := xs))).2 e hmem

/-- A term in units of the sum. -/
theorem val_term {ts : List Fl} {t : Fl} (ht : t ∈ ts) (hfin : t.Finite) :
    ((if t.isZero then 0 else t.units (minExpo ts) : Int) : ℚ) * 2 ^ minExpo ts = t.val := by
  obtain ⟨n, m, e, rfl⟩ := hfin
  cases m with
  | zero => simp [Fl.isZero, Fl.val]
  | succ m => exact val_units (minExpo_le ht m.succ_ne_zero) n (m + 1)

/-- A sum of finite terms is exact. -/
theorem val_sumFl (rd : Bool) {ts : List Fl} (h : ∀ t ∈ ts, t.Finite) : (sumFl rd ts).val = (ts.map Fl.val).sum := by
  unfold sumFl
  rw [sumSpecial_finite h]
  dsimp only
  rw [val_ofUnits, ← List.sum_eq_foldl, Int.cast_list_sum, List.map_map, ← List.sum_map_mul_right]
  exact congrArg List.sum (List.map_congr_left fun t ht => val_term ht (h t ht))

theorem val_add (r : Rnd) (n k : Bool) (m p : Nat) (a b : Int) :
    (Fl.add r (.fin n m a) (.fin k p b)).val = (Fl.fin n m a).val + (Fl.fin k p b).val := by
  refine (val_sumFl _ ?_).trans (by simp)
  simp [Fl.Finite]

/-! ### The value of a code (R233) -/

section
variable {f : Fmt}

/-- The exponent field of a finite magnitude is not that of infinity. -/
theorem expField_succ_lt (f : Fmt) {c : Nat} (h : c < f.infCode) : c / 2 ^ f.fb + 1 < 2 ^ f.eb := by
  have hexp : c / 2 ^ f.fb < 2 ^ f.eb - 1 := Nat.div_lt_of_lt_mul (Nat.mul_comm _ _ ▸ h)
  exact Nat.add_lt_of_lt_sub hexp

/-- A magnitude code below that of infinity, by its exponent field. -/
theorem val_dec {c : Nat} (h : c < f.infCode) : (f.dec c).val =
    if c / 2 ^ f.fb = 0 then ((c % 2 ^ f.fb : Nat) : ℚ) * 2 ^ f.qmin
    else ((c % 2 ^ f.fb + 2 ^ f.fb : Nat) : ℚ) * 2 ^ (f.qmin + (c / 2 ^ f.fb : Nat) - 1) := by
  have he := expField_succ_lt f h
  have hneg : c.testBit (f.eb + f.fb) = false := by
    refine Nat.testBit_lt_two_pow (lt_of_lt_of_le h ?_)
    rw [Fmt.infCode, pow_add]
    exact Nat.mul_le_mul_right _ (Nat.sub_le _ _)
  unfold Fmt.dec
  rw [hneg, Nat.mod_eq_of_lt (by omega : c / 2 ^ f.fb < 2 ^ f.eb)]
  dsimp only
  rw [if_neg (by omega)]
  split
  · exact val_pos _ _
  · exact val_pos _ _

/-- The code of `k` units of 2^(qmin + n): with a full significand, or at the least unit of the format. -/
theorem val_dec_grid {n k : Nat} (hk : k ≤ 2 * 2 ^ f.fb) (hn : n = 0 ∨ 2 ^ f.fb ≤ k) (h : n * 2 ^ f.fb + k < f.infCode) :
    (f.dec (n * 2 ^ f.fb + k)).val = k * 2 ^ (f.qmin + n) := by
  have hpos := Nat.two_pow_pos f.fb
  rw [val_dec h]
  by_cases hlow : k < 2 ^ f.fb
  · obtain rfl : n = 0 := hn.resolve_right (not_le.mpr hlow)
    rw [zero_mul, zero_add, if_pos (Nat.div_eq_of_lt hlow), Nat.mod_eq_of_lt hlow, Nat.cast_zero, add_zero]
  by_cases hhigh : k < 2 * 2 ^ f.fb
  · obtain ⟨r, rfl⟩ := Nat.exists_eq_add_of_le (not_lt.mp hlow)
    have hc : n * 2 ^ f.fb + (2 ^ f.fb + r) = r + (n + 1) * 2 ^ f.fb := by ring
    have hr : r < 2 ^ f.fb := by omega
    rw [hc, Nat.add_mul_div_right _ _ hpos, Nat.add_mul_mod_self_right, Nat.div_eq_of_lt hr, Nat.mod_eq_of_lt hr, zero_add,
      if_neg n.succ_ne_zero, Nat.cast_succ, ← add_assoc, add_sub_cancel_right, add_comm r]
  · obtain rfl : k = 2 * 2 ^ f.fb := by omega
    have hc : n * 2 ^ f.fb + 2 * 2 ^ f.fb = (n + 2) * 2 ^ f.fb := by ring
    have he : f.qmin + ((n + 2 : Nat) : Int) - 1 = f.qmin + n + 1 := by push_cast; ring
    rw [hc, Nat.mul_div_cancel _ hpos, Nat.mul_mod_left, if_neg (by omega), he, zpow_add_one₀ two_ne_zero, zero_add]
    push_cast
    ring

/-- The next code stands at least a unit higher. -/
theorem val_dec_succ {n k : Nat} (hk : k ≤ 2 * 2 ^ f.fb) (hn : n = 0 ∨ 2 ^ f.fb ≤ k) (h : n * 2 ^ f.fb + k + 1 < f.infCode) :
    (f.dec (n * 2 ^ f.fb + k)).val + 2 ^ (f.qmin + n) ≤ (f.dec (n * 2 ^ f.fb + k + 1)).val := by
  rw [val_dec_grid hk hn (by omega)]
  rcases lt_or_eq_of_le hk with hlt | rfl
  · rw [add_assoc, val_dec_grid (k := k + 1) hlt (hn.imp_right (by omega)) h]
    push_cast
    exact le_of_eq (by ring)
  · have hc : n * 2 ^ f.fb + 2 * 2 ^ f.fb + 1 = (n + 1) * 2 ^ f.fb + (2 ^ f.fb + 1) := by ring
    have hpos := Nat.two_pow_pos f.fb
    have hu : (0 : ℚ) < 2 ^ (f.qmin + n) := zpow_pos two_pos _
    rw [hc] at h ⊢
    rw [val_dec_grid (by omega) (.inr (by omega)) h, Nat.cast_succ n, ← add_assoc, zpow_add_one₀ two_ne_zero]
    push_cast
    linarith

end

/-! ### Rounding to a multiple of a unit (R229) -/

section
variable (mode : Rnd) (neg : Bool) (m : Nat) {e q : Int}

theorem roundQ_of_le (h : q ≤ e) : (roundQ mode neg m e q false : ℚ) * 2 ^ q = m * 2 ^ e := by
  rw [roundQ, if_pos h, natCast_scale h]

/-- Where the unit is larger than the last place: the multiple below, and the `r` last places left over it. -/
theorem roundQ_of_lt (h : e < q) : ∃ d k r : Nat, d ≠ 0 ∧ (2 : ℚ) ^ q = 2 ^ d * 2 ^ e ∧ (m : ℚ) * 2 ^ e = k * 2 ^ q + r * 2 ^ e ∧
    (r : ℚ) * 2 ^ e < 2 ^ q ∧
    ∀ mode neg, roundQ mode neg m e q false = if roundsUp mode neg k r d false then k + 1 else k := by
  obtain ⟨d, rfl⟩ := Int.le.dest h.le
  have hq : (2 : ℚ) ^ (e + d) = 2 ^ d * 2 ^ e := by rw [zpow_add₀ two_ne_zero, zpow_natCast, mul_comm]
  refine ⟨d, m / 2 ^ d, m % 2 ^ d, by omega, hq, ?_, ?_, fun mode neg => ?_⟩
  · have hm : (m : ℚ) = 2 ^ d * (m / 2 ^ d : Nat) + (m % 2 ^ d : Nat) := by exact_mod_cast (Nat.div_add_mod m _).symm
    rw [hq]
    linear_combination (2 : ℚ) ^ e * hm
  · rw [hq]
    exact mul_lt_mul_of_pos_right (by exact_mod_cast Nat.mod_lt m (Nat.two_pow_pos d)) (zpow_pos two_pos e)
  · rw [roundQ, if_neg (not_le.mpr h), add_sub_cancel_left, Int.toNat_natCast]

/-- Rounding toward zero gives the multiple below. -/
theorem roundQ_rz : (roundQ .rz neg m e q false : ℚ) * 2 ^ q ≤ m * 2 ^ e ∧
    (m : ℚ) * 2 ^ e < (roundQ .rz neg m e q false + 1 : Nat) * 2 ^ q := by
  have hu : (0 : ℚ) < 2 ^ q := zpow_pos two_pos _
  rw [Nat.cast_succ, add_one_mul]
  rcases le_or_gt q e with h | h
  · rw [roundQ_of_le _ _ _ h]
    exact ⟨le_rfl, lt_add_of_pos_right _ hu⟩
  · obtain ⟨d, k, r, -, -, hm, hrest, hround⟩ := roundQ_of_lt m h
    have hk : roundQ .rz neg m e q false = k := hround _ _
    rw [hk, hm]
    exact ⟨le_add_of_nonneg_right (mul_nonneg r.cast_nonneg (zpow_pos two_pos e).le), by linarith⟩

theorem le_roundQ {j : Nat} (hj : (j : ℚ) * 2 ^ q ≤ m * 2 ^ e) : j ≤ roundQ mode neg m e q false := by
  have hu : (0 : ℚ) < 2 ^ q := zpow_pos two_pos _
  rcases le_or_gt q e with h | h
  · rw [← roundQ_of_le mode neg m h] at hj
    exact_mod_cast le_of_mul_le_mul_right hj hu
  · obtain ⟨d, k, r, -, -, hm, hrest, hround⟩ := roundQ_of_lt m h
    have hlt : (j : ℚ) * 2 ^ q < (k + 1 : Nat) * 2 ^ q := by
      rw [Nat.cast_succ, add_one_mul]
      linarith
    have hjk : j < k + 1 := by exact_mod_cast lt_of_mul_lt_mul_right hlt hu.le
    rw [hround]
    split <;> omega

/-- What is exact is not rounded up. -/
theorem roundsUp_exact {k d : Nat} (hd : d ≠ 0) : roundsUp mode neg k 0 d false = false := by
  cases mode <;> simp [roundsUp, hd, (Nat.two_pow_pos _).ne]

theorem roundQ_le {j : Nat} (hj : (m : ℚ) * 2 ^ e ≤ j * 2 ^ q) : roundQ mode neg m e q false ≤ j := by
  have hu : (0 : ℚ) < 2 ^ q := zpow_pos two_pos _
  rcases le_or_gt q e with h | h
  · rw [← roundQ_of_le mode neg m h] at hj
    exact_mod_cast le_of_mul_le_mul_right hj hu
  · obtain ⟨d, k, r, hd, -, hm, -, hround⟩ := roundQ_of_lt m h
    rw [hm] at hj
    rw [hround]
    rcases Nat.eq_zero_or_pos r with rfl | hr
    · rw [roundsUp_exact _ _ hd, if_neg Bool.false_ne_true]
      rw [Nat.cast_zero, zero_mul, add_zero] at hj
      exact_mod_cast le_of_mul_le_mul_right hj hu
    · have hrest : (0 : ℚ) < r * 2 ^ e := mul_pos (by exact_mod_cast hr) (zpow_pos two_pos e)
      have hkj : k < j := by exact_mod_cast lt_of_mul_lt_mul_right (by linarith : (k : ℚ) * 2 ^ q < j * 2 ^ q) hu.le
      split <;> omega

/-- Rounding up a positive value gives a multiple that is not less. -/
theorem le_roundQ_ru : (m : ℚ) * 2 ^ e ≤ roundQ .ru false m e q false * 2 ^ q := by
  rcases le_or_gt q e with h | h
  · exact (roundQ_of_le _ _ _ h).ge
  · obtain ⟨d, k, r, -, -, hm, hrest, hround⟩ := roundQ_of_lt m h
    rw [hround, hm]
    by_cases h0 : r = 0
    · simp [h0, roundsUp]
    · rw [if_pos (by simp [roundsUp, h0]), Nat.cast_succ, add_one_mul]
      linarith

/-- Rounding to nearest gives a multiple within half a unit. -/
theorem abs_roundQ_rn : |(roundQ .rn neg m e q false : ℚ) * 2 ^ q - m * 2 ^ e| * 2 ≤ 2 ^ q := by
  have hu : (0 : ℚ) < 2 ^ q := zpow_pos two_pos _
  rcases le_or_gt q e with h | h
  · rw [roundQ_of_le _ _ _ h, sub_self, abs_zero, zero_mul]
    exact hu.le
  · obtain ⟨d, k, r, hd, hq, hm, hrest, hround⟩ := roundQ_of_lt m h
    obtain ⟨d, rfl⟩ := Nat.exists_eq_succ_of_ne_zero hd
    have hw : (0 : ℚ) < 2 ^ e := zpow_pos two_pos _
    have hup : roundsUp .rn neg k r (d + 1) false = true ↔ 2 ^ d < r ∨ (r = 2 ^ d ∧ k % 2 = 1) := by simp [roundsUp]
    rw [pow_succ'] at hq
    have hr : (r : ℚ) < 2 * 2 ^ d := lt_of_mul_lt_mul_right (hrest.trans_eq hq) hw.le
    rw [hround, hm]
    split
    · rename_i hif
      have hhalf : (2 : ℚ) ^ d ≤ r := by
        have : 2 ^ d ≤ r := by rcases hup.mp hif with h | h <;> omega
        exact_mod_cast this
      have hdiff : ((k + 1 : Nat) : ℚ) * 2 ^ q - (k * 2 ^ q + r * 2 ^ e) = (2 * 2 ^ d - r) * 2 ^ e := by
        rw [hq]
        push_cast
        ring
      rw [hdiff, abs_of_nonneg (mul_nonneg (by linarith) hw.le), hq]
      linarith [mul_le_mul_of_nonneg_right hhalf hw.le]
    · rename_i hif
      have hhalf : (r : ℚ) ≤ 2 ^ d := by
        have : r ≤ 2 ^ d := by
          by_contra hlt
          exact hif (hup.mpr (.inl (not_le.mp hlt)))
        exact_mod_cast this
      rw [sub_add_cancel_left, abs_neg, abs_of_nonneg (mul_nonneg r.cast_nonneg hw.le), hq]
      linarith [mul_le_mul_of_nonneg_right hhalf hw.le]

end

/-! ### One rounding to a format (R229, R253) -/

/-- The unit 2^(qmin + n) in which a magnitude is rounded: it leaves `fb` bits behind the first one, or it is the least of the format. -/
theorem gridCode_eq (fb : Nat) (qmin : Int) (mode : Rnd) (neg : Bool) (m : Nat) (e : Int) : ∃ n : Nat,
    gridCode fb qmin mode neg m e false = n * 2 ^ fb + roundQ mode neg m e (qmin + n) false ∧
    (m : ℚ) * 2 ^ e ≤ (2 * 2 ^ fb : Nat) * 2 ^ (qmin + n) ∧
    (n = 0 ∨ ((2 ^ fb : Nat) : ℚ) * 2 ^ (qmin + n) ≤ m * 2 ^ e) := by
  rcases Nat.eq_zero_or_pos m with rfl | hm
  · have hzero : roundQ mode neg 0 e (qmin + (0 : Nat)) false = 0 := Nat.le_zero.mp (roundQ_le _ _ _ (by simp))
    exact ⟨0, by rw [hzero]; simp [gridCode], by rw [Nat.cast_zero, zero_mul]; positivity, .inl rfl⟩
  · have hlow : ((2 : ℚ) ^ (Nat.log2 m : Int)) ≤ m := by
      rw [zpow_natCast]
      exact_mod_cast Nat.log2_self_le hm.ne'
    have hhigh : (m : ℚ) ≤ (2 : ℚ) ^ ((Nat.log2 m : Int) + 1) := by
      rw [← Nat.cast_succ, zpow_natCast]
      exact_mod_cast (Nat.lt_log2_self (n := m)).le
    have hlen : (bitLen m : Int) = Nat.log2 m + 1 := by simp [bitLen, hm.ne']
    have hw : (0 : ℚ) < 2 ^ e := zpow_pos two_pos _
    have hq : qmin + ((max qmin (e + bitLen m - 1 - fb) - qmin).toNat : Int) = max qmin (e + bitLen m - 1 - fb) := by omega
    refine ⟨(max qmin (e + bitLen m - 1 - fb) - qmin).toNat, ?_, ?_, ?_⟩
    · rw [hq]
      exact if_neg (by simp [hm.ne'])
    · rw [hq]
      calc (m : ℚ) * 2 ^ e ≤ 2 ^ ((Nat.log2 m : Int) + 1) * 2 ^ e := mul_le_mul_of_nonneg_right hhigh hw.le
        _ = 2 ^ ((Nat.log2 m : Int) + 1 + e) := (zpow_add₀ two_ne_zero _ _).symm
        _ ≤ 2 ^ ((fb + 1 : Nat) + max qmin (e + bitLen m - 1 - fb)) := zpow_le_zpow_right₀ one_le_two (by omega)
        _ = (2 * 2 ^ fb : Nat) * 2 ^ max qmin (e + bitLen m - 1 - fb) := by
          rw [zpow_add₀ two_ne_zero, zpow_natCast, pow_succ']
          push_cast
          rfl
    · rw [or_iff_not_imp_left, hq]
      intro hn
      calc ((2 ^ fb : Nat) : ℚ) * 2 ^ max qmin (e + bitLen m - 1 - fb) = 2 ^ (fb + max qmin (e + bitLen m - 1 - fb)) := by
            rw [zpow_add₀ two_ne_zero, zpow_natCast, Nat.cast_pow, Nat.cast_ofNat]
        _ = 2 ^ ((Nat.log2 m : Int) + e) := by
          congr 1
          omega
        _ = 2 ^ (Nat.log2 m : Int) * 2 ^ e := zpow_add₀ two_ne_zero _ _
        _ ≤ m * 2 ^ e := mul_le_mul_of_nonneg_right hlow hw.le

section
variable {f : Fmt} {m : Nat} {e : Int}

/-- A finite result is the multiple of some unit that rounding gives, and the next code stands at least that unit higher. -/
theorem val_dec_gridCode {mode : Rnd} {neg : Bool} {c : Nat} (hc : c = gridCode f.fb f.qmin mode neg m e false) (h : c < f.infCode) :
    ∃ q : Int, (f.dec c).val = roundQ mode neg m e q false * 2 ^ q ∧
      (c + 1 < f.infCode → (f.dec c).val + 2 ^ q ≤ (f.dec (c + 1)).val) := by
  obtain ⟨n, hcode, hle, hn⟩ := gridCode_eq f.fb f.qmin mode neg m e
  have hk := roundQ_le mode neg m hle
  have hn' := hn.imp_right (le_roundQ mode neg m)
  rw [hcode] at hc
  subst hc
  exact ⟨f.qmin + n, val_dec_grid hk hn' h, val_dec_succ hk hn'⟩

theorem rnd_eq_gridCode {mode : Rnd} (h : f.rnd mode (.fin false m e) < f.infCode - 1) :
    f.rnd mode (.fin false m e) = gridCode f.fb f.qmin mode false m e false := by
  unfold Fmt.rnd Fmt.roundMag at *
  simp only [Bool.false_eq_true, if_false, zero_add] at *
  split_ifs at * <;> omega

theorem rnd_ru_eq_gridCode (h : f.rnd .ru (.fin false m e) < f.infCode) :
    f.rnd .ru (.fin false m e) = gridCode f.fb f.qmin .ru false m e false := by
  unfold Fmt.rnd Fmt.roundMag at *
  simp only [Bool.false_eq_true, if_false, zero_add] at *
  split_ifs at * <;> omega

theorem rnd_rz_between (h : f.rnd .rz (.fin false m e) < f.infCode - 1) :
    (f.dec (f.rnd .rz (.fin false m e))).val ≤ m * 2 ^ e ∧ (m : ℚ) * 2 ^ e < (f.dec (f.rnd .rz (.fin false m e) + 1)).val := by
  obtain ⟨q, hval, hnext⟩ := val_dec_gridCode (rnd_eq_gridCode h) (by omega)
  obtain ⟨hlow, hhigh⟩ := roundQ_rz false m (e := e) (q := q)
  have hgap := hnext (by omega)
  rw [hval] at hgap ⊢
  rw [Nat.cast_succ, add_one_mul] at hhigh
  exact ⟨hlow, hhigh.trans_le hgap⟩

theorem rnd_rn_nearest (h : f.rnd .rn (.fin false m e) < f.infCode - 1) :
    |(f.dec (f.rnd .rn (.fin false m e))).val - m * 2 ^ e| * 2 ≤
      (f.dec (f.rnd .rn (.fin false m e) + 1)).val - (f.dec (f.rnd .rn (.fin false m e))).val := by
  obtain ⟨q, hval, hnext⟩ := val_dec_gridCode (rnd_eq_gridCode h) (by omega)
  have hgap := hnext (by omega)
  have hnear := abs_roundQ_rn false m (e := e) (q := q)
  rw [hval] at hgap ⊢
  linarith

theorem le_rnd_ru (h : f.rnd .ru (.fin false m e) < f.infCode) : (m : ℚ) * 2 ^ e ≤ (f.dec (f.rnd .ru (.fin false m e))).val := by
  obtain ⟨q, hval, -⟩ := val_dec_gridCode (rnd_ru_eq_gridCode h) h
  rw [hval]
  exact le_roundQ_ru m

end

/-- The direction in which a mode rounds the magnitude of a negative value. -/
def Rnd.mirror : Rnd → Rnd
  | .ru => .rd
  | .rd => .ru
  | r => r

theorem roundsUp_mirror (r : Rnd) (k x d : Nat) (sticky : Bool) : roundsUp r true k x d sticky = roundsUp r.mirror false k x d sticky := by
  cases r <;> rfl

theorem gridCode_mirror (fb : Nat) (qmin : Int) (r : Rnd) (m : Nat) (e : Int) (sticky : Bool) :
    gridCode fb qmin r true m e sticky = gridCode fb qmin r.mirror false m e sticky := by
  simp only [gridCode, roundQ, roundsUp_mirror]

theorem rnd_neg (f : Fmt) (r : Rnd) (m : Nat) (e : Int) :
    f.rnd r (.fin true m e) = f.signBit + f.rnd r.mirror (.fin false m e) := by
  simp only [Fmt.rnd, Fmt.roundMag, gridCode_mirror]
  cases r <;> simp [Rnd.mirror, apply_ite (f.signBit + ·)]

/-- Settles O33: sums and products are exact in a common unit, and a rounded magnitude is a multiple of a unit that no two neighbouring
codes are nearer than. -/
theorem arithmeticIsExactThenRoundedOnce : Obligations.ArithmeticIsExactThenRoundedOnce := by
  unfold Obligations.ArithmeticIsExactThenRoundedOnce
  intro val
  have hval : val = Fl.val := funext fun x => by cases x <;> rfl
  rw [hval]
  refine ⟨fun n k m p a b r => ⟨val_mul n k m p a b, val_add r n k m p a b⟩, fun f m e _ => ?_⟩
  rw [val_pos]
  exact ⟨rnd_rz_between, rnd_rn_nearest, le_rnd_ru, fun r => rnd_neg f r m e⟩

end Sys2Proof.Machine
end

section
/-! Encodings from the word's side: what a word that decodes is made of, and which opcodes decode (R270, R276 to R283, R291). -/

namespace Sys2Proof

/-! ### The fields of a word, put together again (R270, R276 to R282) -/

theorem Hdr.toBits_ofWord (w : BitVec 64) : (Hdr.ofWord w).toBits = w.extractLsb' 44 12 := by
  simp only [Hdr.toBits, Hdr.ofWord, BitVec.extractLsb'_append_extractLsb'_eq_extractLsb']

/-- Opcode, header and the bits below the header are the whole word. -/
theorem Hdr.above_ofWord (w : BitVec 64) : (Hdr.ofWord w).above (w.extractLsb' 56 8) (w.extractLsb' 0 44) = w := by
  have hlow : w.extractLsb' 44 12 ++ w.extractLsb' 0 44 = w.extractLsb' 0 (12 + 44) :=
    BitVec.extractLsb'_append_extractLsb'_eq_extractLsb' rfl
  have hall : w.extractLsb' 56 8 ++ w.extractLsb' 0 (12 + 44) = w.extractLsb' 0 (8 + (12 + 44)) :=
    BitVec.extractLsb'_append_extractLsb'_eq_extractLsb' rfl
  rw [Hdr.above, Hdr.toBits_ofWord, hlow, hall]
  exact BitVec.extractLsb'_eq_self

theorem FC.toWord_ofWord (w : BitVec 64) : (FC.ofWord w).toWord (w.extractLsb' 56 8) = w := by
  refine Eq.trans (congrArg ((Hdr.ofWord w).above (w.extractLsb' 56 8)) ?_) (Hdr.above_ofWord w)
  simp only [FC.ofWord, BitVec.extractLsb'_append_extractLsb'_eq_extractLsb']

theorem FV.toWord_ofWord (w : BitVec 64) : (FV.ofWord w).toWord (w.extractLsb' 56 8) = w := by
  refine Eq.trans (congrArg ((Hdr.ofWord w).above (w.extractLsb' 56 8)) ?_) (Hdr.above_ofWord w)
  simp only [FV.ofWord, BitVec.extractLsb'_append_extractLsb'_eq_extractLsb']

theorem FVI.toWord_ofWord (w : BitVec 64) : (FVI.ofWord w).toWord (w.extractLsb' 56 8) = w := by
  refine Eq.trans (congrArg ((Hdr.ofWord w).above (w.extractLsb' 56 8)) ?_) (Hdr.above_ofWord w)
  simp only [FVI.ofWord, BitVec.extractLsb'_append_extractLsb'_eq_extractLsb']

theorem FU.toWord_ofWord (w : BitVec 64) : (FU.ofWord w).toWord (w.extractLsb' 56 8) = w := by
  refine Eq.trans (congrArg ((Hdr.ofWord w).above (w.extractLsb' 56 8)) ?_) (Hdr.above_ofWord w)
  simp only [FU.ofWord, BitVec.extractLsb'_append_extractLsb'_eq_extractLsb']

theorem FM.toWord_ofWord (w : BitVec 64) : (FM.ofWord w).toWord (w.extractLsb' 56 8) = w := by
  refine Eq.trans (congrArg ((Hdr.ofWord w).above (w.extractLsb' 56 8)) ?_) (Hdr.above_ofWord w)
  simp only [FM.ofWord, BitVec.extractLsb'_append_extractLsb'_eq_extractLsb']

/-! ### From a word to the instruction that it decodes to (R291) -/

/-- The row `i` is that of the opcode `op`: its body is `b`, and its second word, where it has one, is `w2`. -/
structure Instr.IsRow (i : Instr) (op : Nat) (b : Body) (w2 : BitVec 64) : Prop where
  opcode : i.opcode = op
  body : i.body = b
  second : i.second = none ∨ i.second = some w2

section
variable {op : Nat} {i : Instr} (w2 : BitVec 64)

theorem mkC_isRow {f : FC} (h : mkC op f = some i) : i.IsRow op (.c f) w2 := by
  unfold mkC at h
  split at h
  all_goals cases h
  all_goals exact ⟨rfl, rfl, .inl rfl⟩

theorem await_isRow {f : FV} (h : mkV 0xD2 f = some i) : i.IsRow 0xD2 (.v f) w2 := by
  have hi : (if f.fn.getLsbD 0 then Instr.awaitSteal f else .await f) = i := Option.some.inj h
  split at hi
  all_goals
    subst hi
    exact ⟨rfl, rfl, .inl rfl⟩

theorem rtt_isRow {f : FV} (h : mkV 0xE1 f = some i) : i.IsRow 0xE1 (.v f) w2 := by
  rw [mkV_rtt rfl] at h
  unfold rttRow at h
  split at h
  all_goals cases h
  all_goals exact ⟨rfl, rfl, .inl rfl⟩

theorem mkV_isRow {f : FV} (h : mkV op f = some i) : i.IsRow op (.v f) w2 := by
  by_cases hawait : op = 0xD2
  · subst hawait
    exact await_isRow w2 h
  by_cases hrtt : op = 0xE1
  · subst hrtt
    exact rtt_isRow w2 h
  unfold mkV at h
  split at h
  all_goals try contradiction -- the opcodes of AWAIT and RTT, and those of no row
  all_goals
    cases h
    exact ⟨rfl, rfl, .inl rfl⟩

theorem mkVI_isRow {f : FVI} (h : mkVI op f = some i) : i.IsRow op (.vi f) w2 := by
  unfold mkVI at h
  split at h
  all_goals cases h
  all_goals exact ⟨rfl, rfl, .inl rfl⟩

theorem mkU_isRow {f : FU} (h : mkU op f = some i) : i.IsRow op (.u f) w2 := by
  unfold mkU at h
  split at h
  all_goals cases h
  all_goals exact ⟨rfl, rfl, .inl rfl⟩

theorem mkM_isRow {f : FM} (h : mkM op f = some i) : i.IsRow op (.m f) w2 := by
  unfold mkM at h
  split at h
  all_goals cases h
  all_goals exact ⟨rfl, rfl, .inl rfl⟩

theorem mkV2_isRow {f : FV} (h : mkV2 op f w2 = some i) : i.IsRow op (.v f) w2 := by
  unfold mkV2 at h
  split at h
  all_goals cases h
  all_goals exact ⟨rfl, rfl, .inr rfl⟩

theorem mkU2_isRow {f : FU} (h : mkU2 op f w2 = some i) : i.IsRow op (.u f) w2 := by
  unfold mkU2 at h
  split at h
  all_goals cases h
  all_goals exact ⟨rfl, rfl, .inr rfl⟩

/-- A word decodes to a row of its opcode over its own fields. -/
theorem decode_isRow {w : BitVec 64} (h : decode w w2 = some i) :
    ∃ b, i.IsRow (w.extractLsb' 56 8).toNat b w2 ∧ b.Reads (FC.ofWord w) (FV.ofWord w) (FVI.ofWord w) (FU.ofWord w) (FM.ofWord w) := by
  unfold decode at h
  simp only [Option.orElse_eq_some] at h
  rcases h with h | ⟨-, h | ⟨-, h | ⟨-, h | ⟨-, h | ⟨-, h | ⟨-, h⟩⟩⟩⟩⟩⟩
  · exact ⟨_, mkC_isRow w2 h, rfl⟩
  · exact ⟨_, mkV_isRow w2 h, rfl⟩
  · exact ⟨_, mkVI_isRow w2 h, rfl⟩
  · exact ⟨_, mkU_isRow w2 h, rfl⟩
  · exact ⟨_, mkM_isRow w2 h, rfl⟩
  · exact ⟨_, mkV2_isRow w2 h, rfl⟩
  · exact ⟨_, mkU2_isRow w2 h, rfl⟩

variable {w2}

/-- A row of a word's opcode over the word's fields has that word. -/
theorem Instr.IsRow.word_eq {w : BitVec 64} {b : Body} (h : i.IsRow (w.extractLsb' 56 8).toNat b w2)
    (hb : b.Reads (FC.ofWord w) (FV.ofWord w) (FVI.ofWord w) (FU.ofWord w) (FM.ofWord w)) : i.word = w := by
  have hop : BitVec.ofNat 8 i.opcode = w.extractLsb' 56 8 := by rw [h.opcode, BitVec.ofNat_toNat, BitVec.setWidth_eq]
  unfold Instr.word
  rw [h.body, hop]
  cases b with
  | c f => exact (congrArg (FC.toWord _) hb.symm).trans (FC.toWord_ofWord w)
  | v f => exact (congrArg (FV.toWord _) hb.symm).trans (FV.toWord_ofWord w)
  | vi f => exact (congrArg (FVI.toWord _) hb.symm).trans (FVI.toWord_ofWord w)
  | u f => exact (congrArg (FU.toWord _) hb.symm).trans (FU.toWord_ofWord w)
  | m f => exact (congrArg (FM.toWord _) hb.symm).trans (FM.toWord_ofWord w)
  | event => exact hb.elim

end

/-- Settles O3: what decodes is a row over the fields of its word, and those fields are the whole word. -/
theorem decodeEncodeRoundTrip : Obligations.DecodeEncodeRoundTrip := by
  intro w w2 i h
  obtain ⟨b, hrow, hb⟩ := decode_isRow w2 h
  have hevent : i.isEvent = false := beq_eq_false_iff_ne.mpr (by rw [hrow.opcode]; exact Nat.ne_of_lt (BitVec.isLt _))
  have hword := hrow.word_eq hb
  have htwo : isTwoWord w = i.second.isSome := hword ▸ Instr.isTwoWord_word hevent
  refine ⟨hevent, hword, ?_⟩
  rw [htwo]
  rcases hrow.second with hs | hs
  · rw [hs]; rfl
  · rw [hs]; rfl

/-! ### Words without a row, and a word for each row (R291) -/

/-- The opcodes that R291 leaves unassigned. -/
def freeOps : List Nat := [0x0E, 0x0F] ++ List.range' 0x2C 4 ++ List.range' 0x3C 4 ++ List.range' 0x59 7 ++ List.range' 0x69 7 ++
  [0x77, 0x7F] ++ List.range' 0x8C 20 ++ List.range' 0xA5 11 ++ [0xB6, 0xB7, 0xBF] ++ List.range' 0xC8 8 ++ [0xD6, 0xD7] ++ List.range' 0xEB 21

/-- An opcode without a row gives nothing, whatever the fields. -/
theorem decodeFields_of_freeOps {op : Nat} (h : op ∈ freeOps) (c : FC) (v : FV) (vi : FVI) (u : FU) (m : FM) (w2 : BitVec 64) :
    decodeFields op c v vi u m w2 = none := by
  simp only [freeOps, List.range', List.cons_append, List.nil_append, List.mem_cons, List.not_mem_nil, or_false] at h
  casesm* _ ∨ _
  all_goals
    subst h
    rfl

theorem decode_of_not_freeOps : ∀ op : BitVec 8, op.toNat ∉ freeOps → (decode (op ++ 0#56) 0).isSome = true := by
  decide +kernel

/-- Settles O1: the worked words by evaluation, the unassigned opcodes row by row, and each assigned one by its word with all
other bits 0. -/
theorem workedWordsDecode : Obligations.WorkedWordsDecode := by
  refine ⟨rfl, rfl, rfl, rfl, rfl, rfl, rfl, rfl, rfl, rfl, rfl, rfl, fun w w2 h => ?_, fun op h => ⟨op ++ 0#56, ?_, ?_⟩⟩
  · exact decodeFields_of_freeOps h ..
  · exact BitVec.extractLsb'_append_eq_left
  · exact decode_of_not_freeOps op h

end Sys2Proof
end

section
/-! Results of the integer instructions (R320 to R322). -/

namespace Sys2Proof.Machine

/-! ### Integers that fit, and words of exact results (R320) -/

theorem ofNat_fitInt (w : Nat) (uns sat : Bool) (x : Int) : BitVec.ofNat w (fitInt w uns sat x) = BitVec.ofInt w
    (if sat then (if uns then max 0 (min (2 ^ w - 1) x) else max (-2 ^ (w - 1)) (min (2 ^ (w - 1) - 1) x)) else x) := by
  rw [fitInt, ofNat_wrapNat, clampInt]
  push_cast
  rfl

/-- An integer in the range of a width. -/
def InRange (w : Nat) (uns : Bool) (x : Int) : Prop :=
  if uns then 0 ≤ x ∧ x < (2 ^ w : Nat) else -((2 ^ (w - 1) : Nat) : Int) ≤ x ∧ x < (2 ^ (w - 1) : Nat)

/-- An integer in range is saturated to itself. -/
theorem fitInt_of_inRange {w : Nat} {uns : Bool} {x : Int} (h : InRange w uns x) (sat : Bool) :
    fitInt w uns sat x = fitInt w uns false x := by
  have hc : clampInt w uns x = x := by
    unfold clampInt
    unfold InRange at h
    cases uns
    all_goals
      simp only [if_true, Bool.false_eq_true, if_false] at h ⊢
      omega
  cases sat
  · rfl
  · exact congrArg (wrapNat w) hc

theorem inRange_toInt {w : Nat} (x : BitVec w) : InRange w false x.toInt := by
  have hlo := BitVec.le_toInt x
  have hhi := BitVec.toInt_lt (x := x)
  exact ⟨by exact_mod_cast hlo, by exact_mod_cast hhi⟩

theorem inRange_toNat {w : Nat} (x : BitVec w) : InRange w true x.toNat := by
  have := x.isLt
  unfold InRange
  simp only [if_true]
  omega

theorem extractLsb'_high (x : Int) : BitVec.ofNat 32 (wrapNat 64 x / 2 ^ 32) = (BitVec.ofInt 64 x).extractLsb' 32 32 := by
  rw [← ofNat_wrapNat]
  refine BitVec.eq_of_toNat_eq ?_
  rw [BitVec.extractLsb'_toNat, BitVec.toNat_ofNat, BitVec.toNat_ofNat, Nat.shiftRight_eq_div_pow]
  omega

theorem ofInt_add_toInt {w : Nat} (x : Int) (c : BitVec w) : BitVec.ofNat w (wrapNat w (x + c.toInt)) = BitVec.ofInt w x + c := by
  rw [ofNat_wrapNat, BitVec.ofInt_add, BitVec.ofInt_toInt]

theorem ofNat_mod_pow (w n : Nat) : BitVec.ofNat w (n % 2 ^ w) = BitVec.ofNat w n := BitVec.eq_of_toNat_eq (by simp)

theorem ofNat_natAbs_add {w : Nat} (x : Int) (c : BitVec w) : BitVec.ofNat w ((x.natAbs + c.toNat) % 2 ^ w) = BitVec.ofInt w |x| + c := by
  rw [ofNat_mod_pow, BitVec.ofNat_add, BitVec.ofNat_toNat, BitVec.setWidth_eq, ← Int.natCast_natAbs, BitVec.ofInt_natCast]

theorem ofNat_mul_mod {w : Nat} (a b : BitVec w) : BitVec.ofNat w (a.toNat * b.toNat % 2 ^ w) = a * b :=
  BitVec.eq_of_toNat_eq (by simp)

/-! ### Results of an issue of either width (R320) -/

section
variable {i : Instr} {s : State} {e : Env} (h : s.ready i = some e)
include h

/-- An integer instruction with a 32-bit result gives the words that its meaning computes. -/
theorem issue_int32 {o : Out} {d : Nat} {y : Env → Nat → Nat} {x : Nat → Word} (hi : exec i s = o)
    (ho : o = issue i s fun e => e.intOut i d false (y e)) (hx : ∀ l, BitVec.ofNat 32 (y e l) = x l) : e.gives32 i d x (exec i s) :=
  issue_vec h hi ho (funext hx)

theorem issue_int64 {o : Out} {d : Nat} {y : Env → Nat → Nat} {x : Nat → DWord} (hi : exec i s = o)
    (ho : o = issue i s fun e => e.intOut i d true (y e)) (hx : ∀ l, BitVec.ofNat 64 (y e l) = x l) : e.gives64 i d x (exec i s) :=
  issue_pair h hi ho (funext hx)

/-- An instruction of either width gives what is told of its width. -/
theorem issue_either {o : Out} {d : Nat} {long : Bool} {y : Env → Nat → Nat} {x : Nat → Word} {z : Nat → DWord} (hi : exec i s = o)
    (ho : o = issue i s fun e => e.intOut i d long (y e)) (hx : long = false → ∀ l, BitVec.ofNat 32 (y e l) = x l)
    (hz : long = true → ∀ l, BitVec.ofNat 64 (y e l) = z l) : if long then e.gives64 i d z (exec i s) else e.gives32 i d x (exec i s) := by
  cases long
  · exact issue_int32 h hi ho (hx rfl)
  · exact issue_int64 h hi ho (hz rfl)

/-- An instruction of exact integers gives them clamped or wrapped once. -/
theorem issue_fitInt {o : Out} {f : FV} {long uns sat : Bool} {y : Env → Nat → Nat} {x : Nat → Int} (hi : exec i s = o)
    (ho : o = issue i s fun e => e.intOut i f.d.toNat long (y e))
    (hy : ∀ l, y e l = fitInt (if long then 64 else 32) uns sat (x l)) : e.givesInt i f long uns sat x (exec i s) := by
  unfold Env.givesInt
  cases long
  · exact issue_int32 h hi ho fun l => (congrArg _ (hy l)).trans (ofNat_fitInt 32 uns sat (x l))
  · exact issue_int64 h hi ho fun l => (congrArg _ (hy l)).trans (ofNat_fitInt 64 uns sat (x l))

end

/-- An integer operand is in the range of its width and sign. -/
theorem int_inRange (e : Env) (long uns : Bool) (c l : Nat) : InRange (if long then 64 else 32) uns (e.int long uns c l) := by
  cases long
  all_goals cases uns
  · exact inRange_toInt (e.src32 c l)
  · exact inRange_toNat (e.src32 c l)
  · exact inRange_toInt (e.src64 c l)
  · exact inRange_toNat (e.src64 c l)

/-- Settles O29: each instruction fits its exact integer to its destination, and an operand of MIN and MAX fits as it is. -/
theorem integerArithmeticResults : Obligations.IntegerArithmeticResults := by
  intro f s e w sat long a b c
  have hsel (x : Int) (l : Nat) (hx : x = a long w l ∨ x = b long w l) :
      fitInt (if long then 64 else 32) w (fnSat f.fn) x = fitInt (if long then 64 else 32) w false x := by
    rcases hx with rfl | rfl
    · exact fitInt_of_inRange (int_inRange e long w _ l) _
    · exact fitInt_of_inRange (int_inRange e long w _ l) _
  refine ⟨fun h => issue_fitInt h (o := execAdd f s) rfl rfl fun _ => rfl,
    fun h => issue_fitInt h (o := execSub f s) rfl rfl fun _ => rfl,
    fun h => issue_fitInt h (o := execTadd f s) rfl rfl fun _ => rfl,
    fun h => issue_fitInt h (o := execNeg f s) rfl rfl fun _ => rfl,
    fun h => issue_fitInt h (o := execAbs f s) rfl rfl fun l => ?_,
    fun h => issue_fitInt h (o := execMin f s) rfl rfl fun l => ?_,
    fun h => issue_fitInt h (o := execMax f s) rfl rfl fun l => ?_,
    fun h => issue_int32 h (o := execMull f s) rfl rfl fun l => ?_,
    fun h => issue_int32 h (o := execMulh f s) rfl rfl fun l => ?_,
    fun h => issue_fitInt h (o := execMadl f s) rfl rfl fun _ => rfl,
    fun h => issue_int64 h (o := execMadw f s) rfl rfl fun l => ?_,
    fun h => issue_int32 h (o := execAdif f s) rfl rfl fun l => ?_⟩
  · exact congrArg (fitInt _ false sat) (Int.natCast_natAbs _)
  · exact hsel _ l (min_choice _ _)
  · exact hsel _ l (max_choice _ _)
  · exact ofNat_mul_mod ..
  · exact extractLsb'_high _
  · exact ofInt_add_toInt _ _
  · exact ofNat_natAbs_add _ _

/-! ### Numbers told by their bits (R320, R321) -/

/-- Powers of two added one by one are a sum. -/
theorem foldl_pow_eq_sum (p : Nat → Bool) (n : Nat) : (List.range n).foldl (fun a k => if p k then a + 2 ^ k else a) 0 =
    ((List.range n).map fun k => if p k then 2 ^ k else 0).sum := by
  induction n with
  | zero => rfl
  | succ n ih =>
    rw [List.range_succ, List.foldl_append, List.map_append, List.sum_append, ih, List.map_singleton, List.sum_singleton,
      List.foldl_cons, List.foldl_nil]
    split <;> rfl

theorem testBit_foldl_pow (p : Nat → Bool) (n k : Nat) :
    ((List.range n).foldl (fun a k => if p k then a + 2 ^ k else a) 0).testBit k = (decide (k < n) && p k) := by
  rw [foldl_pow_eq_sum]
  exact (testBit_sum_pow p n).2 k

/-- A word whose bits are told is the number with those bits. -/
theorem ofNat_eq_of_testBit {w : Nat} {n : Nat} {x : BitVec w} (h : ∀ k, k < w → n.testBit k = x.getLsbD k) : BitVec.ofNat w n = x := by
  refine BitVec.eq_of_getLsbD_eq fun k hk => ?_
  rw [BitVec.getLsbD_ofNat, h k hk]
  simp [hk]

theorem ofNat_bitrAt {w : Nat} {x : BitVec w} {n : Nat} (h : ∀ k, k < w → x.getLsbD k = n.testBit (w - 1 - k)) :
    BitVec.ofNat w (bitrAt w n) = x := by
  refine ofNat_eq_of_testBit fun k hk => ?_
  rw [bitrAt, testBit_foldl_pow, h k hk]
  simp [hk]

theorem onesAt_eq_countP (w n : Nat) : onesAt w n = (List.range w).countP fun k => n.testBit k :=
  List.countP_eq_length_filter.symm

/-- The leading zeros are told by the highest one. -/
theorem clzAt_eq {w n z : Nat} (hn : n < 2 ^ w) (hz : z ≤ w) (hzeros : ∀ k, w - z ≤ k → k < w → n.testBit k = false)
    (hone : z < w → n.testBit (w - 1 - z) = true) : clzAt w n = z := by
  unfold clzAt
  split
  · rename_i h0
    subst h0
    by_contra hne
    have := hone (by omega)
    rw [Nat.zero_testBit] at this
    cases this
  · rename_i h0
    have hlt : n < 2 ^ (w - z) := Nat.lt_pow_two_of_testBit n fun k hk => by
      by_cases hkw : k < w
      · exact hzeros k hk hkw
      · exact Nat.testBit_lt_two_pow (hn.trans_le (Nat.pow_le_pow_right (by decide) (by omega)))
    have hzw : z < w := by
      by_contra hge
      rw [show w - z = 0 by omega] at hlt
      omega
    have hge := Nat.ge_two_pow_of_testBit (hone hzw)
    have hlog : Nat.log2 n = w - 1 - z := (Nat.log2_eq_iff h0).mpr ⟨hge, by rwa [show w - 1 - z + 1 = w - z by omega]⟩
    omega

theorem ofNat_tlutAt {tab : BitVec 9} {a b c x : Word} (h : ∀ k, k < 32 → x.getLsbD k = tab.getLsbD
    ((if a.getLsbD k then 4 else 0) + (if b.getLsbD k then 2 else 0) + if c.getLsbD k then 1 else 0)) :
    BitVec.ofNat 32 (tlutAt (tab.toNat % 256) a.toNat b.toNat c.toNat) = x := by
  refine ofNat_eq_of_testBit fun k hk => ?_
  have hentry (i : Nat) (hi : i < 8) : (tab.toNat % 256).testBit i = tab.getLsbD i := by
    rw [show 256 = 2 ^ 8 from rfl, Nat.testBit_mod_two_pow, decide_eq_true hi]
    rfl
  rw [h k hk, tlutAt]
  dsimp only
  rw [testBit_foldl_pow, decide_eq_true hk, Bool.true_and]
  refine hentry _ ?_
  split <;> split <;> split <;> decide

theorem ofNat_funl (a b c : Word) : BitVec.ofNat 32 ((a.toNat * 2 ^ 32 + b.toNat) * 2 ^ (c.toNat % 32) / 2 ^ 32 % 2 ^ 32) =
    ((a ++ b) <<< (c.toNat % 32)).extractLsb' 32 32 := by
  have hab : (a ++ b).toNat = a.toNat * 2 ^ 32 + b.toNat := by
    rw [BitVec.toNat_append, ← Nat.shiftLeft_add_eq_or_of_lt b.isLt, Nat.shiftLeft_eq]
  refine BitVec.eq_of_toNat_eq ?_
  rw [BitVec.extractLsb'_toNat, BitVec.toNat_shiftLeft, BitVec.toNat_ofNat, hab, Nat.shiftLeft_eq, Nat.shiftRight_eq_div_pow]
  generalize (a.toNat * 2 ^ 32 + b.toNat) * 2 ^ (c.toNat % 32) = n
  omega

theorem bits_byte (n : Nat) : bits n 7 0 = n % 256 := rfl

theorem ofNat_fextAt (uns : Bool) (a b c : Word) : BitVec.ofNat 32 (fextAt uns a.toNat b.toNat c.toNat) =
    (let pos := b.toNat % 256
     let len := c.toNat % 256
     if len = 0 ∨ 32 ≤ pos then 0
     else if uns then (a.extractLsb' pos (min len (32 - pos))).zeroExtend 32
     else (a.extractLsb' pos (min len (32 - pos))).signExtend 32) := by
  unfold fextAt
  rw [bits_byte, bits_byte]
  generalize b.toNat % 256 = pos
  generalize c.toNat % 256 = len
  dsimp only
  split
  · rfl
  · rename_i h
    have hfield : a.toNat / 2 ^ pos % 2 ^ min len (32 - pos) = (a.extractLsb' pos (min len (32 - pos))).toNat := by
      rw [BitVec.extractLsb'_toNat, Nat.shiftRight_eq_div_pow]
    have hmin : Nat.min len (32 - pos) = min len (32 - pos) := rfl
    rw [hmin, hfield]
    cases uns
    · simp only [Bool.false_eq_true, if_false]
      rw [ofNat_wrapNat, sextInt_toNat (by omega)]
      rfl
    · exact BitVec.ofNat_toNat ..

/-- A field deposited in a number: the bits below it, the field, and the bits above it. -/
theorem testBit_deposit (a b pos len k : Nat) :
    (b - (b / 2 ^ pos % 2 ^ len) * 2 ^ pos + (a % 2 ^ len) * 2 ^ pos).testBit k =
      if pos ≤ k ∧ k < pos + len then a.testBit (k - pos) else b.testBit k := by
  have hsplit : b = 2 ^ pos * (2 ^ len * (b / 2 ^ pos / 2 ^ len) + b / 2 ^ pos % 2 ^ len) + b % 2 ^ pos := by
    rw [Nat.div_add_mod, Nat.div_add_mod]
  have hnew : b - (b / 2 ^ pos % 2 ^ len) * 2 ^ pos + (a % 2 ^ len) * 2 ^ pos =
      2 ^ pos * (2 ^ len * (b / 2 ^ pos / 2 ^ len) + a % 2 ^ len) + b % 2 ^ pos := by
    rw [Nat.mul_add, Nat.mul_comm (b / 2 ^ pos % 2 ^ len), Nat.mul_comm (a % 2 ^ len)]
    rw [Nat.mul_add] at hsplit
    omega
  have hlow : b % 2 ^ pos < 2 ^ pos := Nat.mod_lt _ (Nat.two_pow_pos pos)
  have hfield : a % 2 ^ len < 2 ^ len := Nat.mod_lt _ (Nat.two_pow_pos len)
  rw [hnew, Nat.testBit_two_pow_mul_add _ hlow, Nat.testBit_two_pow_mul_add _ hfield]
  by_cases hpos : k < pos
  · rw [if_pos hpos, if_neg (by omega), Nat.testBit_mod_two_pow, decide_eq_true hpos, Bool.true_and]
  by_cases hlen : k < pos + len
  · rw [if_neg hpos, if_pos (by omega), if_pos (by omega), Nat.testBit_mod_two_pow, decide_eq_true (by omega), Bool.true_and]
  · rw [if_neg hpos, if_neg (by omega), if_neg (by omega), Nat.testBit_div_two_pow, Nat.testBit_div_two_pow]
    congr 1
    omega

theorem bits_at (n p : Nat) : bits n (p + 7) p = n / 2 ^ p % 256 := by
  rw [bits, Nat.shiftRight_eq_div_pow, show p + 7 + 1 - p = 8 by omega]
  rfl

theorem ofNat_fdepAt {a b c x : Word} (h : ∀ k, k < 32 → x.getLsbD k =
      if c.toNat % 256 ≤ k ∧ k < c.toNat % 256 + c.toNat / 256 % 256 then a.getLsbD (k - c.toNat % 256) else b.getLsbD k) :
    BitVec.ofNat 32 (fdepAt a.toNat b.toNat c.toNat) = x := by
  have hlen : bits c.toNat 15 8 = c.toNat / 256 % 256 := bits_at c.toNat 8
  have hpos : bits c.toNat 7 0 = c.toNat % 256 := rfl
  refine BitVec.eq_of_getLsbD_eq fun k hk => ?_
  rw [BitVec.getLsbD_ofNat, decide_eq_true hk, Bool.true_and, h k hk, fdepAt, hlen, hpos]
  generalize c.toNat % 256 = pos
  generalize c.toNat / 256 % 256 = len
  dsimp only
  split
  · rw [if_neg (by omega)]
    rfl
  · rw [testBit_deposit]
    refine if_congr ?_ rfl rfl
    have : Nat.min len (32 - pos) = min len (32 - pos) := rfl
    omega

/-- One byte of a BSHUF result by its selector (R321). -/
def bshufByte (x s : Nat) : Nat :=
  match s / 8 % 4 with
  | 0 => bits x (8 * (s % 8) + 7) (8 * (s % 8))
  | 1 => 0
  | 2 => if (bits x (8 * (s % 8) + 7) (8 * (s % 8))).testBit 7 then 0xFF else 0
  | _ => 0xFF

theorem bshufByte_lt (x s : Nat) : bshufByte x s < 256 := by
  unfold bshufByte
  rw [bits_at]
  split
  · exact Nat.mod_lt _ (by decide)
  · decide
  · split <;> decide
  · decide

theorem sum_map_range_four (f : Nat → Nat) : ((List.range 4).map f).sum = f 0 + f 1 + f 2 + f 3 := by
  rw [List.sum_range_succ, List.sum_range_succ, List.sum_range_succ, List.sum_range_succ]
  exact congrArg (· + f 3) (congrArg (· + f 2) (congrArg (· + f 1) (Nat.zero_add _)))

/-- Four bytes in a word, each at its place. -/
theorem extractLsb'_of_bytes (y : Nat → Nat) (hy : ∀ k, y k < 256) {k : Nat} (hk : k < 4) :
    (BitVec.ofNat 32 ((List.range 4).map fun k => y k * 2 ^ (8 * k)).sum).extractLsb' (8 * k) 8 = BitVec.ofNat 8 (y k) := by
  have h0 := hy 0
  have h1 := hy 1
  have h2 := hy 2
  have h3 := hy 3
  refine BitVec.eq_of_toNat_eq ?_
  rw [sum_map_range_four, BitVec.extractLsb'_toNat, BitVec.toNat_ofNat, BitVec.toNat_ofNat, Nat.shiftRight_eq_div_pow]
  obtain rfl | rfl | rfl | rfl : k = 0 ∨ k = 1 ∨ k = 2 ∨ k = 3 := by omega
  all_goals
    norm_num
    omega
/-- A word is told by its bytes. -/
theorem eq_of_bytes {x y : Word} (h : ∀ k, k < 4 → x.extractLsb' (8 * k) 8 = y.extractLsb' (8 * k) 8) : x = y := by
  refine BitVec.eq_of_getLsbD_eq fun i hi => ?_
  have hb := congrArg (BitVec.getLsbD · (i % 8)) (h (i / 8) (by omega))
  simp only [BitVec.getLsbD_extractLsb', Nat.mod_lt i (by decide : 8 > 0), decide_true, Bool.true_and, Nat.div_add_mod] at hb
  exact hb

/-- The byte that a selector names in the operand `n` of 64 bits (R321). -/
theorem ofNat_bshufByte (n : BitVec 64) (sel : Byte) : BitVec.ofNat 8 (bshufByte n.toNat sel.toNat) =
    (match sel.toNat / 8 % 4 with
     | 0 => n.extractLsb' (8 * (sel.toNat % 8)) 8
     | 1 => 0
     | 2 => if (n.extractLsb' (8 * (sel.toNat % 8)) 8).getLsbD 7 then 0xFF else 0
     | _ => 0xFF) := by
  have hy : bits n.toNat (8 * (sel.toNat % 8) + 7) (8 * (sel.toNat % 8)) = (n.extractLsb' (8 * (sel.toNat % 8)) 8).toNat := by
    rw [bits_at, BitVec.extractLsb'_toNat, Nat.shiftRight_eq_div_pow]
  unfold bshufByte
  rw [hy]
  generalize n.extractLsb' (8 * (sel.toNat % 8)) 8 = y
  split
  · rw [BitVec.ofNat_toNat, BitVec.setWidth_eq]
  · rfl
  · exact apply_ite (BitVec.ofNat 8) _ _ _
  · rfl

theorem ofNat_bshufAt {a b c x : Word} (h : ∀ k, k < 4 → x.extractLsb' (8 * k) 8 =
      (match (c.extractLsb' (8 * k) 8).toNat / 8 % 4 with
       | 0 => (b ++ a).extractLsb' (8 * ((c.extractLsb' (8 * k) 8).toNat % 8)) 8
       | 1 => 0
       | 2 => if ((b ++ a).extractLsb' (8 * ((c.extractLsb' (8 * k) 8).toNat % 8)) 8).getLsbD 7 then 0xFF else 0
       | _ => 0xFF)) : BitVec.ofNat 32 (bshufAt a.toNat b.toNat c.toNat) = x := by
  have hba : b.toNat * 2 ^ 32 + a.toNat = (b ++ a).toNat := by
    rw [BitVec.toNat_append, ← Nat.shiftLeft_add_eq_or_of_lt a.isLt, Nat.shiftLeft_eq]
  have hx : bshufAt a.toNat b.toNat c.toNat =
      ((List.range 4).map fun k => bshufByte (b ++ a).toNat (bits c.toNat (8 * k + 7) (8 * k)) * 2 ^ (8 * k)).sum := by
    rw [← hba]
    exact congrArg List.sum (List.map_congr_left fun k _ => rfl)
  have hsel (k : Nat) : bits c.toNat (8 * k + 7) (8 * k) = (c.extractLsb' (8 * k) 8).toNat := by
    rw [bits_at, BitVec.extractLsb'_toNat, Nat.shiftRight_eq_div_pow]
  rw [hx]
  refine eq_of_bytes fun k hk => ?_
  rw [extractLsb'_of_bytes _ (fun _ => bshufByte_lt _ _) hk, h k hk, hsel]
  exact ofNat_bshufByte _ _
/-! ### Operands as numbers (R320, R321) -/

theorem ofNat_toNat_self {w : Nat} (x : BitVec w) : BitVec.ofNat w x.toNat = x := by
  rw [BitVec.ofNat_toNat, BitVec.setWidth_eq]

/-- The operand of a 32-bit instruction as a number. -/
theorem int_short {fn : BitVec 9} (h : fnLong fn = false) (e : Env) (c l : Nat) :
    fnWidth fn = 32 ∧ (e.int (fnLong fn) true c l).toNat = (e.src32 c l).toNat := by
  rw [fnWidth, h]
  exact ⟨rfl, rfl⟩

/-- The operand of a 64-bit instruction as a number. -/
theorem int_long {fn : BitVec 9} (h : fnLong fn = true) (e : Env) (c l : Nat) :
    fnWidth fn = 64 ∧ (e.int (fnLong fn) true c l).toNat = (e.src64 c l).toNat := by
  rw [fnWidth, h]
  exact ⟨rfl, rfl⟩

section
variable {i : Instr} {s : State} {e : Env} {f : FV} (h : s.ready i = some e)
include h

/-- A shift or rotation gives that of its words. -/
theorem issue_shift2 {o : Out} {op : Nat → Nat → Nat → Nat} {g : Nat → Word → Word} {g' : Nat → DWord → DWord} (hi : exec i s = o)
    (ho : o = issue i s fun e => e.shift2 i f op) (hg : ∀ (x : Word) n, BitVec.ofNat 32 (op 32 x.toNat n) = g n x)
    (hg' : ∀ (x : DWord) n, BitVec.ofNat 64 (op 64 x.toNat n) = g' n x) :
    if fnLong f.fn then e.gives64 i f.d.toNat (fun l => g' (e.src32 f.sb.toNat l).toNat (e.src64 f.sa.toNat l)) (exec i s)
    else e.gives32 i f.d.toNat (fun l => g (e.src32 f.sb.toNat l).toNat (e.src32 f.sa.toNat l)) (exec i s) := by
  refine issue_either h hi ho (fun hlong l => ?_) (fun hlong l => ?_)
  · obtain ⟨hwidth, hval⟩ := int_short hlong e f.sa.toNat l
    exact (congrArg₂ (fun w x => BitVec.ofNat 32 (op w x _)) hwidth hval).trans (hg _ _)
  · obtain ⟨hwidth, hval⟩ := int_long hlong e f.sa.toNat l
    exact (congrArg₂ (fun w x => BitVec.ofNat 64 (op w x _)) hwidth hval).trans (hg' _ _)

/-- An instruction of one bit string gives what is told of its word. -/
theorem issue_bits1 {o : Out} {op : Nat → Nat → Nat} {x : Nat → Word} {y : Nat → DWord} (hi : exec i s = o)
    (ho : o = issue i s fun e => e.bits1 i f (fnLong f.fn) op)
    (hx : ∀ l, BitVec.ofNat 32 (op 32 (e.src32 f.sa.toNat l).toNat) = x l)
    (hy : ∀ l, BitVec.ofNat 64 (op 64 (e.src64 f.sa.toNat l).toNat) = y l) :
    if fnLong f.fn then e.gives64 i f.d.toNat y (exec i s) else e.gives32 i f.d.toNat x (exec i s) := by
  refine issue_either h hi ho (fun hlong l => ?_) (fun hlong l => ?_)
  · obtain ⟨hwidth, hval⟩ := int_short hlong e f.sa.toNat l
    exact (congrArg₂ (fun w x => BitVec.ofNat 32 (op w x)) hwidth hval).trans (hx l)
  · obtain ⟨hwidth, hval⟩ := int_long hlong e f.sa.toNat l
    exact (congrArg₂ (fun w x => BitVec.ofNat 64 (op w x)) hwidth hval).trans (hy l)

end

/-- The bits of an unsigned operand. -/
theorem int_testBit (e : Env) (long : Bool) (c l k : Nat) : (e.int long true c l).toNat.testBit k =
    if long then (e.src64 c l).getLsbD k else (e.src32 c l).getLsbD k := by
  cases long
  · rfl
  · rfl

theorem int_toNat_lt (e : Env) (long : Bool) (c l : Nat) : (e.int long true c l).toNat < 2 ^ (if long then 64 else 32) := by
  cases long
  · exact (e.src32 c l).isLt
  · exact (e.src64 c l).isLt

/-- PICK takes SB where the word of SC is 0, else SA (R320). -/
theorem pick_operand (e : Env) (f : FV) (l : Nat) : (if e.src32 f.sc.toNat l ≠ 0 then f.sa.toNat else f.sb.toNat) =
    if e.src32 f.sc.toNat l = 0 then f.sb.toNat else f.sa.toNat := ite_not ..

/-- Settles O30: each operation on the numbers of its operands is that of the words, and a result told by its bits or bytes has them. -/
theorem integerBitResults : Obligations.IntegerBitResults := by
  intro f w2 s e long a b c a2 b2 gives bit width
  refine ⟨fun h => issue_shift2 h (o := execShl f s) (g := fun n x => x <<< n) (g' := fun n x => x <<< n) rfl rfl ofNat_shlAt ofNat_shlAt,
    fun h => issue_shift2 h (o := execShr f s) (g := fun n x => x >>> n) (g' := fun n x => x >>> n) rfl rfl ofNat_shrAt ofNat_shrAt,
    fun h => issue_shift2 h (o := execSar f s) (g := fun n x => x.sshiftRight n) (g' := fun n x => x.sshiftRight n) rfl rfl
      (ofNat_sarAt (by decide)) (ofNat_sarAt (by decide)),
    fun h => issue_shift2 h (o := execRot f s) (g := fun n x => x.rotateLeft n) (g' := fun n x => x.rotateLeft n) rfl rfl
      (ofNat_rotAt (by decide)) (ofNat_rotAt (by decide)),
    fun h => issue_bits1 h (o := execMov f s) rfl rfl (fun _ => ofNat_toNat_self _) (fun _ => ofNat_toNat_self _),
    fun h => issue_either h (o := execPick f s) rfl rfl (fun hlong l => ?_) (fun hlong l => ?_),
    fun x y hx hy h => issue_bits1 h (o := execBitr f s) rfl rfl (fun l => ofNat_bitrAt (hx l)) (fun l => ofNat_bitrAt (hy l)),
    fun h => issue_int32 h (o := execOnes f s) rfl rfl fun l => ?_,
    fun n hn h => issue_int32 h (o := execClz f s) rfl rfl fun l => ?_,
    fun x hx h => issue_int32 h (o := execTlut f s) rfl rfl fun l => ofNat_tlutAt (hx l),
    fun h => issue_int32 h (o := execFunl f s) rfl rfl fun l => ofNat_funl _ _ _,
    fun h => issue_int32 h (o := execFext f s) rfl rfl fun l => ofNat_fextAt _ _ _ _,
    fun x hx h => issue_int32 h (o := execFdep f s) rfl rfl fun l => ofNat_fdepAt (hx l),
    fun h => issue_int32 h (o := execSeti f w2 s) rfl rfl fun l => ?_,
    fun h => issue_int32 h (o := execScad f s) rfl rfl fun l => ?_,
    fun x hx h => issue_int32 h (o := execBshuf f s) rfl rfl fun l => ofNat_bshufAt (hx l)⟩
  · rw [pick_operand, (int_short hlong e _ l).2, ofNat_toNat_self]
    exact apply_ite (fun c => e.src32 c l) _ _ _
  · rw [pick_operand, (int_long hlong e _ l).2, ofNat_toNat_self]
    exact apply_ite (fun c => e.src64 c l) _ _ _
  · rw [onesAt_eq_countP]
    refine congrArg (BitVec.ofNat 32) (congrArg₂ List.countP (funext fun k => ?_) rfl)
    exact int_testBit e long _ l k
  · obtain ⟨hle, hzeros, hone⟩ := hn l
    refine congrArg (BitVec.ofNat 32) (clzAt_eq (int_toNat_lt e long _ l) hle (fun k hk hkw => ?_) fun hlt => ?_)
    · exact (int_testBit e long _ l k).trans (hzeros k hk hkw)
    · exact (int_testBit e long _ l _).trans (hone hlt)
  · exact BitVec.eq_of_toNat_eq (by simp)
  · dsimp only
    rw [ofNat_mod_pow, BitVec.ofNat_add, ofNat_shlAt, ofNat_toNat_self]

end Sys2Proof.Machine
end

section
/-! The rejoin stack: pushes, merges, arrivals and the resumption of waiting lanes (R305 to R309, R311). -/

namespace Sys2Proof.Machine

/-! ### The nearest entry of a kind (R311) -/

/-- The nearest entry by the top of the stack: a P entry is passed over, and any other decides. -/
theorem nearest_snoc (k : RejoinKind) (st : List Rejoin) (x : Rejoin) : nearest k (st ++ [x]) =
    if x.kind = .pending then nearest k st else if x.kind = k then some st.length else none := by
  unfold nearest
  rw [List.reverse_append, List.reverse_singleton, List.singleton_append, List.findIdx?_cons]
  by_cases hx : x.kind = .pending
  · rw [if_pos hx, if_neg (by simp [hx])]
    cases hj : st.reverse.findIdx? fun e => e.kind != .pending with
    | none => rfl
    | some j =>
      have hlt : j < st.length := by simpa using (List.findIdx?_eq_some_iff_getElem.mp hj).1
      have hidx : (st ++ [x]).length - 1 - (j + 1) = st.length - 1 - j := by simp; omega
      have hget (d : Rejoin) : (st ++ [x]).getD (st.length - 1 - j) d = st.getD (st.length - 1 - j) d :=
        List.getD_append _ _ _ _ (by omega)
      simp only [Option.map_some, hidx, hget]
  · rw [if_neg hx, if_pos (by simp [hx])]
    simp

theorem getElem?_snoc_iff {α : Type} {st : List α} {x y : α} {m : Nat} :
    (st ++ [x])[m]? = some y ↔ st[m]? = some y ∨ (m = st.length ∧ x = y) := by
  rcases Nat.lt_trichotomy m st.length with h | rfl | h
  · rw [List.getElem?_append_left h]
    simp [Nat.ne_of_lt h]
  · simp
  · simp [List.getElem?_eq_none (by omega : st.length ≤ m), List.getElem?_eq_none (by simp; omega : (st ++ [x]).length ≤ m), Nat.ne_of_gt h]

/-- The nearest entry of a kind has only P entries above it. -/
theorem nearest_eq_some_iff {k : RejoinKind} (hk : k ≠ .pending) (st : List Rejoin) (n : Nat) : nearest k st = some n ↔
    ∃ x : Rejoin, st[n]? = some x ∧ x.kind = k ∧ ∀ (m : Nat) (y : Rejoin), n < m → st[m]? = some y → y.kind = .pending := by
  induction st using List.reverseRecOn with
  | nil => simp [nearest]
  | append_singleton st x ih =>
    rw [nearest_snoc]
    simp only [getElem?_snoc_iff]
    split
    · rename_i hx
      rw [ih]
      constructor
      · rintro ⟨y, hy, hyk, habove⟩
        refine ⟨y, .inl hy, hyk, fun m z hm hz => ?_⟩
        rcases hz with hz | ⟨-, rfl⟩
        · exact habove m z hm hz
        · exact hx
      · rintro ⟨y, hy | ⟨-, rfl⟩, hyk, habove⟩
        · exact ⟨y, hy, hyk, fun m z hm hz => habove m z hm (.inl hz)⟩
        · exact absurd (hyk.symm.trans hx) hk
    · rename_i hx
      have htop (y : Rejoin) (hy : st[n]? = some y) : ¬∀ (m : Nat) (z : Rejoin), n < m →
          (st[m]? = some z ∨ m = st.length ∧ x = z) → z.kind = .pending := fun habove =>
        hx (habove st.length x (List.getElem?_eq_some_iff.mp hy).1 (.inr ⟨rfl, rfl⟩))
      split
      · rename_i hxk
        constructor
        · rintro ⟨⟩
          refine ⟨x, .inr ⟨rfl, rfl⟩, hxk, fun m z hm hz => ?_⟩
          rcases hz with hz | ⟨rfl, -⟩
          · exact absurd (List.getElem?_eq_some_iff.mp hz).1 (by omega)
          · exact absurd hm (lt_irrefl _)
        · rintro ⟨y, hy | ⟨rfl, rfl⟩, -, habove⟩
          · exact absurd habove (htop y hy)
          · rfl
      · rename_i hxk
        constructor
        · rintro ⟨⟩
        · rintro ⟨y, hy | ⟨-, rfl⟩, hyk, habove⟩
          · exact absurd habove (htop y hy)
          · exact absurd hyk hxk

/-- Settles O25: by the top of the stack, entry by entry. -/
theorem nearestEntry : Obligations.NearestEntry := by
  intro k st hk
  refine ⟨nearest_eq_some_iff hk st, Option.eq_none_iff_forall_ne_some.trans ?_⟩
  constructor
  · intro h n x hx hxk
    by_contra hno
    push Not at hno
    exact h n ((nearest_eq_some_iff hk st n).mpr ⟨x, hx, hxk, hno⟩)
  · intro h n hn
    obtain ⟨x, hx, hxk, habove⟩ := (nearest_eq_some_iff hk st n).mp hn
    obtain ⟨m, y, hm, hy, hyk⟩ := h n x hx hxk
    exact hyk (habove m y hm hy)

/-! ### Pushes (R305 to R307) -/

/-- What a wait leaves in the registers: v0 of its lanes names the entry (R306). -/
theorem getV_waitOn (t : Team) (w : Lanes) (i r : Nat) {l : Nat} (hl : l < 1024) (hlt : l < t.lanes) : (t.waitOn w i).getV r l =
    if t.vname r = t.vname 0 ∧ w.getLsbD l = true then BitVec.ofNat 32 (i + 1) else t.getV r l := by
  rw [Team.waitOn, getV_putV _ _ _ _ _ _ hl]
  simp only [hlt, and_true]

@[simp] theorem vname_stack (t : Team) (st : List Rejoin) (r : Nat) : ({ t with stack := st } : Team).vname r = t.vname r := rfl
@[simp] theorem getV_stack (t : Team) (st : List Rejoin) (r l : Nat) : ({ t with stack := st } : Team).getV r l = t.getV r l := rfl

theorem getLsbD_all {t : Team} {l : Nat} (hl : l < 1024) (hlt : l < t.lanes) : t.all.getLsbD l = true := by
  rw [Team.all, BitVec.getLsbD_ofNat, Nat.testBit_two_pow_sub_one]
  simp [hl, hlt]

section
variable (t : Team) (x : Rejoin)

theorem push_of_empty (h : t.stack = []) : t.push x = { t.putV 0 t.all fun _ => 0 with stack := [x] } := by
  unfold Team.push
  rw [h]
  simp [h]

theorem push_of_nonempty (h : t.stack ≠ []) : t.push x = { t with stack := t.stack ++ [x] } := by
  unfold Team.push
  rw [if_neg (by simpa using h)]

/-- The push to depth 1 writes 0 to v0 in every lane (R306). -/
theorem getV_push (r : Nat) {l : Nat} (hl : l < 1024) (hlt : l < t.lanes) : (t.push x).getV r l =
    if t.vname r = t.vname 0 ∧ t.stack = [] then 0 else t.getV r l := by
  by_cases h : t.stack = []
  · rw [push_of_empty t x h, getV_stack, getV_putV _ _ _ _ _ _ hl]
    simp only [h, getLsbD_all hl hlt, hlt, and_true]
  · rw [push_of_nonempty t x h, getV_stack, if_neg fun hc => h hc.2]

/-- A push leaves everything but the stack and v0. -/
theorem push_frame : (t.push x).mask = t.mask ∧ (t.push x).preds = t.preds ∧ (t.push x).sregs = t.sregs ∧
    (t.push x).lanes = t.lanes ∧ ∀ r, (t.push x).vname r = t.vname r := by
  by_cases h : t.stack = []
  · rw [push_of_empty t x h]
    exact ⟨Team.putV_mask .., Team.putV_preds .., Team.putV_sregs .., Team.putV_lanes .., vname_putV t 0 _ _⟩
  · rw [push_of_nonempty t x h]
    exact ⟨rfl, rfl, rfl, rfl, fun _ => rfl⟩

end

section
variable {t : Team} {pc : CodeOff} (w : Lanes)

/-- A pending push merges into a P entry of its PC on top. -/
theorem pushGroup_of_top (h : t.stack.getLast? = some { pc := pc, kind := .pending }) :
    t.pushGroup { pc := pc, kind := .pending } w = t.waitOn w (t.stack.length - 1) := by
  unfold Team.pushGroup
  rw [h]
  exact if_pos rfl

/-- Any other pending push is a new entry, on which its lanes wait. -/
theorem pushGroup_of_other (h : t.stack.getLast? ≠ some { pc := pc, kind := .pending }) :
    t.pushGroup { pc := pc, kind := .pending } w = (t.push { pc := pc, kind := .pending }).waitOn w t.stack.length := by
  unfold Team.pushGroup
  cases htop : t.stack.getLast? with
  | none => rw [List.getLast?_eq_none_iff.mp htop]; rfl
  | some top => exact if_neg fun hc => h (htop.trans (congrArg some hc))

end

/-- Settles O23: a pending push by whether it merges into the top entry, and any push by whether the stack was empty. -/
theorem pushesSetWaitNumbers : Obligations.PushesSetWaitNumbers := by
  refine fun t pc w => ⟨fun h => ?_, fun h => ?_, fun kind => ?_⟩
  · have hpos : t.stack.length - 1 + 1 = t.stack.length := by
      cases hst : t.stack with
      | nil => rw [hst] at h; cases h
      | cons => rfl
    rw [pushGroup_of_top w h]
    refine ⟨Team.putV_stack .., fun r l hl hlt => ?_⟩
    rw [getV_waitOn _ _ _ _ hl hlt, hpos]
  · obtain ⟨-, -, -, hlanes, hname⟩ := push_frame t { pc := pc, kind := .pending }
    rw [pushGroup_of_other w h]
    refine ⟨(Team.putV_stack ..).trans (push_stack t _), fun r l hl hlt => ?_⟩
    rw [getV_waitOn _ _ _ _ hl (hlanes.symm ▸ hlt), hname, hname, getV_push _ _ _ hl hlt]
  · obtain ⟨hmask, hpreds, hsregs, -, -⟩ := push_frame t { pc := pc, kind := kind }
    exact ⟨push_stack t _, hmask, hpreds, hsregs, fun r l hl hlt => getV_push t _ r hl hlt⟩

/-! ### Lanes that wait on the top entry (R308, R309) -/

/-- The lanes whose v0 names the entry at depth `n` (R306). -/
def Team.waiters (t : Team) (n : Nat) : Lanes := t.lanesOf fun l => t.getV 0 l == BitVec.ofNat 32 n

/-- The top entry popped, with v0 of the lanes that waited on it written to 0. -/
def Team.popped (t : Team) (st : List Rejoin) : Team := { t.putV 0 (t.waiters (st.length + 1)) fun _ => 0 with stack := st }

section
variable (t : Team) (st : List Rejoin)

theorem getLsbD_waiters (n : Nat) {l : Nat} (hl : l < 1024) (hlt : l < t.lanes) :
    (t.waiters n).getLsbD l = (t.getV 0 l == BitVec.ofNat 32 n) := by
  rw [Team.waiters, getLsbD_lanesOf _ _ _ hl, decide_eq_true hlt, Bool.true_and]

theorem getV_popped {l : Nat} (hl : l < 1024) (hlt : l < t.lanes) : (t.popped st).getV 0 l =
    if t.getV 0 l = BitVec.ofNat 32 (st.length + 1) then 0 else t.getV 0 l := by
  rw [Team.popped, getV_stack, getV_putV _ _ _ _ _ _ hl, getLsbD_waiters t _ hl hlt]
  simp only [hlt, true_and, and_true, beq_iff_eq]

theorem getV_popped_other {r l : Nat} (hr : t.vname r ≠ t.vname 0) (hl : l < 1024) : (t.popped st).getV r l = t.getV r l := by
  rw [Team.popped, getV_stack, getV_putV _ _ _ _ _ _ hl, if_neg fun hc => hr hc.1]

end

/-- One merge: the lanes that wait on a P entry of the team's PC join the mask (R308). -/
theorem merge_of_top {t : Team} {st : List Rejoin} (h : t.stack = st ++ [{ pc := t.pc, kind := .pending }]) :
    t.merge = ({ t.popped st with mask := t.mask ||| t.waiters (st.length + 1) } : Team).merge := by
  have hlen : t.stack.length = st.length + 1 := by rw [h, List.length_append, List.length_singleton]
  have htop : t.stack.getLast? = some { pc := t.pc, kind := .pending } := by rw [h, List.getLast?_concat]
  have hdrop : t.stack.dropLast = st := by rw [h, List.dropLast_concat]
  unfold Team.merge
  rw [hlen, Team.mergeGo, htop]
  simp only [BEq.rfl, Bool.and_self, if_true]
  rw [hdrop, hlen]
  rfl

theorem merge_of_other {t : Team} (h : t.stack.getLast? ≠ some { pc := t.pc, kind := .pending }) : t.merge = t := by
  unfold Team.merge
  cases hn : t.stack.length with
  | zero => rfl
  | succ n =>
    rw [Team.mergeGo]
    split
    · rename_i x hx
      refine if_neg fun hc => h ?_
      simp only [Bool.and_eq_true, beq_iff_eq] at hc
      rw [hx, ← hc.1, ← hc.2]
    · rfl

/-- Settles O18: one pop of the merge, when there is none, and the team with which every instruction is ready. -/
theorem mergeJoinsPendingLanes : Obligations.MergeJoinsPendingLanes := by
  refine ⟨fun t st h => ⟨_, merge_of_top h, rfl, ?_, fun l hl hlt => ?_, fun l hl hlt => ?_, fun r l hr hl => ?_, ?_, ?_⟩,
    fun t => merge_of_other, fun i s e h => ?_⟩
  · exact Team.putV_pc ..
  · rw [BitVec.getLsbD_or, getLsbD_waiters t _ hl hlt]
  · exact getV_popped t st hl hlt
  · exact getV_popped_other t st hr hl
  · exact Team.putV_preds ..
  · exact Team.putV_sregs ..
  · obtain ⟨t0, h0, ht, hs, -, -⟩ := ready_spec h
    rw [ht, hs]
    exact ⟨t0, h0, by simp, by simp, by simp, rfl, rfl⟩

/-! ### Arrivals (R309, R311) -/

/-- The team at the top entry with the lanes that waited on it (R309). -/
def Team.resumed (t : Team) (st : List Rejoin) (pc : CodeOff) : Team :=
  { t.popped st with mask := t.waiters (st.length + 1), pc := pc }

/-- With no lane left, the lanes that wait on the top entry go on at its PC. -/
theorem resumeGo_of_waiters {t : Team} {st : List Rejoin} {x : Rejoin} (hm : t.mask = 0) (hs : t.stack = st ++ [x])
    (hw : t.waiters (st.length + 1) ≠ 0) : Team.resumeGo t.stack.length t = some (t.resumed st x.pc) := by
  have hlen : t.stack.length = st.length + 1 := by rw [hs, List.length_append, List.length_singleton]
  have htop : t.stack.getLast? = some x := by rw [hs, List.getLast?_concat]
  have hdrop : t.stack.dropLast = st := by rw [hs, List.dropLast_concat]
  rw [hlen, Team.resumeGo, if_neg (not_not.mpr hm), htop]
  dsimp only
  rw [hdrop, hlen]
  exact resumeGo_of_mask hw _

/-- `u` goes on at the popped top entry of `t`, as far as registers, mask and stack show it (R309). -/
structure Team.Resumes (t u : Team) (st : List Rejoin) (pc : CodeOff) : Prop where
  stack : u.stack = st
  pc : u.pc = pc
  mask : u.mask = t.waiters (st.length + 1)
  wait : ∀ l, l < 1024 → l < t.lanes → u.getV 0 l = if t.getV 0 l = BitVec.ofNat 32 (st.length + 1) then 0 else t.getV 0 l
  vec : ∀ r l, t.vname r ≠ t.vname 0 → l < 1024 → u.getV r l = t.getV r l
  preds : u.preds = t.preds
  sregs : u.sregs = t.sregs

theorem resumes_resumed (t : Team) (st : List Rejoin) (pc : CodeOff) : t.Resumes (t.resumed st pc) st pc where
  stack := rfl
  pc := rfl
  mask := rfl
  wait _ hl hlt := getV_popped t st hl hlt
  vec _ _ hr hl := getV_popped_other t st hr hl
  preds := Team.putV_preds ..
  sregs := Team.putV_sregs ..

/-- A transfer that leaves no lane in the mask resumes those that wait on the top entry, after the fetch of its PC (R145, R309). -/
theorem leave_of_waiters {e : Env} {i : Instr} {t : Team} {pc : CodeOff} {st : List Rejoin} {x : Rejoin} (hr : t.restore = none)
    (hm : t.mask = 0) (hs : t.stack = st ++ [x]) (hw : t.waiters (st.length + 1) ≠ 0) :
    ∃ u, e.leave i t pc = .next (e.counted.putTeam u) ∧ t.Resumes u st x.pc := by
  have hgo := resumeGo_of_waiters (t := { t.shift none with pc := pc }) hm hs hw
  have hres := resumes_resumed { t.shift none with pc := pc } st x.pc
  refine ⟨{ ({ t.shift none with pc := pc } : Team).resumed st x.pc with fetchWait := .upTo (e.s.clk + branchClk) }, ?_,
    rfl, rfl, rfl, hres.wait, hres.vec, hres.preds, hres.sregs⟩
  have hlen : t.stack.length = ({ t.shift none with pc := pc } : Team).stack.length := rfl
  unfold Env.leave
  dsimp only
  rw [unretry_shift hr, hlen, hgo]
  exact congrArg (fun u => Host.Outcome.next (e.counted.putTeam u)) (if_pos hm)

/-- The v0 of a lane after the active lanes have arrived at the entry of index `n` (R306, R309). -/
def Team.waitNo (t : Team) (n l : Nat) : Word := if t.mask.getLsbD l then BitVec.ofNat 32 (n + 1) else t.getV 0 l

theorem arrive_restore {t : Team} (hr : t.restore = none) (w : Lanes) (n : Nat) : (t.arrive w n).restore = none := by
  unfold Team.arrive
  rw [hr]
  rfl

theorem getV_arrive (t : Team) (w : Lanes) (n r l : Nat) : (t.arrive w n).getV r l = (t.waitOn w n).getV r l := rfl

section
variable {e : Env} {i : Instr} {pc : CodeOff} (hr : e.t.restore = none)
include hr

/-- When the active lanes arrive at an entry, the top entry resumes with the lanes that wait on it (R309). -/
theorem leave_of_arrival {st : List Rejoin} {x : Rejoin} {n : Nat} (hs : e.t.stack = st ++ [x])
    (hw : ∃ l, l < 1024 ∧ l < e.t.lanes ∧ e.t.waitNo n l = BitVec.ofNat 32 (st.length + 1)) :
    ∃ u, e.leave i (e.t.arrive e.t.mask n) pc = .next (e.counted.putTeam u) ∧ u.stack = st ∧ u.pc = x.pc ∧
      (∀ l, l < 1024 → l < e.t.lanes → (u.mask.getLsbD l = true ↔ e.t.waitNo n l = BitVec.ofNat 32 (st.length + 1))) ∧
      (∀ l, l < 1024 → l < e.t.lanes → u.getV 0 l = if u.mask.getLsbD l then 0 else e.t.waitNo n l) ∧
      (∀ r l, e.t.vname r ≠ e.t.vname 0 → l < 1024 → u.getV r l = e.t.getV r l) ∧ u.preds = e.t.preds ∧ u.sregs = e.t.sregs := by
  have hmask : (e.t.arrive e.t.mask n).mask = 0 := BitVec.and_not_self e.t.mask
  have hstack : (e.t.arrive e.t.mask n).stack = st ++ [x] := (Team.putV_stack ..).trans hs
  have hlanes : (e.t.arrive e.t.mask n).lanes = e.t.lanes := Team.putV_lanes ..
  have hname (r : Nat) : (e.t.arrive e.t.mask n).vname r = e.t.vname r := vname_putV ..
  have hwait (l : Nat) (hl : l < 1024) (hlt : l < e.t.lanes) : (e.t.arrive e.t.mask n).getV 0 l = e.t.waitNo n l := by
    rw [getV_arrive, getV_waitOn _ _ _ _ hl hlt, Team.waitNo]
    simp only [true_and]
  have hbit (l : Nat) (hl : l < 1024) (hlt : l < e.t.lanes) : ((e.t.arrive e.t.mask n).waiters (st.length + 1)).getLsbD l = true ↔
      e.t.waitNo n l = BitVec.ofNat 32 (st.length + 1) := by
    rw [getLsbD_waiters _ _ hl (hlanes.symm ▸ hlt), hwait l hl hlt, beq_iff_eq]
  have hne : (e.t.arrive e.t.mask n).waiters (st.length + 1) ≠ 0 := by
    obtain ⟨l, hl, hlt, hl0⟩ := hw
    intro h0
    have hset := (hbit l hl hlt).mpr hl0
    rw [h0] at hset
    exact absurd hset (by simp)
  obtain ⟨u, hu, hres⟩ := leave_of_waiters (e := e) (i := i) (pc := pc) (arrive_restore hr _ _) hmask hstack hne
  refine ⟨u, hu, hres.stack, hres.pc, fun l hl hlt => ?_, fun l hl hlt => ?_, fun r l hn hl => ?_, ?_, ?_⟩
  · rw [hres.mask, hbit l hl hlt]
  · rw [hres.wait l hl (hlanes.symm ▸ hlt), hwait l hl hlt, hres.mask]
    exact if_congr (hbit l hl hlt).symm rfl rfl
  · rw [hres.vec r l (by rwa [hname r, hname 0]) hl, getV_arrive, Team.waitOn, getV_putV _ _ _ _ _ _ hl, if_neg fun hc => hn hc.1]
  · exact hres.preds.trans (Team.putV_preds ..)
  · exact hres.sregs.trans (Team.putV_sregs ..)

/-- Where not every active lane arrives, the others go on (R309, R311). -/
theorem leave_of_some_arrival {w : Lanes} {n : Nat} (hop : e.op < 0x80) (hm : e.t.mask &&& ~~~w ≠ 0) :
    e.leave i (e.t.arrive w n) (e.nextPc i) = .next (e.stepped i e.s
      { e.t.putV 0 w fun _ => BitVec.ofNat 32 (n + 1) with mask := e.t.mask &&& ~~~w } none) := by
  have harrive : e.t.arrive w n = { e.t.putV 0 w fun _ => BitVec.ofNat 32 (n + 1) with mask := e.t.mask &&& ~~~w } := by
    have hput : (e.t.putV 0 w fun _ => BitVec.ofNat 32 (n + 1)).restore = none := (Team.putV_restore ..).trans hr
    unfold Team.arrive Team.waitOn
    rw [hr]
    generalize (e.t.putV 0 w fun _ => BitVec.ofNat 32 (n + 1)) = u at hput
    cases u
    cases hput
    rfl
  rw [leave_of_lanes (arrive_restore hr _ _) hm, harrive, Env.stepped, Env.after, fixLoads_of_low hop]

end

section
variable {f : FC} {s : State} {e : Env}

theorem exec_ret_none (h : s.ready (.ret f) = some e) (hn : nearest .call e.t.stack = none) :
    exec (.ret f) s = .next (e.counted.takeTrap e.t (e.raise (.ret f) .regLimit)) := by
  show execRet f s = _
  rw [execRet, issue_of_ready h, hn]
  exact trapTeam_eq _

theorem exec_ret_some {n : Nat} (h : s.ready (.ret f) = some e) (hn : nearest .call e.t.stack = some n) :
    exec (.ret f) s = e.leave (.ret f) (e.t.arrive e.t.mask n) (e.nextPc (.ret f)) := by
  show execRet f s = _
  rw [execRet, issue_of_ready h, hn]

theorem exec_join_none (h : s.ready (.join f) = some e) (hn : nearest .region e.t.stack = none) :
    exec (.join f) s = .next (e.counted.takeTrap e.t (e.raise (.join f) .regLimit)) := by
  show execJoin f s = _
  rw [execJoin, issue_of_ready h, hn]
  exact trapTeam_eq _

theorem exec_join_some {n : Nat} (h : s.ready (.join f) = some e) (hn : nearest .region e.t.stack = some n) :
    exec (.join f) s = e.leave (.join f) (e.t.arrive e.t.mask n) (e.nextPc (.join f)) := by
  show execJoin f s = _
  rw [execJoin, issue_of_ready h, hn]

theorem exec_brk_none (h : s.ready (.brk f) = some e) (hn : nearest .region e.t.stack = none) :
    exec (.brk f) s = .next (e.counted.takeTrap e.t (e.raise (.brk f) .regLimit)) := by
  show execBrk f s = _
  rw [execBrk, issue_of_ready h, hn]
  exact trapTeam_eq _

theorem exec_brk_some {n : Nat} (h : s.ready (.brk f) = some e) (hn : nearest .region e.t.stack = some n) :
    exec (.brk f) s = if e.t.act f.h = 0 then .next (e.stepped (.brk f) e.s e.t none)
      else e.leave (.brk f) (e.t.arrive (e.t.act f.h) n) (e.nextPc (.brk f)) := by
  show execBrk f s = _
  rw [execBrk, issue_of_ready h, hn]
  rfl

end

/-- Settles O24: by the nearest entry of the kind, and for BRK by which lanes its guard holds in. -/
theorem arrivalResumesTopEntry : Obligations.ArrivalResumesTopEntry := by
  intro f s e hr resumed someLane
  refine ⟨fun st x n hs hw => ⟨fun h hn => ?_, fun h hn => ?_, fun h hn hall hne => ?_⟩, fun n h hn => ⟨fun h0 => ?_, fun h0 hm => ?_⟩,
    exec_ret_none, exec_join_none, exec_brk_none⟩
  · rw [exec_ret_some h hn]
    exact leave_of_arrival hr hs hw
  · rw [exec_join_some h hn]
    exact leave_of_arrival hr hs hw
  · rw [exec_brk_some h hn, hall, if_neg hne]
    exact leave_of_arrival hr hs hw
  · rw [exec_brk_some h hn, if_pos h0]
  · rw [exec_brk_some h hn, if_neg h0]
    exact leave_of_some_arrival hr ((ready_op h).trans_lt (show 0x08 < 0x80 by decide)) hm

end Sys2Proof.Machine
end

section
/-! NOP, YIELD, MARK and LOOP (R305, R310, R311, R313, R314). -/

namespace Sys2Proof.Machine

section
variable {f : FC} {s : State} {e : Env}

theorem exec_nop (h : s.ready (.nop f) = some e) : exec (.nop f) s = .next (e.stepped (.nop f) e.s e.t none) := by
  show execNop f s = _
  exact issue_of_ready h _

theorem exec_yield (h : s.ready (.yield f) = some e) : exec (.yield f) s = .next (e.counted.putTeam
    { (e.t.shift none).unretry with age := e.s.clk, yielded := some e.s.clk, pc := e.t.pc + 8 }) := by
  show execYield f s = _
  exact issue_of_ready h _

/-- A team that has yielded is not considered in the clk that follows (R314). -/
theorem lt_clk_of_canIssue {t : Team} {c : Nat} (hy : t.yielded = some c) (h : s.canIssue t = true) : c + 1 < s.clk := by
  unfold State.canIssue at h
  rw [Bool.and_eq_true, hy] at h
  exact of_decide_eq_true h.2

theorem exec_mark (h : s.ready (.mark f) = some e) : exec (.mark f) s =
    if e.limit ≤ e.t.stack.length then .next (e.counted.takeTrap e.t (e.raise (.mark f) .regLimit))
    else .next (e.stepped (.mark f) e.s (e.t.push { pc := e.offTarget f, kind := .region }) none) := by
  have hlen : (e.t.push { pc := e.offTarget f, kind := .region }).stack.length = e.t.stack.length + 1 := by
    rw [push_stack, List.length_append, List.length_singleton]
  show execMark f s = _
  refine (issue_of_ready h _).trans (if_congr ?_ (trapTeam_eq _) rfl)
  rw [(push_pushed e.t { pc := e.offTarget f, kind := .region }).limit, hlen]
  exact Nat.lt_succ_iff

theorem exec_loop (h : s.ready (.loop f) = some e) : exec (.loop f) s =
    .next (e.moved (e.t.putS (bits f.fn.toNat 19 15) (e.t.sreg (bits f.fn.toNat 19 15) - 1))
      (if e.t.sreg (bits f.fn.toNat 19 15) - 1 = 0 then e.t.pc + 8 else e.offTarget f)
      (e.t.sreg (bits f.fn.toNat 19 15) - 1 != 0)) := by
  show execLoop f s = _
  refine (issue_of_ready h _).trans ?_
  dsimp only
  rw [ite_not]
  rfl

end

/-- Settles O16: each by its equation, and MARK by whether its stack has room. -/
theorem straightControlCompletes : Obligations.StraightControlCompletes := by
  refine fun f s e => ⟨exec_nop, exec_yield, fun t c => lt_clk_of_canIssue, fun h hroom => ?_, fun h hfull => ?_⟩
  · exact (exec_mark h).trans (if_neg (Nat.not_le.mpr hroom))
  · exact (exec_mark h).trans (if_pos hfull)

/-! ### LOOP (R294, R313) -/

/-- The encoding of a LOOP names s0 to s23, or is a reserved one (R294). -/
theorem encCheck_loop (f : FC) : encCheck (.loop f) = none ∧ bits f.fn.toNat 19 15 < 24 ∨ encCheck (.loop f) = some .reserved := by
  have hdef : encCheck (.loop f) = if guardOk false f.h && f.h.ws == 0 && (true || f.off == 0) &&
      (decide (bits f.fn.toNat 19 15 < 24) && bits f.fn.toNat 14 0 == 0) then none else some .reserved := rfl
  rw [hdef]
  split
  · rename_i hok
    simp only [Bool.and_eq_true] at hok
    exact .inl ⟨rfl, of_decide_eq_true hok.2.1⟩
  · exact .inr rfl

theorem encCheck_loop_of_ge {f : FC} (h : 24 ≤ bits f.fn.toNat 19 15) : encCheck (.loop f) = some .reserved :=
  (encCheck_loop f).resolve_left fun hok => Nat.not_le.mpr hok.2 h

/-- A LOOP that meets no earlier cause is divergent at a nonzero depth outside a handler (R131, R208). -/
theorem decodeCause_loop_diverged {e : Env} {f : FC} (henc : encCheck (.loop f) = none) (hrate : e.rateBad (.loop f) = false)
    (hreg : e.regBad (.loop f) = false) (hstack : e.t.stack ≠ []) (htrap : e.t.trap = none) :
    e.decodeCause (.loop f) = some .divergedUniform := by
  have hn := ((encCheck_loop f).resolve_right (by rw [henc]; exact fun h => nomatch h)).2
  have hread : 1024 + bits f.fn.toNat 19 15 ∈ regsRead (.loop f) 0 := List.mem_append_right _ (List.mem_singleton_self _)
  have hdiv : e.divergedBad (.loop f) = true :=
    divergedBad_iff.mpr ⟨hstack, htrap, _, List.mem_append_left _ hread, Nat.le_add_right _ _, by omega⟩
  have hover : e.transferOver (.loop f) = false := rfl
  rw [decodeCause_wellFormed ⟨henc, .inr rfl, rfl⟩, hrate, hreg, hover, hdiv]
  rfl

/-- Settles O17: by the equation of LOOP, and by the two causes that decode finds for it. -/
theorem loopCountsDown : Obligations.LoopCountsDown := by
  refine ⟨fun f s e h => ⟨?_, fun h0 => ?_, exec_loop h⟩, fun f => encCheck_loop_of_ge,
    fun f s t ht henc => ⟨?_, fun g hg hrate hreg hstack htrap => ?_⟩⟩
  · exact ((encCheck_loop f).resolve_right (by rw [ready_enc h]; exact fun h => nomatch h)).2
  · rw [h0]
    rfl
  · exact decodeCauseTrapsBeforeEffect _ s t _ rfl ht
      (decodeCause_reserved (by rw [henc]; exact fun h => nomatch h) (.inr rfl) (.inl henc))
  · exact decodeCauseTrapsBeforeEffect _ s t _ rfl ht (decodeCause_loop_diverged hg hrate hreg hstack htrap)

end Sys2Proof.Machine
end

section
/-! Results of the lane exchanges, scans and reductions (R335 to R340). -/

namespace Sys2Proof.Machine

/-! ### A vector result in any set of lanes (R132) -/

/-- A vector result is a completion with the row in the newest latch and, unless WS keeps it there, in the lanes of its register. -/
theorem vec_done (e : Env) (i : Instr) (d : Nat) (w : Lanes) (x : Nat → Word) : ∃ t m, e.vec i d w x = e.done i t (some m) ∧
    e.t.SameButRegs t ∧ t.latches = e.t.latches ∧
    (∀ l, l < 1024 → l < e.t.lanes → w.getLsbD l = true → mget 0 m l = x l ∧ (i.hdr.ws = 0 → t.getV d l = x l)) ∧
    ∀ r l, l < 1024 → (i.hdr.ws = 1 ∨ e.t.vname r ≠ e.t.vname d ∨ w.getLsbD l = false) → t.getV r l = e.t.getV r l := by
  rw [vec_eq]
  by_cases hws : i.hdr.ws = 1
  · refine ⟨_, _, if_pos (beq_iff_eq.mpr hws), .refl _, rfl, fun l _ hlt hw => ⟨?_, fun h0 => ?_⟩, fun _ _ _ _ => rfl⟩
    · rw [mget_mrow, if_pos hlt, if_pos hw]
    · rw [hws] at h0
      exact absurd h0 (by decide)
  · refine ⟨_, _, if_neg fun h => hws (beq_iff_eq.mp h), sameButRegs_putV .., Team.putV_latches .., fun l hl hlt hw => ?_, fun r l hl hr => ?_⟩
    · have hput : (e.t.putV d w x).getV d l = x l := by rw [getV_putV _ _ _ _ _ _ hl, if_pos ⟨rfl, hw, hlt⟩]
      exact ⟨(mget_row _ _ _ hl).trans hput, fun _ => hput⟩
    · rw [getV_putV _ _ _ _ _ _ hl, if_neg]
      rintro ⟨hname, hw, -⟩
      rcases hr with hr | hr | hr
      · exact hws hr
      · exact hr hname
      · rw [hr] at hw
        cases hw

section
variable {i : Instr} {s : State} {e : Env} (h : s.ready i = some e)
include h

/-- The team that a step leaves is the one that was put in its place. -/
theorem TeamStep.eq_of_put {x : Env} {s' : State} {t u v : Team} (hstep : TeamStep e x s' t) (hsame : e.t.SameButRegs u)
    (hs' : s' = e.counted.putTeam v) (hid : v.tid = u.tid) (hr : v.resident = u.resident) (hc : v.core = u.core)
    (hs : v.slot = u.slot) (hh : v.half = u.half) : t = v := by
  obtain ⟨_, _, _, _, hu⟩ := hsame.eq
  have hcur := ready_curTeam h e.counted v (by simp) (by simp) (by rw [hid, hu]) (by rw [hr, hu]) (by rw [hc, hu]) (by rw [hs, hu])
    (by rw [hh, hu])
  rw [← hs', hstep.current] at hcur
  exact Option.some.inj hcur

/-- What an instruction with one vector result leaves, in the lanes of the result and in all others. -/
theorem vec_completes {d : Nat} {w : Lanes} {x : Nat → Word} (hcomp : Completes i e (e.vec i d w x)) :
    ∃ s' t, e.vec i d w x = .next s' ∧ TeamStep e e s' t ∧ RegFrame i e t ∧ t.pc = e.nextPc i ∧ t.latches.tail = e.t.latches.take 7 ∧
      (∀ l, l < 1024 → l < e.t.lanes → w.getLsbD l = true → t.latch 1 l = x l ∧ (i.hdr.ws = 0 → t.getV d l = x l)) ∧
      ∀ r l, l < 1024 → (i.hdr.ws = 1 ∨ e.t.vname r ≠ e.t.vname d ∨ w.getLsbD l = false) → t.getV r l = e.t.getV r l := by
  obtain ⟨u, m, hvec, hsame, hlat, hin, hout⟩ := vec_done e i d w x
  obtain ⟨s', t, hnext, hstep, hframe, hpc⟩ := hcomp
  have hput : s' = e.counted.putTeam { ((u.fixLoads e.op).shift (some m)).unretry with pc := e.nextPc i } :=
    Host.Outcome.next.inj (hnext.symm.trans hvec)
  have ht := TeamStep.eq_of_put h hstep hsame hput (by simp) (by simp) (by simp) (by simp) (by simp)
  have hlatches : t.latches = some m :: u.latches.take 7 := by
    rw [ht]
    simp [Team.shift]
  have hget (r l : Nat) : t.getV r l = u.getV r l := by
    rw [ht]
    exact getV_after ..
  refine ⟨s', t, hnext, hstep, hframe, hpc, ?_, fun l hl hlt hw => ⟨?_, fun h0 => ?_⟩, fun r l hl hr => ?_⟩
  · rw [hlatches, hlat]
    rfl
  · rw [latch_one _ _ _ hlatches]
    exact (hin l hl hlt hw).1
  · rw [hget]
    exact (hin l hl hlt hw).2 h0
  · rw [hget]
    exact hout r l hl hr

end

/-! ### Scans (R338) -/

/-- The combination of the words of participants in their order; the identity where there is none. -/
def scanFold (opn : Nat) : List Word → Word
  | [] => scanId opn
  | x :: r => r.foldl (scanOp opn) x

/-- The combination of the participants before a lane; none before the first. -/
def scanBefore (opn : Nat) (xs : List Word) : Option Word := if xs = [] then none else some (scanFold opn xs)

theorem scanBefore_getD (opn : Nat) (xs : List Word) : (scanBefore opn xs).getD (scanId opn) = scanFold opn xs := by
  unfold scanBefore
  split
  · rename_i h
    rw [h]
    rfl
  · rfl

theorem scanBefore_snoc (opn : Nat) (xs : List Word) (y : Word) : scanBefore opn (xs ++ [y]) = some (scanFold opn (xs ++ [y])) :=
  if_neg (by simp)

/-- One more participant: its own word stands as it is where it is the first. -/
theorem scanFold_snoc (opn : Nat) (xs : List Word) (y : Word) :
    scanFold opn (xs ++ [y]) = match scanBefore opn xs with | some a => scanOp opn a y | none => y := by
  cases xs with
  | nil => rfl
  | cons x r => exact List.foldl_append

theorem scanList_cons (opn : Nat) (xs : List Word) (l : Nat) (y : Word) (r : List (Nat × Word)) :
    scanList opn (scanBefore opn xs) ((l, y) :: r) =
      (l, scanBefore opn xs, scanFold opn (xs ++ [y])) :: scanList opn (scanBefore opn (xs ++ [y])) r := by
  rw [scanBefore_snoc, scanFold_snoc]
  rfl

section
variable (opn : Nat) (g : Nat → Word) {ls : List Nat}

/-- A participant's entry: the combination of those before it, and of those up to it. -/
theorem find?_scanList (hls : ls.Pairwise (· < ·)) (xs : List Word) {l : Nat} (hl : l ∈ ls) :
    (scanList opn (scanBefore opn xs) (ls.map fun l => (l, g l))).find? (fun x => x.1 == l) =
      some (l, scanBefore opn (xs ++ (ls.filter (· < l)).map g), scanFold opn (xs ++ (ls.filter (· < l)).map g ++ [g l])) := by
  induction ls generalizing xs with
  | nil => cases hl
  | cons m ms ih =>
    obtain ⟨hm, hms⟩ := List.pairwise_cons.mp hls
    rw [List.map_cons, scanList_cons]
    by_cases hlm : m = l
    · subst hlm
      have hnone : (m :: ms).filter (· < m) = [] := List.filter_eq_nil_iff.mpr fun k hk => by
        rcases List.mem_cons.mp hk with rfl | hk
        · simp
        · have := hm k hk
          simp; omega
      rw [List.find?_cons_of_pos (by simp), hnone, List.map_nil, List.append_nil]
    · have hin := (List.mem_cons.mp hl).resolve_left fun h => hlm h.symm
      have hlt := hm l hin
      rw [List.find?_cons_of_neg (by simpa using hlm), ih hms _ hin, List.filter_cons_of_pos (by simpa using hlt), List.map_cons,
        List.append_assoc xs [g m], List.singleton_append]

/-- The last entry combines all participants. -/
theorem getLast?_scanList (xs : List Word) : ((scanList opn (scanBefore opn xs) (ls.map fun l => (l, g l))).getLast?.map fun x => x.2.2) =
    if ls = [] then none else some (scanFold opn (xs ++ ls.map g)) := by
  induction ls generalizing xs with
  | nil => rfl
  | cons m ms ih =>
    rw [List.map_cons, scanList_cons, List.getLast?_cons, if_neg (List.cons_ne_nil m ms)]
    have hms := ih (xs ++ [g m])
    by_cases hnil : ms = []
    · subst hnil
      rfl
    · rw [if_neg hnil] at hms
      obtain ⟨y, hy, hval⟩ := Option.map_eq_some_iff.mp hms
      rw [hy, Option.getD_some, Option.map_some, hval, List.append_assoc, List.singleton_append, List.map_cons]

end

/-- The words that the participants of PSCAN and TREDUCE below lane `l` bring. -/
def Env.scanWords (e : Env) (f : FV) (l : Nat) : List Word :=
  ((e.t.list (e.t.actNH f.h)).filter (· < l)).map (e.scanSrc (f.fn.toNat % 8) f.sa.toNat)

/-- What PSCAN finds for a participant (R338). -/
theorem find?_scan (e : Env) (f : FV) {l : Nat} (hlt : l < e.t.lanes) (hw : (e.t.actNH f.h).getLsbD l = true) :
    (e.scan f).find? (fun x => x.1 == l) = some (l, scanBefore (f.fn.toNat % 8) (e.scanWords f l),
      scanFold (f.fn.toNat % 8) (e.scanWords f l ++ [e.scanSrc (f.fn.toNat % 8) f.sa.toNat l])) :=
  find?_scanList _ _ (List.pairwise_lt_range.filter _) [] (mem_list.mpr ⟨hlt, hw⟩)

/-- The word that PSCAN gives a participant. -/
def Env.scanOut (e : Env) (f : FV) (l : Nat) : Word :=
  match (e.scan f).find? fun x => x.1 == l with
  | some (_, before, y) => if f.fn.getLsbD 3 then before.getD (scanId (f.fn.toNat % 8)) else y
  | none => 0

theorem exec_pscan {f : FV} {s : State} {e : Env} (h : s.ready (.pscan f) = some e) :
    exec (.pscan f) s = e.vec (.pscan f) f.d.toNat (e.t.actNH f.h) (e.scanOut f) := by
  show execPscan f s = _
  exact issue_of_ready h _

/-- Exclusive, or inclusive, of the participant itself (R338). -/
theorem scanOut_eq (e : Env) (f : FV) {l : Nat} (hlt : l < e.t.lanes) (hw : (e.t.actNH f.h).getLsbD l = true) : e.scanOut f l =
    if f.fn.getLsbD 3 then scanFold (f.fn.toNat % 8) (e.scanWords f l)
    else scanFold (f.fn.toNat % 8) (e.scanWords f l ++ [e.scanSrc (f.fn.toNat % 8) f.sa.toNat l]) := by
  unfold Env.scanOut
  rw [find?_scan e f hlt hw]
  exact if_congr Iff.rfl (scanBefore_getD _ _) rfl

/-- What TREDUCE combines: the words of all participants. -/
theorem reduce_scan (e : Env) (f : FV) : (match (e.scan f).getLast? with | some x => x.2.2 | none => scanId (f.fn.toNat % 8)) =
    scanFold (f.fn.toNat % 8) (e.scanWords f e.t.lanes) := by
  have hall : (e.t.list (e.t.actNH f.h)).filter (· < e.t.lanes) = e.t.list (e.t.actNH f.h) :=
    List.filter_eq_self.mpr fun l hl => decide_eq_true (mem_list.mp hl).1
  have hlast := getLast?_scanList (f.fn.toNat % 8) (e.scanSrc (f.fn.toNat % 8) f.sa.toNat) (ls := e.t.list (e.t.actNH f.h)) []
  rw [Env.scanWords, hall]
  have hval (o : Option (Nat × Option Word × Word)) : (match o with | some x => x.2.2 | none => scanId (f.fn.toNat % 8)) =
      (o.map fun x => x.2.2).getD (scanId (f.fn.toNat % 8)) := by cases o <;> rfl
  refine (hval _).trans ((congrArg (Option.getD · _) hlast).trans ?_)
  split
  · rename_i h
    rw [h]
    rfl
  · rfl

/-! ### Quads and mask words (R335 to R337, R340) -/

theorem ddxLanes_eq (coarse : Bool) (q : Nat) (hq : q < 4) :
    ddxLanes coarse q = if coarse then (1, 0) else (q / 2 * 2 + 1, q / 2 * 2) := by
  interval_cases q <;> cases coarse <;> rfl

theorem ddyLanes_eq (coarse : Bool) (q : Nat) (hq : q < 4) : ddyLanes coarse q = if coarse then (2, 0) else (q % 2 + 2, q % 2) := by
  interval_cases q <;> cases coarse <;> rfl

theorem xlaneSrc_eq (mode w i b : Nat) : xlaneSrc (mode % 4) w i b =
    if mode % 4 = 0 then b % w else if mode % 4 = 1 then (if i < b then i else i - b)
    else if mode % 4 = 2 then (if w ≤ i + b then i else i + b) else i ^^^ (b % w) := by
  have hmode : mode % 4 < 4 := Nat.mod_lt _ (by decide)
  generalize mode % 4 = m at hmode
  interval_cases m <;> rfl

/-- Settles O34: an exchange by the lane that it reads, a derivative by its two lanes, and a scan by the entries of its participants. -/
theorem laneExchangeResults : Obligations.LaneExchangeResults := by
  intro f s e a w opn below fold diff
  refine ⟨fun h => issue_vec h (o := execQswap f s) rfl rfl rfl,
    fun h => issue_vec h (o := execQbcast f s) rfl rfl rfl,
    fun h => issue_vec h (o := execQddx f s) rfl rfl (funext fun l => ?_),
    fun h => issue_vec h (o := execQddy f s) rfl rfl (funext fun l => ?_),
    fun h => issue_vec h (o := execXlane f s) rfl rfl (funext fun l => ?_),
    fun h => ?_,
    fun h => issue_vec h (o := execTreduce f s) rfl rfl (funext fun l => reduce_scan e f)⟩
  · have hq : l % 4 < 4 := Nat.mod_lt _ (by decide)
    show BitVec.ofNat 32 (e.quadDiff f.sa.toNat (quadBase l + (ddxLanes (f.fn.getLsbD 0) (l % 4)).1)
      (quadBase l + (ddxLanes (f.fn.getLsbD 0) (l % 4)).2)) = _
    rw [ddxLanes_eq _ _ hq]
    cases f.fn.getLsbD 0 <;> rfl
  · have hq : l % 4 < 4 := Nat.mod_lt _ (by decide)
    have hbit : l % 4 % 2 = l % 2 := by omega
    show BitVec.ofNat 32 (e.quadDiff f.sa.toNat (quadBase l + (ddyLanes (f.fn.getLsbD 0) (l % 4)).1)
      (quadBase l + (ddyLanes (f.fn.getLsbD 0) (l % 4)).2)) = _
    rw [ddyLanes_eq _ _ hq, hbit]
    cases f.fn.getLsbD 0 <;> rfl
  · exact congrArg (fun k => e.src32 f.sa.toNat (l / w * w + k)) (xlaneSrc_eq ..)
  · have hcomp := vec_v h rfl (Nat.ne_of_beq_eq_false rfl) (List.mem_singleton_self _) _ (actNH_low e (.pscan f)) (e.scanOut f)
    obtain ⟨s', t, hnext, hstep, hframe, hpc, htail, hin, hout⟩ := vec_completes h hcomp
    refine ⟨s', t, (exec_pscan h).trans hnext, hstep, hframe, hpc, htail, fun l hl hlt hw => ?_, hout⟩
    have hy : e.scanOut f l = if f.fn.getLsbD 3 then fold (below l) else fold (below l ++ [e.scanSrc opn f.sa.toNat l]) :=
      scanOut_eq e f hlt hw
    rw [← hy]
    exact hin l hl hlt hw

end Sys2Proof.Machine
end
